-- ==== Sys2Proof/Word.lean ====
section
/-! DEFINITION. The word types of the KZ-880 and their plainest arithmetic: bytes, halves, words, dwords, vector
and predicate registers, and exact integers reduced to a width (R1, R6, R65, R80). -/

namespace Sys2Proof

/-- One byte; bits [7:0] of a little-endian value stand at the lowest address (R1). -/
abbrev Byte := BitVec 8
/-- Sixteen bits. -/
abbrev Half := BitVec 16
/-- One 32-bit instruction word: a bundle header or a syllable (R96). -/
abbrev Word := BitVec 32
/-- One 64-bit value: a scalar register, a control register, an address (R65). -/
abbrev Dword := BitVec 64
/-- A vector register, 2,048 bits (R65). -/
abbrev Vec := BitVec 2048
/-- A predicate register, one bit per byte lane (R65). -/
abbrev Pred := BitVec 256

/-- `x` reduced modulo 2 to the width `w` (R6, R80). -/
def toWidth (w : Nat) (x : Int) : BitVec w := BitVec.ofInt w x

/-- Bits [lo + w - 1 : lo] of `x` as a `w`-bit value (R1). -/
def slice {n : Nat} (x : BitVec n) (lo w : Nat) : BitVec w := x.extractLsb' lo w

/-- `x` with its `w` bits from `lo` upward replaced by `v`. -/
def putSlice {n w : Nat} (x : BitVec n) (lo : Nat) (v : BitVec w) : BitVec n :=
  (x &&& ~~~ (((BitVec.allOnes w).setWidth n) <<< lo)) ||| ((v.setWidth n) <<< lo)

/-- Ceiling division of naturals. -/
def ceilDiv (a b : Nat) : Nat := (a + b - 1) / b

/-- 1 for `true`, 0 for `false`, as a 64-bit value. -/
def boolWord (b : Bool) : Dword := if b then 1 else 0

end Sys2Proof
end

