-- ==== Sys2Proof/Syntax.lean ====
section
/-! DEFINITION. The instruction set as data: one constructor of `Instr` per row of the opcode table, syllables first
(R96 to R121), then the happenings of the machine's engines, host, firmware, links and power system. -/

namespace Sys2Proof

/-- What the far end of an off-package port sends while the two agree their keys: its X25519 public key, its ML-KEM-768
encapsulation key, the ciphertext where it is the end that encapsulates, its two signatures of the transcript and its two
certificate chains (R418). -/
structure Keying where
  x25519 : List Byte
  kemKey : List Byte
  kemCipher : List Byte
  edSig : List Byte
  mlSig : List Byte
  edChain : List Byte
  mlChain : List Byte
  deriving DecidableEq, Repr

/-- What a far end shows at bring-up: its package identity, and on an off-package port the messages of the keying (R417). -/
structure FarEnd where
  ident : BitVec 64
  keying : Keying
  deriving DecidableEq, Repr

/-- A flit as it comes over a link: its 64 bytes and its CRC-32 (R411). -/
structure Flit where
  data : BitVec 512
  crc : BitVec 32
  deriving DecidableEq, Repr

/-- The nine slots of a bundle in presence-mask order (R96, R97). -/
inductive Slot | sa | sb | va | vb | mx | ls | wy | tg | en
  deriving DecidableEq, Repr

/-- The two scalar slots, which share codes 0x00 to 0x2F (R118). -/
inductive SUnit | sa | sb
  deriving DecidableEq, Repr

/-- The two vector slots, which share codes 0x00 to 0x30 (R119). -/
inductive VUnit | va | vb
  deriving DecidableEq, Repr

/-- A source code of the s or v file (R104). -/
inductive Src
  | reg (n : Fin 48)
  | latch (k : Fin 8)
  | zero | one | lane | ones | widlo | neg1
  deriving DecidableEq, Repr

/-- A destination s or v register; `none` is NW = 1 with DST 0: the result goes to the slot's latch only (R103). -/
abbrev Dst := Option (Fin 48)
/-- A destination predicate register; `none` is NW = 1. -/
abbrev PDst := Option (Fin 16)

/-- Integer formats, FMT 000 to 011 (R107). -/
inductive IntW | i8 | i16 | i32 | i64
  deriving DecidableEq, Repr
/-- Floating formats, FMT 100 to 111 (R107). -/
inductive FFmt | bf16 | f16 | f32 | f64
  deriving DecidableEq, Repr
/-- The eight formats (R107). -/
inductive Fmt
  | int (w : IntW)
  | flt (f : FFmt)
  deriving DecidableEq, Repr

/-- Width in bits of an integer format. -/
def IntW.bits : IntW → Nat | .i8 => 8 | .i16 => 16 | .i32 => 32 | .i64 => 64
/-- Width in bits of a floating format. -/
def FFmt.bits : FFmt → Nat | .bf16 => 16 | .f16 => 16 | .f32 => 32 | .f64 => 64
/-- Width in bits of a format. -/
def Fmt.bits : Fmt → Nat | .int w => w.bits | .flt f => f.bits

/-- Saturation: none, signed (SAT) or unsigned (SATU) (R109, R110, R130). -/
inductive Sat | none | sat | satu
  deriving DecidableEq, Repr
/-- Rounding modes (R84). -/
inductive RMode | rne | rtz | rup | rdn
  deriving DecidableEq, Repr
/-- A rounding qualifier: RQ = 1 selects `mode` in place of ctl.rnd (R109, R111). -/
structure Rq where
  rq : Bool
  mode : RMode
  deriving DecidableEq, Repr
/-- The compare conditions COND 0 to 11 (R109). -/
inductive Cond | eq | ne | lt | le | gt | ge | ltu | leu | gtu | geu | un | ord
  deriving DecidableEq, Repr
/-- The tests of BP, REG[5:4] (R108). -/
inductive BpTest | any | all | none | lane0
  deriving DecidableEq, Repr
/-- The parts of an address register that AWR names in DST[4:3] (R108, R153). -/
inductive AwrPart | base | stride | count
  deriving DecidableEq, Repr
/-- A 16-bit immediate or branch-offset field and, when XT names the syllable, XIMM (R101, R108). -/
structure Imm16 where
  lo : BitVec 16
  ext : Option (BitVec 16)
  deriving DecidableEq, Repr
/-- OFF7 of form M and, when XT names the syllable, XIMM (R101, R113). -/
structure MOff where
  lo : BitVec 7
  ext : Option (BitVec 16)
  deriving DecidableEq, Repr
/-- OFF10 of PROBE and, when XT = 6, XIMM (R101, R114). -/
structure POff where
  lo : BitVec 10
  ext : Option (BitVec 16)
  deriving DecidableEq, Repr
/-- The vector modifier word of a VA syllable named by XT = 3: exactly the 16 bits of XIMM (R110). -/
structure VMod where
  imm11 : BitVec 11
  sat : Sat
  rq : Rq
  deriving DecidableEq, Repr
/-- SRCB of the EN instructions of R116: a source code, or with XT = 7 a 6-bit field below XIMM. -/
inductive EnB
  | src (b : Src)
  | imm (lo : BitVec 6) (hi : BitVec 16)
  deriving DecidableEq, Repr
/-- The first of the eight predicates of PPACK and PUNPK: p0 or p8 (R173). -/
inductive OctBase | p0 | p8
  deriving DecidableEq, Repr
/-- RPT of the header: none, the count part of a4 to a7, or 16, 64 or 256 (R97, R100). -/
inductive Rpt | none | areg (k : Fin 4) | n16 | n64 | n256
  deriving DecidableEq, Repr
/-- The mode of an accumulator tile (R177), as MZERO's IDX8 names it (R197). -/
inductive TileMode | fp32 | int32 | fp64
  deriving DecidableEq, Repr

/-- Which remote transfer a landing or an acknowledgement belongs to: an RPUT by its place among the context's
outstanding RPUTs, an RFLAG by its place (R232, R233), or a copy to another die. -/
inductive RemoteKind | rput | rflag
  deriving DecidableEq, Repr

/-- The instructions of the opcode table. -/
inductive Instr
  /-- ADD (R129, R130). -/
  | add (u : SUnit) (d : Dst) (a : Src) (b : Src) (w : IntW) (sat : Sat)
  /-- ADD_IMM (R108, R129; `d = none` reads s0 and writes the latch only (R128)). -/
  | addImm (u : SUnit) (d : Dst) (imm : Imm16) (w : IntW)
  /-- SUB (R129, R130). -/
  | sub (u : SUnit) (d : Dst) (a : Src) (b : Src) (w : IntW) (sat : Sat)
  /-- SUB_IMM (R108, R129; `d = none` reads s0 and writes the latch only (R128)). -/
  | subImm (u : SUnit) (d : Dst) (imm : Imm16) (w : IntW)
  /-- MUL (R129, R130). -/
  | mul (u : SUnit) (d : Dst) (a : Src) (b : Src) (w : IntW) (sat : Sat)
  /-- MUL_IMM (R108, R129; `d = none` reads s0 and writes the latch only (R128)). -/
  | mulImm (u : SUnit) (d : Dst) (imm : Imm16) (w : IntW)
  /-- MULH (R129). -/
  | mulh (u : SUnit) (d : Dst) (a : Src) (b : Src) (w : IntW)
  /-- MULHU (R129). -/
  | mulhu (u : SUnit) (d : Dst) (a : Src) (b : Src) (w : IntW)
  /-- AND (R129, R131). -/
  | and (u : SUnit) (d : Dst) (a : Src) (b : Src) (w : IntW)
  /-- AND_IMM (R108, R129, R131). -/
  | andImm (u : SUnit) (d : Dst) (imm : Imm16) (w : IntW)
  /-- OR (R129, R131). -/
  | or (u : SUnit) (d : Dst) (a : Src) (b : Src) (w : IntW)
  /-- OR_IMM (R108, R129, R131). -/
  | orImm (u : SUnit) (d : Dst) (imm : Imm16) (w : IntW)
  /-- XOR (R129, R131). -/
  | xor (u : SUnit) (d : Dst) (a : Src) (b : Src) (w : IntW)
  /-- XOR_IMM (R108, R129, R131). -/
  | xorImm (u : SUnit) (d : Dst) (imm : Imm16) (w : IntW)
  /-- ANDN (R129, R131). -/
  | andn (u : SUnit) (d : Dst) (a : Src) (b : Src) (w : IntW)
  /-- ANDN_IMM (R108, R129, R131). -/
  | andnImm (u : SUnit) (d : Dst) (imm : Imm16) (w : IntW)
  /-- SHL (R129, R131). -/
  | shl (u : SUnit) (d : Dst) (a : Src) (b : Src) (w : IntW)
  /-- SHL_IMM (R108, R129, R131). -/
  | shlImm (u : SUnit) (d : Dst) (imm : Imm16) (w : IntW)
  /-- SHR (R129, R131). -/
  | shr (u : SUnit) (d : Dst) (a : Src) (b : Src) (w : IntW)
  /-- SHR_IMM (R108, R129, R131). -/
  | shrImm (u : SUnit) (d : Dst) (imm : Imm16) (w : IntW)
  /-- SRA (R129, R131). -/
  | sra (u : SUnit) (d : Dst) (a : Src) (b : Src) (w : IntW)
  /-- SRA_IMM (R108, R129, R131). -/
  | sraImm (u : SUnit) (d : Dst) (imm : Imm16) (w : IntW)
  /-- ROT (R129, R131). -/
  | rot (u : SUnit) (d : Dst) (a : Src) (b : Src) (w : IntW)
  /-- ROT_IMM (R108, R129, R131). -/
  | rotImm (u : SUnit) (d : Dst) (imm : Imm16) (w : IntW)
  /-- MIN (R129, R131). -/
  | min (u : SUnit) (d : Dst) (a : Src) (b : Src) (w : IntW)
  /-- MIN_IMM (R108, R129, R131). -/
  | minImm (u : SUnit) (d : Dst) (imm : Imm16) (w : IntW)
  /-- MAX (R129, R131). -/
  | max (u : SUnit) (d : Dst) (a : Src) (b : Src) (w : IntW)
  /-- MAX_IMM (R108, R129, R131). -/
  | maxImm (u : SUnit) (d : Dst) (imm : Imm16) (w : IntW)
  /-- MINU (R129, R131). -/
  | minu (u : SUnit) (d : Dst) (a : Src) (b : Src) (w : IntW)
  /-- MINU_IMM (R108, R129, R131). -/
  | minuImm (u : SUnit) (d : Dst) (imm : Imm16) (w : IntW)
  /-- MAXU (R129, R131). -/
  | maxu (u : SUnit) (d : Dst) (a : Src) (b : Src) (w : IntW)
  /-- MAXU_IMM (R108, R129, R131). -/
  | maxuImm (u : SUnit) (d : Dst) (imm : Imm16) (w : IntW)
  /-- CLZ (R129). -/
  | clz (u : SUnit) (d : Dst) (a : Src) (w : IntW)
  /-- CTZ (R129). -/
  | ctz (u : SUnit) (d : Dst) (a : Src) (w : IntW)
  /-- POPC (R129). -/
  | popc (u : SUnit) (d : Dst) (a : Src) (w : IntW)
  /-- SEXT (R129). -/
  | sext (u : SUnit) (d : Dst) (a : Src) (w : IntW)
  /-- ZEXT (R129). -/
  | zext (u : SUnit) (d : Dst) (a : Src) (w : IntW)
  /-- BFX (R133; width 64 only). -/
  | bfx (u : SUnit) (d : Dst) (a : Src) (b : Src)
  /-- BFI (R133; width 64 only). -/
  | bfi (u : SUnit) (d : Dst) (a : Src) (b : Src)
  /-- SEL (R134). -/
  | sel (u : SUnit) (d : Dst) (a : Src) (b : Src) (w : IntW)
  /-- MOV (R129). -/
  | mov (u : SUnit) (d : Dst) (a : Src) (w : IntW)
  /-- MOVI (R132). -/
  | movi (u : SUnit) (d : Dst) (imm : Imm16) (w : IntW)
  /-- MOVHI (R132; width 64 only). -/
  | movhi (u : SUnit) (d : Dst) (imm : Imm16)
  /-- CMP (R134, R109). -/
  | cmp (u : SUnit) (d : Dst) (a : Src) (b : Src) (w : IntW) (cond : Cond)
  /-- SCHK (R141). -/
  | schk (u : SUnit) (a : Src) (b : Src)
  /-- WFLD (R154). -/
  | wfld (u : SUnit) (d : Dst) (a : Src) (level : Fin 6)
  /-- FADD (R137). -/
  | fadd (u : SUnit) (d : Dst) (a : Src) (b : Src) (f : FFmt) (rq : Rq)
  /-- FSUB (R137). -/
  | fsub (u : SUnit) (d : Dst) (a : Src) (b : Src) (f : FFmt) (rq : Rq)
  /-- FMUL (R137). -/
  | fmul (u : SUnit) (d : Dst) (a : Src) (b : Src) (f : FFmt) (rq : Rq)
  /-- FFMA (R137). -/
  | ffma (u : SUnit) (d : Dst) (a : Src) (b : Src) (f : FFmt) (rq : Rq)
  /-- FMIN (R137, R83). -/
  | fmin (u : SUnit) (d : Dst) (a : Src) (b : Src) (f : FFmt)
  /-- FMAX (R137, R83). -/
  | fmax (u : SUnit) (d : Dst) (a : Src) (b : Src) (f : FFmt)
  /-- FABS (R137, R82). -/
  | fabs (u : SUnit) (d : Dst) (a : Src) (f : FFmt)
  /-- FNEG (R137, R82). -/
  | fneg (u : SUnit) (d : Dst) (a : Src) (f : FFmt)
  /-- FCMP (R138, R109). -/
  | fcmp (u : SUnit) (d : Dst) (a : Src) (b : Src) (f : FFmt) (cond : Cond)
  /-- FCVT (R139, R111). -/
  | fcvt (u : SUnit) (d : Dst) (a : Src) (res : Fmt) (src : Fmt) (rq : Rq)
  /-- FCLASS (R140). -/
  | fclass (u : SUnit) (d : Dst) (a : Src) (f : FFmt)
  /-- CTLR (R148). -/
  | ctlr (u : SUnit) (d : Dst) (c : Fin 64)
  /-- CTLW (R148, R149). -/
  | ctlw (u : SUnit) (a : Src) (c : Fin 64)
  /-- SHW (R152); `fmt` is the field FMT, which the instruction does not use: zero (R103). -/
  | shw (u : SUnit) (h : Fin 16) (a : Src) (field : Fin 28) (fmt : Fin 1)
  /-- MPW (R153). -/
  | mpw (u : SUnit) (m : Fin 8) (a : Src)
  /-- AWR (R153). -/
  | awr (u : SUnit) (r : Fin 8) (part : AwrPart) (a : Src)
  /-- DIV (R135; SB only). -/
  | div (d : Dst) (a : Src) (b : Src) (w : IntW)
  /-- DIVU (R135; SB only). -/
  | divu (d : Dst) (a : Src) (b : Src) (w : IntW)
  /-- REM (R135; SB only). -/
  | rem (d : Dst) (a : Src) (b : Src) (w : IntW)
  /-- REMU (R135; SB only). -/
  | remu (d : Dst) (a : Src) (b : Src) (w : IntW)
  /-- FDIV (R137; SB only). -/
  | fdiv (d : Dst) (a : Src) (b : Src) (f : FFmt) (rq : Rq)
  /-- FSQRT (R137; SB only). -/
  | fsqrt (d : Dst) (a : Src) (f : FFmt) (rq : Rq)
  /-- YIELD (R147). -/
  | yield
  /-- LOOP (R144). -/
  | loop (count : Src) (off : Imm16)
  /-- BR (R142). -/
  | br (off : Imm16)
  /-- BZ (R142). -/
  | bz (r : Src) (off : Imm16)
  /-- BNZ (R142). -/
  | bnz (r : Src) (off : Imm16)
  /-- BP (R142, R108). -/
  | bp (p : Fin 16) (test : BpTest) (off : Imm16)
  /-- JMP (R142, R143); `fmt` is the field FMT, which the instruction does not use: zero (R103). -/
  | jmp (a : Src) (fmt : Fin 1)
  /-- CALL (R142). -/
  | call (d : Fin 48) (off : Imm16)
  /-- CALLR (R142, R143); `fmt` as in JMP. -/
  | callr (d : Dst) (a : Src) (fmt : Fin 1)
  /-- RET (R142, R143); `fmt` as in JMP. -/
  | ret (a : Src) (fmt : Fin 1)
  /-- NOP_BUNDLE (R98). -/
  | nopBundle (stop : Bool)
  /-- VADD (R161). -/
  | vadd (u : VUnit) (d : Dst) (a : Src) (b : Src) (p : Fin 16) (f : Fmt) (x : Option VMod)
  /-- VSUB (R161). -/
  | vsub (u : VUnit) (d : Dst) (a : Src) (b : Src) (p : Fin 16) (f : Fmt) (x : Option VMod)
  /-- VMUL (R161). -/
  | vmul (u : VUnit) (d : Dst) (a : Src) (b : Src) (p : Fin 16) (f : Fmt) (x : Option VMod)
  /-- VFMA (R161). -/
  | vfma (u : VUnit) (d : Dst) (a : Src) (b : Src) (p : Fin 16) (f : Fmt) (x : Option VMod)
  /-- VFMS (R161). -/
  | vfms (u : VUnit) (d : Dst) (a : Src) (b : Src) (p : Fin 16) (f : Fmt) (x : Option VMod)
  /-- VMULH (R161). -/
  | vmulh (u : VUnit) (d : Dst) (a : Src) (b : Src) (p : Fin 16) (w : IntW) (x : Option VMod)
  /-- VNEG (R161). -/
  | vneg (u : VUnit) (d : Dst) (a : Src) (p : Fin 16) (f : Fmt) (x : Option VMod)
  /-- VABS (R161). -/
  | vabs (u : VUnit) (d : Dst) (a : Src) (p : Fin 16) (f : Fmt) (x : Option VMod)
  /-- VMIN (R161). -/
  | vmin (u : VUnit) (d : Dst) (a : Src) (b : Src) (p : Fin 16) (f : Fmt) (x : Option VMod)
  /-- VMAX (R161). -/
  | vmax (u : VUnit) (d : Dst) (a : Src) (b : Src) (p : Fin 16) (f : Fmt) (x : Option VMod)
  /-- VDOT4 (R162). -/
  | vdot4 (u : VUnit) (d : Dst) (a : Src) (b : Src) (p : Fin 16) (w : IntW) (x : Option VMod)
  /-- VAND (R161). -/
  | vand (u : VUnit) (d : Dst) (a : Src) (b : Src) (p : Fin 16) (w : IntW) (x : Option VMod)
  /-- VOR (R161). -/
  | vor (u : VUnit) (d : Dst) (a : Src) (b : Src) (p : Fin 16) (w : IntW) (x : Option VMod)
  /-- VXOR (R161). -/
  | vxor (u : VUnit) (d : Dst) (a : Src) (b : Src) (p : Fin 16) (w : IntW) (x : Option VMod)
  /-- VANDN (R161). -/
  | vandn (u : VUnit) (d : Dst) (a : Src) (b : Src) (p : Fin 16) (w : IntW) (x : Option VMod)
  /-- VSHL (R161). -/
  | vshl (u : VUnit) (d : Dst) (a : Src) (b : Src) (p : Fin 16) (w : IntW) (x : Option VMod)
  /-- VSHR (R161). -/
  | vshr (u : VUnit) (d : Dst) (a : Src) (b : Src) (p : Fin 16) (w : IntW) (x : Option VMod)
  /-- VSRA (R161). -/
  | vsra (u : VUnit) (d : Dst) (a : Src) (b : Src) (p : Fin 16) (w : IntW) (x : Option VMod)
  /-- VCMP (R163; [7:4] holds COND (R110)). -/
  | vcmp (u : VUnit) (d : PDst) (a : Src) (b : Src) (cond : Cond) (f : Fmt) (x : Option VMod)
  /-- VSEL (R164). -/
  | vsel (u : VUnit) (d : Dst) (a : Src) (b : Src) (p : Fin 16) (f : Fmt) (x : Option VMod)
  /-- VMOV (R164). -/
  | vmov (u : VUnit) (d : Dst) (a : Src) (p : Fin 16) (f : Fmt) (x : Option VMod)
  /-- VBCAST (R164; `a` names the s file). -/
  | vbcast (u : VUnit) (d : Dst) (a : Src) (p : Fin 16) (f : Fmt) (x : Option VMod)
  /-- VEXTR (R164; `d` and `b` name the s file). -/
  | vextr (u : VUnit) (d : Dst) (a : Src) (b : Src) (f : Fmt) (x : Option VMod)
  /-- VINS (R164; `a` and `b` name the s file). -/
  | vins (u : VUnit) (d : Dst) (a : Src) (b : Src) (f : Fmt) (x : Option VMod)
  /-- VIOTA (R164; `a` and `b` name the s file). -/
  | viota (u : VUnit) (d : Dst) (a : Src) (b : Src) (p : Fin 16) (f : Fmt) (x : Option VMod)
  /-- VCVT (R165). -/
  | vcvt (u : VUnit) (d : Dst) (a : Src) (src : Fmt) (rq : Rq) (p : Fin 16) (f : Fmt) (x : Option VMod)
  /-- VBFPK (R166; block width `wm1 + 1`). -/
  | vbfpk (u : VUnit) (d : Dst) (a : Src) (wm1 : Fin 8) (rq : Rq) (p : Fin 16) (f : FFmt) (x : Option VMod)
  /-- VBFUP (R166). -/
  | vbfup (u : VUnit) (d : Dst) (a : Src) (wm1 : Fin 8) (rq : Rq) (p : Fin 16) (f : FFmt) (x : Option VMod)
  /-- VPERM (R164). -/
  | vperm (u : VUnit) (d : Dst) (a : Src) (b : Src) (p : Fin 16) (w : IntW) (x : Option VMod)
  /-- VSHUF (R164). -/
  | vshuf (u : VUnit) (d : Dst) (a : Src) (b : Src) (p : Fin 16) (w : IntW) (x : Option VMod)
  /-- VSLIDE (R164; `b` names the s file). -/
  | vslide (u : VUnit) (d : Dst) (a : Src) (b : Src) (p : Fin 16) (f : Fmt) (x : Option VMod)
  /-- VCOMPR (R164). -/
  | vcompr (u : VUnit) (d : Dst) (a : Src) (p : Fin 16) (f : Fmt) (x : Option VMod)
  /-- VEXPAND (R164). -/
  | vexpand (u : VUnit) (d : Dst) (a : Src) (p : Fin 16) (f : Fmt) (x : Option VMod)
  /-- VRSUM (R167). -/
  | vrsum (u : VUnit) (d : Dst) (a : Src) (p : Fin 16) (f : Fmt) (x : Option VMod)
  /-- VRMAX (R167). -/
  | vrmax (u : VUnit) (d : Dst) (a : Src) (p : Fin 16) (f : Fmt) (x : Option VMod)
  /-- VRMIN (R167). -/
  | vrmin (u : VUnit) (d : Dst) (a : Src) (p : Fin 16) (f : Fmt) (x : Option VMod)
  /-- VSCAN (R167). -/
  | vscan (u : VUnit) (d : Dst) (a : Src) (p : Fin 16) (f : Fmt) (x : Option VMod)
  /-- VCHK (R174). -/
  | vchk (u : VUnit) (a : Src) (b : Src) (p : Fin 16) (f : Fmt) (x : Option VMod)
  /-- PAND (R172). -/
  | pand (u : VUnit) (d : PDst) (a : Fin 16) (b : Fin 16) (p : Fin 16) (x : Option VMod)
  /-- POR (R172). -/
  | por (u : VUnit) (d : PDst) (a : Fin 16) (b : Fin 16) (p : Fin 16) (x : Option VMod)
  /-- PXOR (R172). -/
  | pxor (u : VUnit) (d : PDst) (a : Fin 16) (b : Fin 16) (p : Fin 16) (x : Option VMod)
  /-- PNOT (R172). -/
  | pnot (u : VUnit) (d : PDst) (a : Fin 16) (p : Fin 16) (x : Option VMod)
  /-- PCNT (R172; `d` names the s file). -/
  | pcnt (u : VUnit) (d : Dst) (a : Fin 16) (p : Fin 16) (w : IntW) (x : Option VMod)
  /-- PFIRST (R172; `d` names the s file). -/
  | pfirst (u : VUnit) (d : Dst) (a : Fin 16) (p : Fin 16) (w : IntW) (x : Option VMod)
  /-- PMOV (R172). -/
  | pmov (u : VUnit) (d : PDst) (a : Fin 16) (p : Fin 16) (x : Option VMod)
  /-- PPACK (R173). -/
  | ppack (u : VUnit) (d : Dst) (a : OctBase) (x : Option VMod)
  /-- PUNPK (R173). -/
  | punpk (u : VUnit) (d : OctBase) (nw : Bool) (a : Src) (x : Option VMod)
  /-- VRCP (R168, R169; VB only). -/
  | vrcp (d : Dst) (a : Src) (p : Fin 16) (f : FFmt)
  /-- VRSQ (R168, R169; VB only). -/
  | vrsq (d : Dst) (a : Src) (p : Fin 16) (f : FFmt)
  /-- VSQRT (R168, R169; VB only). -/
  | vsqrt (d : Dst) (a : Src) (p : Fin 16) (f : FFmt)
  /-- VDIV (R168; VB only). -/
  | vdiv (d : Dst) (a : Src) (b : Src) (p : Fin 16) (f : FFmt)
  /-- VEXP2 (R168, R169; VB only). -/
  | vexp2 (d : Dst) (a : Src) (p : Fin 16) (f : FFmt)
  /-- VLOG2 (R168, R169; VB only). -/
  | vlog2 (d : Dst) (a : Src) (p : Fin 16) (f : FFmt)
  /-- VSIN (R168, R169; VB only). -/
  | vsin (d : Dst) (a : Src) (p : Fin 16) (f : FFmt)
  /-- VCOS (R168, R169; VB only). -/
  | vcos (d : Dst) (a : Src) (p : Fin 16) (f : FFmt)
  /-- VTANH (R168, R169; VB only). -/
  | vtanh (d : Dst) (a : Src) (p : Fin 16) (f : FFmt)
  /-- VHIST (R170; `b` names the s file). -/
  | vhist (d : Dst) (a : Src) (b : Src) (p : Fin 16) (w : IntW)
  /-- VHMERGE (R170). -/
  | vhmerge (d : Dst) (a : Src) (w : IntW)
  /-- VSORT (R171). -/
  | vsort (d : Dst) (a : Src) (p : Fin 16) (f : Fmt)
  /-- VSORTKV (R171). -/
  | vsortkv (d : Dst) (a : Src) (b : Src) (p : Fin 16) (f : Fmt)
  /-- VSRCH (R171). -/
  | vsrch (d : Dst) (a : Src) (b : Src) (p : Fin 16) (f : Fmt)
  /-- MCALL (R185 to R193). -/
  | mcall (z : Fin 8) (r : Fin 256) (mh : Fin 4) (sw : Bool) (a : Src) (rpt : Rpt)
  /-- MZERO (R197). -/
  | mzero (z : Fin 8) (mode : TileMode) (rpt : Rpt)
  /-- MRD (R198). -/
  | mrd (d : Fin 48) (z : Fin 8) (q : Fin 18) (rpt : Rpt)
  /-- MWR (R198). -/
  | mwr (z : Fin 8) (q : Fin 16) (a : Fin 48) (rpt : Rpt)
  /-- MST (R199). -/
  | mst (z : Fin 8) (form : Fin 4) (a : Src) (rpt : Rpt)
  /-- MCHK (R200). -/
  | mchk (z : Fin 8) (rpt : Rpt)
  /-- MCSR (R200). -/
  | mcsr (z : Fin 8) (rpt : Rpt)
  /-- MULD (R201). -/
  | muld (r : Fin 256) (a : Src) (rpt : Rpt)
  /-- MOUT (R202). -/
  | mout (z : Fin 8) (nm1 : Fin 256) (a : Src) (rpt : Rpt)
  /-- MWAIT (R203). -/
  | mwait (rpt : Rpt)
  /-- LDB (R208, R209). -/
  | ldb (d : Fin 48) (base : Src) (off : MOff) (w : Bool) (c : Bool)
  /-- LDH (R208, R209). -/
  | ldh (d : Fin 48) (base : Src) (off : MOff) (w : Bool) (c : Bool)
  /-- LDW (R208, R209). -/
  | ldw (d : Fin 48) (base : Src) (off : MOff) (w : Bool) (c : Bool)
  /-- LDD (R208, R209). -/
  | ldd (d : Fin 48) (base : Src) (off : MOff) (w : Bool) (c : Bool)
  /-- LDV (R208, R209). -/
  | ldv (d : Fin 48) (base : Src) (off : MOff) (p : Fin 8) (w : Bool) (c : Bool)
  /-- LDP (R208, R209). -/
  | ldp (d : Fin 16) (base : Src) (off : MOff) (w : Bool) (c : Bool)
  /-- LDT (R213, R214). -/
  | ldt (d : Fin 48) (base : Src) (h : Fin 4) (p : Fin 16) (w : Bool) (c : Bool) (sw : Bool)
  /-- LDG (R215). -/
  | ldg (d : Fin 48) (base : Src) (idx : Fin 48) (p : Fin 16) (w : Bool) (c : Bool)
  /-- STB (R208, R209). -/
  | stb (v : Src) (base : Src) (off : MOff) (f : Bool)
  /-- STH (R208, R209). -/
  | sth (v : Src) (base : Src) (off : MOff) (f : Bool)
  /-- STW (R208, R209). -/
  | stw (v : Src) (base : Src) (off : MOff) (f : Bool)
  /-- STD (R208, R209). -/
  | std (v : Src) (base : Src) (off : MOff) (f : Bool)
  /-- STV (R208, R209). -/
  | stv (v : Src) (base : Src) (off : MOff) (p : Fin 8) (f : Bool)
  /-- STP (R208, R209). -/
  | stp (v : Fin 16) (base : Src) (off : MOff) (f : Bool)
  /-- STT (R213, R214). -/
  | stt (v : Src) (base : Src) (h : Fin 4) (p : Fin 16) (f : Bool) (sw : Bool)
  /-- STG (R215). -/
  | stg (v : Src) (base : Src) (idx : Fin 48) (p : Fin 16) (f : Bool)
  /-- FESET (R212). -/
  | feset (base : Src) (off : MOff)
  /-- FECLR (R212). -/
  | feclr (base : Src) (off : MOff)
  /-- FETST (R212). -/
  | fetst (d : Fin 48) (base : Src) (off : MOff)
  /-- WLDW (R208, R209). -/
  | wldw (d : Fin 48) (base : Src) (off : MOff) (w : Bool) (c : Bool)
  /-- WLDD (R208, R209). -/
  | wldd (d : Fin 48) (base : Src) (off : MOff) (w : Bool) (c : Bool)
  /-- WLDV (R208, R209). -/
  | wldv (d : Fin 48) (base : Src) (off : MOff) (p : Fin 8) (w : Bool) (c : Bool)
  /-- WLDT (R213, R214). -/
  | wldt (d : Fin 48) (base : Src) (h : Fin 4) (p : Fin 16) (w : Bool) (c : Bool) (sw : Bool)
  /-- WLDG (R215). -/
  | wldg (d : Fin 48) (base : Src) (idx : Fin 48) (p : Fin 16) (w : Bool) (c : Bool)
  /-- WSTW (R208, R209). -/
  | wstw (v : Src) (base : Src) (off : MOff) (f : Bool)
  /-- WSTD (R208, R209). -/
  | wstd (v : Src) (base : Src) (off : MOff) (f : Bool)
  /-- WSTV (R208, R209). -/
  | wstv (v : Src) (base : Src) (off : MOff) (p : Fin 8) (f : Bool)
  /-- WSTT (R213, R214). -/
  | wstt (v : Src) (base : Src) (h : Fin 4) (p : Fin 16) (f : Bool) (sw : Bool)
  /-- WSTG (R215). -/
  | wstg (v : Src) (base : Src) (idx : Fin 48) (p : Fin 16) (f : Bool)
  /-- WFESET (R212). -/
  | wfeset (base : Src) (off : MOff)
  /-- WFECLR (R212). -/
  | wfeclr (base : Src) (off : MOff)
  /-- PROBE (R217). -/
  | probe (d : Fin 48) (a : Src) (off : POff)
  /-- FILL (R218). -/
  | fill (d : Fin 48) (a : Src)
  /-- EVICT (R218). -/
  | evict (a : Src)
  /-- WBACK (R218). -/
  | wback (a : Src)
  /-- PIN (R218). -/
  | pin (d : Fin 48) (a : Src)
  /-- UNPIN (R218). -/
  | unpin (a : Src)
  /-- TGINV (R218). -/
  | tginv (a : Src)
  /-- TGSTAT (R218). -/
  | tgstat (d : Fin 48) (a : Src)
  /-- CPY (R225). -/
  | cpy (d : Dst) (a : Src) (eh : Fin 4) (carry : Bool) (sw : Bool)
  /-- CWAIT (R230; `b` is a vector source code). -/
  | cwait (d : Dst) (a : Src) (b : Src)
  /-- CTEST (R230; `b` is a vector source code). -/
  | ctest (d : Dst) (a : Src) (b : Src)
  /-- CCANCEL (R230). -/
  | ccancel (a : Src)
  /-- RPUT (R232). -/
  | rput (a : Src) (carry : Bool)
  /-- RFLAG (R233). -/
  | rflag (a : Src) (b : EnB) (carry : Bool) (ord : Bool)
  /-- RFENCE (R234). -/
  | rfence
  /-- HALO (R235). -/
  | halo (d : Dst) (eh : Fin 4) (carry : Bool) (sw : Bool)
  /-- HWAIT (R237). -/
  | hwait (d : Dst) (a : Src)
  /-- TIDW (R223, R224). -/
  | tidw (a : Src) (b : EnB)
  /-- TIDR (R223). -/
  | tidr (d : Dst) (a : Src) (k : Fin 8)
  /-- TIDINV (R223). -/
  | tidinv (a : Src)
  /-- LAYSET (R302). -/
  | layset (d : Fin 48) (a : Src) (f : Fin 3)
  /-- COLL (R298). -/
  | coll (d : Fin 48) (a : Src) (b : EnB) (carry : Bool)
  /-- CLWAIT (R301). -/
  | clwait (d : Fin 48) (a : Src) (b : EnB)
  /-- RESHARD (R299). -/
  | reshard (d : Fin 48) (a : Src) (b : EnB) (carry : Bool)
  /-- GATHJ (R298). -/
  | gathj (d : Fin 48) (a : Src) (b : EnB) (carry : Bool)
  /-- AADD (R242, R243). -/
  | aadd (d : Dst) (a : Src) (b : EnB) (sc : Bool) (scope : Fin 4)
  /-- AMIN (R242, R243). -/
  | amin (d : Dst) (a : Src) (b : EnB) (sc : Bool) (scope : Fin 4)
  /-- AMAX (R242, R243). -/
  | amax (d : Dst) (a : Src) (b : EnB) (sc : Bool) (scope : Fin 4)
  /-- AAND (R242, R243). -/
  | aand (d : Dst) (a : Src) (b : EnB) (sc : Bool) (scope : Fin 4)
  /-- AOR (R242, R243). -/
  | aor (d : Dst) (a : Src) (b : EnB) (sc : Bool) (scope : Fin 4)
  /-- AXOR (R242, R243). -/
  | axor (d : Dst) (a : Src) (b : EnB) (sc : Bool) (scope : Fin 4)
  /-- ASWP (R242, R243). -/
  | aswp (d : Dst) (a : Src) (b : EnB) (sc : Bool) (scope : Fin 4)
  /-- ACAS (R242, R243). -/
  | acas (d : Dst) (a : Src) (b : EnB) (sc : Bool) (scope : Fin 4)
  /-- ARED (R244). -/
  | ared (a : Src) (b : EnB) (scope : Fin 4)
  /-- ALOCK (R246). -/
  | alock (d : Dst) (a : Src) (sc : Bool) (scope : Fin 4)
  /-- AUNLK (R246). -/
  | aunlk (a : Src) (sc : Bool) (scope : Fin 4)
  /-- BARC (R247). -/
  | barc (d : Dst) (a : Src) (b : EnB) (scope : Fin 4)
  /-- BARW (R247). -/
  | barw (d : Dst) (a : Src) (b : EnB) (scope : Fin 4)
  /-- TSPAWN (R249). -/
  | tspawn (d : Dst) (a : Src) (b : EnB)
  /-- TDEC (R250). -/
  | tdec (a : Src)
  /-- TDONE (R255). -/
  | tdone
  /-- QPOP (R251). -/
  | qpop (d : Dst) (a : Src)
  /-- QPUSH (R252). -/
  | qpush (d : Dst) (a : Src) (b : EnB)
  /-- QSTAT (R252). -/
  | qstat (d : Dst) (a : Src)
  /-- PHEND (R257). -/
  | phend
  /-- RMACK (R258). -/
  | rmack (a : Src)
  /-- DRAIN (R259). -/
  | drain (scope : Fin 4)
  /-- XFENCE (R260). -/
  | xfence (f : Fin 8) (t : Fin 8)
  /-- TRAP (R261). -/
  | trap (a : Src) (n : Fin 64)
  /-- XRET (R262). -/
  | xret (act : Fin 3)
  /-- HALT (R263). -/
  | halt
  /-- BDPKT (R404). -/
  | bdpkt (a : Src)
  /-- BDRSP (R404). -/
  | bdrsp (d : Fin 48) (a : Src)
  /-- MCALL_REPEAT_ISSUE (R188, R100). -/
  | mcallRepeatIssue (die : Nat) (core : Nat)
  /-- MATRIX_OP_COMPLETE (R196). -/
  | matrixOpComplete (die : Nat) (core : Nat)
  /-- TRELLIS_FILL_GRANULE (R73; `way` is the way's key). -/
  | trellisFillGranule (die : Nat) (way : Nat) (granule : Nat)
  /-- TRELLIS_FILL_END (R219). -/
  | trellisFillEnd (die : Nat) (way : Nat)
  /-- TRELLIS_WRITEBACK_END (R219, R442). -/
  | trellisWritebackEnd (die : Nat) (way : Nat)
  /-- COPY_CHUNK_LAND (R229). -/
  | copyChunkLand (die : Nat) (ctx : Nat) (handle : Nat) (chunk : Nat)
  /-- ENGINE_TRANSFER_FAULT (R231; `kind = none` names a copy by its handle). -/
  | engineTransferFault (die : Nat) (ctx : Nat) (kind : Option RemoteKind) (index : Nat) (piece : Nat)
  /-- REMOTE_PIECE_LAND (R232, R233). -/
  | remotePieceLand (die : Nat) (ctx : Nat) (kind : RemoteKind) (index : Nat) (piece : Nat)
  /-- REMOTE_ACK (R307). -/
  | remoteAck (die : Nat) (ctx : Nat) (kind : RemoteKind) (index : Nat) (piece : Nat)
  /-- HALO_FACE_LAND (R236; the sender's face in the order XN, XP, YN, YP, ZN, ZP). -/
  | haloFaceLand (die : Nat) (ctx : Nat) (handle : Nat) (face : Nat)
  /-- HALO_FACE_ACK (R237). -/
  | haloFaceAck (die : Nat) (ctx : Nat) (handle : Nat) (face : Nat)
  /-- COLL_TRANSFER_APPLY (R293, R296; the sender's operation and transfer index). -/
  | collTransferApply (die : Nat) (ctx : Nat) (handle : Nat) (index : Nat)
  /-- RESHARD_STEP (R300). -/
  | reshardStep (die : Nat) (ctx : Nat) (handle : Nat)
  /-- COLL_END (R296, R304). -/
  | collEnd (die : Nat) (ctx : Nat) (handle : Nat)
  /-- CLEAT_REPLY (R241). -/
  | cleatReply (die : Nat) (ctx : Nat)
  /-- SC_WHEEL_ISSUE (R283). -/
  | scWheelIssue (die : Nat)
  /-- TASK_SERVE (R61). -/
  | taskServe (die : Nat)
  /-- QUEUE_AGEING (R53). -/
  | queueAgeing (die : Nat) (queue : Nat)
  /-- DEFERRED_FAULT_DELIVERY (R206). -/
  | deferredFaultDelivery (die : Nat) (ctx : Nat)
  /-- WATCHDOG (R56). -/
  | watchdog (die : Nat) (ctx : Nat)
  /-- DIE_ARRIVE (R21). -/
  | dieArrive (die : Nat)
  /-- DOMAIN_CROSS (R22). -/
  | domainCross
  /-- STRAGGLER_TIMEOUT (R31). -/
  | stragglerTimeout
  /-- SAILPLAN_PUBLISH (R378). -/
  | sailplanPublish
  /-- LEASE_CLAIM (R374). -/
  | leaseClaim (die : Nat)
  /-- LEASE_RENEW (R373). -/
  | leaseRenew (die : Nat)
  /-- BELVEDERE_LAPSE (R373). -/
  | belvedereLapse (die : Nat)
  /-- PACKAGE_UNMANAGED (R375). -/
  | packageUnmanaged
  /-- ERROR_RETRY_CLASSIFY (R382; CLASS of R439, the unit, the address, whether the read was corrected, and the outcome of the second attempt). -/
  | errorRetryClassify (die : Nat) (cls : Nat) (unit : Nat) (addr : Nat) (corrected : Bool) (lasting : Bool)
  /-- SRAM_LINE_RETEST (R384; the line's key and what the two reads find). -/
  | sramLineRetest (die : Nat) (line : Nat) (clean : Bool)
  /-- SCHED_TABLE_REBUILD (R387). -/
  | schedTableRebuild (die : Nat) (mirrorOk : Bool)
  /-- LODGE_HALT (R388). -/
  | lodgeHalt (die : Nat)
  /-- LODGE_RELOAD_TIMEOUT (R388). -/
  | lodgeReloadTimeout (die : Nat)
  /-- LODGE_RELOAD_COMPLETE (R388, R420). -/
  | lodgeReloadComplete (die : Nat)
  /-- CLUSTER_REPLAN (R389). -/
  | clusterReplan (die : Nat) (cluster : Nat)
  /-- JOB_OPEN (R341, R342; the command record at CMD_HEAD). -/
  | jobOpen
  /-- JOB_CLOSE (R341, R342; the command record at CMD_HEAD). -/
  | jobClose
  /-- PAGEROOT (R341, R342; the command record at CMD_HEAD). -/
  | pageroot
  /-- TRELLIS (R341, R342; the command record at CMD_HEAD). -/
  | trellis
  /-- WHEEL (R341, R342; the command record at CMD_HEAD). -/
  | wheel
  /-- LAYOUTS (R341, R342; the command record at CMD_HEAD). -/
  | layouts
  /-- SCHED (R341, R342; the command record at CMD_HEAD). -/
  | sched
  /-- TIDS (R341, R342; the command record at CMD_HEAD). -/
  | tids
  /-- IMAGE (R341, R342; the command record at CMD_HEAD). -/
  | image
  /-- QUEUES (R341, R342; the command record at CMD_HEAD). -/
  | queues
  /-- LAUNCH (R341, R342; the command record at CMD_HEAD). -/
  | launch
  /-- RESUME_SUSPENDED (R341, R342; the command record at CMD_HEAD). -/
  | resumeSuspended
  /-- RESUME_JOB (R341, R342; the command record at CMD_HEAD). -/
  | resumeJob
  /-- SWITCH_OUT (R341, R342; the command record at CMD_HEAD). -/
  | switchOut
  /-- CMD_TAIL_WRITE (R340). -/
  | cmdTailWrite (v : Dword)
  /-- CMD_CTL_WRITE (R340). -/
  | cmdCtlWrite (v : Dword)
  /-- HY_CTL_WRITE (R40, R34). -/
  | hyCtlWrite (v : Dword)
  /-- QTAIL (R344). -/
  | qtail (die : Nat) (queue : Nat) (v : Dword)
  /-- XL_INV_ALL (R369). -/
  | xlInvAll (die : Nat)
  /-- XL_INV_PAGE (R369). -/
  | xlInvPage (die : Nat) (page : Nat)
  /-- TC_CTL_WRITE (R403). -/
  | tcCtlWrite (die : Nat) (v : Dword)
  /-- TH_LIMITS_WRITE (R427). -/
  | thLimitsWrite (die : Nat) (v : Dword)
  /-- PW_CTL_WRITE (R432). -/
  | pwCtlWrite (v : Dword)
  /-- SNAP (R437). -/
  | snap
  /-- LR_DATA_READ (R437). -/
  | lrDataRead
  /-- MSIX_UNMASK (R336). -/
  | msixUnmask (vec : Nat)
  /-- REGISTER_WRITE (R3, R4, R334; BAR0 offset, 8 bytes when `wide` and else 4). -/
  | registerWrite (off : Nat) (wide : Bool) (v : Dword)
  /-- REGSIZE_ACCESS (R334). -/
  | regsizeAccess (off : Nat) (size : Nat) (write : Bool)
  /-- HOST_WINDOW_ACCESS (R337; `data = none` reads). -/
  | hostWindowAccess (off : Nat) (len : Nat) (data : Option (List Byte))
  /-- TRANSLATION_WALK (R366, R367). -/
  | translationWalk (die : Nat) (dva : Nat) (write : Bool) (fetch : Bool)
  /-- DRAM_READ (R395; `pkt` is the diagnostic packet served, if any). -/
  | dramRead (die : Nat) (tier : Bool) (line : Nat) (pkt : Option Nat)
  /-- DRAM_WRITE (R396). -/
  | dramWrite (die : Nat) (tier : Bool) (line : Nat) (mask : BitVec 64) (data : BitVec 512) (pkt : Option Nat)
  /-- BD_RAWRD (R405). -/
  | bdRawrd (die : Nat) (pkt : Nat)
  /-- BD_RAWWR (R405). -/
  | bdRawwr (die : Nat) (pkt : Nat)
  /-- BD_REPLY_ARRIVE (R408, R409). -/
  | bdReplyArrive (die : Nat) (pkt : Nat)
  /-- HOTNESS_EPOCH (R401). -/
  | hotnessEpoch (die : Nat)
  /-- TIER_MOVE_START (R401, R402). -/
  | tierMoveStart (die : Nat) (group : Nat)
  /-- TIER_MOVE_END (R402). -/
  | tierMoveEnd (die : Nat) (group : Nat)
  /-- LINK_FLIT_RECEIVE (R411). -/
  | linkFlitReceive (die : Nat) (port : Nat) (seq : Nat) (flit : Flit)
  /-- LINK_PACKET_RECEIVE (R413 to R416, R419). -/
  | linkPacketReceive (die : Nat) (port : Nat) (out : Bool) (tagOk : Bool)
  /-- PORT_BRINGUP (R417, R418). -/
  | portBringup (die : Nat) (port : Nat) (peer : Nat) (far : FarEnd)
  /-- REKEY (R419). -/
  | rekey (die : Nat) (port : Nat) (k : Keying)
  /-- POWER_GOOD (R420, R435). -/
  | powerGood
  /-- PLDM_ACTIVATE (R420). -/
  | pldmActivate (slot : Bool)
  /-- GET_VERSION (R422). -/
  | getVersion
  /-- GET_CAPABILITIES (R422). -/
  | getCapabilities
  /-- NEGOTIATE_ALGORITHMS (R422). -/
  | negotiateAlgorithms
  /-- GET_DIGESTS (R422). -/
  | getDigests
  /-- GET_CERTIFICATE (R422). -/
  | getCertificate (slot : Nat)
  /-- CHALLENGE (R422). -/
  | challenge (nonce : BitVec 256)
  /-- GET_MEASUREMENTS (R422, R423). -/
  | getMeasurements (index : Nat) (nonce : BitVec 256)
  /-- DUALREPORT (R422, R423). -/
  | dualreport (nonce : BitVec 256)
  /-- DUALCERT (R422). -/
  | dualcert
  /-- THERMAL_SAMPLE (R426, R427, R429, R431). -/
  | thermalSample (die : Nat) (temps : List Int) (htemp : Int) (ctemp : Int)
  /-- POWER_TICK (R432, R433). -/
  | powerTick (watts : Nat)
  /-- LIFETIME_FLASH_WRITE (R435, R436). -/
  | lifetimeFlashWrite
  /-- URGENT_EVENT_FLUSH (R439). -/
  | urgentEventFlush
  /-- POWER_LOSS (R435). -/
  | powerLoss
  /-- BALLAST_DUTY_WINDOW (R434). -/
  | ballastDutyWindow (die : Nat)
  /-- SNAPSHOT_READY (R437). -/
  | snapshotReady
  deriving DecidableEq, Repr

end Sys2Proof
end

