-- ==== Sys2Proof/WellFormed.lean ====
section
/-! DEFINITION. The checks of an instruction that its fields' types do not make: the formats, conditions, modifier
bits and index ranges that the spec reserves (R109, R110, R133, R139, R159, R160, R165, R173, R185, R195, R245). -/

namespace Sys2Proof

/-- The conditions of the integer formats (R109). -/
def Cond.intOk : Cond → Bool | .un => false | .ord => false | _ => true
/-- The conditions of the floating formats (R109). -/
def Cond.fltOk : Cond → Bool | .ltu => false | .leu => false | .gtu => false | .geu => false | _ => true
/-- The conditions of a format (R109). -/
def Cond.okFor (c : Cond) : Fmt → Bool | .int _ => c.intOk | .flt _ => c.fltOk

/-- No rounding bit of a modifier word is set. -/
def VMod.noRound (m : VMod) : Bool := !m.rq.rq && m.rq.mode = .rne
/-- No saturation bit is set. -/
def VMod.noSat (m : VMod) : Bool := m.sat = .none
/-- IMM11 is zero. -/
def VMod.noImm (m : VMod) : Bool := m.imm11 = 0

/-- Which modifier bits a vector instruction takes (R160): rounding on floating formats, SAT and SATU or SAT alone
on integer formats, IMM11. -/
structure VTakes where
  round : Bool
  sat : Bool
  satu : Bool
  imm : Bool
  deriving DecidableEq, Repr

/-- The modifier word sets no bit the instruction does not take, and only a VA syllable has one (R110, R159). -/
def modOk (u : VUnit) (t : VTakes) : Option VMod → Bool
  | none => true
  | some m => u = .va && (t.round || m.noRound) && (t.sat || m.sat ≠ .sat) && (t.satu || m.sat ≠ .satu) &&
      (t.imm || m.noImm)

/-- An instruction that takes no modifier bit. -/
def VTakes.none : VTakes := ⟨false, false, false, false⟩
/-- RQ and MODE on floating formats, SAT and SATU on integer formats (the column of VADD in R160). -/
def VTakes.arith : Fmt → VTakes | .int _ => ⟨false, true, true, false⟩ | .flt _ => ⟨true, false, false, false⟩
/-- SAT on integer formats. -/
def VTakes.satOnly : Fmt → VTakes | .int _ => ⟨false, true, false, false⟩ | .flt _ => VTakes.none
/-- IMM11. -/
def VTakes.imm11 : VTakes := ⟨false, false, false, true⟩
/-- IMM11, and RQ and MODE on floating formats (VIOTA). -/
def VTakes.iota : Fmt → VTakes | .int _ => VTakes.imm11 | .flt _ => ⟨true, false, false, true⟩

/-- A conversion of FCVT (R139): the formats differ and one of them is floating. -/
def fcvtOk (res src : Fmt) : Bool :=
  res ≠ src && (match res, src with
    | .int _, .int _ => false
    | _, _ => true)
/-- SAT exists on an integer to integer VCVT (R160, R165). -/
def vcvtTakes : Fmt → Fmt → VTakes
  | .int _, .int _ => ⟨false, true, false, false⟩
  | _, _ => VTakes.none

/-- An instruction meets the checks that its fields' types do not make. -/
def Instr.wellFormed : Instr → Bool
  | .add _ _ _ _ _ _ => true
  | .addImm _ _ _ _ => true
  | .sub _ _ _ _ _ _ => true
  | .subImm _ _ _ _ => true
  | .mul _ _ _ _ _ _ => true
  | .mulImm _ _ _ _ => true
  | .mulh _ _ _ _ _ => true
  | .mulhu _ _ _ _ _ => true
  | .and _ _ _ _ _ => true
  | .andImm _ _ _ _ => true
  | .or _ _ _ _ _ => true
  | .orImm _ _ _ _ => true
  | .xor _ _ _ _ _ => true
  | .xorImm _ _ _ _ => true
  | .andn _ _ _ _ _ => true
  | .andnImm _ _ _ _ => true
  | .shl _ _ _ _ _ => true
  | .shlImm _ _ _ _ => true
  | .shr _ _ _ _ _ => true
  | .shrImm _ _ _ _ => true
  | .sra _ _ _ _ _ => true
  | .sraImm _ _ _ _ => true
  | .rot _ _ _ _ _ => true
  | .rotImm _ _ _ _ => true
  | .min _ _ _ _ _ => true
  | .minImm _ _ _ _ => true
  | .max _ _ _ _ _ => true
  | .maxImm _ _ _ _ => true
  | .minu _ _ _ _ _ => true
  | .minuImm _ _ _ _ => true
  | .maxu _ _ _ _ _ => true
  | .maxuImm _ _ _ _ => true
  | .clz _ _ _ _ => true
  | .ctz _ _ _ _ => true
  | .popc _ _ _ _ => true
  | .sext _ _ _ _ => true
  | .zext _ _ _ _ => true
  | .bfx _ _ _ _ => true
  | .bfi _ _ _ _ => true
  | .sel _ _ _ _ _ => true
  | .mov _ _ _ _ => true
  | .movi _ _ _ _ => true
  | .movhi _ _ _ => true
  | .cmp _ _ _ _ _ cond => cond.intOk
  | .schk _ _ _ => true
  | .wfld _ _ _ _ => true
  | .fadd _ _ _ _ _ _ => true
  | .fsub _ _ _ _ _ _ => true
  | .fmul _ _ _ _ _ _ => true
  | .ffma _ _ _ _ _ _ => true
  | .fmin _ _ _ _ _ => true
  | .fmax _ _ _ _ _ => true
  | .fabs _ _ _ _ => true
  | .fneg _ _ _ _ => true
  | .fcmp _ _ _ _ _ cond => cond.fltOk
  | .fcvt _ _ _ res src _ => fcvtOk res src
  | .fclass _ _ _ _ => true
  | .ctlr _ _ _ => true
  | .ctlw _ _ _ => true
  | .shw _ _ _ _ _ => true
  | .mpw _ _ _ => true
  | .awr _ _ _ _ => true
  | .div _ _ _ _ => true
  | .divu _ _ _ _ => true
  | .rem _ _ _ _ => true
  | .remu _ _ _ _ => true
  | .fdiv _ _ _ _ _ => true
  | .fsqrt _ _ _ _ => true
  | .yield => true
  | .loop _ _ => true
  | .br _ => true
  | .bz _ _ => true
  | .bnz _ _ => true
  | .bp _ _ _ => true
  | .jmp _ _ => true
  | .call _ _ => true
  | .callr _ _ _ => true
  | .ret _ _ => true
  | .nopBundle _ => true
  | .vadd u _ _ _ _ f x => modOk u (.arith f) x
  | .vsub u _ _ _ _ f x => modOk u (.arith f) x
  | .vmul u _ _ _ _ f x => modOk u (.arith f) x
  | .vfma u _ _ _ _ f x => modOk u (.arith f) x
  | .vfms u _ _ _ _ f x => modOk u (.arith f) x
  | .vmulh u _ _ _ _ _ x => modOk u .none x
  | .vneg u _ _ _ f x => modOk u (.satOnly f) x
  | .vabs u _ _ _ f x => modOk u (.satOnly f) x
  | .vmin u _ _ _ _ _ x => modOk u .none x
  | .vmax u _ _ _ _ _ x => modOk u .none x
  | .vdot4 u _ _ _ _ w x => (w = .i32 || w = .i64) && modOk u ⟨false, true, true, false⟩ x
  | .vand u _ _ _ _ _ x => modOk u .none x
  | .vor u _ _ _ _ _ x => modOk u .none x
  | .vxor u _ _ _ _ _ x => modOk u .none x
  | .vandn u _ _ _ _ _ x => modOk u .none x
  | .vshl u _ _ _ _ _ x => modOk u .none x
  | .vshr u _ _ _ _ _ x => modOk u .none x
  | .vsra u _ _ _ _ _ x => modOk u .none x
  | .vcmp u _ _ _ cond f x => cond.okFor f && modOk u .none x
  | .vsel u _ _ _ _ _ x => modOk u .none x
  | .vmov u _ _ _ _ x => modOk u .none x
  | .vbcast u _ _ _ _ x => modOk u .none x
  | .vextr u _ _ _ _ x => modOk u .imm11 x
  | .vins u _ _ _ _ x => modOk u .imm11 x
  | .viota u _ _ _ _ f x => modOk u (.iota f) x
  | .vcvt u _ _ src _ _ f x => f ≠ src && modOk u (vcvtTakes f src) x
  | .vbfpk u _ _ wm1 _ _ _ x => wm1 ≠ 0 && modOk u .none x
  | .vbfup u _ _ wm1 _ _ _ x => wm1 ≠ 0 && modOk u .none x
  | .vperm u _ _ _ _ _ x => modOk u .none x
  | .vshuf u _ _ _ _ _ x => modOk u .none x
  | .vslide u _ _ _ _ _ x => modOk u .imm11 x
  | .vcompr u _ _ _ _ x => modOk u .none x
  | .vexpand u _ _ _ _ x => modOk u .none x
  | .vrsum u _ _ _ f x => modOk u (.arith f) x
  | .vrmax u _ _ _ _ x => modOk u .none x
  | .vrmin u _ _ _ _ x => modOk u .none x
  | .vscan u _ _ _ f x => modOk u (.arith f) x
  | .vchk u _ _ _ _ x => modOk u .none x
  | .pand u _ _ _ _ x => modOk u .none x
  | .por u _ _ _ _ x => modOk u .none x
  | .pxor u _ _ _ _ x => modOk u .none x
  | .pnot u _ _ _ x => modOk u .none x
  | .pcnt u _ _ _ _ x => modOk u .none x
  | .pfirst u _ _ _ _ x => modOk u .none x
  | .pmov u _ _ _ x => modOk u .none x
  | .ppack u _ _ x => modOk u .none x
  | .punpk u d nw _ x => (!nw || d = .p0) && modOk u .none x
  | .vrcp _ _ _ f => f ≠ .f64
  | .vrsq _ _ _ f => f ≠ .f64
  | .vsqrt _ _ _ _ => true
  | .vdiv _ _ _ _ _ => true
  | .vexp2 _ _ _ f => f ≠ .f64
  | .vlog2 _ _ _ f => f ≠ .f64
  | .vsin _ _ _ f => f ≠ .f64
  | .vcos _ _ _ f => f ≠ .f64
  | .vtanh _ _ _ f => f ≠ .f64
  | .vhist _ _ _ _ _ => true
  | .vhmerge _ _ _ => true
  | .vsort _ _ _ _ => true
  | .vsortkv _ _ _ _ _ => true
  | .vsrch _ _ _ _ f => f ≠ .int .i8
  | .mcall _ r _ _ _ _ => r.val < 4 || 64 ≤ r.val
  | .mzero _ _ _ => true
  | .mrd _ _ _ _ => true
  | .mwr _ _ _ _ => true
  | .mst _ _ _ _ => true
  | .mchk _ _ => true
  | .mcsr _ _ => true
  | .muld r _ _ => 64 ≤ r.val
  | .mout _ _ _ _ => true
  | .mwait _ => true
  | .ldb _ _ _ _ _ => true
  | .ldh _ _ _ _ _ => true
  | .ldw _ _ _ _ _ => true
  | .ldd _ _ _ _ _ => true
  | .ldv _ _ _ _ _ _ => true
  | .ldp _ _ _ _ _ => true
  | .ldt _ _ _ _ _ _ _ => true
  | .ldg _ _ _ _ _ _ => true
  | .stb _ _ _ _ => true
  | .sth _ _ _ _ => true
  | .stw _ _ _ _ => true
  | .std _ _ _ _ => true
  | .stv _ _ _ _ _ => true
  | .stp _ _ _ _ => true
  | .stt _ _ _ _ _ _ => true
  | .stg _ _ _ _ _ => true
  | .feset _ _ => true
  | .feclr _ _ => true
  | .fetst _ _ _ => true
  | .wldw _ _ _ _ _ => true
  | .wldd _ _ _ _ _ => true
  | .wldv _ _ _ _ _ _ => true
  | .wldt _ _ _ _ _ _ _ => true
  | .wldg _ _ _ _ _ _ => true
  | .wstw _ _ _ _ => true
  | .wstd _ _ _ _ => true
  | .wstv _ _ _ _ _ => true
  | .wstt _ _ _ _ _ _ => true
  | .wstg _ _ _ _ _ => true
  | .wfeset _ _ => true
  | .wfeclr _ _ => true
  | .probe _ _ _ => true
  | .fill _ _ => true
  | .evict _ => true
  | .wback _ => true
  | .pin _ _ => true
  | .unpin _ => true
  | .tginv _ => true
  | .tgstat _ _ => true
  | .cpy _ _ _ _ _ => true
  | .cwait _ _ _ => true
  | .ctest _ _ _ => true
  | .ccancel _ => true
  | .rput _ _ => true
  | .rflag _ _ _ _ => true
  | .rfence => true
  | .halo _ _ _ _ => true
  | .hwait _ _ => true
  | .tidw _ _ => true
  | .tidr _ _ _ => true
  | .tidinv _ => true
  | .layset _ _ _ => true
  | .coll _ _ _ _ => true
  | .clwait _ _ _ => true
  | .reshard _ _ _ _ => true
  | .gathj _ _ _ _ => true
  | .aadd _ _ _ sc scope => !sc || scope = 3
  | .amin _ _ _ sc scope => !sc || scope = 3
  | .amax _ _ _ sc scope => !sc || scope = 3
  | .aand _ _ _ sc scope => !sc || scope = 3
  | .aor _ _ _ sc scope => !sc || scope = 3
  | .axor _ _ _ sc scope => !sc || scope = 3
  | .aswp _ _ _ sc scope => !sc || scope = 3
  | .acas _ _ _ sc scope => !sc || scope = 3
  | .ared _ _ _ => true
  | .alock _ _ sc scope => !sc || scope = 3
  | .aunlk _ sc scope => !sc || scope = 3
  | .barc _ _ _ _ => true
  | .barw _ _ _ _ => true
  | .tspawn _ _ _ => true
  | .tdec _ => true
  | .tdone => true
  | .qpop _ _ => true
  | .qpush _ _ _ => true
  | .qstat _ _ => true
  | .phend => true
  | .rmack _ => true
  | .drain _ => true
  | .xfence _ _ => true
  | .trap _ _ => true
  | .xret _ => true
  | .halt => true
  | .bdpkt _ => true
  | .bdrsp _ _ => true
  | .mcallRepeatIssue _ _ => true
  | .matrixOpComplete _ _ => true
  | .trellisFillGranule _ _ _ => true
  | .trellisFillEnd _ _ => true
  | .trellisWritebackEnd _ _ => true
  | .copyChunkLand _ _ _ _ => true
  | .engineTransferFault _ _ _ _ _ => true
  | .remotePieceLand _ _ _ _ _ => true
  | .remoteAck _ _ _ _ _ => true
  | .haloFaceLand _ _ _ _ => true
  | .haloFaceAck _ _ _ _ => true
  | .collTransferApply _ _ _ _ => true
  | .reshardStep _ _ _ => true
  | .collEnd _ _ _ => true
  | .cleatReply _ _ => true
  | .scWheelIssue _ => true
  | .taskServe _ => true
  | .queueAgeing _ _ => true
  | .deferredFaultDelivery _ _ => true
  | .watchdog _ _ => true
  | .dieArrive _ => true
  | .domainCross => true
  | .stragglerTimeout => true
  | .sailplanPublish => true
  | .leaseClaim _ => true
  | .leaseRenew _ => true
  | .belvedereLapse _ => true
  | .packageUnmanaged => true
  | .errorRetryClassify _ _ _ _ _ _ => true
  | .sramLineRetest _ _ _ => true
  | .schedTableRebuild _ _ => true
  | .lodgeHalt _ => true
  | .lodgeReloadTimeout _ => true
  | .lodgeReloadComplete _ => true
  | .clusterReplan _ _ => true
  | .jobOpen => true
  | .jobClose => true
  | .pageroot => true
  | .trellis => true
  | .wheel => true
  | .layouts => true
  | .sched => true
  | .tids => true
  | .image => true
  | .queues => true
  | .launch => true
  | .resumeSuspended => true
  | .resumeJob => true
  | .switchOut => true
  | .cmdTailWrite _ => true
  | .cmdCtlWrite _ => true
  | .hyCtlWrite _ => true
  | .qtail _ _ _ => true
  | .xlInvAll _ => true
  | .xlInvPage _ _ => true
  | .tcCtlWrite _ _ => true
  | .thLimitsWrite _ _ => true
  | .pwCtlWrite _ => true
  | .snap => true
  | .lrDataRead => true
  | .msixUnmask _ => true
  | .registerWrite _ _ _ => true
  | .regsizeAccess _ _ _ => true
  | .hostWindowAccess _ _ _ => true
  | .translationWalk _ _ _ _ => true
  | .dramRead _ _ _ _ => true
  | .dramWrite _ _ _ _ _ _ => true
  | .bdRawrd _ _ => true
  | .bdRawwr _ _ => true
  | .bdReplyArrive _ _ => true
  | .hotnessEpoch _ => true
  | .tierMoveStart _ _ => true
  | .tierMoveEnd _ _ => true
  | .linkFlitReceive _ _ _ _ => true
  | .linkPacketReceive _ _ _ _ => true
  | .portBringup _ _ _ _ => true
  | .rekey _ _ _ => true
  | .powerGood => true
  | .pldmActivate _ => true
  | .getVersion => true
  | .getCapabilities => true
  | .negotiateAlgorithms => true
  | .getDigests => true
  | .getCertificate _ => true
  | .challenge _ => true
  | .getMeasurements _ _ => true
  | .dualreport _ => true
  | .dualcert => true
  | .thermalSample _ _ _ _ => true
  | .powerTick _ => true
  | .lifetimeFlashWrite => true
  | .urgentEventFlush => true
  | .powerLoss => true
  | .ballastDutyWindow _ => true
  | .snapshotReady => true

end Sys2Proof
end

