-- ==== Sys2Proof/Decode.lean ====
section
/-! DEFINITION. The decoder: from the words of a bundle to its instructions, total on any words and rejecting by
name; and after it the encoder, from the same layouts (R96 to R121). -/

namespace Sys2Proof

/-- How a syllable is rejected (R117 step 2). -/
inductive DecErr | illegalOpcode | reservedEncoding
  deriving DecidableEq, Repr

/-- The fields of the common layout (R103): DST, SRCA, SRCB, [7:4], [3] and [2:0]. The layouts of R108, R113 and
R115 put their own fields at the same places. -/
structure RFields where
  d : Nat
  a : Nat
  b : Nat
  m : Nat
  n : Nat
  f : Nat
  deriving DecidableEq, Repr

/-- The fields of a syllable in the common layout (R103). -/
def RFields.of (w : Nat) : RFields :=
  ⟨w / 1048576 % 64, w / 16384 % 64, w / 256 % 64, w / 16 % 16, w / 8 % 2, w % 8⟩

/-- A number below `n`, or a reserved encoding. -/
def decFin (n x : Nat) : Option (Fin n) := if h : x < n then some ⟨x, h⟩ else none

/-- A source code of R104; 62 and 63 are reserved. -/
def decSrc (x : Nat) : Option Src :=
  if h : x < 48 then some (.reg ⟨x, h⟩)
  else if h : x - 48 < 8 then some (.latch ⟨x - 48, h⟩)
  else match x with
    | 56 => some .zero | 57 => some .one | 58 => some .lane | 59 => some .ones | 60 => some .widlo
    | 61 => some .neg1 | _ => none
/-- The source code of R104. -/
def encSrc : Src → Nat
  | .reg n => n.val | .latch k => 48 + k.val | .zero => 56 | .one => 57 | .lane => 58 | .ones => 59
  | .widlo => 60 | .neg1 => 61

/-- DST and NW of a result in the s or v file (R103). -/
def decDst (d n : Nat) : Option Dst :=
  if n = 1 then (if d = 0 then some none else none) else (decFin 48 d).map some
/-- The DST field. -/
def encDst : Dst → Nat | none => 0 | some d => d.val
/-- The NW bit. -/
def nwDst : Dst → Nat | none => 1 | some _ => 0
/-- DST and NW of a result in the predicate file. -/
def decPDst (d n : Nat) : Option PDst :=
  if n = 1 then (if d = 0 then some none else none) else (decFin 16 d).map some
/-- The DST field of a predicate result. -/
def encPDst : PDst → Nat | none => 0 | some d => d.val
/-- The NW bit of a predicate result. -/
def nwPDst : PDst → Nat | none => 1 | some _ => 0

/-- A bit. -/
def encBool (b : Bool) : Nat := if b then 1 else 0

/-- FMT 000 to 011 (R107). -/
def decIntW : Nat → Option IntW | 0 => some .i8 | 1 => some .i16 | 2 => some .i32 | 3 => some .i64 | _ => none
/-- FMT of an integer format. -/
def encIntW : IntW → Nat | .i8 => 0 | .i16 => 1 | .i32 => 2 | .i64 => 3
/-- FMT 100 to 111 (R107). -/
def decFFmt : Nat → Option FFmt | 4 => some .bf16 | 5 => some .f16 | 6 => some .f32 | 7 => some .f64 | _ => none
/-- FMT of a floating format. -/
def encFFmt : FFmt → Nat | .bf16 => 4 | .f16 => 5 | .f32 => 6 | .f64 => 7
/-- FMT (R107). -/
def decFmt (x : Nat) : Option Fmt := if x < 4 then (decIntW x).map .int else (decFFmt x).map .flt
/-- FMT of a format. -/
def encFmt : Fmt → Nat | .int w => encIntW w | .flt f => encFFmt f

/-- MOD of ADD, SUB and MUL (R109): SAT and SATU together are reserved. -/
def decSat : Nat → Option Sat | 0 => some .none | 1 => some .sat | 2 => some .satu | _ => none
/-- MOD of a saturation. -/
def encSat : Sat → Nat | .none => 0 | .sat => 1 | .satu => 2
/-- A rounding mode's two bits (R84). -/
def decRMode : Nat → RMode | 0 => .rne | 1 => .rtz | 2 => .rup | _ => .rdn
/-- MODE of a rounding mode. -/
def encRMode : RMode → Nat | .rne => 0 | .rtz => 1 | .rup => 2 | .rdn => 3
/-- RQ above MODE (R109, R111); a bit above RQ is reserved. -/
def decRq (x : Nat) : Option Rq := if x < 8 then some ⟨decide (x / 4 = 1), decRMode (x % 4)⟩ else none
/-- RQ above MODE. -/
def encRq (r : Rq) : Nat := 4 * encBool r.rq + encRMode r.mode
/-- COND 0 to 11 (R109). -/
def decCond : Nat → Option Cond
  | 0 => some .eq | 1 => some .ne | 2 => some .lt | 3 => some .le | 4 => some .gt | 5 => some .ge | 6 => some .ltu
  | 7 => some .leu | 8 => some .gtu | 9 => some .geu | 10 => some .un | 11 => some .ord | _ => none
/-- The COND of a condition. -/
def encCond : Cond → Nat
  | .eq => 0 | .ne => 1 | .lt => 2 | .le => 3 | .gt => 4 | .ge => 5 | .ltu => 6 | .leu => 7 | .gtu => 8 | .geu => 9
  | .un => 10 | .ord => 11
/-- REG[5:4] of BP (R108). -/
def decBpTest : Nat → Option BpTest
  | 0 => some .any | 1 => some .all | 2 => some .none | 3 => some .lane0 | _ => none
/-- REG[5:4] of a test. -/
def encBpTest : BpTest → Nat | .any => 0 | .all => 1 | .none => 2 | .lane0 => 3
/-- DST[5:3] of AWR (R153): a part of 3 and a set DST[5] are reserved. -/
def decAwrPart : Nat → Option AwrPart | 0 => some .base | 1 => some .stride | 2 => some .count | _ => none
/-- DST[4:3] of a part. -/
def encAwrPart : AwrPart → Nat | .base => 0 | .stride => 1 | .count => 2
/-- A and D of PPACK and PUNPK: 0 or 8 (R173). -/
def decOct : Nat → Option OctBase | 0 => some .p0 | 8 => some .p8 | _ => none
/-- The number of the first predicate. -/
def encOct : OctBase → Nat | .p0 => 0 | .p8 => 8
/-- IDX8 of MZERO (R197). -/
def decTileMode : Nat → Option TileMode | 0 => some .fp32 | 1 => some .int32 | 2 => some .fp64 | _ => none
/-- IDX8 of a tile mode. -/
def encTileMode : TileMode → Nat | .fp32 => 0 | .int32 => 1 | .fp64 => 2

/-- The modifier word of a VA syllable from XIMM (R110): MODE in [1:0], RQ in [2], SAT in [3], SATU in [4] and
IMM11 in [15:5] of XIMM. SAT and SATU together are reserved. -/
def decVMod : Option (BitVec 16) → Option (Option VMod)
  | none => some none
  | some x => (decSat (x.toNat / 8 % 4)).map fun s =>
      some ⟨BitVec.ofNat 11 (x.toNat / 32), s, ⟨decide (x.toNat / 4 % 2 = 1), decRMode (x.toNat % 4)⟩⟩
/-- XIMM of a modifier word. -/
def encVMod : Option VMod → Option (BitVec 16)
  | none => none
  | some m => some (BitVec.ofNat 16 (32 * m.imm11.toNat + 8 * encSat m.sat + encRq m.rq))
/-- SRCB of the instructions of R116. -/
def decEnB (x : Option (BitVec 16)) (b : Nat) : Option EnB :=
  match x with
  | none => (decSrc b).map .src
  | some h => some (.imm (BitVec.ofNat 6 b) h)
/-- The SRCB field. -/
def encEnB : EnB → Nat | .src b => encSrc b | .imm lo _ => lo.toNat
/-- XIMM of an extended SRCB. -/
def EnB.ext : EnB → Option (BitVec 16) | .src _ => none | .imm _ hi => some hi

/-- Reads ADD from its syllable. -/
def dec_add (u : SUnit) (w : Nat) (x : Option (BitVec 16)) : Option Instr := do
  let fl := RFields.of w
  let d ← decDst fl.d fl.n
  let a ← decSrc (fl.a)
  let b ← decSrc (fl.b)
  let sat ← decSat (fl.m)
  let w ← decIntW (fl.f)
  guard (x = none)
  return .add u d a b w sat

/-- Reads ADD_IMM from its syllable. -/
def dec_addImm (u : SUnit) (w0 : Nat) (x : Option (BitVec 16)) : Option Instr := do
  let fl := RFields.of w0
  let d ← decDst fl.d (w0 / 8 % 2)
  guard (w0 / 4 % 2 = 1)
  let w ← decIntW (w0 % 4)
  return .addImm u d ⟨BitVec.ofNat 16 (w0 / 16), x⟩ w

/-- Reads SUB from its syllable. -/
def dec_sub (u : SUnit) (w : Nat) (x : Option (BitVec 16)) : Option Instr := do
  let fl := RFields.of w
  let d ← decDst fl.d fl.n
  let a ← decSrc (fl.a)
  let b ← decSrc (fl.b)
  let sat ← decSat (fl.m)
  let w ← decIntW (fl.f)
  guard (x = none)
  return .sub u d a b w sat

/-- Reads SUB_IMM from its syllable. -/
def dec_subImm (u : SUnit) (w0 : Nat) (x : Option (BitVec 16)) : Option Instr := do
  let fl := RFields.of w0
  let d ← decDst fl.d (w0 / 8 % 2)
  guard (w0 / 4 % 2 = 1)
  let w ← decIntW (w0 % 4)
  return .subImm u d ⟨BitVec.ofNat 16 (w0 / 16), x⟩ w

/-- Reads MUL from its syllable. -/
def dec_mul (u : SUnit) (w : Nat) (x : Option (BitVec 16)) : Option Instr := do
  let fl := RFields.of w
  let d ← decDst fl.d fl.n
  let a ← decSrc (fl.a)
  let b ← decSrc (fl.b)
  let sat ← decSat (fl.m)
  let w ← decIntW (fl.f)
  guard (x = none)
  return .mul u d a b w sat

/-- Reads MUL_IMM from its syllable. -/
def dec_mulImm (u : SUnit) (w0 : Nat) (x : Option (BitVec 16)) : Option Instr := do
  let fl := RFields.of w0
  let d ← decDst fl.d (w0 / 8 % 2)
  guard (w0 / 4 % 2 = 1)
  let w ← decIntW (w0 % 4)
  return .mulImm u d ⟨BitVec.ofNat 16 (w0 / 16), x⟩ w

/-- Reads MULH from its syllable. -/
def dec_mulh (u : SUnit) (w : Nat) (x : Option (BitVec 16)) : Option Instr := do
  let fl := RFields.of w
  let d ← decDst fl.d fl.n
  let a ← decSrc (fl.a)
  let b ← decSrc (fl.b)
  guard (fl.m = 0)
  let w ← decIntW (fl.f)
  guard (x = none)
  return .mulh u d a b w

/-- Reads MULHU from its syllable. -/
def dec_mulhu (u : SUnit) (w : Nat) (x : Option (BitVec 16)) : Option Instr := do
  let fl := RFields.of w
  let d ← decDst fl.d fl.n
  let a ← decSrc (fl.a)
  let b ← decSrc (fl.b)
  guard (fl.m = 0)
  let w ← decIntW (fl.f)
  guard (x = none)
  return .mulhu u d a b w

/-- Reads AND from its syllable. -/
def dec_and (u : SUnit) (w : Nat) (x : Option (BitVec 16)) : Option Instr := do
  let fl := RFields.of w
  let d ← decDst fl.d fl.n
  let a ← decSrc (fl.a)
  let b ← decSrc (fl.b)
  guard (fl.m = 0)
  let w ← decIntW (fl.f)
  guard (x = none)
  return .and u d a b w

/-- Reads AND_IMM from its syllable. -/
def dec_andImm (u : SUnit) (w0 : Nat) (x : Option (BitVec 16)) : Option Instr := do
  let fl := RFields.of w0
  let d ← decDst fl.d (w0 / 8 % 2)
  guard (w0 / 4 % 2 = 1)
  let w ← decIntW (w0 % 4)
  return .andImm u d ⟨BitVec.ofNat 16 (w0 / 16), x⟩ w

/-- Reads OR from its syllable. -/
def dec_or (u : SUnit) (w : Nat) (x : Option (BitVec 16)) : Option Instr := do
  let fl := RFields.of w
  let d ← decDst fl.d fl.n
  let a ← decSrc (fl.a)
  let b ← decSrc (fl.b)
  guard (fl.m = 0)
  let w ← decIntW (fl.f)
  guard (x = none)
  return .or u d a b w

/-- Reads OR_IMM from its syllable. -/
def dec_orImm (u : SUnit) (w0 : Nat) (x : Option (BitVec 16)) : Option Instr := do
  let fl := RFields.of w0
  let d ← decDst fl.d (w0 / 8 % 2)
  guard (w0 / 4 % 2 = 1)
  let w ← decIntW (w0 % 4)
  return .orImm u d ⟨BitVec.ofNat 16 (w0 / 16), x⟩ w

/-- Reads XOR from its syllable. -/
def dec_xor (u : SUnit) (w : Nat) (x : Option (BitVec 16)) : Option Instr := do
  let fl := RFields.of w
  let d ← decDst fl.d fl.n
  let a ← decSrc (fl.a)
  let b ← decSrc (fl.b)
  guard (fl.m = 0)
  let w ← decIntW (fl.f)
  guard (x = none)
  return .xor u d a b w

/-- Reads XOR_IMM from its syllable. -/
def dec_xorImm (u : SUnit) (w0 : Nat) (x : Option (BitVec 16)) : Option Instr := do
  let fl := RFields.of w0
  let d ← decDst fl.d (w0 / 8 % 2)
  guard (w0 / 4 % 2 = 1)
  let w ← decIntW (w0 % 4)
  return .xorImm u d ⟨BitVec.ofNat 16 (w0 / 16), x⟩ w

/-- Reads ANDN from its syllable. -/
def dec_andn (u : SUnit) (w : Nat) (x : Option (BitVec 16)) : Option Instr := do
  let fl := RFields.of w
  let d ← decDst fl.d fl.n
  let a ← decSrc (fl.a)
  let b ← decSrc (fl.b)
  guard (fl.m = 0)
  let w ← decIntW (fl.f)
  guard (x = none)
  return .andn u d a b w

/-- Reads ANDN_IMM from its syllable. -/
def dec_andnImm (u : SUnit) (w0 : Nat) (x : Option (BitVec 16)) : Option Instr := do
  let fl := RFields.of w0
  let d ← decDst fl.d (w0 / 8 % 2)
  guard (w0 / 4 % 2 = 1)
  let w ← decIntW (w0 % 4)
  return .andnImm u d ⟨BitVec.ofNat 16 (w0 / 16), x⟩ w

/-- Reads SHL from its syllable. -/
def dec_shl (u : SUnit) (w : Nat) (x : Option (BitVec 16)) : Option Instr := do
  let fl := RFields.of w
  let d ← decDst fl.d fl.n
  let a ← decSrc (fl.a)
  let b ← decSrc (fl.b)
  guard (fl.m = 0)
  let w ← decIntW (fl.f)
  guard (x = none)
  return .shl u d a b w

/-- Reads SHL_IMM from its syllable. -/
def dec_shlImm (u : SUnit) (w0 : Nat) (x : Option (BitVec 16)) : Option Instr := do
  let fl := RFields.of w0
  let d ← decDst fl.d (w0 / 8 % 2)
  guard (w0 / 4 % 2 = 1)
  let w ← decIntW (w0 % 4)
  return .shlImm u d ⟨BitVec.ofNat 16 (w0 / 16), x⟩ w

/-- Reads SHR from its syllable. -/
def dec_shr (u : SUnit) (w : Nat) (x : Option (BitVec 16)) : Option Instr := do
  let fl := RFields.of w
  let d ← decDst fl.d fl.n
  let a ← decSrc (fl.a)
  let b ← decSrc (fl.b)
  guard (fl.m = 0)
  let w ← decIntW (fl.f)
  guard (x = none)
  return .shr u d a b w

/-- Reads SHR_IMM from its syllable. -/
def dec_shrImm (u : SUnit) (w0 : Nat) (x : Option (BitVec 16)) : Option Instr := do
  let fl := RFields.of w0
  let d ← decDst fl.d (w0 / 8 % 2)
  guard (w0 / 4 % 2 = 1)
  let w ← decIntW (w0 % 4)
  return .shrImm u d ⟨BitVec.ofNat 16 (w0 / 16), x⟩ w

/-- Reads SRA from its syllable. -/
def dec_sra (u : SUnit) (w : Nat) (x : Option (BitVec 16)) : Option Instr := do
  let fl := RFields.of w
  let d ← decDst fl.d fl.n
  let a ← decSrc (fl.a)
  let b ← decSrc (fl.b)
  guard (fl.m = 0)
  let w ← decIntW (fl.f)
  guard (x = none)
  return .sra u d a b w

/-- Reads SRA_IMM from its syllable. -/
def dec_sraImm (u : SUnit) (w0 : Nat) (x : Option (BitVec 16)) : Option Instr := do
  let fl := RFields.of w0
  let d ← decDst fl.d (w0 / 8 % 2)
  guard (w0 / 4 % 2 = 1)
  let w ← decIntW (w0 % 4)
  return .sraImm u d ⟨BitVec.ofNat 16 (w0 / 16), x⟩ w

/-- Reads ROT from its syllable. -/
def dec_rot (u : SUnit) (w : Nat) (x : Option (BitVec 16)) : Option Instr := do
  let fl := RFields.of w
  let d ← decDst fl.d fl.n
  let a ← decSrc (fl.a)
  let b ← decSrc (fl.b)
  guard (fl.m = 0)
  let w ← decIntW (fl.f)
  guard (x = none)
  return .rot u d a b w

/-- Reads ROT_IMM from its syllable. -/
def dec_rotImm (u : SUnit) (w0 : Nat) (x : Option (BitVec 16)) : Option Instr := do
  let fl := RFields.of w0
  let d ← decDst fl.d (w0 / 8 % 2)
  guard (w0 / 4 % 2 = 1)
  let w ← decIntW (w0 % 4)
  return .rotImm u d ⟨BitVec.ofNat 16 (w0 / 16), x⟩ w

/-- Reads MIN from its syllable. -/
def dec_min (u : SUnit) (w : Nat) (x : Option (BitVec 16)) : Option Instr := do
  let fl := RFields.of w
  let d ← decDst fl.d fl.n
  let a ← decSrc (fl.a)
  let b ← decSrc (fl.b)
  guard (fl.m = 0)
  let w ← decIntW (fl.f)
  guard (x = none)
  return .min u d a b w

/-- Reads MIN_IMM from its syllable. -/
def dec_minImm (u : SUnit) (w0 : Nat) (x : Option (BitVec 16)) : Option Instr := do
  let fl := RFields.of w0
  let d ← decDst fl.d (w0 / 8 % 2)
  guard (w0 / 4 % 2 = 1)
  let w ← decIntW (w0 % 4)
  return .minImm u d ⟨BitVec.ofNat 16 (w0 / 16), x⟩ w

/-- Reads MAX from its syllable. -/
def dec_max (u : SUnit) (w : Nat) (x : Option (BitVec 16)) : Option Instr := do
  let fl := RFields.of w
  let d ← decDst fl.d fl.n
  let a ← decSrc (fl.a)
  let b ← decSrc (fl.b)
  guard (fl.m = 0)
  let w ← decIntW (fl.f)
  guard (x = none)
  return .max u d a b w

/-- Reads MAX_IMM from its syllable. -/
def dec_maxImm (u : SUnit) (w0 : Nat) (x : Option (BitVec 16)) : Option Instr := do
  let fl := RFields.of w0
  let d ← decDst fl.d (w0 / 8 % 2)
  guard (w0 / 4 % 2 = 1)
  let w ← decIntW (w0 % 4)
  return .maxImm u d ⟨BitVec.ofNat 16 (w0 / 16), x⟩ w

/-- Reads MINU from its syllable. -/
def dec_minu (u : SUnit) (w : Nat) (x : Option (BitVec 16)) : Option Instr := do
  let fl := RFields.of w
  let d ← decDst fl.d fl.n
  let a ← decSrc (fl.a)
  let b ← decSrc (fl.b)
  guard (fl.m = 0)
  let w ← decIntW (fl.f)
  guard (x = none)
  return .minu u d a b w

/-- Reads MINU_IMM from its syllable. -/
def dec_minuImm (u : SUnit) (w0 : Nat) (x : Option (BitVec 16)) : Option Instr := do
  let fl := RFields.of w0
  let d ← decDst fl.d (w0 / 8 % 2)
  guard (w0 / 4 % 2 = 1)
  let w ← decIntW (w0 % 4)
  return .minuImm u d ⟨BitVec.ofNat 16 (w0 / 16), x⟩ w

/-- Reads MAXU from its syllable. -/
def dec_maxu (u : SUnit) (w : Nat) (x : Option (BitVec 16)) : Option Instr := do
  let fl := RFields.of w
  let d ← decDst fl.d fl.n
  let a ← decSrc (fl.a)
  let b ← decSrc (fl.b)
  guard (fl.m = 0)
  let w ← decIntW (fl.f)
  guard (x = none)
  return .maxu u d a b w

/-- Reads MAXU_IMM from its syllable. -/
def dec_maxuImm (u : SUnit) (w0 : Nat) (x : Option (BitVec 16)) : Option Instr := do
  let fl := RFields.of w0
  let d ← decDst fl.d (w0 / 8 % 2)
  guard (w0 / 4 % 2 = 1)
  let w ← decIntW (w0 % 4)
  return .maxuImm u d ⟨BitVec.ofNat 16 (w0 / 16), x⟩ w

/-- Reads CLZ from its syllable. -/
def dec_clz (u : SUnit) (w : Nat) (x : Option (BitVec 16)) : Option Instr := do
  let fl := RFields.of w
  let d ← decDst fl.d fl.n
  let a ← decSrc (fl.a)
  guard (fl.b = 0)
  guard (fl.m = 0)
  let w ← decIntW (fl.f)
  guard (x = none)
  return .clz u d a w

/-- Reads CTZ from its syllable. -/
def dec_ctz (u : SUnit) (w : Nat) (x : Option (BitVec 16)) : Option Instr := do
  let fl := RFields.of w
  let d ← decDst fl.d fl.n
  let a ← decSrc (fl.a)
  guard (fl.b = 0)
  guard (fl.m = 0)
  let w ← decIntW (fl.f)
  guard (x = none)
  return .ctz u d a w

/-- Reads POPC from its syllable. -/
def dec_popc (u : SUnit) (w : Nat) (x : Option (BitVec 16)) : Option Instr := do
  let fl := RFields.of w
  let d ← decDst fl.d fl.n
  let a ← decSrc (fl.a)
  guard (fl.b = 0)
  guard (fl.m = 0)
  let w ← decIntW (fl.f)
  guard (x = none)
  return .popc u d a w

/-- Reads SEXT from its syllable. -/
def dec_sext (u : SUnit) (w : Nat) (x : Option (BitVec 16)) : Option Instr := do
  let fl := RFields.of w
  let d ← decDst fl.d fl.n
  let a ← decSrc (fl.a)
  guard (fl.b = 0)
  guard (fl.m = 0)
  let w ← decIntW (fl.f)
  guard (x = none)
  return .sext u d a w

/-- Reads ZEXT from its syllable. -/
def dec_zext (u : SUnit) (w : Nat) (x : Option (BitVec 16)) : Option Instr := do
  let fl := RFields.of w
  let d ← decDst fl.d fl.n
  let a ← decSrc (fl.a)
  guard (fl.b = 0)
  guard (fl.m = 0)
  let w ← decIntW (fl.f)
  guard (x = none)
  return .zext u d a w

/-- Reads BFX from its syllable. -/
def dec_bfx (u : SUnit) (w : Nat) (x : Option (BitVec 16)) : Option Instr := do
  let fl := RFields.of w
  let d ← decDst fl.d fl.n
  let a ← decSrc (fl.a)
  let b ← decSrc (fl.b)
  guard (fl.m = 0)
  guard (fl.f = 3)
  guard (x = none)
  return .bfx u d a b

/-- Reads BFI from its syllable. -/
def dec_bfi (u : SUnit) (w : Nat) (x : Option (BitVec 16)) : Option Instr := do
  let fl := RFields.of w
  let d ← decDst fl.d fl.n
  let a ← decSrc (fl.a)
  let b ← decSrc (fl.b)
  guard (fl.m = 0)
  guard (fl.f = 3)
  guard (x = none)
  return .bfi u d a b

/-- Reads SEL from its syllable. -/
def dec_sel (u : SUnit) (w : Nat) (x : Option (BitVec 16)) : Option Instr := do
  let fl := RFields.of w
  let d ← decDst fl.d fl.n
  let a ← decSrc (fl.a)
  let b ← decSrc (fl.b)
  guard (fl.m = 0)
  let w ← decIntW (fl.f)
  guard (x = none)
  return .sel u d a b w

/-- Reads MOV from its syllable. -/
def dec_mov (u : SUnit) (w : Nat) (x : Option (BitVec 16)) : Option Instr := do
  let fl := RFields.of w
  let d ← decDst fl.d fl.n
  let a ← decSrc (fl.a)
  guard (fl.b = 0)
  guard (fl.m = 0)
  let w ← decIntW (fl.f)
  guard (x = none)
  return .mov u d a w

/-- Reads MOVI from its syllable. -/
def dec_movi (u : SUnit) (w0 : Nat) (x : Option (BitVec 16)) : Option Instr := do
  let fl := RFields.of w0
  let d ← decDst fl.d (w0 / 8 % 2)
  guard (w0 / 4 % 2 = 1)
  let w ← decIntW (w0 % 4)
  return .movi u d ⟨BitVec.ofNat 16 (w0 / 16), x⟩ w

/-- Reads MOVHI from its syllable. -/
def dec_movhi (u : SUnit) (w0 : Nat) (x : Option (BitVec 16)) : Option Instr := do
  let fl := RFields.of w0
  let d ← decDst fl.d (w0 / 8 % 2)
  guard (w0 % 8 = 7)
  return .movhi u d ⟨BitVec.ofNat 16 (w0 / 16), x⟩

/-- Reads CMP from its syllable. -/
def dec_cmp (u : SUnit) (w : Nat) (x : Option (BitVec 16)) : Option Instr := do
  let fl := RFields.of w
  let d ← decDst fl.d fl.n
  let a ← decSrc (fl.a)
  let b ← decSrc (fl.b)
  let cond ← decCond (fl.m)
  let w ← decIntW (fl.f)
  guard (x = none)
  return .cmp u d a b w cond

/-- Reads SCHK from its syllable. -/
def dec_schk (u : SUnit) (w : Nat) (x : Option (BitVec 16)) : Option Instr := do
  let fl := RFields.of w
  guard (fl.d = 0)
  let a ← decSrc (fl.a)
  let b ← decSrc (fl.b)
  guard (fl.m = 0)
  guard (fl.f = 3)
  guard (fl.n = 0)
  guard (x = none)
  return .schk u a b

/-- Reads WFLD from its syllable. -/
def dec_wfld (u : SUnit) (w : Nat) (x : Option (BitVec 16)) : Option Instr := do
  let fl := RFields.of w
  let d ← decDst fl.d fl.n
  let a ← decSrc (fl.a)
  let level ← decFin 6 (fl.b)
  guard (fl.m = 0)
  guard (fl.f = 3)
  guard (x = none)
  return .wfld u d a level

/-- Reads FADD from its syllable. -/
def dec_fadd (u : SUnit) (w : Nat) (x : Option (BitVec 16)) : Option Instr := do
  let fl := RFields.of w
  let d ← decDst fl.d fl.n
  let a ← decSrc (fl.a)
  let b ← decSrc (fl.b)
  let rq ← decRq (fl.m)
  let f ← decFFmt (fl.f)
  guard (x = none)
  return .fadd u d a b f rq

/-- Reads FSUB from its syllable. -/
def dec_fsub (u : SUnit) (w : Nat) (x : Option (BitVec 16)) : Option Instr := do
  let fl := RFields.of w
  let d ← decDst fl.d fl.n
  let a ← decSrc (fl.a)
  let b ← decSrc (fl.b)
  let rq ← decRq (fl.m)
  let f ← decFFmt (fl.f)
  guard (x = none)
  return .fsub u d a b f rq

/-- Reads FMUL from its syllable. -/
def dec_fmul (u : SUnit) (w : Nat) (x : Option (BitVec 16)) : Option Instr := do
  let fl := RFields.of w
  let d ← decDst fl.d fl.n
  let a ← decSrc (fl.a)
  let b ← decSrc (fl.b)
  let rq ← decRq (fl.m)
  let f ← decFFmt (fl.f)
  guard (x = none)
  return .fmul u d a b f rq

/-- Reads FFMA from its syllable. -/
def dec_ffma (u : SUnit) (w : Nat) (x : Option (BitVec 16)) : Option Instr := do
  let fl := RFields.of w
  let d ← decDst fl.d fl.n
  let a ← decSrc (fl.a)
  let b ← decSrc (fl.b)
  let rq ← decRq (fl.m)
  let f ← decFFmt (fl.f)
  guard (x = none)
  return .ffma u d a b f rq

/-- Reads FMIN from its syllable. -/
def dec_fmin (u : SUnit) (w : Nat) (x : Option (BitVec 16)) : Option Instr := do
  let fl := RFields.of w
  let d ← decDst fl.d fl.n
  let a ← decSrc (fl.a)
  let b ← decSrc (fl.b)
  guard (fl.m = 0)
  let f ← decFFmt (fl.f)
  guard (x = none)
  return .fmin u d a b f

/-- Reads FMAX from its syllable. -/
def dec_fmax (u : SUnit) (w : Nat) (x : Option (BitVec 16)) : Option Instr := do
  let fl := RFields.of w
  let d ← decDst fl.d fl.n
  let a ← decSrc (fl.a)
  let b ← decSrc (fl.b)
  guard (fl.m = 0)
  let f ← decFFmt (fl.f)
  guard (x = none)
  return .fmax u d a b f

/-- Reads FABS from its syllable. -/
def dec_fabs (u : SUnit) (w : Nat) (x : Option (BitVec 16)) : Option Instr := do
  let fl := RFields.of w
  let d ← decDst fl.d fl.n
  let a ← decSrc (fl.a)
  guard (fl.b = 0)
  guard (fl.m = 0)
  let f ← decFFmt (fl.f)
  guard (x = none)
  return .fabs u d a f

/-- Reads FNEG from its syllable. -/
def dec_fneg (u : SUnit) (w : Nat) (x : Option (BitVec 16)) : Option Instr := do
  let fl := RFields.of w
  let d ← decDst fl.d fl.n
  let a ← decSrc (fl.a)
  guard (fl.b = 0)
  guard (fl.m = 0)
  let f ← decFFmt (fl.f)
  guard (x = none)
  return .fneg u d a f

/-- Reads FCMP from its syllable. -/
def dec_fcmp (u : SUnit) (w : Nat) (x : Option (BitVec 16)) : Option Instr := do
  let fl := RFields.of w
  let d ← decDst fl.d fl.n
  let a ← decSrc (fl.a)
  let b ← decSrc (fl.b)
  let cond ← decCond (fl.m)
  let f ← decFFmt (fl.f)
  guard (x = none)
  return .fcmp u d a b f cond

/-- Reads FCVT from its syllable. -/
def dec_fcvt (u : SUnit) (w : Nat) (x : Option (BitVec 16)) : Option Instr := do
  let fl := RFields.of w
  let d ← decDst fl.d fl.n
  let a ← decSrc (fl.a)
  let rq ← decRq (fl.b / 8)
  let src ← decFmt (fl.b % 8)
  guard (fl.m = 0)
  let res ← decFmt (fl.f)
  guard (x = none)
  return .fcvt u d a res src rq

/-- Reads FCLASS from its syllable. -/
def dec_fclass (u : SUnit) (w : Nat) (x : Option (BitVec 16)) : Option Instr := do
  let fl := RFields.of w
  let d ← decDst fl.d fl.n
  let a ← decSrc (fl.a)
  guard (fl.b = 0)
  guard (fl.m = 0)
  let f ← decFFmt (fl.f)
  guard (x = none)
  return .fclass u d a f

/-- Reads CTLR from its syllable. -/
def dec_ctlr (u : SUnit) (w : Nat) (x : Option (BitVec 16)) : Option Instr := do
  let fl := RFields.of w
  let d ← decDst fl.d fl.n
  guard (fl.a = 0)
  let c ← decFin 64 (fl.b)
  guard (fl.m = 0)
  guard (fl.f = 3)
  guard (x = none)
  return .ctlr u d c

/-- Reads CTLW from its syllable. -/
def dec_ctlw (u : SUnit) (w : Nat) (x : Option (BitVec 16)) : Option Instr := do
  let fl := RFields.of w
  guard (fl.d = 0)
  let a ← decSrc (fl.a)
  let c ← decFin 64 (fl.b)
  guard (fl.m = 0)
  guard (fl.f = 3)
  guard (fl.n = 0)
  guard (x = none)
  return .ctlw u a c

/-- Reads SHW from its syllable. -/
def dec_shw (u : SUnit) (w : Nat) (x : Option (BitVec 16)) : Option Instr := do
  let fl := RFields.of w
  let h ← decFin 16 (fl.d)
  let a ← decSrc (fl.a)
  let field ← decFin 28 (fl.b)
  guard (fl.m = 0)
  let fmt ← decFin 1 (fl.f)
  guard (fl.n = 0)
  guard (x = none)
  return .shw u h a field fmt

/-- Reads MPW from its syllable. -/
def dec_mpw (u : SUnit) (w : Nat) (x : Option (BitVec 16)) : Option Instr := do
  let fl := RFields.of w
  let m ← decFin 8 (fl.d)
  let a ← decSrc (fl.a)
  guard (fl.b = 0)
  guard (fl.m = 0)
  guard (fl.f = 3)
  guard (fl.n = 0)
  guard (x = none)
  return .mpw u m a

/-- Reads AWR from its syllable. -/
def dec_awr (u : SUnit) (w : Nat) (x : Option (BitVec 16)) : Option Instr := do
  let fl := RFields.of w
  let r ← decFin 8 (fl.d % 8)
  let part ← decAwrPart (fl.d / 8)
  let a ← decSrc (fl.a)
  guard (fl.b = 0)
  guard (fl.m = 0)
  guard (fl.f = 3)
  guard (fl.n = 0)
  guard (x = none)
  return .awr u r part a

/-- The codes 0x00 to 0x2F that SA and SB share (R108, R118): `none` where the code is empty (ILLEGAL_OPCODE), `some none`
where the encoding is reserved. -/
def decScalar (u : SUnit) (w : Nat) (x : Option (BitVec 16)) : Option (Option Instr) :=
  match w / 67108864 with
  | 0 => some (if w / 4 % 2 = 1 then dec_addImm u w x else dec_add u w x)
  | 1 => some (if w / 4 % 2 = 1 then dec_subImm u w x else dec_sub u w x)
  | 2 => some (if w / 4 % 2 = 1 then dec_mulImm u w x else dec_mul u w x)
  | 3 => some (dec_mulh u w x)
  | 4 => some (dec_mulhu u w x)
  | 5 => some (if w / 4 % 2 = 1 then dec_andImm u w x else dec_and u w x)
  | 6 => some (if w / 4 % 2 = 1 then dec_orImm u w x else dec_or u w x)
  | 7 => some (if w / 4 % 2 = 1 then dec_xorImm u w x else dec_xor u w x)
  | 8 => some (if w / 4 % 2 = 1 then dec_andnImm u w x else dec_andn u w x)
  | 9 => some (if w / 4 % 2 = 1 then dec_shlImm u w x else dec_shl u w x)
  | 10 => some (if w / 4 % 2 = 1 then dec_shrImm u w x else dec_shr u w x)
  | 11 => some (if w / 4 % 2 = 1 then dec_sraImm u w x else dec_sra u w x)
  | 12 => some (if w / 4 % 2 = 1 then dec_rotImm u w x else dec_rot u w x)
  | 13 => some (if w / 4 % 2 = 1 then dec_minImm u w x else dec_min u w x)
  | 14 => some (if w / 4 % 2 = 1 then dec_maxImm u w x else dec_max u w x)
  | 15 => some (if w / 4 % 2 = 1 then dec_minuImm u w x else dec_minu u w x)
  | 16 => some (if w / 4 % 2 = 1 then dec_maxuImm u w x else dec_maxu u w x)
  | 17 => some (dec_clz u w x)
  | 18 => some (dec_ctz u w x)
  | 19 => some (dec_popc u w x)
  | 20 => some (dec_sext u w x)
  | 21 => some (dec_zext u w x)
  | 22 => some (dec_bfx u w x)
  | 23 => some (dec_bfi u w x)
  | 24 => some (dec_sel u w x)
  | 25 => some (dec_mov u w x)
  | 26 => some (dec_movi u w x)
  | 27 => some (dec_movhi u w x)
  | 28 => some (dec_cmp u w x)
  | 29 => some (dec_schk u w x)
  | 30 => some (dec_wfld u w x)
  | 32 => some (dec_fadd u w x)
  | 33 => some (dec_fsub u w x)
  | 34 => some (dec_fmul u w x)
  | 35 => some (dec_ffma u w x)
  | 36 => some (dec_fmin u w x)
  | 37 => some (dec_fmax u w x)
  | 38 => some (dec_fabs u w x)
  | 39 => some (dec_fneg u w x)
  | 40 => some (dec_fcmp u w x)
  | 41 => some (dec_fcvt u w x)
  | 42 => some (dec_fclass u w x)
  | 43 => some (dec_ctlr u w x)
  | 44 => some (dec_ctlw u w x)
  | 45 => some (dec_shw u w x)
  | 46 => some (dec_mpw u w x)
  | 47 => some (dec_awr u w x)
  | _ => none

/-- Reads DIV from its syllable. -/
def dec_div (w : Nat) (x : Option (BitVec 16)) : Option Instr := do
  let fl := RFields.of w
  let d ← decDst fl.d fl.n
  let a ← decSrc (fl.a)
  let b ← decSrc (fl.b)
  guard (fl.m = 0)
  let w ← decIntW (fl.f)
  guard (x = none)
  return .div d a b w

/-- Reads DIVU from its syllable. -/
def dec_divu (w : Nat) (x : Option (BitVec 16)) : Option Instr := do
  let fl := RFields.of w
  let d ← decDst fl.d fl.n
  let a ← decSrc (fl.a)
  let b ← decSrc (fl.b)
  guard (fl.m = 0)
  let w ← decIntW (fl.f)
  guard (x = none)
  return .divu d a b w

/-- Reads REM from its syllable. -/
def dec_rem (w : Nat) (x : Option (BitVec 16)) : Option Instr := do
  let fl := RFields.of w
  let d ← decDst fl.d fl.n
  let a ← decSrc (fl.a)
  let b ← decSrc (fl.b)
  guard (fl.m = 0)
  let w ← decIntW (fl.f)
  guard (x = none)
  return .rem d a b w

/-- Reads REMU from its syllable. -/
def dec_remu (w : Nat) (x : Option (BitVec 16)) : Option Instr := do
  let fl := RFields.of w
  let d ← decDst fl.d fl.n
  let a ← decSrc (fl.a)
  let b ← decSrc (fl.b)
  guard (fl.m = 0)
  let w ← decIntW (fl.f)
  guard (x = none)
  return .remu d a b w

/-- Reads FDIV from its syllable. -/
def dec_fdiv (w : Nat) (x : Option (BitVec 16)) : Option Instr := do
  let fl := RFields.of w
  let d ← decDst fl.d fl.n
  let a ← decSrc (fl.a)
  let b ← decSrc (fl.b)
  let rq ← decRq (fl.m)
  let f ← decFFmt (fl.f)
  guard (x = none)
  return .fdiv d a b f rq

/-- Reads FSQRT from its syllable. -/
def dec_fsqrt (w : Nat) (x : Option (BitVec 16)) : Option Instr := do
  let fl := RFields.of w
  let d ← decDst fl.d fl.n
  let a ← decSrc (fl.a)
  guard (fl.b = 0)
  let rq ← decRq (fl.m)
  let f ← decFFmt (fl.f)
  guard (x = none)
  return .fsqrt d a f rq

/-- Reads YIELD from its syllable. -/
def dec_yield (w : Nat) (x : Option (BitVec 16)) : Option Instr := do
  let fl := RFields.of w
  guard (fl.d = 0)
  guard (fl.a = 0)
  guard (fl.b = 0)
  guard (fl.m = 0)
  guard (fl.f = 0)
  guard (fl.n = 0)
  guard (x = none)
  return .yield 

/-- Reads LOOP from its syllable. -/
def dec_loop (w : Nat) (x : Option (BitVec 16)) : Option Instr := do
  let fl := RFields.of w
  let count ← decSrc (fl.d)
  guard (w % 16 = 0)
  return .loop count ⟨BitVec.ofNat 16 (w / 16), x⟩

/-- Reads BR from its syllable. -/
def dec_br (w : Nat) (x : Option (BitVec 16)) : Option Instr := do
  let fl := RFields.of w
  guard (fl.d = 0)
  guard (w % 16 = 0)
  return .br ⟨BitVec.ofNat 16 (w / 16), x⟩

/-- Reads BZ from its syllable. -/
def dec_bz (w : Nat) (x : Option (BitVec 16)) : Option Instr := do
  let fl := RFields.of w
  let r ← decSrc (fl.d)
  guard (w % 16 = 0)
  return .bz r ⟨BitVec.ofNat 16 (w / 16), x⟩

/-- Reads BNZ from its syllable. -/
def dec_bnz (w : Nat) (x : Option (BitVec 16)) : Option Instr := do
  let fl := RFields.of w
  let r ← decSrc (fl.d)
  guard (w % 16 = 0)
  return .bnz r ⟨BitVec.ofNat 16 (w / 16), x⟩

/-- Reads BP from its syllable. -/
def dec_bp (w : Nat) (x : Option (BitVec 16)) : Option Instr := do
  let fl := RFields.of w
  let p ← decFin 16 (fl.d % 16)
  let test ← decBpTest (fl.d / 16)
  guard (w % 16 = 0)
  return .bp p test ⟨BitVec.ofNat 16 (w / 16), x⟩

/-- Reads JMP from its syllable. -/
def dec_jmp (w : Nat) (x : Option (BitVec 16)) : Option Instr := do
  let fl := RFields.of w
  guard (fl.d = 0)
  let a ← decSrc (fl.a)
  guard (fl.b = 0)
  guard (fl.m = 0)
  let fmt ← decFin 1 (fl.f)
  guard (fl.n = 0)
  guard (x = none)
  return .jmp a fmt

/-- Reads CALL from its syllable. -/
def dec_call (w : Nat) (x : Option (BitVec 16)) : Option Instr := do
  let fl := RFields.of w
  let d ← decFin 48 (fl.d)
  guard (w % 16 = 0)
  return .call d ⟨BitVec.ofNat 16 (w / 16), x⟩

/-- Reads CALLR from its syllable. -/
def dec_callr (w : Nat) (x : Option (BitVec 16)) : Option Instr := do
  let fl := RFields.of w
  let d ← decDst fl.d fl.n
  let a ← decSrc (fl.a)
  guard (fl.b = 0)
  guard (fl.m = 0)
  let fmt ← decFin 1 (fl.f)
  guard (x = none)
  return .callr d a fmt

/-- Reads RET from its syllable. -/
def dec_ret (w : Nat) (x : Option (BitVec 16)) : Option Instr := do
  let fl := RFields.of w
  guard (fl.d = 0)
  let a ← decSrc (fl.a)
  guard (fl.b = 0)
  guard (fl.m = 0)
  let fmt ← decFin 1 (fl.f)
  guard (fl.n = 0)
  guard (x = none)
  return .ret a fmt

/-- The codes 0x30 to 0x3F of SB (R118): `none` where the code is empty (ILLEGAL_OPCODE), `some none` where the encoding is
reserved. -/
def decSB (w : Nat) (x : Option (BitVec 16)) : Option (Option Instr) :=
  match w / 67108864 with
  | 48 => some (dec_div w x)
  | 49 => some (dec_divu w x)
  | 50 => some (dec_rem w x)
  | 51 => some (dec_remu w x)
  | 52 => some (dec_fdiv w x)
  | 53 => some (dec_fsqrt w x)
  | 54 => some (dec_yield w x)
  | 55 => some (dec_loop w x)
  | 56 => some (dec_br w x)
  | 57 => some (dec_bz w x)
  | 58 => some (dec_bnz w x)
  | 59 => some (dec_bp w x)
  | 60 => some (dec_jmp w x)
  | 61 => some (dec_call w x)
  | 62 => some (dec_callr w x)
  | 63 => some (dec_ret w x)
  | _ => none

/-- Reads VADD from its syllable. -/
def dec_vadd (u : VUnit) (w : Nat) (x : Option (BitVec 16)) : Option Instr := do
  let fl := RFields.of w
  let d ← decDst fl.d fl.n
  let a ← decSrc (fl.a)
  let b ← decSrc (fl.b)
  let p ← decFin 16 (fl.m)
  let f ← decFmt (fl.f)
  let y ← decVMod x
  return .vadd u d a b p f y

/-- Reads VSUB from its syllable. -/
def dec_vsub (u : VUnit) (w : Nat) (x : Option (BitVec 16)) : Option Instr := do
  let fl := RFields.of w
  let d ← decDst fl.d fl.n
  let a ← decSrc (fl.a)
  let b ← decSrc (fl.b)
  let p ← decFin 16 (fl.m)
  let f ← decFmt (fl.f)
  let y ← decVMod x
  return .vsub u d a b p f y

/-- Reads VMUL from its syllable. -/
def dec_vmul (u : VUnit) (w : Nat) (x : Option (BitVec 16)) : Option Instr := do
  let fl := RFields.of w
  let d ← decDst fl.d fl.n
  let a ← decSrc (fl.a)
  let b ← decSrc (fl.b)
  let p ← decFin 16 (fl.m)
  let f ← decFmt (fl.f)
  let y ← decVMod x
  return .vmul u d a b p f y

/-- Reads VFMA from its syllable. -/
def dec_vfma (u : VUnit) (w : Nat) (x : Option (BitVec 16)) : Option Instr := do
  let fl := RFields.of w
  let d ← decDst fl.d fl.n
  let a ← decSrc (fl.a)
  let b ← decSrc (fl.b)
  let p ← decFin 16 (fl.m)
  let f ← decFmt (fl.f)
  let y ← decVMod x
  return .vfma u d a b p f y

/-- Reads VFMS from its syllable. -/
def dec_vfms (u : VUnit) (w : Nat) (x : Option (BitVec 16)) : Option Instr := do
  let fl := RFields.of w
  let d ← decDst fl.d fl.n
  let a ← decSrc (fl.a)
  let b ← decSrc (fl.b)
  let p ← decFin 16 (fl.m)
  let f ← decFmt (fl.f)
  let y ← decVMod x
  return .vfms u d a b p f y

/-- Reads VMULH from its syllable. -/
def dec_vmulh (u : VUnit) (w : Nat) (x : Option (BitVec 16)) : Option Instr := do
  let fl := RFields.of w
  let d ← decDst fl.d fl.n
  let a ← decSrc (fl.a)
  let b ← decSrc (fl.b)
  let p ← decFin 16 (fl.m)
  let w ← decIntW (fl.f)
  let y ← decVMod x
  return .vmulh u d a b p w y

/-- Reads VNEG from its syllable. -/
def dec_vneg (u : VUnit) (w : Nat) (x : Option (BitVec 16)) : Option Instr := do
  let fl := RFields.of w
  let d ← decDst fl.d fl.n
  let a ← decSrc (fl.a)
  guard (fl.b = 0)
  let p ← decFin 16 (fl.m)
  let f ← decFmt (fl.f)
  let y ← decVMod x
  return .vneg u d a p f y

/-- Reads VABS from its syllable. -/
def dec_vabs (u : VUnit) (w : Nat) (x : Option (BitVec 16)) : Option Instr := do
  let fl := RFields.of w
  let d ← decDst fl.d fl.n
  let a ← decSrc (fl.a)
  guard (fl.b = 0)
  let p ← decFin 16 (fl.m)
  let f ← decFmt (fl.f)
  let y ← decVMod x
  return .vabs u d a p f y

/-- Reads VMIN from its syllable. -/
def dec_vmin (u : VUnit) (w : Nat) (x : Option (BitVec 16)) : Option Instr := do
  let fl := RFields.of w
  let d ← decDst fl.d fl.n
  let a ← decSrc (fl.a)
  let b ← decSrc (fl.b)
  let p ← decFin 16 (fl.m)
  let f ← decFmt (fl.f)
  let y ← decVMod x
  return .vmin u d a b p f y

/-- Reads VMAX from its syllable. -/
def dec_vmax (u : VUnit) (w : Nat) (x : Option (BitVec 16)) : Option Instr := do
  let fl := RFields.of w
  let d ← decDst fl.d fl.n
  let a ← decSrc (fl.a)
  let b ← decSrc (fl.b)
  let p ← decFin 16 (fl.m)
  let f ← decFmt (fl.f)
  let y ← decVMod x
  return .vmax u d a b p f y

/-- Reads VDOT4 from its syllable. -/
def dec_vdot4 (u : VUnit) (w : Nat) (x : Option (BitVec 16)) : Option Instr := do
  let fl := RFields.of w
  let d ← decDst fl.d fl.n
  let a ← decSrc (fl.a)
  let b ← decSrc (fl.b)
  let p ← decFin 16 (fl.m)
  let w ← decIntW (fl.f)
  let y ← decVMod x
  return .vdot4 u d a b p w y

/-- Reads VAND from its syllable. -/
def dec_vand (u : VUnit) (w : Nat) (x : Option (BitVec 16)) : Option Instr := do
  let fl := RFields.of w
  let d ← decDst fl.d fl.n
  let a ← decSrc (fl.a)
  let b ← decSrc (fl.b)
  let p ← decFin 16 (fl.m)
  let w ← decIntW (fl.f)
  let y ← decVMod x
  return .vand u d a b p w y

/-- Reads VOR from its syllable. -/
def dec_vor (u : VUnit) (w : Nat) (x : Option (BitVec 16)) : Option Instr := do
  let fl := RFields.of w
  let d ← decDst fl.d fl.n
  let a ← decSrc (fl.a)
  let b ← decSrc (fl.b)
  let p ← decFin 16 (fl.m)
  let w ← decIntW (fl.f)
  let y ← decVMod x
  return .vor u d a b p w y

/-- Reads VXOR from its syllable. -/
def dec_vxor (u : VUnit) (w : Nat) (x : Option (BitVec 16)) : Option Instr := do
  let fl := RFields.of w
  let d ← decDst fl.d fl.n
  let a ← decSrc (fl.a)
  let b ← decSrc (fl.b)
  let p ← decFin 16 (fl.m)
  let w ← decIntW (fl.f)
  let y ← decVMod x
  return .vxor u d a b p w y

/-- Reads VANDN from its syllable. -/
def dec_vandn (u : VUnit) (w : Nat) (x : Option (BitVec 16)) : Option Instr := do
  let fl := RFields.of w
  let d ← decDst fl.d fl.n
  let a ← decSrc (fl.a)
  let b ← decSrc (fl.b)
  let p ← decFin 16 (fl.m)
  let w ← decIntW (fl.f)
  let y ← decVMod x
  return .vandn u d a b p w y

/-- Reads VSHL from its syllable. -/
def dec_vshl (u : VUnit) (w : Nat) (x : Option (BitVec 16)) : Option Instr := do
  let fl := RFields.of w
  let d ← decDst fl.d fl.n
  let a ← decSrc (fl.a)
  let b ← decSrc (fl.b)
  let p ← decFin 16 (fl.m)
  let w ← decIntW (fl.f)
  let y ← decVMod x
  return .vshl u d a b p w y

/-- Reads VSHR from its syllable. -/
def dec_vshr (u : VUnit) (w : Nat) (x : Option (BitVec 16)) : Option Instr := do
  let fl := RFields.of w
  let d ← decDst fl.d fl.n
  let a ← decSrc (fl.a)
  let b ← decSrc (fl.b)
  let p ← decFin 16 (fl.m)
  let w ← decIntW (fl.f)
  let y ← decVMod x
  return .vshr u d a b p w y

/-- Reads VSRA from its syllable. -/
def dec_vsra (u : VUnit) (w : Nat) (x : Option (BitVec 16)) : Option Instr := do
  let fl := RFields.of w
  let d ← decDst fl.d fl.n
  let a ← decSrc (fl.a)
  let b ← decSrc (fl.b)
  let p ← decFin 16 (fl.m)
  let w ← decIntW (fl.f)
  let y ← decVMod x
  return .vsra u d a b p w y

/-- Reads VCMP from its syllable. -/
def dec_vcmp (u : VUnit) (w : Nat) (x : Option (BitVec 16)) : Option Instr := do
  let fl := RFields.of w
  let d ← decPDst fl.d fl.n
  let a ← decSrc (fl.a)
  let b ← decSrc (fl.b)
  let cond ← decCond (fl.m)
  let f ← decFmt (fl.f)
  let y ← decVMod x
  return .vcmp u d a b cond f y

/-- Reads VSEL from its syllable. -/
def dec_vsel (u : VUnit) (w : Nat) (x : Option (BitVec 16)) : Option Instr := do
  let fl := RFields.of w
  let d ← decDst fl.d fl.n
  let a ← decSrc (fl.a)
  let b ← decSrc (fl.b)
  let p ← decFin 16 (fl.m)
  let f ← decFmt (fl.f)
  let y ← decVMod x
  return .vsel u d a b p f y

/-- Reads VMOV from its syllable. -/
def dec_vmov (u : VUnit) (w : Nat) (x : Option (BitVec 16)) : Option Instr := do
  let fl := RFields.of w
  let d ← decDst fl.d fl.n
  let a ← decSrc (fl.a)
  guard (fl.b = 0)
  let p ← decFin 16 (fl.m)
  let f ← decFmt (fl.f)
  let y ← decVMod x
  return .vmov u d a p f y

/-- Reads VBCAST from its syllable. -/
def dec_vbcast (u : VUnit) (w : Nat) (x : Option (BitVec 16)) : Option Instr := do
  let fl := RFields.of w
  let d ← decDst fl.d fl.n
  let a ← decSrc (fl.a)
  guard (fl.b = 0)
  let p ← decFin 16 (fl.m)
  let f ← decFmt (fl.f)
  let y ← decVMod x
  return .vbcast u d a p f y

/-- Reads VEXTR from its syllable. -/
def dec_vextr (u : VUnit) (w : Nat) (x : Option (BitVec 16)) : Option Instr := do
  let fl := RFields.of w
  let d ← decDst fl.d fl.n
  let a ← decSrc (fl.a)
  let b ← decSrc (fl.b)
  guard (fl.m = 0)
  let f ← decFmt (fl.f)
  let y ← decVMod x
  return .vextr u d a b f y

/-- Reads VINS from its syllable. -/
def dec_vins (u : VUnit) (w : Nat) (x : Option (BitVec 16)) : Option Instr := do
  let fl := RFields.of w
  let d ← decDst fl.d fl.n
  let a ← decSrc (fl.a)
  let b ← decSrc (fl.b)
  guard (fl.m = 0)
  let f ← decFmt (fl.f)
  let y ← decVMod x
  return .vins u d a b f y

/-- Reads VIOTA from its syllable. -/
def dec_viota (u : VUnit) (w : Nat) (x : Option (BitVec 16)) : Option Instr := do
  let fl := RFields.of w
  let d ← decDst fl.d fl.n
  let a ← decSrc (fl.a)
  let b ← decSrc (fl.b)
  let p ← decFin 16 (fl.m)
  let f ← decFmt (fl.f)
  let y ← decVMod x
  return .viota u d a b p f y

/-- Reads VCVT from its syllable. -/
def dec_vcvt (u : VUnit) (w : Nat) (x : Option (BitVec 16)) : Option Instr := do
  let fl := RFields.of w
  let d ← decDst fl.d fl.n
  let a ← decSrc (fl.a)
  let rq ← decRq (fl.b / 8)
  let src ← decFmt (fl.b % 8)
  let p ← decFin 16 (fl.m)
  let f ← decFmt (fl.f)
  let y ← decVMod x
  return .vcvt u d a src rq p f y

/-- Reads VBFPK from its syllable. -/
def dec_vbfpk (u : VUnit) (w : Nat) (x : Option (BitVec 16)) : Option Instr := do
  let fl := RFields.of w
  let d ← decDst fl.d fl.n
  let a ← decSrc (fl.a)
  let rq ← decRq (fl.b / 8)
  let wm1 ← decFin 8 (fl.b % 8)
  let p ← decFin 16 (fl.m)
  let f ← decFFmt (fl.f)
  let y ← decVMod x
  return .vbfpk u d a wm1 rq p f y

/-- Reads VBFUP from its syllable. -/
def dec_vbfup (u : VUnit) (w : Nat) (x : Option (BitVec 16)) : Option Instr := do
  let fl := RFields.of w
  let d ← decDst fl.d fl.n
  let a ← decSrc (fl.a)
  let rq ← decRq (fl.b / 8)
  let wm1 ← decFin 8 (fl.b % 8)
  let p ← decFin 16 (fl.m)
  let f ← decFFmt (fl.f)
  let y ← decVMod x
  return .vbfup u d a wm1 rq p f y

/-- Reads VPERM from its syllable. -/
def dec_vperm (u : VUnit) (w : Nat) (x : Option (BitVec 16)) : Option Instr := do
  let fl := RFields.of w
  let d ← decDst fl.d fl.n
  let a ← decSrc (fl.a)
  let b ← decSrc (fl.b)
  let p ← decFin 16 (fl.m)
  let w ← decIntW (fl.f)
  let y ← decVMod x
  return .vperm u d a b p w y

/-- Reads VSHUF from its syllable. -/
def dec_vshuf (u : VUnit) (w : Nat) (x : Option (BitVec 16)) : Option Instr := do
  let fl := RFields.of w
  let d ← decDst fl.d fl.n
  let a ← decSrc (fl.a)
  let b ← decSrc (fl.b)
  let p ← decFin 16 (fl.m)
  let w ← decIntW (fl.f)
  let y ← decVMod x
  return .vshuf u d a b p w y

/-- Reads VSLIDE from its syllable. -/
def dec_vslide (u : VUnit) (w : Nat) (x : Option (BitVec 16)) : Option Instr := do
  let fl := RFields.of w
  let d ← decDst fl.d fl.n
  let a ← decSrc (fl.a)
  let b ← decSrc (fl.b)
  let p ← decFin 16 (fl.m)
  let f ← decFmt (fl.f)
  let y ← decVMod x
  return .vslide u d a b p f y

/-- Reads VCOMPR from its syllable. -/
def dec_vcompr (u : VUnit) (w : Nat) (x : Option (BitVec 16)) : Option Instr := do
  let fl := RFields.of w
  let d ← decDst fl.d fl.n
  let a ← decSrc (fl.a)
  guard (fl.b = 0)
  let p ← decFin 16 (fl.m)
  let f ← decFmt (fl.f)
  let y ← decVMod x
  return .vcompr u d a p f y

/-- Reads VEXPAND from its syllable. -/
def dec_vexpand (u : VUnit) (w : Nat) (x : Option (BitVec 16)) : Option Instr := do
  let fl := RFields.of w
  let d ← decDst fl.d fl.n
  let a ← decSrc (fl.a)
  guard (fl.b = 0)
  let p ← decFin 16 (fl.m)
  let f ← decFmt (fl.f)
  let y ← decVMod x
  return .vexpand u d a p f y

/-- Reads VRSUM from its syllable. -/
def dec_vrsum (u : VUnit) (w : Nat) (x : Option (BitVec 16)) : Option Instr := do
  let fl := RFields.of w
  let d ← decDst fl.d fl.n
  let a ← decSrc (fl.a)
  guard (fl.b = 0)
  let p ← decFin 16 (fl.m)
  let f ← decFmt (fl.f)
  let y ← decVMod x
  return .vrsum u d a p f y

/-- Reads VRMAX from its syllable. -/
def dec_vrmax (u : VUnit) (w : Nat) (x : Option (BitVec 16)) : Option Instr := do
  let fl := RFields.of w
  let d ← decDst fl.d fl.n
  let a ← decSrc (fl.a)
  guard (fl.b = 0)
  let p ← decFin 16 (fl.m)
  let f ← decFmt (fl.f)
  let y ← decVMod x
  return .vrmax u d a p f y

/-- Reads VRMIN from its syllable. -/
def dec_vrmin (u : VUnit) (w : Nat) (x : Option (BitVec 16)) : Option Instr := do
  let fl := RFields.of w
  let d ← decDst fl.d fl.n
  let a ← decSrc (fl.a)
  guard (fl.b = 0)
  let p ← decFin 16 (fl.m)
  let f ← decFmt (fl.f)
  let y ← decVMod x
  return .vrmin u d a p f y

/-- Reads VSCAN from its syllable. -/
def dec_vscan (u : VUnit) (w : Nat) (x : Option (BitVec 16)) : Option Instr := do
  let fl := RFields.of w
  let d ← decDst fl.d fl.n
  let a ← decSrc (fl.a)
  guard (fl.b = 0)
  let p ← decFin 16 (fl.m)
  let f ← decFmt (fl.f)
  let y ← decVMod x
  return .vscan u d a p f y

/-- Reads VCHK from its syllable. -/
def dec_vchk (u : VUnit) (w : Nat) (x : Option (BitVec 16)) : Option Instr := do
  let fl := RFields.of w
  guard (fl.d = 0)
  let a ← decSrc (fl.a)
  let b ← decSrc (fl.b)
  let p ← decFin 16 (fl.m)
  let f ← decFmt (fl.f)
  guard (fl.n = 0)
  let y ← decVMod x
  return .vchk u a b p f y

/-- Reads PAND from its syllable. -/
def dec_pand (u : VUnit) (w : Nat) (x : Option (BitVec 16)) : Option Instr := do
  let fl := RFields.of w
  let d ← decPDst fl.d fl.n
  let a ← decFin 16 (fl.a)
  let b ← decFin 16 (fl.b)
  let p ← decFin 16 (fl.m)
  guard (fl.f = 0)
  let y ← decVMod x
  return .pand u d a b p y

/-- Reads POR from its syllable. -/
def dec_por (u : VUnit) (w : Nat) (x : Option (BitVec 16)) : Option Instr := do
  let fl := RFields.of w
  let d ← decPDst fl.d fl.n
  let a ← decFin 16 (fl.a)
  let b ← decFin 16 (fl.b)
  let p ← decFin 16 (fl.m)
  guard (fl.f = 0)
  let y ← decVMod x
  return .por u d a b p y

/-- Reads PXOR from its syllable. -/
def dec_pxor (u : VUnit) (w : Nat) (x : Option (BitVec 16)) : Option Instr := do
  let fl := RFields.of w
  let d ← decPDst fl.d fl.n
  let a ← decFin 16 (fl.a)
  let b ← decFin 16 (fl.b)
  let p ← decFin 16 (fl.m)
  guard (fl.f = 0)
  let y ← decVMod x
  return .pxor u d a b p y

/-- Reads PNOT from its syllable. -/
def dec_pnot (u : VUnit) (w : Nat) (x : Option (BitVec 16)) : Option Instr := do
  let fl := RFields.of w
  let d ← decPDst fl.d fl.n
  let a ← decFin 16 (fl.a)
  guard (fl.b = 0)
  let p ← decFin 16 (fl.m)
  guard (fl.f = 0)
  let y ← decVMod x
  return .pnot u d a p y

/-- Reads PCNT from its syllable. -/
def dec_pcnt (u : VUnit) (w : Nat) (x : Option (BitVec 16)) : Option Instr := do
  let fl := RFields.of w
  let d ← decDst fl.d fl.n
  let a ← decFin 16 (fl.a)
  guard (fl.b = 0)
  let p ← decFin 16 (fl.m)
  let w ← decIntW (fl.f)
  let y ← decVMod x
  return .pcnt u d a p w y

/-- Reads PFIRST from its syllable. -/
def dec_pfirst (u : VUnit) (w : Nat) (x : Option (BitVec 16)) : Option Instr := do
  let fl := RFields.of w
  let d ← decDst fl.d fl.n
  let a ← decFin 16 (fl.a)
  guard (fl.b = 0)
  let p ← decFin 16 (fl.m)
  let w ← decIntW (fl.f)
  let y ← decVMod x
  return .pfirst u d a p w y

/-- Reads PMOV from its syllable. -/
def dec_pmov (u : VUnit) (w : Nat) (x : Option (BitVec 16)) : Option Instr := do
  let fl := RFields.of w
  let d ← decPDst fl.d fl.n
  let a ← decFin 16 (fl.a)
  guard (fl.b = 0)
  let p ← decFin 16 (fl.m)
  guard (fl.f = 0)
  let y ← decVMod x
  return .pmov u d a p y

/-- Reads PPACK from its syllable. -/
def dec_ppack (u : VUnit) (w : Nat) (x : Option (BitVec 16)) : Option Instr := do
  let fl := RFields.of w
  let d ← decDst fl.d fl.n
  let a ← decOct (fl.a)
  guard (fl.b = 0)
  guard (fl.m = 0)
  guard (fl.f = 0)
  let y ← decVMod x
  return .ppack u d a y

/-- Reads PUNPK from its syllable. -/
def dec_punpk (u : VUnit) (w : Nat) (x : Option (BitVec 16)) : Option Instr := do
  let fl := RFields.of w
  let d ← decOct fl.d
  let nw ← some (decide (fl.n = 1))
  let a ← decSrc (fl.a)
  guard (fl.b = 0)
  guard (fl.m = 0)
  guard (fl.f = 0)
  let y ← decVMod x
  return .punpk u d nw a y

/-- The codes 0x00 to 0x30 that VA and VB share (R110, R119): `none` where the code is empty (ILLEGAL_OPCODE), `some none`
where the encoding is reserved. -/
def decVector (u : VUnit) (w : Nat) (x : Option (BitVec 16)) : Option (Option Instr) :=
  match w / 67108864 with
  | 0 => some (dec_vadd u w x)
  | 1 => some (dec_vsub u w x)
  | 2 => some (dec_vmul u w x)
  | 3 => some (dec_vmulh u w x)
  | 4 => some (dec_vfma u w x)
  | 5 => some (dec_vfms u w x)
  | 6 => some (dec_vneg u w x)
  | 7 => some (dec_vabs u w x)
  | 8 => some (dec_vmin u w x)
  | 9 => some (dec_vmax u w x)
  | 10 => some (dec_vdot4 u w x)
  | 11 => some (dec_vand u w x)
  | 12 => some (dec_vor u w x)
  | 13 => some (dec_vxor u w x)
  | 14 => some (dec_vandn u w x)
  | 15 => some (dec_vshl u w x)
  | 16 => some (dec_vshr u w x)
  | 17 => some (dec_vsra u w x)
  | 18 => some (dec_vcmp u w x)
  | 19 => some (dec_vsel u w x)
  | 20 => some (dec_vmov u w x)
  | 21 => some (dec_vbcast u w x)
  | 22 => some (dec_vextr u w x)
  | 23 => some (dec_vins u w x)
  | 24 => some (dec_viota u w x)
  | 25 => some (dec_vcvt u w x)
  | 26 => some (dec_vbfpk u w x)
  | 27 => some (dec_vbfup u w x)
  | 28 => some (dec_vperm u w x)
  | 29 => some (dec_vshuf u w x)
  | 30 => some (dec_vslide u w x)
  | 31 => some (dec_vcompr u w x)
  | 32 => some (dec_vexpand u w x)
  | 33 => some (dec_vrsum u w x)
  | 34 => some (dec_vrmax u w x)
  | 35 => some (dec_vrmin u w x)
  | 36 => some (dec_vscan u w x)
  | 37 => some (dec_vchk u w x)
  | 40 => some (dec_pand u w x)
  | 41 => some (dec_por u w x)
  | 42 => some (dec_pxor u w x)
  | 43 => some (dec_pnot u w x)
  | 44 => some (dec_pcnt u w x)
  | 45 => some (dec_pfirst u w x)
  | 46 => some (dec_pmov u w x)
  | 47 => some (dec_ppack u w x)
  | 48 => some (dec_punpk u w x)
  | _ => none

/-- Reads VRCP from its syllable. -/
def dec_vrcp (w : Nat) (x : Option (BitVec 16)) : Option Instr := do
  let fl := RFields.of w
  let d ← decDst fl.d fl.n
  let a ← decSrc (fl.a)
  guard (fl.b = 0)
  let p ← decFin 16 (fl.m)
  let f ← decFFmt (fl.f)
  guard (x = none)
  return .vrcp d a p f

/-- Reads VRSQ from its syllable. -/
def dec_vrsq (w : Nat) (x : Option (BitVec 16)) : Option Instr := do
  let fl := RFields.of w
  let d ← decDst fl.d fl.n
  let a ← decSrc (fl.a)
  guard (fl.b = 0)
  let p ← decFin 16 (fl.m)
  let f ← decFFmt (fl.f)
  guard (x = none)
  return .vrsq d a p f

/-- Reads VSQRT from its syllable. -/
def dec_vsqrt (w : Nat) (x : Option (BitVec 16)) : Option Instr := do
  let fl := RFields.of w
  let d ← decDst fl.d fl.n
  let a ← decSrc (fl.a)
  guard (fl.b = 0)
  let p ← decFin 16 (fl.m)
  let f ← decFFmt (fl.f)
  guard (x = none)
  return .vsqrt d a p f

/-- Reads VDIV from its syllable. -/
def dec_vdiv (w : Nat) (x : Option (BitVec 16)) : Option Instr := do
  let fl := RFields.of w
  let d ← decDst fl.d fl.n
  let a ← decSrc (fl.a)
  let b ← decSrc (fl.b)
  let p ← decFin 16 (fl.m)
  let f ← decFFmt (fl.f)
  guard (x = none)
  return .vdiv d a b p f

/-- Reads VEXP2 from its syllable. -/
def dec_vexp2 (w : Nat) (x : Option (BitVec 16)) : Option Instr := do
  let fl := RFields.of w
  let d ← decDst fl.d fl.n
  let a ← decSrc (fl.a)
  guard (fl.b = 0)
  let p ← decFin 16 (fl.m)
  let f ← decFFmt (fl.f)
  guard (x = none)
  return .vexp2 d a p f

/-- Reads VLOG2 from its syllable. -/
def dec_vlog2 (w : Nat) (x : Option (BitVec 16)) : Option Instr := do
  let fl := RFields.of w
  let d ← decDst fl.d fl.n
  let a ← decSrc (fl.a)
  guard (fl.b = 0)
  let p ← decFin 16 (fl.m)
  let f ← decFFmt (fl.f)
  guard (x = none)
  return .vlog2 d a p f

/-- Reads VSIN from its syllable. -/
def dec_vsin (w : Nat) (x : Option (BitVec 16)) : Option Instr := do
  let fl := RFields.of w
  let d ← decDst fl.d fl.n
  let a ← decSrc (fl.a)
  guard (fl.b = 0)
  let p ← decFin 16 (fl.m)
  let f ← decFFmt (fl.f)
  guard (x = none)
  return .vsin d a p f

/-- Reads VCOS from its syllable. -/
def dec_vcos (w : Nat) (x : Option (BitVec 16)) : Option Instr := do
  let fl := RFields.of w
  let d ← decDst fl.d fl.n
  let a ← decSrc (fl.a)
  guard (fl.b = 0)
  let p ← decFin 16 (fl.m)
  let f ← decFFmt (fl.f)
  guard (x = none)
  return .vcos d a p f

/-- Reads VTANH from its syllable. -/
def dec_vtanh (w : Nat) (x : Option (BitVec 16)) : Option Instr := do
  let fl := RFields.of w
  let d ← decDst fl.d fl.n
  let a ← decSrc (fl.a)
  guard (fl.b = 0)
  let p ← decFin 16 (fl.m)
  let f ← decFFmt (fl.f)
  guard (x = none)
  return .vtanh d a p f

/-- Reads VHIST from its syllable. -/
def dec_vhist (w : Nat) (x : Option (BitVec 16)) : Option Instr := do
  let fl := RFields.of w
  let d ← decDst fl.d fl.n
  let a ← decSrc (fl.a)
  let b ← decSrc (fl.b)
  let p ← decFin 16 (fl.m)
  let w ← decIntW (fl.f)
  guard (x = none)
  return .vhist d a b p w

/-- Reads VHMERGE from its syllable. -/
def dec_vhmerge (w : Nat) (x : Option (BitVec 16)) : Option Instr := do
  let fl := RFields.of w
  let d ← decDst fl.d fl.n
  let a ← decSrc (fl.a)
  guard (fl.b = 0)
  guard (fl.m = 0)
  let w ← decIntW (fl.f)
  guard (x = none)
  return .vhmerge d a w

/-- Reads VSORT from its syllable. -/
def dec_vsort (w : Nat) (x : Option (BitVec 16)) : Option Instr := do
  let fl := RFields.of w
  let d ← decDst fl.d fl.n
  let a ← decSrc (fl.a)
  guard (fl.b = 0)
  let p ← decFin 16 (fl.m)
  let f ← decFmt (fl.f)
  guard (x = none)
  return .vsort d a p f

/-- Reads VSORTKV from its syllable. -/
def dec_vsortkv (w : Nat) (x : Option (BitVec 16)) : Option Instr := do
  let fl := RFields.of w
  let d ← decDst fl.d fl.n
  let a ← decSrc (fl.a)
  let b ← decSrc (fl.b)
  let p ← decFin 16 (fl.m)
  let f ← decFmt (fl.f)
  guard (x = none)
  return .vsortkv d a b p f

/-- Reads VSRCH from its syllable. -/
def dec_vsrch (w : Nat) (x : Option (BitVec 16)) : Option Instr := do
  let fl := RFields.of w
  let d ← decDst fl.d fl.n
  let a ← decSrc (fl.a)
  let b ← decSrc (fl.b)
  let p ← decFin 16 (fl.m)
  let f ← decFmt (fl.f)
  guard (x = none)
  return .vsrch d a b p f

/-- The codes 0x32 to 0x3F of VB (R119): `none` where the code is empty (ILLEGAL_OPCODE), `some none` where the encoding is
reserved. -/
def decVB (w : Nat) (x : Option (BitVec 16)) : Option (Option Instr) :=
  match w / 67108864 with
  | 50 => some (dec_vrcp w x)
  | 51 => some (dec_vrsq w x)
  | 52 => some (dec_vsqrt w x)
  | 53 => some (dec_vdiv w x)
  | 54 => some (dec_vexp2 w x)
  | 55 => some (dec_vlog2 w x)
  | 56 => some (dec_vsin w x)
  | 57 => some (dec_vcos w x)
  | 58 => some (dec_vtanh w x)
  | 59 => some (dec_vhist w x)
  | 60 => some (dec_vhmerge w x)
  | 61 => some (dec_vsort w x)
  | 62 => some (dec_vsortkv w x)
  | 63 => some (dec_vsrch w x)
  | _ => none

/-- Reads MCALL from its syllable. -/
def dec_mcall (rpt : Rpt) (w : Nat) (x : Option (BitVec 16)) : Option Instr := do
  let fl := RFields.of w
  let r ← decFin 256 (w / 262144 % 256)
  let z ← decFin 8 (w / 32768 % 8)
  let sw ← some (decide (w / 16384 % 2 = 1))
  let mh ← decFin 4 (w / 4096 % 4)
  let a ← decSrc (w / 64 % 64)
  guard (w % 64 = 0)
  guard (x = none)
  return .mcall z r mh sw a rpt

/-- Reads MZERO from its syllable. -/
def dec_mzero (rpt : Rpt) (w : Nat) (x : Option (BitVec 16)) : Option Instr := do
  let fl := RFields.of w
  let mode ← decTileMode (w / 262144 % 256)
  let z ← decFin 8 (w / 32768 % 8)
  guard (w / 16384 % 2 = 0)
  guard (w / 4096 % 4 = 0)
  guard (w / 64 % 64 = 0)
  guard (w % 64 = 0)
  guard (x = none)
  return .mzero z mode rpt

/-- Reads MRD from its syllable. -/
def dec_mrd (rpt : Rpt) (w : Nat) (x : Option (BitVec 16)) : Option Instr := do
  let fl := RFields.of w
  let q ← decFin 18 (w / 262144 % 256)
  let z ← decFin 8 (w / 32768 % 8)
  guard (w / 16384 % 2 = 0)
  guard (w / 4096 % 4 = 0)
  let d ← decFin 48 (w / 64 % 64)
  guard (w % 64 = 0)
  guard (x = none)
  return .mrd d z q rpt

/-- Reads MWR from its syllable. -/
def dec_mwr (rpt : Rpt) (w : Nat) (x : Option (BitVec 16)) : Option Instr := do
  let fl := RFields.of w
  let q ← decFin 16 (w / 262144 % 256)
  let z ← decFin 8 (w / 32768 % 8)
  guard (w / 16384 % 2 = 0)
  guard (w / 4096 % 4 = 0)
  let a ← decFin 48 (w / 64 % 64)
  guard (w % 64 = 0)
  guard (x = none)
  return .mwr z q a rpt

/-- Reads MST from its syllable. -/
def dec_mst (rpt : Rpt) (w : Nat) (x : Option (BitVec 16)) : Option Instr := do
  let fl := RFields.of w
  let form ← decFin 4 (w / 262144 % 256)
  let z ← decFin 8 (w / 32768 % 8)
  guard (w / 16384 % 2 = 0)
  guard (w / 4096 % 4 = 0)
  let a ← decSrc (w / 64 % 64)
  guard (w % 64 = 0)
  guard (x = none)
  return .mst z form a rpt

/-- Reads MCHK from its syllable. -/
def dec_mchk (rpt : Rpt) (w : Nat) (x : Option (BitVec 16)) : Option Instr := do
  let fl := RFields.of w
  guard (w / 262144 % 256 = 0)
  let z ← decFin 8 (w / 32768 % 8)
  guard (w / 16384 % 2 = 0)
  guard (w / 4096 % 4 = 0)
  guard (w / 64 % 64 = 0)
  guard (w % 64 = 0)
  guard (x = none)
  return .mchk z rpt

/-- Reads MCSR from its syllable. -/
def dec_mcsr (rpt : Rpt) (w : Nat) (x : Option (BitVec 16)) : Option Instr := do
  let fl := RFields.of w
  guard (w / 262144 % 256 = 0)
  let z ← decFin 8 (w / 32768 % 8)
  guard (w / 16384 % 2 = 0)
  guard (w / 4096 % 4 = 0)
  guard (w / 64 % 64 = 0)
  guard (w % 64 = 0)
  guard (x = none)
  return .mcsr z rpt

/-- Reads MULD from its syllable. -/
def dec_muld (rpt : Rpt) (w : Nat) (x : Option (BitVec 16)) : Option Instr := do
  let fl := RFields.of w
  let r ← decFin 256 (w / 262144 % 256)
  guard (w / 32768 % 8 = 0)
  guard (w / 16384 % 2 = 0)
  guard (w / 4096 % 4 = 0)
  let a ← decSrc (w / 64 % 64)
  guard (w % 64 = 0)
  guard (x = none)
  return .muld r a rpt

/-- Reads MOUT from its syllable. -/
def dec_mout (rpt : Rpt) (w : Nat) (x : Option (BitVec 16)) : Option Instr := do
  let fl := RFields.of w
  let nm1 ← decFin 256 (w / 262144 % 256)
  let z ← decFin 8 (w / 32768 % 8)
  guard (w / 16384 % 2 = 0)
  guard (w / 4096 % 4 = 0)
  let a ← decSrc (w / 64 % 64)
  guard (w % 64 = 0)
  guard (x = none)
  return .mout z nm1 a rpt

/-- Reads MWAIT from its syllable. -/
def dec_mwait (rpt : Rpt) (w : Nat) (x : Option (BitVec 16)) : Option Instr := do
  let fl := RFields.of w
  guard (w / 262144 % 256 = 0)
  guard (w / 32768 % 8 = 0)
  guard (w / 16384 % 2 = 0)
  guard (w / 4096 % 4 = 0)
  guard (w / 64 % 64 = 0)
  guard (w % 64 = 0)
  guard (x = none)
  return .mwait rpt

/-- MX syllables (R112, R120, R195): `none` where the code is empty (ILLEGAL_OPCODE), `some none` where the encoding is
reserved. -/
def decMX (rpt : Rpt) (w : Nat) (x : Option (BitVec 16)) : Option (Option Instr) :=
  match w / 67108864 with
  | 0 => some (dec_mcall rpt w x)
  | 1 => some (dec_mzero rpt w x)
  | 2 => some (dec_mrd rpt w x)
  | 3 => some (dec_mwr rpt w x)
  | 4 => some (dec_mst rpt w x)
  | 5 => some (dec_mchk rpt w x)
  | 6 => some (dec_mcsr rpt w x)
  | 7 => some (dec_muld rpt w x)
  | 8 => some (dec_mout rpt w x)
  | 9 => some (dec_mwait rpt w x)
  | _ => none

/-- Reads LDB from its syllable. -/
def dec_ldb (w : Nat) (x : Option (BitVec 16)) : Option Instr := do
  let fl := RFields.of w
  let d ← decFin 48 (fl.d)
  let base ← decSrc fl.a
  guard (fl.m % 8 = 0)
  guard (fl.n = 0)
  let qw ← some (decide (fl.f / 4 % 2 = 1))
  let qc ← some (decide (fl.f / 2 % 2 = 1))
  guard (fl.f % 2 = 0)
  return .ldb d base ⟨BitVec.ofNat 7 (w / 128), x⟩ qw qc

/-- Reads LDH from its syllable. -/
def dec_ldh (w : Nat) (x : Option (BitVec 16)) : Option Instr := do
  let fl := RFields.of w
  let d ← decFin 48 (fl.d)
  let base ← decSrc fl.a
  guard (fl.m % 8 = 0)
  guard (fl.n = 0)
  let qw ← some (decide (fl.f / 4 % 2 = 1))
  let qc ← some (decide (fl.f / 2 % 2 = 1))
  guard (fl.f % 2 = 0)
  return .ldh d base ⟨BitVec.ofNat 7 (w / 128), x⟩ qw qc

/-- Reads LDW from its syllable. -/
def dec_ldw (w : Nat) (x : Option (BitVec 16)) : Option Instr := do
  let fl := RFields.of w
  let d ← decFin 48 (fl.d)
  let base ← decSrc fl.a
  guard (fl.m % 8 = 0)
  guard (fl.n = 0)
  let qw ← some (decide (fl.f / 4 % 2 = 1))
  let qc ← some (decide (fl.f / 2 % 2 = 1))
  guard (fl.f % 2 = 0)
  return .ldw d base ⟨BitVec.ofNat 7 (w / 128), x⟩ qw qc

/-- Reads LDD from its syllable. -/
def dec_ldd (w : Nat) (x : Option (BitVec 16)) : Option Instr := do
  let fl := RFields.of w
  let d ← decFin 48 (fl.d)
  let base ← decSrc fl.a
  guard (fl.m % 8 = 0)
  guard (fl.n = 0)
  let qw ← some (decide (fl.f / 4 % 2 = 1))
  let qc ← some (decide (fl.f / 2 % 2 = 1))
  guard (fl.f % 2 = 0)
  return .ldd d base ⟨BitVec.ofNat 7 (w / 128), x⟩ qw qc

/-- Reads LDV from its syllable. -/
def dec_ldv (w : Nat) (x : Option (BitVec 16)) : Option Instr := do
  let fl := RFields.of w
  let d ← decFin 48 (fl.d)
  let base ← decSrc fl.a
  let p ← decFin 8 (fl.m % 8)
  guard (fl.n = 0)
  let qw ← some (decide (fl.f / 4 % 2 = 1))
  let qc ← some (decide (fl.f / 2 % 2 = 1))
  guard (fl.f % 2 = 0)
  return .ldv d base ⟨BitVec.ofNat 7 (w / 128), x⟩ p qw qc

/-- Reads LDP from its syllable. -/
def dec_ldp (w : Nat) (x : Option (BitVec 16)) : Option Instr := do
  let fl := RFields.of w
  let d ← decFin 16 fl.d
  let base ← decSrc fl.a
  guard (fl.m % 8 = 0)
  guard (fl.n = 0)
  let qw ← some (decide (fl.f / 4 % 2 = 1))
  let qc ← some (decide (fl.f / 2 % 2 = 1))
  guard (fl.f % 2 = 0)
  return .ldp d base ⟨BitVec.ofNat 7 (w / 128), x⟩ qw qc

/-- Reads LDT from its syllable. -/
def dec_ldt (w : Nat) (x : Option (BitVec 16)) : Option Instr := do
  let fl := RFields.of w
  let d ← decFin 48 (fl.d)
  let base ← decSrc fl.a
  let h ← decFin 4 (fl.b)
  let p ← decFin 16 fl.m
  guard (fl.n = 0)
  let qw ← some (decide (fl.f / 4 % 2 = 1))
  let qc ← some (decide (fl.f / 2 % 2 = 1))
  let sw ← some (decide (fl.f % 2 = 1))
  guard (x = none)
  return .ldt d base h p qw qc sw

/-- Reads LDG from its syllable. -/
def dec_ldg (w : Nat) (x : Option (BitVec 16)) : Option Instr := do
  let fl := RFields.of w
  let d ← decFin 48 (fl.d)
  let base ← decSrc fl.a
  let idx ← decFin 48 (fl.b)
  let p ← decFin 16 fl.m
  guard (fl.n = 0)
  let qw ← some (decide (fl.f / 4 % 2 = 1))
  let qc ← some (decide (fl.f / 2 % 2 = 1))
  guard (fl.f % 2 = 0)
  guard (x = none)
  return .ldg d base idx p qw qc

/-- Reads STB from its syllable. -/
def dec_stb (w : Nat) (x : Option (BitVec 16)) : Option Instr := do
  let fl := RFields.of w
  let v ← decSrc (fl.d)
  let base ← decSrc fl.a
  guard (fl.m % 8 = 0)
  let qf ← some (decide (fl.n = 1))
  guard (fl.f / 4 % 2 = 0)
  guard (fl.f / 2 % 2 = 0)
  guard (fl.f % 2 = 0)
  return .stb v base ⟨BitVec.ofNat 7 (w / 128), x⟩ qf

/-- Reads STH from its syllable. -/
def dec_sth (w : Nat) (x : Option (BitVec 16)) : Option Instr := do
  let fl := RFields.of w
  let v ← decSrc (fl.d)
  let base ← decSrc fl.a
  guard (fl.m % 8 = 0)
  let qf ← some (decide (fl.n = 1))
  guard (fl.f / 4 % 2 = 0)
  guard (fl.f / 2 % 2 = 0)
  guard (fl.f % 2 = 0)
  return .sth v base ⟨BitVec.ofNat 7 (w / 128), x⟩ qf

/-- Reads STW from its syllable. -/
def dec_stw (w : Nat) (x : Option (BitVec 16)) : Option Instr := do
  let fl := RFields.of w
  let v ← decSrc (fl.d)
  let base ← decSrc fl.a
  guard (fl.m % 8 = 0)
  let qf ← some (decide (fl.n = 1))
  guard (fl.f / 4 % 2 = 0)
  guard (fl.f / 2 % 2 = 0)
  guard (fl.f % 2 = 0)
  return .stw v base ⟨BitVec.ofNat 7 (w / 128), x⟩ qf

/-- Reads STD from its syllable. -/
def dec_std (w : Nat) (x : Option (BitVec 16)) : Option Instr := do
  let fl := RFields.of w
  let v ← decSrc (fl.d)
  let base ← decSrc fl.a
  guard (fl.m % 8 = 0)
  let qf ← some (decide (fl.n = 1))
  guard (fl.f / 4 % 2 = 0)
  guard (fl.f / 2 % 2 = 0)
  guard (fl.f % 2 = 0)
  return .std v base ⟨BitVec.ofNat 7 (w / 128), x⟩ qf

/-- Reads STV from its syllable. -/
def dec_stv (w : Nat) (x : Option (BitVec 16)) : Option Instr := do
  let fl := RFields.of w
  let v ← decSrc (fl.d)
  let base ← decSrc fl.a
  let p ← decFin 8 (fl.m % 8)
  let qf ← some (decide (fl.n = 1))
  guard (fl.f / 4 % 2 = 0)
  guard (fl.f / 2 % 2 = 0)
  guard (fl.f % 2 = 0)
  return .stv v base ⟨BitVec.ofNat 7 (w / 128), x⟩ p qf

/-- Reads STP from its syllable. -/
def dec_stp (w : Nat) (x : Option (BitVec 16)) : Option Instr := do
  let fl := RFields.of w
  let v ← decFin 16 (fl.d)
  let base ← decSrc fl.a
  guard (fl.m % 8 = 0)
  let qf ← some (decide (fl.n = 1))
  guard (fl.f / 4 % 2 = 0)
  guard (fl.f / 2 % 2 = 0)
  guard (fl.f % 2 = 0)
  return .stp v base ⟨BitVec.ofNat 7 (w / 128), x⟩ qf

/-- Reads STT from its syllable. -/
def dec_stt (w : Nat) (x : Option (BitVec 16)) : Option Instr := do
  let fl := RFields.of w
  let v ← decSrc (fl.d)
  let base ← decSrc fl.a
  let h ← decFin 4 (fl.b)
  let p ← decFin 16 fl.m
  let qf ← some (decide (fl.n = 1))
  guard (fl.f / 4 % 2 = 0)
  guard (fl.f / 2 % 2 = 0)
  let sw ← some (decide (fl.f % 2 = 1))
  guard (x = none)
  return .stt v base h p qf sw

/-- Reads STG from its syllable. -/
def dec_stg (w : Nat) (x : Option (BitVec 16)) : Option Instr := do
  let fl := RFields.of w
  let v ← decSrc (fl.d)
  let base ← decSrc fl.a
  let idx ← decFin 48 (fl.b)
  let p ← decFin 16 fl.m
  let qf ← some (decide (fl.n = 1))
  guard (fl.f / 4 % 2 = 0)
  guard (fl.f / 2 % 2 = 0)
  guard (fl.f % 2 = 0)
  guard (x = none)
  return .stg v base idx p qf

/-- Reads FESET from its syllable. -/
def dec_feset (w : Nat) (x : Option (BitVec 16)) : Option Instr := do
  let fl := RFields.of w
  guard (fl.d = 0)
  let base ← decSrc fl.a
  guard (fl.m % 8 = 0)
  guard (fl.n = 0)
  guard (fl.f / 4 % 2 = 0)
  guard (fl.f / 2 % 2 = 0)
  guard (fl.f % 2 = 0)
  return .feset base ⟨BitVec.ofNat 7 (w / 128), x⟩

/-- Reads FECLR from its syllable. -/
def dec_feclr (w : Nat) (x : Option (BitVec 16)) : Option Instr := do
  let fl := RFields.of w
  guard (fl.d = 0)
  let base ← decSrc fl.a
  guard (fl.m % 8 = 0)
  guard (fl.n = 0)
  guard (fl.f / 4 % 2 = 0)
  guard (fl.f / 2 % 2 = 0)
  guard (fl.f % 2 = 0)
  return .feclr base ⟨BitVec.ofNat 7 (w / 128), x⟩

/-- Reads FETST from its syllable. -/
def dec_fetst (w : Nat) (x : Option (BitVec 16)) : Option Instr := do
  let fl := RFields.of w
  let d ← decFin 48 (fl.d)
  let base ← decSrc fl.a
  guard (fl.m % 8 = 0)
  guard (fl.n = 0)
  guard (fl.f / 4 % 2 = 0)
  guard (fl.f / 2 % 2 = 0)
  guard (fl.f % 2 = 0)
  return .fetst d base ⟨BitVec.ofNat 7 (w / 128), x⟩

/-- LS syllables (R113, R120): `none` where the code is empty (ILLEGAL_OPCODE), `some none` where the encoding is reserved. -/
def decLS (w : Nat) (x : Option (BitVec 16)) : Option (Option Instr) :=
  match w / 67108864 with
  | 0 => some (dec_ldb w x)
  | 1 => some (dec_ldh w x)
  | 2 => some (dec_ldw w x)
  | 3 => some (dec_ldd w x)
  | 4 => some (dec_ldv w x)
  | 5 => some (dec_ldp w x)
  | 6 => some (dec_ldt w x)
  | 7 => some (dec_ldg w x)
  | 8 => some (dec_stb w x)
  | 9 => some (dec_sth w x)
  | 10 => some (dec_stw w x)
  | 11 => some (dec_std w x)
  | 12 => some (dec_stv w x)
  | 13 => some (dec_stp w x)
  | 14 => some (dec_stt w x)
  | 15 => some (dec_stg w x)
  | 16 => some (dec_feset w x)
  | 17 => some (dec_feclr w x)
  | 18 => some (dec_fetst w x)
  | _ => none

/-- Reads WLDW from its syllable. -/
def dec_wldw (w : Nat) (x : Option (BitVec 16)) : Option Instr := do
  let fl := RFields.of w
  let d ← decFin 48 (fl.d)
  let base ← decSrc fl.a
  guard (fl.m % 8 = 0)
  guard (fl.n = 0)
  let qw ← some (decide (fl.f / 4 % 2 = 1))
  let qc ← some (decide (fl.f / 2 % 2 = 1))
  guard (fl.f % 2 = 0)
  return .wldw d base ⟨BitVec.ofNat 7 (w / 128), x⟩ qw qc

/-- Reads WLDD from its syllable. -/
def dec_wldd (w : Nat) (x : Option (BitVec 16)) : Option Instr := do
  let fl := RFields.of w
  let d ← decFin 48 (fl.d)
  let base ← decSrc fl.a
  guard (fl.m % 8 = 0)
  guard (fl.n = 0)
  let qw ← some (decide (fl.f / 4 % 2 = 1))
  let qc ← some (decide (fl.f / 2 % 2 = 1))
  guard (fl.f % 2 = 0)
  return .wldd d base ⟨BitVec.ofNat 7 (w / 128), x⟩ qw qc

/-- Reads WLDV from its syllable. -/
def dec_wldv (w : Nat) (x : Option (BitVec 16)) : Option Instr := do
  let fl := RFields.of w
  let d ← decFin 48 (fl.d)
  let base ← decSrc fl.a
  let p ← decFin 8 (fl.m % 8)
  guard (fl.n = 0)
  let qw ← some (decide (fl.f / 4 % 2 = 1))
  let qc ← some (decide (fl.f / 2 % 2 = 1))
  guard (fl.f % 2 = 0)
  return .wldv d base ⟨BitVec.ofNat 7 (w / 128), x⟩ p qw qc

/-- Reads WLDT from its syllable. -/
def dec_wldt (w : Nat) (x : Option (BitVec 16)) : Option Instr := do
  let fl := RFields.of w
  let d ← decFin 48 (fl.d)
  let base ← decSrc fl.a
  let h ← decFin 4 (fl.b)
  let p ← decFin 16 fl.m
  guard (fl.n = 0)
  let qw ← some (decide (fl.f / 4 % 2 = 1))
  let qc ← some (decide (fl.f / 2 % 2 = 1))
  let sw ← some (decide (fl.f % 2 = 1))
  guard (x = none)
  return .wldt d base h p qw qc sw

/-- Reads WLDG from its syllable. -/
def dec_wldg (w : Nat) (x : Option (BitVec 16)) : Option Instr := do
  let fl := RFields.of w
  let d ← decFin 48 (fl.d)
  let base ← decSrc fl.a
  let idx ← decFin 48 (fl.b)
  let p ← decFin 16 fl.m
  guard (fl.n = 0)
  let qw ← some (decide (fl.f / 4 % 2 = 1))
  let qc ← some (decide (fl.f / 2 % 2 = 1))
  guard (fl.f % 2 = 0)
  guard (x = none)
  return .wldg d base idx p qw qc

/-- Reads WSTW from its syllable. -/
def dec_wstw (w : Nat) (x : Option (BitVec 16)) : Option Instr := do
  let fl := RFields.of w
  let v ← decSrc (fl.d)
  let base ← decSrc fl.a
  guard (fl.m % 8 = 0)
  let qf ← some (decide (fl.n = 1))
  guard (fl.f / 4 % 2 = 0)
  guard (fl.f / 2 % 2 = 0)
  guard (fl.f % 2 = 0)
  return .wstw v base ⟨BitVec.ofNat 7 (w / 128), x⟩ qf

/-- Reads WSTD from its syllable. -/
def dec_wstd (w : Nat) (x : Option (BitVec 16)) : Option Instr := do
  let fl := RFields.of w
  let v ← decSrc (fl.d)
  let base ← decSrc fl.a
  guard (fl.m % 8 = 0)
  let qf ← some (decide (fl.n = 1))
  guard (fl.f / 4 % 2 = 0)
  guard (fl.f / 2 % 2 = 0)
  guard (fl.f % 2 = 0)
  return .wstd v base ⟨BitVec.ofNat 7 (w / 128), x⟩ qf

/-- Reads WSTV from its syllable. -/
def dec_wstv (w : Nat) (x : Option (BitVec 16)) : Option Instr := do
  let fl := RFields.of w
  let v ← decSrc (fl.d)
  let base ← decSrc fl.a
  let p ← decFin 8 (fl.m % 8)
  let qf ← some (decide (fl.n = 1))
  guard (fl.f / 4 % 2 = 0)
  guard (fl.f / 2 % 2 = 0)
  guard (fl.f % 2 = 0)
  return .wstv v base ⟨BitVec.ofNat 7 (w / 128), x⟩ p qf

/-- Reads WSTT from its syllable. -/
def dec_wstt (w : Nat) (x : Option (BitVec 16)) : Option Instr := do
  let fl := RFields.of w
  let v ← decSrc (fl.d)
  let base ← decSrc fl.a
  let h ← decFin 4 (fl.b)
  let p ← decFin 16 fl.m
  let qf ← some (decide (fl.n = 1))
  guard (fl.f / 4 % 2 = 0)
  guard (fl.f / 2 % 2 = 0)
  let sw ← some (decide (fl.f % 2 = 1))
  guard (x = none)
  return .wstt v base h p qf sw

/-- Reads WSTG from its syllable. -/
def dec_wstg (w : Nat) (x : Option (BitVec 16)) : Option Instr := do
  let fl := RFields.of w
  let v ← decSrc (fl.d)
  let base ← decSrc fl.a
  let idx ← decFin 48 (fl.b)
  let p ← decFin 16 fl.m
  let qf ← some (decide (fl.n = 1))
  guard (fl.f / 4 % 2 = 0)
  guard (fl.f / 2 % 2 = 0)
  guard (fl.f % 2 = 0)
  guard (x = none)
  return .wstg v base idx p qf

/-- Reads WFESET from its syllable. -/
def dec_wfeset (w : Nat) (x : Option (BitVec 16)) : Option Instr := do
  let fl := RFields.of w
  guard (fl.d = 0)
  let base ← decSrc fl.a
  guard (fl.m % 8 = 0)
  guard (fl.n = 0)
  guard (fl.f / 4 % 2 = 0)
  guard (fl.f / 2 % 2 = 0)
  guard (fl.f % 2 = 0)
  return .wfeset base ⟨BitVec.ofNat 7 (w / 128), x⟩

/-- Reads WFECLR from its syllable. -/
def dec_wfeclr (w : Nat) (x : Option (BitVec 16)) : Option Instr := do
  let fl := RFields.of w
  guard (fl.d = 0)
  let base ← decSrc fl.a
  guard (fl.m % 8 = 0)
  guard (fl.n = 0)
  guard (fl.f / 4 % 2 = 0)
  guard (fl.f / 2 % 2 = 0)
  guard (fl.f % 2 = 0)
  return .wfeclr base ⟨BitVec.ofNat 7 (w / 128), x⟩

/-- WY syllables (R113, R120): `none` where the code is empty (ILLEGAL_OPCODE), `some none` where the encoding is reserved. -/
def decWY (w : Nat) (x : Option (BitVec 16)) : Option (Option Instr) :=
  match w / 67108864 with
  | 2 => some (dec_wldw w x)
  | 3 => some (dec_wldd w x)
  | 4 => some (dec_wldv w x)
  | 6 => some (dec_wldt w x)
  | 7 => some (dec_wldg w x)
  | 10 => some (dec_wstw w x)
  | 11 => some (dec_wstd w x)
  | 12 => some (dec_wstv w x)
  | 14 => some (dec_wstt w x)
  | 15 => some (dec_wstg w x)
  | 16 => some (dec_wfeset w x)
  | 17 => some (dec_wfeclr w x)
  | _ => none

/-- Reads PROBE from its syllable. -/
def dec_probe (w : Nat) (x : Option (BitVec 16)) : Option Instr := do
  let fl := RFields.of w
  let d ← decFin 48 fl.d
  let a ← decSrc fl.a
  guard (w % 16 = 0)
  return .probe d a ⟨BitVec.ofNat 10 (w / 16), x⟩

/-- Reads FILL from its syllable. -/
def dec_fill (w : Nat) (x : Option (BitVec 16)) : Option Instr := do
  let fl := RFields.of w
  let d ← decFin 48 (fl.d)
  let a ← decSrc (fl.a)
  guard (fl.b = 0)
  guard (fl.m = 0)
  guard (fl.f = 0)
  guard (fl.n = 0)
  guard (x = none)
  return .fill d a

/-- Reads EVICT from its syllable. -/
def dec_evict (w : Nat) (x : Option (BitVec 16)) : Option Instr := do
  let fl := RFields.of w
  guard (fl.d = 0)
  let a ← decSrc (fl.a)
  guard (fl.b = 0)
  guard (fl.m = 0)
  guard (fl.f = 0)
  guard (fl.n = 0)
  guard (x = none)
  return .evict a

/-- Reads WBACK from its syllable. -/
def dec_wback (w : Nat) (x : Option (BitVec 16)) : Option Instr := do
  let fl := RFields.of w
  guard (fl.d = 0)
  let a ← decSrc (fl.a)
  guard (fl.b = 0)
  guard (fl.m = 0)
  guard (fl.f = 0)
  guard (fl.n = 0)
  guard (x = none)
  return .wback a

/-- Reads PIN from its syllable. -/
def dec_pin (w : Nat) (x : Option (BitVec 16)) : Option Instr := do
  let fl := RFields.of w
  let d ← decFin 48 (fl.d)
  let a ← decSrc (fl.a)
  guard (fl.b = 0)
  guard (fl.m = 0)
  guard (fl.f = 0)
  guard (fl.n = 0)
  guard (x = none)
  return .pin d a

/-- Reads UNPIN from its syllable. -/
def dec_unpin (w : Nat) (x : Option (BitVec 16)) : Option Instr := do
  let fl := RFields.of w
  guard (fl.d = 0)
  let a ← decSrc (fl.a)
  guard (fl.b = 0)
  guard (fl.m = 0)
  guard (fl.f = 0)
  guard (fl.n = 0)
  guard (x = none)
  return .unpin a

/-- Reads TGINV from its syllable. -/
def dec_tginv (w : Nat) (x : Option (BitVec 16)) : Option Instr := do
  let fl := RFields.of w
  guard (fl.d = 0)
  let a ← decSrc (fl.a)
  guard (fl.b = 0)
  guard (fl.m = 0)
  guard (fl.f = 0)
  guard (fl.n = 0)
  guard (x = none)
  return .tginv a

/-- Reads TGSTAT from its syllable. -/
def dec_tgstat (w : Nat) (x : Option (BitVec 16)) : Option Instr := do
  let fl := RFields.of w
  let d ← decFin 48 (fl.d)
  let a ← decSrc (fl.a)
  guard (fl.b = 0)
  guard (fl.m = 0)
  guard (fl.f = 0)
  guard (fl.n = 0)
  guard (x = none)
  return .tgstat d a

/-- TG syllables (R114, R120): `none` where the code is empty (ILLEGAL_OPCODE), `some none` where the encoding is reserved. -/
def decTG (w : Nat) (x : Option (BitVec 16)) : Option (Option Instr) :=
  match w / 67108864 with
  | 0 => some (dec_probe w x)
  | 1 => some (dec_fill w x)
  | 2 => some (dec_evict w x)
  | 3 => some (dec_wback w x)
  | 4 => some (dec_pin w x)
  | 5 => some (dec_unpin w x)
  | 6 => some (dec_tginv w x)
  | 7 => some (dec_tgstat w x)
  | _ => none

/-- Reads CPY from its syllable. -/
def dec_cpy (w : Nat) (x : Option (BitVec 16)) : Option Instr := do
  let fl := RFields.of w
  let d ← decDst fl.d fl.n
  let a ← decSrc (fl.a)
  let eh ← decFin 4 (fl.b)
  let carry ← some (decide (fl.m / 8 % 2 = 1))
  guard (fl.m / 4 % 2 = 0)
  guard (fl.m / 2 % 2 = 0)
  let sw ← some (decide (fl.m / 1 % 2 = 1))
  guard (fl.f = 0)
  guard (x = none)
  return .cpy d a eh carry sw

/-- Reads CWAIT from its syllable. -/
def dec_cwait (w : Nat) (x : Option (BitVec 16)) : Option Instr := do
  let fl := RFields.of w
  let d ← decDst fl.d fl.n
  let a ← decSrc (fl.a)
  let b ← decSrc (fl.b)
  guard (fl.m / 8 % 2 = 0)
  guard (fl.m / 4 % 2 = 0)
  guard (fl.m / 2 % 2 = 0)
  guard (fl.m / 1 % 2 = 0)
  guard (fl.f = 0)
  guard (x = none)
  return .cwait d a b

/-- Reads CTEST from its syllable. -/
def dec_ctest (w : Nat) (x : Option (BitVec 16)) : Option Instr := do
  let fl := RFields.of w
  let d ← decDst fl.d fl.n
  let a ← decSrc (fl.a)
  let b ← decSrc (fl.b)
  guard (fl.m / 8 % 2 = 0)
  guard (fl.m / 4 % 2 = 0)
  guard (fl.m / 2 % 2 = 0)
  guard (fl.m / 1 % 2 = 0)
  guard (fl.f = 0)
  guard (x = none)
  return .ctest d a b

/-- Reads CCANCEL from its syllable. -/
def dec_ccancel (w : Nat) (x : Option (BitVec 16)) : Option Instr := do
  let fl := RFields.of w
  guard (fl.d = 0)
  let a ← decSrc (fl.a)
  guard (fl.b = 0)
  guard (fl.m / 8 % 2 = 0)
  guard (fl.m / 4 % 2 = 0)
  guard (fl.m / 2 % 2 = 0)
  guard (fl.m / 1 % 2 = 0)
  guard (fl.f = 0)
  guard (fl.n = 0)
  guard (x = none)
  return .ccancel a

/-- Reads RPUT from its syllable. -/
def dec_rput (w : Nat) (x : Option (BitVec 16)) : Option Instr := do
  let fl := RFields.of w
  guard (fl.d = 0)
  let a ← decSrc (fl.a)
  guard (fl.b = 0)
  let carry ← some (decide (fl.m / 8 % 2 = 1))
  guard (fl.m / 4 % 2 = 0)
  guard (fl.m / 2 % 2 = 0)
  guard (fl.m / 1 % 2 = 0)
  guard (fl.f = 0)
  guard (fl.n = 0)
  guard (x = none)
  return .rput a carry

/-- Reads RFLAG from its syllable. -/
def dec_rflag (w : Nat) (x : Option (BitVec 16)) : Option Instr := do
  let fl := RFields.of w
  guard (fl.d = 0)
  let a ← decSrc (fl.a)
  let b ← decEnB x (fl.b)
  let carry ← some (decide (fl.m / 8 % 2 = 1))
  guard (fl.m / 4 % 2 = 0)
  let ord ← some (decide (fl.m / 2 % 2 = 1))
  guard (fl.m / 1 % 2 = 0)
  guard (fl.f = 0)
  guard (fl.n = 0)
  return .rflag a b carry ord

/-- Reads RFENCE from its syllable. -/
def dec_rfence (w : Nat) (x : Option (BitVec 16)) : Option Instr := do
  let fl := RFields.of w
  guard (fl.d = 0)
  guard (fl.a = 0)
  guard (fl.b = 0)
  guard (fl.m / 8 % 2 = 0)
  guard (fl.m / 4 % 2 = 0)
  guard (fl.m / 2 % 2 = 0)
  guard (fl.m / 1 % 2 = 0)
  guard (fl.f = 0)
  guard (fl.n = 0)
  guard (x = none)
  return .rfence 

/-- Reads HALO from its syllable. -/
def dec_halo (w : Nat) (x : Option (BitVec 16)) : Option Instr := do
  let fl := RFields.of w
  let d ← decDst fl.d fl.n
  guard (fl.a = 0)
  let eh ← decFin 4 (fl.b)
  let carry ← some (decide (fl.m / 8 % 2 = 1))
  guard (fl.m / 4 % 2 = 0)
  guard (fl.m / 2 % 2 = 0)
  let sw ← some (decide (fl.m / 1 % 2 = 1))
  guard (fl.f = 0)
  guard (x = none)
  return .halo d eh carry sw

/-- Reads HWAIT from its syllable. -/
def dec_hwait (w : Nat) (x : Option (BitVec 16)) : Option Instr := do
  let fl := RFields.of w
  let d ← decDst fl.d fl.n
  let a ← decSrc (fl.a)
  guard (fl.b = 0)
  guard (fl.m / 8 % 2 = 0)
  guard (fl.m / 4 % 2 = 0)
  guard (fl.m / 2 % 2 = 0)
  guard (fl.m / 1 % 2 = 0)
  guard (fl.f = 0)
  guard (x = none)
  return .hwait d a

/-- Reads TIDW from its syllable. -/
def dec_tidw (w : Nat) (x : Option (BitVec 16)) : Option Instr := do
  let fl := RFields.of w
  guard (fl.d = 0)
  let a ← decSrc (fl.a)
  let b ← decEnB x (fl.b)
  guard (fl.m / 8 % 2 = 0)
  guard (fl.m / 4 % 2 = 0)
  guard (fl.m / 2 % 2 = 0)
  guard (fl.m / 1 % 2 = 0)
  guard (fl.f = 0)
  guard (fl.n = 0)
  return .tidw a b

/-- Reads TIDR from its syllable. -/
def dec_tidr (w : Nat) (x : Option (BitVec 16)) : Option Instr := do
  let fl := RFields.of w
  let d ← decDst fl.d fl.n
  let a ← decSrc (fl.a)
  let k ← decFin 8 (fl.b)
  guard (fl.m / 8 % 2 = 0)
  guard (fl.m / 4 % 2 = 0)
  guard (fl.m / 2 % 2 = 0)
  guard (fl.m / 1 % 2 = 0)
  guard (fl.f = 0)
  guard (x = none)
  return .tidr d a k

/-- Reads TIDINV from its syllable. -/
def dec_tidinv (w : Nat) (x : Option (BitVec 16)) : Option Instr := do
  let fl := RFields.of w
  guard (fl.d = 0)
  let a ← decSrc (fl.a)
  guard (fl.b = 0)
  guard (fl.m / 8 % 2 = 0)
  guard (fl.m / 4 % 2 = 0)
  guard (fl.m / 2 % 2 = 0)
  guard (fl.m / 1 % 2 = 0)
  guard (fl.f = 0)
  guard (fl.n = 0)
  guard (x = none)
  return .tidinv a

/-- Reads LAYSET from its syllable. -/
def dec_layset (w : Nat) (x : Option (BitVec 16)) : Option Instr := do
  let fl := RFields.of w
  let d ← decFin 48 (fl.d)
  let a ← decSrc (fl.a)
  let f ← decFin 3 (fl.b)
  guard (fl.m / 8 % 2 = 0)
  guard (fl.m / 4 % 2 = 0)
  guard (fl.m / 2 % 2 = 0)
  guard (fl.m / 1 % 2 = 0)
  guard (fl.f = 0)
  guard (fl.n = 0)
  guard (x = none)
  return .layset d a f

/-- Reads COLL from its syllable. -/
def dec_coll (w : Nat) (x : Option (BitVec 16)) : Option Instr := do
  let fl := RFields.of w
  let d ← decFin 48 (fl.d)
  let a ← decSrc (fl.a)
  let b ← decEnB x (fl.b)
  let carry ← some (decide (fl.m / 8 % 2 = 1))
  guard (fl.m / 4 % 2 = 0)
  guard (fl.m / 2 % 2 = 0)
  guard (fl.m / 1 % 2 = 0)
  guard (fl.f = 0)
  guard (fl.n = 0)
  return .coll d a b carry

/-- Reads CLWAIT from its syllable. -/
def dec_clwait (w : Nat) (x : Option (BitVec 16)) : Option Instr := do
  let fl := RFields.of w
  let d ← decFin 48 (fl.d)
  let a ← decSrc (fl.a)
  let b ← decEnB x (fl.b)
  guard (fl.m / 8 % 2 = 0)
  guard (fl.m / 4 % 2 = 0)
  guard (fl.m / 2 % 2 = 0)
  guard (fl.m / 1 % 2 = 0)
  guard (fl.f = 0)
  guard (fl.n = 0)
  return .clwait d a b

/-- Reads RESHARD from its syllable. -/
def dec_reshard (w : Nat) (x : Option (BitVec 16)) : Option Instr := do
  let fl := RFields.of w
  let d ← decFin 48 (fl.d)
  let a ← decSrc (fl.a)
  let b ← decEnB x (fl.b)
  let carry ← some (decide (fl.m / 8 % 2 = 1))
  guard (fl.m / 4 % 2 = 0)
  guard (fl.m / 2 % 2 = 0)
  guard (fl.m / 1 % 2 = 0)
  guard (fl.f = 0)
  guard (fl.n = 0)
  return .reshard d a b carry

/-- Reads GATHJ from its syllable. -/
def dec_gathj (w : Nat) (x : Option (BitVec 16)) : Option Instr := do
  let fl := RFields.of w
  let d ← decFin 48 (fl.d)
  let a ← decSrc (fl.a)
  let b ← decEnB x (fl.b)
  let carry ← some (decide (fl.m / 8 % 2 = 1))
  guard (fl.m / 4 % 2 = 0)
  guard (fl.m / 2 % 2 = 0)
  guard (fl.m / 1 % 2 = 0)
  guard (fl.f = 0)
  guard (fl.n = 0)
  return .gathj d a b carry

/-- Reads AADD from its syllable. -/
def dec_aadd (w : Nat) (x : Option (BitVec 16)) : Option Instr := do
  let fl := RFields.of w
  let d ← decDst fl.d fl.n
  let a ← decSrc (fl.a)
  let b ← decEnB x (fl.b)
  guard (fl.m / 8 % 2 = 0)
  let sc ← some (decide (fl.m / 4 % 2 = 1))
  guard (fl.m / 2 % 2 = 0)
  guard (fl.m / 1 % 2 = 0)
  let scope ← decFin 4 (fl.f)
  return .aadd d a b sc scope

/-- Reads AMIN from its syllable. -/
def dec_amin (w : Nat) (x : Option (BitVec 16)) : Option Instr := do
  let fl := RFields.of w
  let d ← decDst fl.d fl.n
  let a ← decSrc (fl.a)
  let b ← decEnB x (fl.b)
  guard (fl.m / 8 % 2 = 0)
  let sc ← some (decide (fl.m / 4 % 2 = 1))
  guard (fl.m / 2 % 2 = 0)
  guard (fl.m / 1 % 2 = 0)
  let scope ← decFin 4 (fl.f)
  return .amin d a b sc scope

/-- Reads AMAX from its syllable. -/
def dec_amax (w : Nat) (x : Option (BitVec 16)) : Option Instr := do
  let fl := RFields.of w
  let d ← decDst fl.d fl.n
  let a ← decSrc (fl.a)
  let b ← decEnB x (fl.b)
  guard (fl.m / 8 % 2 = 0)
  let sc ← some (decide (fl.m / 4 % 2 = 1))
  guard (fl.m / 2 % 2 = 0)
  guard (fl.m / 1 % 2 = 0)
  let scope ← decFin 4 (fl.f)
  return .amax d a b sc scope

/-- Reads AAND from its syllable. -/
def dec_aand (w : Nat) (x : Option (BitVec 16)) : Option Instr := do
  let fl := RFields.of w
  let d ← decDst fl.d fl.n
  let a ← decSrc (fl.a)
  let b ← decEnB x (fl.b)
  guard (fl.m / 8 % 2 = 0)
  let sc ← some (decide (fl.m / 4 % 2 = 1))
  guard (fl.m / 2 % 2 = 0)
  guard (fl.m / 1 % 2 = 0)
  let scope ← decFin 4 (fl.f)
  return .aand d a b sc scope

/-- Reads AOR from its syllable. -/
def dec_aor (w : Nat) (x : Option (BitVec 16)) : Option Instr := do
  let fl := RFields.of w
  let d ← decDst fl.d fl.n
  let a ← decSrc (fl.a)
  let b ← decEnB x (fl.b)
  guard (fl.m / 8 % 2 = 0)
  let sc ← some (decide (fl.m / 4 % 2 = 1))
  guard (fl.m / 2 % 2 = 0)
  guard (fl.m / 1 % 2 = 0)
  let scope ← decFin 4 (fl.f)
  return .aor d a b sc scope

/-- Reads AXOR from its syllable. -/
def dec_axor (w : Nat) (x : Option (BitVec 16)) : Option Instr := do
  let fl := RFields.of w
  let d ← decDst fl.d fl.n
  let a ← decSrc (fl.a)
  let b ← decEnB x (fl.b)
  guard (fl.m / 8 % 2 = 0)
  let sc ← some (decide (fl.m / 4 % 2 = 1))
  guard (fl.m / 2 % 2 = 0)
  guard (fl.m / 1 % 2 = 0)
  let scope ← decFin 4 (fl.f)
  return .axor d a b sc scope

/-- Reads ASWP from its syllable. -/
def dec_aswp (w : Nat) (x : Option (BitVec 16)) : Option Instr := do
  let fl := RFields.of w
  let d ← decDst fl.d fl.n
  let a ← decSrc (fl.a)
  let b ← decEnB x (fl.b)
  guard (fl.m / 8 % 2 = 0)
  let sc ← some (decide (fl.m / 4 % 2 = 1))
  guard (fl.m / 2 % 2 = 0)
  guard (fl.m / 1 % 2 = 0)
  let scope ← decFin 4 (fl.f)
  return .aswp d a b sc scope

/-- Reads ACAS from its syllable. -/
def dec_acas (w : Nat) (x : Option (BitVec 16)) : Option Instr := do
  let fl := RFields.of w
  let d ← decDst fl.d fl.n
  let a ← decSrc (fl.a)
  let b ← decEnB x (fl.b)
  guard (fl.m / 8 % 2 = 0)
  let sc ← some (decide (fl.m / 4 % 2 = 1))
  guard (fl.m / 2 % 2 = 0)
  guard (fl.m / 1 % 2 = 0)
  let scope ← decFin 4 (fl.f)
  return .acas d a b sc scope

/-- Reads ARED from its syllable. -/
def dec_ared (w : Nat) (x : Option (BitVec 16)) : Option Instr := do
  let fl := RFields.of w
  guard (fl.d = 0)
  let a ← decSrc (fl.a)
  let b ← decEnB x (fl.b)
  guard (fl.m / 8 % 2 = 0)
  guard (fl.m / 4 % 2 = 0)
  guard (fl.m / 2 % 2 = 0)
  guard (fl.m / 1 % 2 = 0)
  let scope ← decFin 4 (fl.f)
  guard (fl.n = 0)
  return .ared a b scope

/-- Reads ALOCK from its syllable. -/
def dec_alock (w : Nat) (x : Option (BitVec 16)) : Option Instr := do
  let fl := RFields.of w
  let d ← decDst fl.d fl.n
  let a ← decSrc (fl.a)
  guard (fl.b = 0)
  guard (fl.m / 8 % 2 = 0)
  let sc ← some (decide (fl.m / 4 % 2 = 1))
  guard (fl.m / 2 % 2 = 0)
  guard (fl.m / 1 % 2 = 0)
  let scope ← decFin 4 (fl.f)
  guard (x = none)
  return .alock d a sc scope

/-- Reads AUNLK from its syllable. -/
def dec_aunlk (w : Nat) (x : Option (BitVec 16)) : Option Instr := do
  let fl := RFields.of w
  guard (fl.d = 0)
  let a ← decSrc (fl.a)
  guard (fl.b = 0)
  guard (fl.m / 8 % 2 = 0)
  let sc ← some (decide (fl.m / 4 % 2 = 1))
  guard (fl.m / 2 % 2 = 0)
  guard (fl.m / 1 % 2 = 0)
  let scope ← decFin 4 (fl.f)
  guard (fl.n = 0)
  guard (x = none)
  return .aunlk a sc scope

/-- Reads BARC from its syllable. -/
def dec_barc (w : Nat) (x : Option (BitVec 16)) : Option Instr := do
  let fl := RFields.of w
  let d ← decDst fl.d fl.n
  let a ← decSrc (fl.a)
  let b ← decEnB x (fl.b)
  guard (fl.m / 8 % 2 = 0)
  guard (fl.m / 4 % 2 = 0)
  guard (fl.m / 2 % 2 = 0)
  guard (fl.m / 1 % 2 = 0)
  let scope ← decFin 4 (fl.f)
  return .barc d a b scope

/-- Reads BARW from its syllable. -/
def dec_barw (w : Nat) (x : Option (BitVec 16)) : Option Instr := do
  let fl := RFields.of w
  let d ← decDst fl.d fl.n
  let a ← decSrc (fl.a)
  let b ← decEnB x (fl.b)
  guard (fl.m / 8 % 2 = 0)
  guard (fl.m / 4 % 2 = 0)
  guard (fl.m / 2 % 2 = 0)
  guard (fl.m / 1 % 2 = 0)
  let scope ← decFin 4 (fl.f)
  return .barw d a b scope

/-- Reads TSPAWN from its syllable. -/
def dec_tspawn (w : Nat) (x : Option (BitVec 16)) : Option Instr := do
  let fl := RFields.of w
  let d ← decDst fl.d fl.n
  let a ← decSrc (fl.a)
  let b ← decEnB x (fl.b)
  guard (fl.m / 8 % 2 = 0)
  guard (fl.m / 4 % 2 = 0)
  guard (fl.m / 2 % 2 = 0)
  guard (fl.m / 1 % 2 = 0)
  guard (fl.f = 0)
  return .tspawn d a b

/-- Reads TDEC from its syllable. -/
def dec_tdec (w : Nat) (x : Option (BitVec 16)) : Option Instr := do
  let fl := RFields.of w
  guard (fl.d = 0)
  let a ← decSrc (fl.a)
  guard (fl.b = 0)
  guard (fl.m / 8 % 2 = 0)
  guard (fl.m / 4 % 2 = 0)
  guard (fl.m / 2 % 2 = 0)
  guard (fl.m / 1 % 2 = 0)
  guard (fl.f = 0)
  guard (fl.n = 0)
  guard (x = none)
  return .tdec a

/-- Reads TDONE from its syllable. -/
def dec_tdone (w : Nat) (x : Option (BitVec 16)) : Option Instr := do
  let fl := RFields.of w
  guard (fl.d = 0)
  guard (fl.a = 0)
  guard (fl.b = 0)
  guard (fl.m / 8 % 2 = 0)
  guard (fl.m / 4 % 2 = 0)
  guard (fl.m / 2 % 2 = 0)
  guard (fl.m / 1 % 2 = 0)
  guard (fl.f = 0)
  guard (fl.n = 0)
  guard (x = none)
  return .tdone 

/-- Reads QPOP from its syllable. -/
def dec_qpop (w : Nat) (x : Option (BitVec 16)) : Option Instr := do
  let fl := RFields.of w
  let d ← decDst fl.d fl.n
  let a ← decSrc (fl.a)
  guard (fl.b = 0)
  guard (fl.m / 8 % 2 = 0)
  guard (fl.m / 4 % 2 = 0)
  guard (fl.m / 2 % 2 = 0)
  guard (fl.m / 1 % 2 = 0)
  guard (fl.f = 0)
  guard (x = none)
  return .qpop d a

/-- Reads QPUSH from its syllable. -/
def dec_qpush (w : Nat) (x : Option (BitVec 16)) : Option Instr := do
  let fl := RFields.of w
  let d ← decDst fl.d fl.n
  let a ← decSrc (fl.a)
  let b ← decEnB x (fl.b)
  guard (fl.m / 8 % 2 = 0)
  guard (fl.m / 4 % 2 = 0)
  guard (fl.m / 2 % 2 = 0)
  guard (fl.m / 1 % 2 = 0)
  guard (fl.f = 0)
  return .qpush d a b

/-- Reads QSTAT from its syllable. -/
def dec_qstat (w : Nat) (x : Option (BitVec 16)) : Option Instr := do
  let fl := RFields.of w
  let d ← decDst fl.d fl.n
  let a ← decSrc (fl.a)
  guard (fl.b = 0)
  guard (fl.m / 8 % 2 = 0)
  guard (fl.m / 4 % 2 = 0)
  guard (fl.m / 2 % 2 = 0)
  guard (fl.m / 1 % 2 = 0)
  guard (fl.f = 0)
  guard (x = none)
  return .qstat d a

/-- Reads PHEND from its syllable. -/
def dec_phend (w : Nat) (x : Option (BitVec 16)) : Option Instr := do
  let fl := RFields.of w
  guard (fl.d = 0)
  guard (fl.a = 0)
  guard (fl.b = 0)
  guard (fl.m / 8 % 2 = 0)
  guard (fl.m / 4 % 2 = 0)
  guard (fl.m / 2 % 2 = 0)
  guard (fl.m / 1 % 2 = 0)
  guard (fl.f = 0)
  guard (fl.n = 0)
  guard (x = none)
  return .phend 

/-- Reads RMACK from its syllable. -/
def dec_rmack (w : Nat) (x : Option (BitVec 16)) : Option Instr := do
  let fl := RFields.of w
  guard (fl.d = 0)
  let a ← decSrc (fl.a)
  guard (fl.b = 0)
  guard (fl.m / 8 % 2 = 0)
  guard (fl.m / 4 % 2 = 0)
  guard (fl.m / 2 % 2 = 0)
  guard (fl.m / 1 % 2 = 0)
  guard (fl.f = 0)
  guard (fl.n = 0)
  guard (x = none)
  return .rmack a

/-- Reads DRAIN from its syllable. -/
def dec_drain (w : Nat) (x : Option (BitVec 16)) : Option Instr := do
  let fl := RFields.of w
  guard (fl.d = 0)
  guard (fl.a = 0)
  guard (fl.b = 0)
  guard (fl.m / 8 % 2 = 0)
  guard (fl.m / 4 % 2 = 0)
  guard (fl.m / 2 % 2 = 0)
  guard (fl.m / 1 % 2 = 0)
  let scope ← decFin 4 (fl.f)
  guard (fl.n = 0)
  guard (x = none)
  return .drain scope

/-- Reads XFENCE from its syllable. -/
def dec_xfence (w : Nat) (x : Option (BitVec 16)) : Option Instr := do
  let fl := RFields.of w
  guard (fl.d = 0)
  let f ← decFin 8 (fl.a)
  let t ← decFin 8 (fl.b)
  guard (fl.m / 8 % 2 = 0)
  guard (fl.m / 4 % 2 = 0)
  guard (fl.m / 2 % 2 = 0)
  guard (fl.m / 1 % 2 = 0)
  guard (fl.f = 0)
  guard (fl.n = 0)
  guard (x = none)
  return .xfence f t

/-- Reads TRAP from its syllable. -/
def dec_trap (w : Nat) (x : Option (BitVec 16)) : Option Instr := do
  let fl := RFields.of w
  guard (fl.d = 0)
  let a ← decSrc (fl.a)
  let n ← decFin 64 (fl.b)
  guard (fl.m / 8 % 2 = 0)
  guard (fl.m / 4 % 2 = 0)
  guard (fl.m / 2 % 2 = 0)
  guard (fl.m / 1 % 2 = 0)
  guard (fl.f = 0)
  guard (fl.n = 0)
  guard (x = none)
  return .trap a n

/-- Reads XRET from its syllable. -/
def dec_xret (w : Nat) (x : Option (BitVec 16)) : Option Instr := do
  let fl := RFields.of w
  guard (fl.d = 0)
  guard (fl.a = 0)
  let act ← decFin 3 (fl.b)
  guard (fl.m / 8 % 2 = 0)
  guard (fl.m / 4 % 2 = 0)
  guard (fl.m / 2 % 2 = 0)
  guard (fl.m / 1 % 2 = 0)
  guard (fl.f = 0)
  guard (fl.n = 0)
  guard (x = none)
  return .xret act

/-- Reads HALT from its syllable. -/
def dec_halt (w : Nat) (x : Option (BitVec 16)) : Option Instr := do
  let fl := RFields.of w
  guard (fl.d = 0)
  guard (fl.a = 0)
  guard (fl.b = 0)
  guard (fl.m / 8 % 2 = 0)
  guard (fl.m / 4 % 2 = 0)
  guard (fl.m / 2 % 2 = 0)
  guard (fl.m / 1 % 2 = 0)
  guard (fl.f = 0)
  guard (fl.n = 0)
  guard (x = none)
  return .halt 

/-- Reads BDPKT from its syllable. -/
def dec_bdpkt (w : Nat) (x : Option (BitVec 16)) : Option Instr := do
  let fl := RFields.of w
  guard (fl.d = 0)
  let a ← decSrc (fl.a)
  guard (fl.b = 0)
  guard (fl.m / 8 % 2 = 0)
  guard (fl.m / 4 % 2 = 0)
  guard (fl.m / 2 % 2 = 0)
  guard (fl.m / 1 % 2 = 0)
  guard (fl.f = 0)
  guard (fl.n = 0)
  guard (x = none)
  return .bdpkt a

/-- Reads BDRSP from its syllable. -/
def dec_bdrsp (w : Nat) (x : Option (BitVec 16)) : Option Instr := do
  let fl := RFields.of w
  let d ← decFin 48 (fl.d)
  let a ← decSrc (fl.a)
  guard (fl.b = 0)
  guard (fl.m / 8 % 2 = 0)
  guard (fl.m / 4 % 2 = 0)
  guard (fl.m / 2 % 2 = 0)
  guard (fl.m / 1 % 2 = 0)
  guard (fl.f = 0)
  guard (fl.n = 0)
  guard (x = none)
  return .bdrsp d a

/-- EN syllables (R115, R116, R121): `none` where the code is empty (ILLEGAL_OPCODE), `some none` where the encoding is
reserved. -/
def decEN (w : Nat) (x : Option (BitVec 16)) : Option (Option Instr) :=
  match w / 67108864 with
  | 0 => some (dec_cpy w x)
  | 1 => some (dec_cwait w x)
  | 2 => some (dec_ctest w x)
  | 3 => some (dec_ccancel w x)
  | 4 => some (dec_rput w x)
  | 5 => some (dec_rflag w x)
  | 6 => some (dec_rfence w x)
  | 7 => some (dec_halo w x)
  | 8 => some (dec_hwait w x)
  | 12 => some (dec_tidw w x)
  | 13 => some (dec_tidr w x)
  | 14 => some (dec_tidinv w x)
  | 15 => some (dec_layset w x)
  | 16 => some (dec_coll w x)
  | 17 => some (dec_clwait w x)
  | 18 => some (dec_reshard w x)
  | 19 => some (dec_gathj w x)
  | 24 => some (dec_aadd w x)
  | 25 => some (dec_amin w x)
  | 26 => some (dec_amax w x)
  | 27 => some (dec_aand w x)
  | 28 => some (dec_aor w x)
  | 29 => some (dec_axor w x)
  | 30 => some (dec_aswp w x)
  | 31 => some (dec_acas w x)
  | 32 => some (dec_ared w x)
  | 33 => some (dec_alock w x)
  | 34 => some (dec_aunlk w x)
  | 35 => some (dec_barc w x)
  | 36 => some (dec_barw w x)
  | 40 => some (dec_tspawn w x)
  | 41 => some (dec_tdec w x)
  | 42 => some (dec_tdone w x)
  | 43 => some (dec_qpop w x)
  | 44 => some (dec_qpush w x)
  | 45 => some (dec_qstat w x)
  | 48 => some (dec_phend w x)
  | 49 => some (dec_rmack w x)
  | 50 => some (dec_drain w x)
  | 51 => some (dec_xfence w x)
  | 52 => some (dec_trap w x)
  | 53 => some (dec_xret w x)
  | 54 => some (dec_halt w x)
  | 62 => some (dec_bdpkt w x)
  | 63 => some (dec_bdrsp w x)
  | _ => none

/-- The syllable in slot `s`: `none` for an empty code. RPT of the header goes to the MX syllable (R100). -/
def decSlot (s : Slot) (rpt : Rpt) (w : Nat) (x : Option (BitVec 16)) : Option (Option Instr) :=
  match s with
  | .sa => decScalar .sa w x
  | .sb => if w / 67108864 < 0x30 then decScalar .sb w x else decSB w x
  | .va => decVector .va w x
  | .vb => if w / 67108864 < 0x32 then decVector .vb w x else decVB w x
  | .mx => decMX rpt w x
  | .ls => decLS w x
  | .wy => decWY w x
  | .tg => decTG w x
  | .en => decEN w x

/-- A syllable, checked whole: the code, the fields of its layout, and the checks of `Instr.wellFormed`. -/
def decodeSyl (s : Slot) (rpt : Rpt) (w : Word) (x : Option (BitVec 16)) : Except DecErr Instr :=
  match decSlot s rpt w.toNat x with
  | none => .error .illegalOpcode
  | some none => .error .reservedEncoding
  | some (some i) => if i.wellFormed then .ok i else .error .reservedEncoding

/-- Whether the instruction whose syllable stands in slot `s` takes an immediate (R98, R101, R108, R110, R113,
R114, R116). An empty code has no instruction, so the header rule of R98 does not bear on it. -/
def takesImm (s : Slot) (w : Word) : Bool :=
  let c := w.toNat / 67108864
  let immForm := w.toNat / 4 % 2 = 1
  let scalar := ((c ≤ 2 || (5 ≤ c && c ≤ 16)) && immForm) || c = 26 || c = 27
  match s with
  | .sa => scalar || (c = 31 || 48 ≤ c)
  | .sb => scalar || (55 ≤ c && c ≤ 59) || c = 61 || c = 31
  | .va => true
  | .vb => false
  | .mx => false
  | .ls => c ≠ 6 && c ≠ 7 && c ≠ 14 && c ≠ 15
  | .wy => c ≠ 6 && c ≠ 7 && c ≠ 14 && c ≠ 15
  | .tg => c = 0 || 8 ≤ c
  | .en => c = 5 || c = 12 || (16 ≤ c && c ≤ 19) || (24 ≤ c && c ≤ 32) || c = 35 || c = 36 || c = 40 || c = 44
      || (9 ≤ c && c ≤ 11) || (20 ≤ c && c ≤ 23) || (37 ≤ c && c ≤ 39) || c = 46 || c = 47 || (55 ≤ c && c ≤ 61)

/-- The slots in presence-mask order (R96). -/
def allSlots : List Slot := [.sa, .sb, .va, .vb, .mx, .ls, .wy, .tg, .en]

/-- A slot's bit in the header's presence mask (R97). -/
def Slot.maskBit : Slot → Nat
  | .sa => 31 | .sb => 30 | .va => 29 | .vb => 28 | .mx => 27 | .ls => 26 | .wy => 25 | .tg => 24 | .en => 23

/-- SLOT of a trap record and of ctl.tinfo0 (R349): 1 to 9. -/
def Slot.num : Slot → Nat
  | .sa => 1 | .sb => 2 | .va => 3 | .vb => 4 | .mx => 5 | .ls => 6 | .wy => 7 | .tg => 8 | .en => 9

/-- The slot that XT names (R97). -/
def xtSlot : Nat → Option Slot
  | 1 => some .sa | 2 => some .sb | 3 => some .va | 4 => some .ls | 5 => some .wy | 6 => some .tg | 7 => some .en
  | _ => none

/-- RPT of the header (R97). -/
def decRpt : Nat → Rpt
  | 1 => .areg 0 | 2 => .areg 1 | 3 => .areg 2 | 4 => .areg 3 | 5 => .n16 | 6 => .n64 | 7 => .n256 | _ => .none
/-- The RPT field. -/
def encRpt : Rpt → Nat | .none => 0 | .areg k => 1 + k.val | .n16 => 5 | .n64 => 6 | .n256 => 7

/-- The slots present in a header (R96, R97). -/
def presentSlots (h : Word) : List Slot := allSlots.filter fun s => h.getLsbD s.maskBit

/-- A bundle as decoded: its length in words, S, and its syllables in presence-mask order, each read or rejected
by name (R117 step 2). A no-operation bundle has none. -/
structure Bundle where
  nwords : Nat
  stop : Bool
  syls : List (Slot × Except DecErr Instr)
  deriving Repr

/-- LOOP's OFF16, extended, must be greater than the length of its bundle in words (R144). -/
def loopLenOk (n : Nat) : Instr → Bool
  | .loop _ off =>
    (match off.ext with
     | none => off.lo.toInt
     | some h => (h ++ off.lo).toInt) > (n : Int)
  | _ => true

/-- The header rules of R98 (step 1 of R117). -/
def headerOk (h : Word) (body : List (Slot × Word)) : Bool :=
  let rpt := h.toNat / 524288 % 8
  let xt := h.toNat / 65536 % 8
  let ximm := h.toNat % 65536
  if body.isEmpty then rpt = 0 && xt = 0 && ximm = 0
  else
    (rpt = 0 || body.any fun p => p.1 = .mx) &&
    (match xtSlot xt with
     | none => ximm = 0
     | some s => body.any fun p => p.1 = s && takesImm s p.2)

/-- Decodes a bundle from its header and the words after it; `none` where a rule of R98 is broken. Missing words
read as zero: the caller gives as many as the header asks for. -/
def decodeBundle (h : Word) (ws : List Word) : Option Bundle :=
  let slots := presentSlots h
  let body := slots.zip (ws ++ List.replicate 9 0)
  if headerOk h body then
    let xs := xtSlot (h.toNat / 65536 % 8)
    let rpt := decRpt (h.toNat / 524288 % 8)
    let n := slots.length + 1
    some
      { nwords := n, stop := h.getLsbD 22,
        syls := body.map fun p =>
          let x := if xs = some p.1 then some (BitVec.ofNat 16 h.toNat) else none
          (p.1, match decodeSyl p.1 rpt p.2 x with
            | .ok i => if loopLenOk n i then .ok i else .error .reservedEncoding
            | .error e => .error e) }
  else none

/-! ### The encoder -/

/-- A word in the common layout (R103). -/
def encR (opc d a b m n f : Nat) : Nat :=
  opc * 67108864 + d * 1048576 + a * 16384 + b * 256 + m * 16 + n * 8 + f
/-- A word in the immediate or branch form (R108). -/
def encI (opc d : Nat) (imm : BitVec 16) (n f : Nat) : Nat :=
  opc * 67108864 + d * 1048576 + imm.toNat * 16 + n * 8 + f
/-- A word in the MX layout (R112). -/
def encX (opc idx zt sw shp sreg : Nat) : Nat :=
  opc * 67108864 + idx * 262144 + zt * 32768 + sw * 16384 + shp * 4096 + sreg * 64
/-- A word in form M (R113). -/
def encM (opc data base : Nat) (off : BitVec 7) (pred f w c : Nat) : Nat :=
  opc * 67108864 + data * 1048576 + base * 16384 + off.toNat * 128 + pred * 16 + f * 8 + w * 4 + c * 2
/-- A word in PROBE's layout (R114). -/
def encP (opc d a : Nat) (off : BitVec 10) : Nat := opc * 67108864 + d * 1048576 + a * 16384 + off.toNat * 16

/-- The syllable of an instruction, from the layouts of R103 to R115; 0 for a row without an encoding. -/
def encodeSyl : Instr → Nat
  | .add _ d a b w sat => encR 0 (encDst d) (encSrc a) (encSrc b) (encSat sat) (nwDst d) (encIntW w)
  | .addImm _ d imm w => encI 0 (encDst d) imm.lo (nwDst d) (4 + encIntW w)
  | .sub _ d a b w sat => encR 1 (encDst d) (encSrc a) (encSrc b) (encSat sat) (nwDst d) (encIntW w)
  | .subImm _ d imm w => encI 1 (encDst d) imm.lo (nwDst d) (4 + encIntW w)
  | .mul _ d a b w sat => encR 2 (encDst d) (encSrc a) (encSrc b) (encSat sat) (nwDst d) (encIntW w)
  | .mulImm _ d imm w => encI 2 (encDst d) imm.lo (nwDst d) (4 + encIntW w)
  | .mulh _ d a b w => encR 3 (encDst d) (encSrc a) (encSrc b) (0) (nwDst d) (encIntW w)
  | .mulhu _ d a b w => encR 4 (encDst d) (encSrc a) (encSrc b) (0) (nwDst d) (encIntW w)
  | .and _ d a b w => encR 5 (encDst d) (encSrc a) (encSrc b) (0) (nwDst d) (encIntW w)
  | .andImm _ d imm w => encI 5 (encDst d) imm.lo (nwDst d) (4 + encIntW w)
  | .or _ d a b w => encR 6 (encDst d) (encSrc a) (encSrc b) (0) (nwDst d) (encIntW w)
  | .orImm _ d imm w => encI 6 (encDst d) imm.lo (nwDst d) (4 + encIntW w)
  | .xor _ d a b w => encR 7 (encDst d) (encSrc a) (encSrc b) (0) (nwDst d) (encIntW w)
  | .xorImm _ d imm w => encI 7 (encDst d) imm.lo (nwDst d) (4 + encIntW w)
  | .andn _ d a b w => encR 8 (encDst d) (encSrc a) (encSrc b) (0) (nwDst d) (encIntW w)
  | .andnImm _ d imm w => encI 8 (encDst d) imm.lo (nwDst d) (4 + encIntW w)
  | .shl _ d a b w => encR 9 (encDst d) (encSrc a) (encSrc b) (0) (nwDst d) (encIntW w)
  | .shlImm _ d imm w => encI 9 (encDst d) imm.lo (nwDst d) (4 + encIntW w)
  | .shr _ d a b w => encR 10 (encDst d) (encSrc a) (encSrc b) (0) (nwDst d) (encIntW w)
  | .shrImm _ d imm w => encI 10 (encDst d) imm.lo (nwDst d) (4 + encIntW w)
  | .sra _ d a b w => encR 11 (encDst d) (encSrc a) (encSrc b) (0) (nwDst d) (encIntW w)
  | .sraImm _ d imm w => encI 11 (encDst d) imm.lo (nwDst d) (4 + encIntW w)
  | .rot _ d a b w => encR 12 (encDst d) (encSrc a) (encSrc b) (0) (nwDst d) (encIntW w)
  | .rotImm _ d imm w => encI 12 (encDst d) imm.lo (nwDst d) (4 + encIntW w)
  | .min _ d a b w => encR 13 (encDst d) (encSrc a) (encSrc b) (0) (nwDst d) (encIntW w)
  | .minImm _ d imm w => encI 13 (encDst d) imm.lo (nwDst d) (4 + encIntW w)
  | .max _ d a b w => encR 14 (encDst d) (encSrc a) (encSrc b) (0) (nwDst d) (encIntW w)
  | .maxImm _ d imm w => encI 14 (encDst d) imm.lo (nwDst d) (4 + encIntW w)
  | .minu _ d a b w => encR 15 (encDst d) (encSrc a) (encSrc b) (0) (nwDst d) (encIntW w)
  | .minuImm _ d imm w => encI 15 (encDst d) imm.lo (nwDst d) (4 + encIntW w)
  | .maxu _ d a b w => encR 16 (encDst d) (encSrc a) (encSrc b) (0) (nwDst d) (encIntW w)
  | .maxuImm _ d imm w => encI 16 (encDst d) imm.lo (nwDst d) (4 + encIntW w)
  | .clz _ d a w => encR 17 (encDst d) (encSrc a) (0) (0) (nwDst d) (encIntW w)
  | .ctz _ d a w => encR 18 (encDst d) (encSrc a) (0) (0) (nwDst d) (encIntW w)
  | .popc _ d a w => encR 19 (encDst d) (encSrc a) (0) (0) (nwDst d) (encIntW w)
  | .sext _ d a w => encR 20 (encDst d) (encSrc a) (0) (0) (nwDst d) (encIntW w)
  | .zext _ d a w => encR 21 (encDst d) (encSrc a) (0) (0) (nwDst d) (encIntW w)
  | .bfx _ d a b => encR 22 (encDst d) (encSrc a) (encSrc b) (0) (nwDst d) (3)
  | .bfi _ d a b => encR 23 (encDst d) (encSrc a) (encSrc b) (0) (nwDst d) (3)
  | .sel _ d a b w => encR 24 (encDst d) (encSrc a) (encSrc b) (0) (nwDst d) (encIntW w)
  | .mov _ d a w => encR 25 (encDst d) (encSrc a) (0) (0) (nwDst d) (encIntW w)
  | .movi _ d imm w => encI 26 (encDst d) imm.lo (nwDst d) (4 + encIntW w)
  | .movhi _ d imm => encI 27 (encDst d) imm.lo (nwDst d) (7)
  | .cmp _ d a b w cond => encR 28 (encDst d) (encSrc a) (encSrc b) (encCond cond) (nwDst d) (encIntW w)
  | .schk _ a b => encR 29 (0) (encSrc a) (encSrc b) (0) (0) (3)
  | .wfld _ d a level => encR 30 (encDst d) (encSrc a) (level.val) (0) (nwDst d) (3)
  | .fadd _ d a b f rq => encR 32 (encDst d) (encSrc a) (encSrc b) (encRq rq) (nwDst d) (encFFmt f)
  | .fsub _ d a b f rq => encR 33 (encDst d) (encSrc a) (encSrc b) (encRq rq) (nwDst d) (encFFmt f)
  | .fmul _ d a b f rq => encR 34 (encDst d) (encSrc a) (encSrc b) (encRq rq) (nwDst d) (encFFmt f)
  | .ffma _ d a b f rq => encR 35 (encDst d) (encSrc a) (encSrc b) (encRq rq) (nwDst d) (encFFmt f)
  | .fmin _ d a b f => encR 36 (encDst d) (encSrc a) (encSrc b) (0) (nwDst d) (encFFmt f)
  | .fmax _ d a b f => encR 37 (encDst d) (encSrc a) (encSrc b) (0) (nwDst d) (encFFmt f)
  | .fabs _ d a f => encR 38 (encDst d) (encSrc a) (0) (0) (nwDst d) (encFFmt f)
  | .fneg _ d a f => encR 39 (encDst d) (encSrc a) (0) (0) (nwDst d) (encFFmt f)
  | .fcmp _ d a b f cond => encR 40 (encDst d) (encSrc a) (encSrc b) (encCond cond) (nwDst d) (encFFmt f)
  | .fcvt _ d a res src rq => encR 41 (encDst d) (encSrc a) (8 * encRq rq + encFmt src) (0) (nwDst d) (encFmt res)
  | .fclass _ d a f => encR 42 (encDst d) (encSrc a) (0) (0) (nwDst d) (encFFmt f)
  | .ctlr _ d c => encR 43 (encDst d) (0) (c.val) (0) (nwDst d) (3)
  | .ctlw _ a c => encR 44 (0) (encSrc a) (c.val) (0) (0) (3)
  | .shw _ h a field fmt => encR 45 (h.val) (encSrc a) (field.val) (0) (0) (fmt.val)
  | .mpw _ m a => encR 46 (m.val) (encSrc a) (0) (0) (0) (3)
  | .awr _ r part a => encR 47 (r.val + 8 * encAwrPart part) (encSrc a) (0) (0) (0) (3)
  | .div d a b w => encR 48 (encDst d) (encSrc a) (encSrc b) (0) (nwDst d) (encIntW w)
  | .divu d a b w => encR 49 (encDst d) (encSrc a) (encSrc b) (0) (nwDst d) (encIntW w)
  | .rem d a b w => encR 50 (encDst d) (encSrc a) (encSrc b) (0) (nwDst d) (encIntW w)
  | .remu d a b w => encR 51 (encDst d) (encSrc a) (encSrc b) (0) (nwDst d) (encIntW w)
  | .fdiv d a b f rq => encR 52 (encDst d) (encSrc a) (encSrc b) (encRq rq) (nwDst d) (encFFmt f)
  | .fsqrt d a f rq => encR 53 (encDst d) (encSrc a) (0) (encRq rq) (nwDst d) (encFFmt f)
  | .yield  => encR 54 (0) (0) (0) (0) (0) (0)
  | .loop count off => encI 55 (encSrc count) off.lo 0 0
  | .br off => encI 56 (0) off.lo 0 0
  | .bz r off => encI 57 (encSrc r) off.lo 0 0
  | .bnz r off => encI 58 (encSrc r) off.lo 0 0
  | .bp p test off => encI 59 (p.val + 16 * encBpTest test) off.lo 0 0
  | .jmp a fmt => encR 60 (0) (encSrc a) (0) (0) (0) (fmt.val)
  | .call d off => encI 61 (d.val) off.lo 0 0
  | .callr d a fmt => encR 62 (encDst d) (encSrc a) (0) (0) (nwDst d) (fmt.val)
  | .ret a fmt => encR 63 (0) (encSrc a) (0) (0) (0) (fmt.val)
  | .vadd _ d a b p f _ => encR 0 (encDst d) (encSrc a) (encSrc b) (p.val) (nwDst d) (encFmt f)
  | .vsub _ d a b p f _ => encR 1 (encDst d) (encSrc a) (encSrc b) (p.val) (nwDst d) (encFmt f)
  | .vmul _ d a b p f _ => encR 2 (encDst d) (encSrc a) (encSrc b) (p.val) (nwDst d) (encFmt f)
  | .vfma _ d a b p f _ => encR 4 (encDst d) (encSrc a) (encSrc b) (p.val) (nwDst d) (encFmt f)
  | .vfms _ d a b p f _ => encR 5 (encDst d) (encSrc a) (encSrc b) (p.val) (nwDst d) (encFmt f)
  | .vmulh _ d a b p w _ => encR 3 (encDst d) (encSrc a) (encSrc b) (p.val) (nwDst d) (encIntW w)
  | .vneg _ d a p f _ => encR 6 (encDst d) (encSrc a) (0) (p.val) (nwDst d) (encFmt f)
  | .vabs _ d a p f _ => encR 7 (encDst d) (encSrc a) (0) (p.val) (nwDst d) (encFmt f)
  | .vmin _ d a b p f _ => encR 8 (encDst d) (encSrc a) (encSrc b) (p.val) (nwDst d) (encFmt f)
  | .vmax _ d a b p f _ => encR 9 (encDst d) (encSrc a) (encSrc b) (p.val) (nwDst d) (encFmt f)
  | .vdot4 _ d a b p w _ => encR 10 (encDst d) (encSrc a) (encSrc b) (p.val) (nwDst d) (encIntW w)
  | .vand _ d a b p w _ => encR 11 (encDst d) (encSrc a) (encSrc b) (p.val) (nwDst d) (encIntW w)
  | .vor _ d a b p w _ => encR 12 (encDst d) (encSrc a) (encSrc b) (p.val) (nwDst d) (encIntW w)
  | .vxor _ d a b p w _ => encR 13 (encDst d) (encSrc a) (encSrc b) (p.val) (nwDst d) (encIntW w)
  | .vandn _ d a b p w _ => encR 14 (encDst d) (encSrc a) (encSrc b) (p.val) (nwDst d) (encIntW w)
  | .vshl _ d a b p w _ => encR 15 (encDst d) (encSrc a) (encSrc b) (p.val) (nwDst d) (encIntW w)
  | .vshr _ d a b p w _ => encR 16 (encDst d) (encSrc a) (encSrc b) (p.val) (nwDst d) (encIntW w)
  | .vsra _ d a b p w _ => encR 17 (encDst d) (encSrc a) (encSrc b) (p.val) (nwDst d) (encIntW w)
  | .vcmp _ d a b cond f _ => encR 18 (encPDst d) (encSrc a) (encSrc b) (encCond cond) (nwPDst d) (encFmt f)
  | .vsel _ d a b p f _ => encR 19 (encDst d) (encSrc a) (encSrc b) (p.val) (nwDst d) (encFmt f)
  | .vmov _ d a p f _ => encR 20 (encDst d) (encSrc a) (0) (p.val) (nwDst d) (encFmt f)
  | .vbcast _ d a p f _ => encR 21 (encDst d) (encSrc a) (0) (p.val) (nwDst d) (encFmt f)
  | .vextr _ d a b f _ => encR 22 (encDst d) (encSrc a) (encSrc b) (0) (nwDst d) (encFmt f)
  | .vins _ d a b f _ => encR 23 (encDst d) (encSrc a) (encSrc b) (0) (nwDst d) (encFmt f)
  | .viota _ d a b p f _ => encR 24 (encDst d) (encSrc a) (encSrc b) (p.val) (nwDst d) (encFmt f)
  | .vcvt _ d a src rq p f _ => encR 25 (encDst d) (encSrc a) (8 * encRq rq + encFmt src) (p.val) (nwDst d) (encFmt f)
  | .vbfpk _ d a wm1 rq p f _ => encR 26 (encDst d) (encSrc a) (8 * encRq rq + wm1.val) (p.val) (nwDst d) (encFFmt f)
  | .vbfup _ d a wm1 rq p f _ => encR 27 (encDst d) (encSrc a) (8 * encRq rq + wm1.val) (p.val) (nwDst d) (encFFmt f)
  | .vperm _ d a b p w _ => encR 28 (encDst d) (encSrc a) (encSrc b) (p.val) (nwDst d) (encIntW w)
  | .vshuf _ d a b p w _ => encR 29 (encDst d) (encSrc a) (encSrc b) (p.val) (nwDst d) (encIntW w)
  | .vslide _ d a b p f _ => encR 30 (encDst d) (encSrc a) (encSrc b) (p.val) (nwDst d) (encFmt f)
  | .vcompr _ d a p f _ => encR 31 (encDst d) (encSrc a) (0) (p.val) (nwDst d) (encFmt f)
  | .vexpand _ d a p f _ => encR 32 (encDst d) (encSrc a) (0) (p.val) (nwDst d) (encFmt f)
  | .vrsum _ d a p f _ => encR 33 (encDst d) (encSrc a) (0) (p.val) (nwDst d) (encFmt f)
  | .vrmax _ d a p f _ => encR 34 (encDst d) (encSrc a) (0) (p.val) (nwDst d) (encFmt f)
  | .vrmin _ d a p f _ => encR 35 (encDst d) (encSrc a) (0) (p.val) (nwDst d) (encFmt f)
  | .vscan _ d a p f _ => encR 36 (encDst d) (encSrc a) (0) (p.val) (nwDst d) (encFmt f)
  | .vchk _ a b p f _ => encR 37 (0) (encSrc a) (encSrc b) (p.val) (0) (encFmt f)
  | .pand _ d a b p _ => encR 40 (encPDst d) (a.val) (b.val) (p.val) (nwPDst d) (0)
  | .por _ d a b p _ => encR 41 (encPDst d) (a.val) (b.val) (p.val) (nwPDst d) (0)
  | .pxor _ d a b p _ => encR 42 (encPDst d) (a.val) (b.val) (p.val) (nwPDst d) (0)
  | .pnot _ d a p _ => encR 43 (encPDst d) (a.val) (0) (p.val) (nwPDst d) (0)
  | .pcnt _ d a p w _ => encR 44 (encDst d) (a.val) (0) (p.val) (nwDst d) (encIntW w)
  | .pfirst _ d a p w _ => encR 45 (encDst d) (a.val) (0) (p.val) (nwDst d) (encIntW w)
  | .pmov _ d a p _ => encR 46 (encPDst d) (a.val) (0) (p.val) (nwPDst d) (0)
  | .ppack _ d a _ => encR 47 (encDst d) (encOct a) (0) (0) (nwDst d) (0)
  | .punpk _ d nw a _ => encR 48 (encOct d) (encSrc a) (0) (0) (encBool nw) (0)
  | .vrcp d a p f => encR 50 (encDst d) (encSrc a) (0) (p.val) (nwDst d) (encFFmt f)
  | .vrsq d a p f => encR 51 (encDst d) (encSrc a) (0) (p.val) (nwDst d) (encFFmt f)
  | .vsqrt d a p f => encR 52 (encDst d) (encSrc a) (0) (p.val) (nwDst d) (encFFmt f)
  | .vdiv d a b p f => encR 53 (encDst d) (encSrc a) (encSrc b) (p.val) (nwDst d) (encFFmt f)
  | .vexp2 d a p f => encR 54 (encDst d) (encSrc a) (0) (p.val) (nwDst d) (encFFmt f)
  | .vlog2 d a p f => encR 55 (encDst d) (encSrc a) (0) (p.val) (nwDst d) (encFFmt f)
  | .vsin d a p f => encR 56 (encDst d) (encSrc a) (0) (p.val) (nwDst d) (encFFmt f)
  | .vcos d a p f => encR 57 (encDst d) (encSrc a) (0) (p.val) (nwDst d) (encFFmt f)
  | .vtanh d a p f => encR 58 (encDst d) (encSrc a) (0) (p.val) (nwDst d) (encFFmt f)
  | .vhist d a b p w => encR 59 (encDst d) (encSrc a) (encSrc b) (p.val) (nwDst d) (encIntW w)
  | .vhmerge d a w => encR 60 (encDst d) (encSrc a) (0) (0) (nwDst d) (encIntW w)
  | .vsort d a p f => encR 61 (encDst d) (encSrc a) (0) (p.val) (nwDst d) (encFmt f)
  | .vsortkv d a b p f => encR 62 (encDst d) (encSrc a) (encSrc b) (p.val) (nwDst d) (encFmt f)
  | .vsrch d a b p f => encR 63 (encDst d) (encSrc a) (encSrc b) (p.val) (nwDst d) (encFmt f)
  | .mcall z r mh sw a _ => encX 0 (r.val) (z.val) (encBool sw) (mh.val) (encSrc a)
  | .mzero z mode _ => encX 1 (encTileMode mode) (z.val) (0) (0) (0)
  | .mrd d z q _ => encX 2 (q.val) (z.val) (0) (0) (d.val)
  | .mwr z q a _ => encX 3 (q.val) (z.val) (0) (0) (a.val)
  | .mst z form a _ => encX 4 (form.val) (z.val) (0) (0) (encSrc a)
  | .mchk z _ => encX 5 (0) (z.val) (0) (0) (0)
  | .mcsr z _ => encX 6 (0) (z.val) (0) (0) (0)
  | .muld r a _ => encX 7 (r.val) (0) (0) (0) (encSrc a)
  | .mout z nm1 a _ => encX 8 (nm1.val) (z.val) (0) (0) (encSrc a)
  | .mwait _ => encX 9 (0) (0) (0) (0) (0)
  | .ldb d base off w c => encM 0 (d.val) (encSrc base) off.lo (0) (0) (encBool w) (encBool c)
  | .ldh d base off w c => encM 1 (d.val) (encSrc base) off.lo (0) (0) (encBool w) (encBool c)
  | .ldw d base off w c => encM 2 (d.val) (encSrc base) off.lo (0) (0) (encBool w) (encBool c)
  | .ldd d base off w c => encM 3 (d.val) (encSrc base) off.lo (0) (0) (encBool w) (encBool c)
  | .ldv d base off p w c => encM 4 (d.val) (encSrc base) off.lo (p.val) (0) (encBool w) (encBool c)
  | .ldp d base off w c => encM 5 (d.val) (encSrc base) off.lo (0) (0) (encBool w) (encBool c)
  | .ldt d base h p w c sw => encR 6 (d.val) (encSrc base) (h.val) (p.val) (0) (4 * (encBool w) + 2 * (encBool c) + encBool sw)
  | .ldg d base idx p w c => encR 7 (d.val) (encSrc base) (idx.val) (p.val) (0) (4 * (encBool w) + 2 * (encBool c) + 0)
  | .stb v base off f => encM 8 (encSrc v) (encSrc base) off.lo (0) (encBool f) (0) (0)
  | .sth v base off f => encM 9 (encSrc v) (encSrc base) off.lo (0) (encBool f) (0) (0)
  | .stw v base off f => encM 10 (encSrc v) (encSrc base) off.lo (0) (encBool f) (0) (0)
  | .std v base off f => encM 11 (encSrc v) (encSrc base) off.lo (0) (encBool f) (0) (0)
  | .stv v base off p f => encM 12 (encSrc v) (encSrc base) off.lo (p.val) (encBool f) (0) (0)
  | .stp v base off f => encM 13 (v.val) (encSrc base) off.lo (0) (encBool f) (0) (0)
  | .stt v base h p f sw => encR 14 (encSrc v) (encSrc base) (h.val) (p.val) (encBool f) (4 * (0) + 2 * (0) + encBool sw)
  | .stg v base idx p f => encR 15 (encSrc v) (encSrc base) (idx.val) (p.val) (encBool f) (4 * (0) + 2 * (0) + 0)
  | .feset base off => encM 16 (0) (encSrc base) off.lo (0) (0) (0) (0)
  | .feclr base off => encM 17 (0) (encSrc base) off.lo (0) (0) (0) (0)
  | .fetst d base off => encM 18 (d.val) (encSrc base) off.lo (0) (0) (0) (0)
  | .wldw d base off w c => encM 2 (d.val) (encSrc base) off.lo (0) (0) (encBool w) (encBool c)
  | .wldd d base off w c => encM 3 (d.val) (encSrc base) off.lo (0) (0) (encBool w) (encBool c)
  | .wldv d base off p w c => encM 4 (d.val) (encSrc base) off.lo (p.val) (0) (encBool w) (encBool c)
  | .wldt d base h p w c sw => encR 6 (d.val) (encSrc base) (h.val) (p.val) (0) (4 * (encBool w) + 2 * (encBool c) + encBool sw)
  | .wldg d base idx p w c => encR 7 (d.val) (encSrc base) (idx.val) (p.val) (0) (4 * (encBool w) + 2 * (encBool c) + 0)
  | .wstw v base off f => encM 10 (encSrc v) (encSrc base) off.lo (0) (encBool f) (0) (0)
  | .wstd v base off f => encM 11 (encSrc v) (encSrc base) off.lo (0) (encBool f) (0) (0)
  | .wstv v base off p f => encM 12 (encSrc v) (encSrc base) off.lo (p.val) (encBool f) (0) (0)
  | .wstt v base h p f sw => encR 14 (encSrc v) (encSrc base) (h.val) (p.val) (encBool f) (4 * (0) + 2 * (0) + encBool sw)
  | .wstg v base idx p f => encR 15 (encSrc v) (encSrc base) (idx.val) (p.val) (encBool f) (4 * (0) + 2 * (0) + 0)
  | .wfeset base off => encM 16 (0) (encSrc base) off.lo (0) (0) (0) (0)
  | .wfeclr base off => encM 17 (0) (encSrc base) off.lo (0) (0) (0) (0)
  | .probe d a off => encP 0 d.val (encSrc a) off.lo
  | .fill d a => encR 1 (d.val) (encSrc a) (0) (0) (0) (0)
  | .evict a => encR 2 (0) (encSrc a) (0) (0) (0) (0)
  | .wback a => encR 3 (0) (encSrc a) (0) (0) (0) (0)
  | .pin d a => encR 4 (d.val) (encSrc a) (0) (0) (0) (0)
  | .unpin a => encR 5 (0) (encSrc a) (0) (0) (0) (0)
  | .tginv a => encR 6 (0) (encSrc a) (0) (0) (0) (0)
  | .tgstat d a => encR 7 (d.val) (encSrc a) (0) (0) (0) (0)
  | .cpy d a eh carry sw => encR 0 (encDst d) (encSrc a) (eh.val) (8 * encBool carry + 1 * encBool sw) (nwDst d) (0)
  | .cwait d a b => encR 1 (encDst d) (encSrc a) (encSrc b) (0) (nwDst d) (0)
  | .ctest d a b => encR 2 (encDst d) (encSrc a) (encSrc b) (0) (nwDst d) (0)
  | .ccancel a => encR 3 (0) (encSrc a) (0) (0) (0) (0)
  | .rput a carry => encR 4 (0) (encSrc a) (0) (8 * encBool carry) (0) (0)
  | .rflag a b carry ord => encR 5 (0) (encSrc a) (encEnB b) (8 * encBool carry + 2 * encBool ord) (0) (0)
  | .rfence  => encR 6 (0) (0) (0) (0) (0) (0)
  | .halo d eh carry sw => encR 7 (encDst d) (0) (eh.val) (8 * encBool carry + 1 * encBool sw) (nwDst d) (0)
  | .hwait d a => encR 8 (encDst d) (encSrc a) (0) (0) (nwDst d) (0)
  | .tidw a b => encR 12 (0) (encSrc a) (encEnB b) (0) (0) (0)
  | .tidr d a k => encR 13 (encDst d) (encSrc a) (k.val) (0) (nwDst d) (0)
  | .tidinv a => encR 14 (0) (encSrc a) (0) (0) (0) (0)
  | .layset d a f => encR 15 (d.val) (encSrc a) (f.val) (0) (0) (0)
  | .coll d a b carry => encR 16 (d.val) (encSrc a) (encEnB b) (8 * encBool carry) (0) (0)
  | .clwait d a b => encR 17 (d.val) (encSrc a) (encEnB b) (0) (0) (0)
  | .reshard d a b carry => encR 18 (d.val) (encSrc a) (encEnB b) (8 * encBool carry) (0) (0)
  | .gathj d a b carry => encR 19 (d.val) (encSrc a) (encEnB b) (8 * encBool carry) (0) (0)
  | .aadd d a b sc scope => encR 24 (encDst d) (encSrc a) (encEnB b) (4 * encBool sc) (nwDst d) (scope.val)
  | .amin d a b sc scope => encR 25 (encDst d) (encSrc a) (encEnB b) (4 * encBool sc) (nwDst d) (scope.val)
  | .amax d a b sc scope => encR 26 (encDst d) (encSrc a) (encEnB b) (4 * encBool sc) (nwDst d) (scope.val)
  | .aand d a b sc scope => encR 27 (encDst d) (encSrc a) (encEnB b) (4 * encBool sc) (nwDst d) (scope.val)
  | .aor d a b sc scope => encR 28 (encDst d) (encSrc a) (encEnB b) (4 * encBool sc) (nwDst d) (scope.val)
  | .axor d a b sc scope => encR 29 (encDst d) (encSrc a) (encEnB b) (4 * encBool sc) (nwDst d) (scope.val)
  | .aswp d a b sc scope => encR 30 (encDst d) (encSrc a) (encEnB b) (4 * encBool sc) (nwDst d) (scope.val)
  | .acas d a b sc scope => encR 31 (encDst d) (encSrc a) (encEnB b) (4 * encBool sc) (nwDst d) (scope.val)
  | .ared a b scope => encR 32 (0) (encSrc a) (encEnB b) (0) (0) (scope.val)
  | .alock d a sc scope => encR 33 (encDst d) (encSrc a) (0) (4 * encBool sc) (nwDst d) (scope.val)
  | .aunlk a sc scope => encR 34 (0) (encSrc a) (0) (4 * encBool sc) (0) (scope.val)
  | .barc d a b scope => encR 35 (encDst d) (encSrc a) (encEnB b) (0) (nwDst d) (scope.val)
  | .barw d a b scope => encR 36 (encDst d) (encSrc a) (encEnB b) (0) (nwDst d) (scope.val)
  | .tspawn d a b => encR 40 (encDst d) (encSrc a) (encEnB b) (0) (nwDst d) (0)
  | .tdec a => encR 41 (0) (encSrc a) (0) (0) (0) (0)
  | .tdone  => encR 42 (0) (0) (0) (0) (0) (0)
  | .qpop d a => encR 43 (encDst d) (encSrc a) (0) (0) (nwDst d) (0)
  | .qpush d a b => encR 44 (encDst d) (encSrc a) (encEnB b) (0) (nwDst d) (0)
  | .qstat d a => encR 45 (encDst d) (encSrc a) (0) (0) (nwDst d) (0)
  | .phend  => encR 48 (0) (0) (0) (0) (0) (0)
  | .rmack a => encR 49 (0) (encSrc a) (0) (0) (0) (0)
  | .drain scope => encR 50 (0) (0) (0) (0) (0) (scope.val)
  | .xfence f t => encR 51 (0) (f.val) (t.val) (0) (0) (0)
  | .trap a n => encR 52 (0) (encSrc a) (n.val) (0) (0) (0)
  | .xret act => encR 53 (0) (0) (act.val) (0) (0) (0)
  | .halt  => encR 54 (0) (0) (0) (0) (0) (0)
  | .bdpkt a => encR 62 (0) (encSrc a) (0) (0) (0) (0)
  | .bdrsp d a => encR 63 (d.val) (encSrc a) (0) (0) (0) (0)
  | .nopBundle _ => 0
  | .mcallRepeatIssue _ _ => 0
  | .matrixOpComplete _ _ => 0
  | .trellisFillGranule _ _ _ => 0
  | .trellisFillEnd _ _ => 0
  | .trellisWritebackEnd _ _ => 0
  | .copyChunkLand _ _ _ _ => 0
  | .engineTransferFault _ _ _ _ _ => 0
  | .remotePieceLand _ _ _ _ _ => 0
  | .remoteAck _ _ _ _ _ => 0
  | .haloFaceLand _ _ _ _ => 0
  | .haloFaceAck _ _ _ _ => 0
  | .collTransferApply _ _ _ _ => 0
  | .reshardStep _ _ _ => 0
  | .collEnd _ _ _ => 0
  | .cleatReply _ _ => 0
  | .scWheelIssue _ => 0
  | .taskServe _ => 0
  | .queueAgeing _ _ => 0
  | .deferredFaultDelivery _ _ => 0
  | .watchdog _ _ => 0
  | .dieArrive _ => 0
  | .domainCross => 0
  | .stragglerTimeout => 0
  | .sailplanPublish => 0
  | .leaseClaim _ => 0
  | .leaseRenew _ => 0
  | .belvedereLapse _ => 0
  | .packageUnmanaged => 0
  | .errorRetryClassify _ _ _ _ _ _ => 0
  | .sramLineRetest _ _ _ => 0
  | .schedTableRebuild _ _ => 0
  | .lodgeHalt _ => 0
  | .lodgeReloadTimeout _ => 0
  | .lodgeReloadComplete _ => 0
  | .clusterReplan _ _ => 0
  | .jobOpen => 0
  | .jobClose => 0
  | .pageroot => 0
  | .trellis => 0
  | .wheel => 0
  | .layouts => 0
  | .sched => 0
  | .tids => 0
  | .image => 0
  | .queues => 0
  | .launch => 0
  | .resumeSuspended => 0
  | .resumeJob => 0
  | .switchOut => 0
  | .cmdTailWrite _ => 0
  | .cmdCtlWrite _ => 0
  | .hyCtlWrite _ => 0
  | .qtail _ _ _ => 0
  | .xlInvAll _ => 0
  | .xlInvPage _ _ => 0
  | .tcCtlWrite _ _ => 0
  | .thLimitsWrite _ _ => 0
  | .pwCtlWrite _ => 0
  | .snap => 0
  | .lrDataRead => 0
  | .msixUnmask _ => 0
  | .registerWrite _ _ _ => 0
  | .regsizeAccess _ _ _ => 0
  | .hostWindowAccess _ _ _ => 0
  | .translationWalk _ _ _ _ => 0
  | .dramRead _ _ _ _ => 0
  | .dramWrite _ _ _ _ _ _ => 0
  | .bdRawrd _ _ => 0
  | .bdRawwr _ _ => 0
  | .bdReplyArrive _ _ => 0
  | .hotnessEpoch _ => 0
  | .tierMoveStart _ _ => 0
  | .tierMoveEnd _ _ => 0
  | .linkFlitReceive _ _ _ _ => 0
  | .linkPacketReceive _ _ _ _ => 0
  | .portBringup _ _ _ _ => 0
  | .rekey _ _ _ => 0
  | .powerGood => 0
  | .pldmActivate _ => 0
  | .getVersion => 0
  | .getCapabilities => 0
  | .negotiateAlgorithms => 0
  | .getDigests => 0
  | .getCertificate _ => 0
  | .challenge _ => 0
  | .getMeasurements _ _ => 0
  | .dualreport _ => 0
  | .dualcert => 0
  | .thermalSample _ _ _ _ => 0
  | .powerTick _ => 0
  | .lifetimeFlashWrite => 0
  | .urgentEventFlush => 0
  | .powerLoss => 0
  | .ballastDutyWindow _ => 0
  | .snapshotReady => 0


/-- The slot of a scalar unit. -/
def SUnit.slot : SUnit → Slot | .sa => .sa | .sb => .sb
/-- The slot of a vector unit. -/
def VUnit.slot : VUnit → Slot | .va => .va | .vb => .vb

/-- The slot an instruction occupies; `none` for a no-operation bundle and for a row without an encoding (R97). -/
def Instr.slot : Instr → Option Slot
  | .add u _ _ _ _ _ => some u.slot
  | .addImm u _ _ _ => some u.slot
  | .sub u _ _ _ _ _ => some u.slot
  | .subImm u _ _ _ => some u.slot
  | .mul u _ _ _ _ _ => some u.slot
  | .mulImm u _ _ _ => some u.slot
  | .mulh u _ _ _ _ => some u.slot
  | .mulhu u _ _ _ _ => some u.slot
  | .and u _ _ _ _ => some u.slot
  | .andImm u _ _ _ => some u.slot
  | .or u _ _ _ _ => some u.slot
  | .orImm u _ _ _ => some u.slot
  | .xor u _ _ _ _ => some u.slot
  | .xorImm u _ _ _ => some u.slot
  | .andn u _ _ _ _ => some u.slot
  | .andnImm u _ _ _ => some u.slot
  | .shl u _ _ _ _ => some u.slot
  | .shlImm u _ _ _ => some u.slot
  | .shr u _ _ _ _ => some u.slot
  | .shrImm u _ _ _ => some u.slot
  | .sra u _ _ _ _ => some u.slot
  | .sraImm u _ _ _ => some u.slot
  | .rot u _ _ _ _ => some u.slot
  | .rotImm u _ _ _ => some u.slot
  | .min u _ _ _ _ => some u.slot
  | .minImm u _ _ _ => some u.slot
  | .max u _ _ _ _ => some u.slot
  | .maxImm u _ _ _ => some u.slot
  | .minu u _ _ _ _ => some u.slot
  | .minuImm u _ _ _ => some u.slot
  | .maxu u _ _ _ _ => some u.slot
  | .maxuImm u _ _ _ => some u.slot
  | .clz u _ _ _ => some u.slot
  | .ctz u _ _ _ => some u.slot
  | .popc u _ _ _ => some u.slot
  | .sext u _ _ _ => some u.slot
  | .zext u _ _ _ => some u.slot
  | .bfx u _ _ _ => some u.slot
  | .bfi u _ _ _ => some u.slot
  | .sel u _ _ _ _ => some u.slot
  | .mov u _ _ _ => some u.slot
  | .movi u _ _ _ => some u.slot
  | .movhi u _ _ => some u.slot
  | .cmp u _ _ _ _ _ => some u.slot
  | .schk u _ _ => some u.slot
  | .wfld u _ _ _ => some u.slot
  | .fadd u _ _ _ _ _ => some u.slot
  | .fsub u _ _ _ _ _ => some u.slot
  | .fmul u _ _ _ _ _ => some u.slot
  | .ffma u _ _ _ _ _ => some u.slot
  | .fmin u _ _ _ _ => some u.slot
  | .fmax u _ _ _ _ => some u.slot
  | .fabs u _ _ _ => some u.slot
  | .fneg u _ _ _ => some u.slot
  | .fcmp u _ _ _ _ _ => some u.slot
  | .fcvt u _ _ _ _ _ => some u.slot
  | .fclass u _ _ _ => some u.slot
  | .ctlr u _ _ => some u.slot
  | .ctlw u _ _ => some u.slot
  | .shw u _ _ _ _ => some u.slot
  | .mpw u _ _ => some u.slot
  | .awr u _ _ _ => some u.slot
  | .div _ _ _ _ => some .sb
  | .divu _ _ _ _ => some .sb
  | .rem _ _ _ _ => some .sb
  | .remu _ _ _ _ => some .sb
  | .fdiv _ _ _ _ _ => some .sb
  | .fsqrt _ _ _ _ => some .sb
  | .yield => some .sb
  | .loop _ _ => some .sb
  | .br _ => some .sb
  | .bz _ _ => some .sb
  | .bnz _ _ => some .sb
  | .bp _ _ _ => some .sb
  | .jmp _ _ => some .sb
  | .call _ _ => some .sb
  | .callr _ _ _ => some .sb
  | .ret _ _ => some .sb
  | .nopBundle _ => none
  | .vadd u _ _ _ _ _ _ => some u.slot
  | .vsub u _ _ _ _ _ _ => some u.slot
  | .vmul u _ _ _ _ _ _ => some u.slot
  | .vfma u _ _ _ _ _ _ => some u.slot
  | .vfms u _ _ _ _ _ _ => some u.slot
  | .vmulh u _ _ _ _ _ _ => some u.slot
  | .vneg u _ _ _ _ _ => some u.slot
  | .vabs u _ _ _ _ _ => some u.slot
  | .vmin u _ _ _ _ _ _ => some u.slot
  | .vmax u _ _ _ _ _ _ => some u.slot
  | .vdot4 u _ _ _ _ _ _ => some u.slot
  | .vand u _ _ _ _ _ _ => some u.slot
  | .vor u _ _ _ _ _ _ => some u.slot
  | .vxor u _ _ _ _ _ _ => some u.slot
  | .vandn u _ _ _ _ _ _ => some u.slot
  | .vshl u _ _ _ _ _ _ => some u.slot
  | .vshr u _ _ _ _ _ _ => some u.slot
  | .vsra u _ _ _ _ _ _ => some u.slot
  | .vcmp u _ _ _ _ _ _ => some u.slot
  | .vsel u _ _ _ _ _ _ => some u.slot
  | .vmov u _ _ _ _ _ => some u.slot
  | .vbcast u _ _ _ _ _ => some u.slot
  | .vextr u _ _ _ _ _ => some u.slot
  | .vins u _ _ _ _ _ => some u.slot
  | .viota u _ _ _ _ _ _ => some u.slot
  | .vcvt u _ _ _ _ _ _ _ => some u.slot
  | .vbfpk u _ _ _ _ _ _ _ => some u.slot
  | .vbfup u _ _ _ _ _ _ _ => some u.slot
  | .vperm u _ _ _ _ _ _ => some u.slot
  | .vshuf u _ _ _ _ _ _ => some u.slot
  | .vslide u _ _ _ _ _ _ => some u.slot
  | .vcompr u _ _ _ _ _ => some u.slot
  | .vexpand u _ _ _ _ _ => some u.slot
  | .vrsum u _ _ _ _ _ => some u.slot
  | .vrmax u _ _ _ _ _ => some u.slot
  | .vrmin u _ _ _ _ _ => some u.slot
  | .vscan u _ _ _ _ _ => some u.slot
  | .vchk u _ _ _ _ _ => some u.slot
  | .pand u _ _ _ _ _ => some u.slot
  | .por u _ _ _ _ _ => some u.slot
  | .pxor u _ _ _ _ _ => some u.slot
  | .pnot u _ _ _ _ => some u.slot
  | .pcnt u _ _ _ _ _ => some u.slot
  | .pfirst u _ _ _ _ _ => some u.slot
  | .pmov u _ _ _ _ => some u.slot
  | .ppack u _ _ _ => some u.slot
  | .punpk u _ _ _ _ => some u.slot
  | .vrcp _ _ _ _ => some .vb
  | .vrsq _ _ _ _ => some .vb
  | .vsqrt _ _ _ _ => some .vb
  | .vdiv _ _ _ _ _ => some .vb
  | .vexp2 _ _ _ _ => some .vb
  | .vlog2 _ _ _ _ => some .vb
  | .vsin _ _ _ _ => some .vb
  | .vcos _ _ _ _ => some .vb
  | .vtanh _ _ _ _ => some .vb
  | .vhist _ _ _ _ _ => some .vb
  | .vhmerge _ _ _ => some .vb
  | .vsort _ _ _ _ => some .vb
  | .vsortkv _ _ _ _ _ => some .vb
  | .vsrch _ _ _ _ _ => some .vb
  | .mcall _ _ _ _ _ _ => some .mx
  | .mzero _ _ _ => some .mx
  | .mrd _ _ _ _ => some .mx
  | .mwr _ _ _ _ => some .mx
  | .mst _ _ _ _ => some .mx
  | .mchk _ _ => some .mx
  | .mcsr _ _ => some .mx
  | .muld _ _ _ => some .mx
  | .mout _ _ _ _ => some .mx
  | .mwait _ => some .mx
  | .ldb _ _ _ _ _ => some .ls
  | .ldh _ _ _ _ _ => some .ls
  | .ldw _ _ _ _ _ => some .ls
  | .ldd _ _ _ _ _ => some .ls
  | .ldv _ _ _ _ _ _ => some .ls
  | .ldp _ _ _ _ _ => some .ls
  | .ldt _ _ _ _ _ _ _ => some .ls
  | .ldg _ _ _ _ _ _ => some .ls
  | .stb _ _ _ _ => some .ls
  | .sth _ _ _ _ => some .ls
  | .stw _ _ _ _ => some .ls
  | .std _ _ _ _ => some .ls
  | .stv _ _ _ _ _ => some .ls
  | .stp _ _ _ _ => some .ls
  | .stt _ _ _ _ _ _ => some .ls
  | .stg _ _ _ _ _ => some .ls
  | .feset _ _ => some .ls
  | .feclr _ _ => some .ls
  | .fetst _ _ _ => some .ls
  | .wldw _ _ _ _ _ => some .wy
  | .wldd _ _ _ _ _ => some .wy
  | .wldv _ _ _ _ _ _ => some .wy
  | .wldt _ _ _ _ _ _ _ => some .wy
  | .wldg _ _ _ _ _ _ => some .wy
  | .wstw _ _ _ _ => some .wy
  | .wstd _ _ _ _ => some .wy
  | .wstv _ _ _ _ _ => some .wy
  | .wstt _ _ _ _ _ _ => some .wy
  | .wstg _ _ _ _ _ => some .wy
  | .wfeset _ _ => some .wy
  | .wfeclr _ _ => some .wy
  | .probe _ _ _ => some .tg
  | .fill _ _ => some .tg
  | .evict _ => some .tg
  | .wback _ => some .tg
  | .pin _ _ => some .tg
  | .unpin _ => some .tg
  | .tginv _ => some .tg
  | .tgstat _ _ => some .tg
  | .cpy _ _ _ _ _ => some .en
  | .cwait _ _ _ => some .en
  | .ctest _ _ _ => some .en
  | .ccancel _ => some .en
  | .rput _ _ => some .en
  | .rflag _ _ _ _ => some .en
  | .rfence => some .en
  | .halo _ _ _ _ => some .en
  | .hwait _ _ => some .en
  | .tidw _ _ => some .en
  | .tidr _ _ _ => some .en
  | .tidinv _ => some .en
  | .layset _ _ _ => some .en
  | .coll _ _ _ _ => some .en
  | .clwait _ _ _ => some .en
  | .reshard _ _ _ _ => some .en
  | .gathj _ _ _ _ => some .en
  | .aadd _ _ _ _ _ => some .en
  | .amin _ _ _ _ _ => some .en
  | .amax _ _ _ _ _ => some .en
  | .aand _ _ _ _ _ => some .en
  | .aor _ _ _ _ _ => some .en
  | .axor _ _ _ _ _ => some .en
  | .aswp _ _ _ _ _ => some .en
  | .acas _ _ _ _ _ => some .en
  | .ared _ _ _ => some .en
  | .alock _ _ _ _ => some .en
  | .aunlk _ _ _ => some .en
  | .barc _ _ _ _ => some .en
  | .barw _ _ _ _ => some .en
  | .tspawn _ _ _ => some .en
  | .tdec _ => some .en
  | .tdone => some .en
  | .qpop _ _ => some .en
  | .qpush _ _ _ => some .en
  | .qstat _ _ => some .en
  | .phend => some .en
  | .rmack _ => some .en
  | .drain _ => some .en
  | .xfence _ _ => some .en
  | .trap _ _ => some .en
  | .xret _ => some .en
  | .halt => some .en
  | .bdpkt _ => some .en
  | .bdrsp _ _ => some .en
  | .mcallRepeatIssue _ _ => none
  | .matrixOpComplete _ _ => none
  | .trellisFillGranule _ _ _ => none
  | .trellisFillEnd _ _ => none
  | .trellisWritebackEnd _ _ => none
  | .copyChunkLand _ _ _ _ => none
  | .engineTransferFault _ _ _ _ _ => none
  | .remotePieceLand _ _ _ _ _ => none
  | .remoteAck _ _ _ _ _ => none
  | .haloFaceLand _ _ _ _ => none
  | .haloFaceAck _ _ _ _ => none
  | .collTransferApply _ _ _ _ => none
  | .reshardStep _ _ _ => none
  | .collEnd _ _ _ => none
  | .cleatReply _ _ => none
  | .scWheelIssue _ => none
  | .taskServe _ => none
  | .queueAgeing _ _ => none
  | .deferredFaultDelivery _ _ => none
  | .watchdog _ _ => none
  | .dieArrive _ => none
  | .domainCross => none
  | .stragglerTimeout => none
  | .sailplanPublish => none
  | .leaseClaim _ => none
  | .leaseRenew _ => none
  | .belvedereLapse _ => none
  | .packageUnmanaged => none
  | .errorRetryClassify _ _ _ _ _ _ => none
  | .sramLineRetest _ _ _ => none
  | .schedTableRebuild _ _ => none
  | .lodgeHalt _ => none
  | .lodgeReloadTimeout _ => none
  | .lodgeReloadComplete _ => none
  | .clusterReplan _ _ => none
  | .jobOpen => none
  | .jobClose => none
  | .pageroot => none
  | .trellis => none
  | .wheel => none
  | .layouts => none
  | .sched => none
  | .tids => none
  | .image => none
  | .queues => none
  | .launch => none
  | .resumeSuspended => none
  | .resumeJob => none
  | .switchOut => none
  | .cmdTailWrite _ => none
  | .cmdCtlWrite _ => none
  | .hyCtlWrite _ => none
  | .qtail _ _ _ => none
  | .xlInvAll _ => none
  | .xlInvPage _ _ => none
  | .tcCtlWrite _ _ => none
  | .thLimitsWrite _ _ => none
  | .pwCtlWrite _ => none
  | .snap => none
  | .lrDataRead => none
  | .msixUnmask _ => none
  | .registerWrite _ _ _ => none
  | .regsizeAccess _ _ _ => none
  | .hostWindowAccess _ _ _ => none
  | .translationWalk _ _ _ _ => none
  | .dramRead _ _ _ _ => none
  | .dramWrite _ _ _ _ _ _ => none
  | .bdRawrd _ _ => none
  | .bdRawwr _ _ => none
  | .bdReplyArrive _ _ => none
  | .hotnessEpoch _ => none
  | .tierMoveStart _ _ => none
  | .tierMoveEnd _ _ => none
  | .linkFlitReceive _ _ _ _ => none
  | .linkPacketReceive _ _ _ _ => none
  | .portBringup _ _ _ _ => none
  | .rekey _ _ _ => none
  | .powerGood => none
  | .pldmActivate _ => none
  | .getVersion => none
  | .getCapabilities => none
  | .negotiateAlgorithms => none
  | .getDigests => none
  | .getCertificate _ => none
  | .challenge _ => none
  | .getMeasurements _ _ => none
  | .dualreport _ => none
  | .dualcert => none
  | .thermalSample _ _ _ _ => none
  | .powerTick _ => none
  | .lifetimeFlashWrite => none
  | .urgentEventFlush => none
  | .powerLoss => none
  | .ballastDutyWindow _ => none
  | .snapshotReady => none

/-- XIMM where the header's XT names the syllable (R97, R101). -/
def Instr.ext : Instr → Option (BitVec 16)
  | .add _ _ _ _ _ _ => none
  | .addImm _ _ imm _ => imm.ext
  | .sub _ _ _ _ _ _ => none
  | .subImm _ _ imm _ => imm.ext
  | .mul _ _ _ _ _ _ => none
  | .mulImm _ _ imm _ => imm.ext
  | .mulh _ _ _ _ _ => none
  | .mulhu _ _ _ _ _ => none
  | .and _ _ _ _ _ => none
  | .andImm _ _ imm _ => imm.ext
  | .or _ _ _ _ _ => none
  | .orImm _ _ imm _ => imm.ext
  | .xor _ _ _ _ _ => none
  | .xorImm _ _ imm _ => imm.ext
  | .andn _ _ _ _ _ => none
  | .andnImm _ _ imm _ => imm.ext
  | .shl _ _ _ _ _ => none
  | .shlImm _ _ imm _ => imm.ext
  | .shr _ _ _ _ _ => none
  | .shrImm _ _ imm _ => imm.ext
  | .sra _ _ _ _ _ => none
  | .sraImm _ _ imm _ => imm.ext
  | .rot _ _ _ _ _ => none
  | .rotImm _ _ imm _ => imm.ext
  | .min _ _ _ _ _ => none
  | .minImm _ _ imm _ => imm.ext
  | .max _ _ _ _ _ => none
  | .maxImm _ _ imm _ => imm.ext
  | .minu _ _ _ _ _ => none
  | .minuImm _ _ imm _ => imm.ext
  | .maxu _ _ _ _ _ => none
  | .maxuImm _ _ imm _ => imm.ext
  | .clz _ _ _ _ => none
  | .ctz _ _ _ _ => none
  | .popc _ _ _ _ => none
  | .sext _ _ _ _ => none
  | .zext _ _ _ _ => none
  | .bfx _ _ _ _ => none
  | .bfi _ _ _ _ => none
  | .sel _ _ _ _ _ => none
  | .mov _ _ _ _ => none
  | .movi _ _ imm _ => imm.ext
  | .movhi _ _ imm => imm.ext
  | .cmp _ _ _ _ _ _ => none
  | .schk _ _ _ => none
  | .wfld _ _ _ _ => none
  | .fadd _ _ _ _ _ _ => none
  | .fsub _ _ _ _ _ _ => none
  | .fmul _ _ _ _ _ _ => none
  | .ffma _ _ _ _ _ _ => none
  | .fmin _ _ _ _ _ => none
  | .fmax _ _ _ _ _ => none
  | .fabs _ _ _ _ => none
  | .fneg _ _ _ _ => none
  | .fcmp _ _ _ _ _ _ => none
  | .fcvt _ _ _ _ _ _ => none
  | .fclass _ _ _ _ => none
  | .ctlr _ _ _ => none
  | .ctlw _ _ _ => none
  | .shw _ _ _ _ _ => none
  | .mpw _ _ _ => none
  | .awr _ _ _ _ => none
  | .div _ _ _ _ => none
  | .divu _ _ _ _ => none
  | .rem _ _ _ _ => none
  | .remu _ _ _ _ => none
  | .fdiv _ _ _ _ _ => none
  | .fsqrt _ _ _ _ => none
  | .yield => none
  | .loop _ off => off.ext
  | .br off => off.ext
  | .bz _ off => off.ext
  | .bnz _ off => off.ext
  | .bp _ _ off => off.ext
  | .jmp _ _ => none
  | .call _ off => off.ext
  | .callr _ _ _ => none
  | .ret _ _ => none
  | .nopBundle _ => none
  | .vadd _ _ _ _ _ _ x => encVMod x
  | .vsub _ _ _ _ _ _ x => encVMod x
  | .vmul _ _ _ _ _ _ x => encVMod x
  | .vfma _ _ _ _ _ _ x => encVMod x
  | .vfms _ _ _ _ _ _ x => encVMod x
  | .vmulh _ _ _ _ _ _ x => encVMod x
  | .vneg _ _ _ _ _ x => encVMod x
  | .vabs _ _ _ _ _ x => encVMod x
  | .vmin _ _ _ _ _ _ x => encVMod x
  | .vmax _ _ _ _ _ _ x => encVMod x
  | .vdot4 _ _ _ _ _ _ x => encVMod x
  | .vand _ _ _ _ _ _ x => encVMod x
  | .vor _ _ _ _ _ _ x => encVMod x
  | .vxor _ _ _ _ _ _ x => encVMod x
  | .vandn _ _ _ _ _ _ x => encVMod x
  | .vshl _ _ _ _ _ _ x => encVMod x
  | .vshr _ _ _ _ _ _ x => encVMod x
  | .vsra _ _ _ _ _ _ x => encVMod x
  | .vcmp _ _ _ _ _ _ x => encVMod x
  | .vsel _ _ _ _ _ _ x => encVMod x
  | .vmov _ _ _ _ _ x => encVMod x
  | .vbcast _ _ _ _ _ x => encVMod x
  | .vextr _ _ _ _ _ x => encVMod x
  | .vins _ _ _ _ _ x => encVMod x
  | .viota _ _ _ _ _ _ x => encVMod x
  | .vcvt _ _ _ _ _ _ _ x => encVMod x
  | .vbfpk _ _ _ _ _ _ _ x => encVMod x
  | .vbfup _ _ _ _ _ _ _ x => encVMod x
  | .vperm _ _ _ _ _ _ x => encVMod x
  | .vshuf _ _ _ _ _ _ x => encVMod x
  | .vslide _ _ _ _ _ _ x => encVMod x
  | .vcompr _ _ _ _ _ x => encVMod x
  | .vexpand _ _ _ _ _ x => encVMod x
  | .vrsum _ _ _ _ _ x => encVMod x
  | .vrmax _ _ _ _ _ x => encVMod x
  | .vrmin _ _ _ _ _ x => encVMod x
  | .vscan _ _ _ _ _ x => encVMod x
  | .vchk _ _ _ _ _ x => encVMod x
  | .pand _ _ _ _ _ x => encVMod x
  | .por _ _ _ _ _ x => encVMod x
  | .pxor _ _ _ _ _ x => encVMod x
  | .pnot _ _ _ _ x => encVMod x
  | .pcnt _ _ _ _ _ x => encVMod x
  | .pfirst _ _ _ _ _ x => encVMod x
  | .pmov _ _ _ _ x => encVMod x
  | .ppack _ _ _ x => encVMod x
  | .punpk _ _ _ _ x => encVMod x
  | .vrcp _ _ _ _ => none
  | .vrsq _ _ _ _ => none
  | .vsqrt _ _ _ _ => none
  | .vdiv _ _ _ _ _ => none
  | .vexp2 _ _ _ _ => none
  | .vlog2 _ _ _ _ => none
  | .vsin _ _ _ _ => none
  | .vcos _ _ _ _ => none
  | .vtanh _ _ _ _ => none
  | .vhist _ _ _ _ _ => none
  | .vhmerge _ _ _ => none
  | .vsort _ _ _ _ => none
  | .vsortkv _ _ _ _ _ => none
  | .vsrch _ _ _ _ _ => none
  | .mcall _ _ _ _ _ _ => none
  | .mzero _ _ _ => none
  | .mrd _ _ _ _ => none
  | .mwr _ _ _ _ => none
  | .mst _ _ _ _ => none
  | .mchk _ _ => none
  | .mcsr _ _ => none
  | .muld _ _ _ => none
  | .mout _ _ _ _ => none
  | .mwait _ => none
  | .ldb _ _ off _ _ => off.ext
  | .ldh _ _ off _ _ => off.ext
  | .ldw _ _ off _ _ => off.ext
  | .ldd _ _ off _ _ => off.ext
  | .ldv _ _ off _ _ _ => off.ext
  | .ldp _ _ off _ _ => off.ext
  | .ldt _ _ _ _ _ _ _ => none
  | .ldg _ _ _ _ _ _ => none
  | .stb _ _ off _ => off.ext
  | .sth _ _ off _ => off.ext
  | .stw _ _ off _ => off.ext
  | .std _ _ off _ => off.ext
  | .stv _ _ off _ _ => off.ext
  | .stp _ _ off _ => off.ext
  | .stt _ _ _ _ _ _ => none
  | .stg _ _ _ _ _ => none
  | .feset _ off => off.ext
  | .feclr _ off => off.ext
  | .fetst _ _ off => off.ext
  | .wldw _ _ off _ _ => off.ext
  | .wldd _ _ off _ _ => off.ext
  | .wldv _ _ off _ _ _ => off.ext
  | .wldt _ _ _ _ _ _ _ => none
  | .wldg _ _ _ _ _ _ => none
  | .wstw _ _ off _ => off.ext
  | .wstd _ _ off _ => off.ext
  | .wstv _ _ off _ _ => off.ext
  | .wstt _ _ _ _ _ _ => none
  | .wstg _ _ _ _ _ => none
  | .wfeset _ off => off.ext
  | .wfeclr _ off => off.ext
  | .probe _ _ off => off.ext
  | .fill _ _ => none
  | .evict _ => none
  | .wback _ => none
  | .pin _ _ => none
  | .unpin _ => none
  | .tginv _ => none
  | .tgstat _ _ => none
  | .cpy _ _ _ _ _ => none
  | .cwait _ _ _ => none
  | .ctest _ _ _ => none
  | .ccancel _ => none
  | .rput _ _ => none
  | .rflag _ b _ _ => b.ext
  | .rfence => none
  | .halo _ _ _ _ => none
  | .hwait _ _ => none
  | .tidw _ b => b.ext
  | .tidr _ _ _ => none
  | .tidinv _ => none
  | .layset _ _ _ => none
  | .coll _ _ b _ => b.ext
  | .clwait _ _ b => b.ext
  | .reshard _ _ b _ => b.ext
  | .gathj _ _ b _ => b.ext
  | .aadd _ _ b _ _ => b.ext
  | .amin _ _ b _ _ => b.ext
  | .amax _ _ b _ _ => b.ext
  | .aand _ _ b _ _ => b.ext
  | .aor _ _ b _ _ => b.ext
  | .axor _ _ b _ _ => b.ext
  | .aswp _ _ b _ _ => b.ext
  | .acas _ _ b _ _ => b.ext
  | .ared _ b _ => b.ext
  | .alock _ _ _ _ => none
  | .aunlk _ _ _ => none
  | .barc _ _ b _ => b.ext
  | .barw _ _ b _ => b.ext
  | .tspawn _ _ b => b.ext
  | .tdec _ => none
  | .tdone => none
  | .qpop _ _ => none
  | .qpush _ _ b => b.ext
  | .qstat _ _ => none
  | .phend => none
  | .rmack _ => none
  | .drain _ => none
  | .xfence _ _ => none
  | .trap _ _ => none
  | .xret _ => none
  | .halt => none
  | .bdpkt _ => none
  | .bdrsp _ _ => none
  | .mcallRepeatIssue _ _ => none
  | .matrixOpComplete _ _ => none
  | .trellisFillGranule _ _ _ => none
  | .trellisFillEnd _ _ => none
  | .trellisWritebackEnd _ _ => none
  | .copyChunkLand _ _ _ _ => none
  | .engineTransferFault _ _ _ _ _ => none
  | .remotePieceLand _ _ _ _ _ => none
  | .remoteAck _ _ _ _ _ => none
  | .haloFaceLand _ _ _ _ => none
  | .haloFaceAck _ _ _ _ => none
  | .collTransferApply _ _ _ _ => none
  | .reshardStep _ _ _ => none
  | .collEnd _ _ _ => none
  | .cleatReply _ _ => none
  | .scWheelIssue _ => none
  | .taskServe _ => none
  | .queueAgeing _ _ => none
  | .deferredFaultDelivery _ _ => none
  | .watchdog _ _ => none
  | .dieArrive _ => none
  | .domainCross => none
  | .stragglerTimeout => none
  | .sailplanPublish => none
  | .leaseClaim _ => none
  | .leaseRenew _ => none
  | .belvedereLapse _ => none
  | .packageUnmanaged => none
  | .errorRetryClassify _ _ _ _ _ _ => none
  | .sramLineRetest _ _ _ => none
  | .schedTableRebuild _ _ => none
  | .lodgeHalt _ => none
  | .lodgeReloadTimeout _ => none
  | .lodgeReloadComplete _ => none
  | .clusterReplan _ _ => none
  | .jobOpen => none
  | .jobClose => none
  | .pageroot => none
  | .trellis => none
  | .wheel => none
  | .layouts => none
  | .sched => none
  | .tids => none
  | .image => none
  | .queues => none
  | .launch => none
  | .resumeSuspended => none
  | .resumeJob => none
  | .switchOut => none
  | .cmdTailWrite _ => none
  | .cmdCtlWrite _ => none
  | .hyCtlWrite _ => none
  | .qtail _ _ _ => none
  | .xlInvAll _ => none
  | .xlInvPage _ _ => none
  | .tcCtlWrite _ _ => none
  | .thLimitsWrite _ _ => none
  | .pwCtlWrite _ => none
  | .snap => none
  | .lrDataRead => none
  | .msixUnmask _ => none
  | .registerWrite _ _ _ => none
  | .regsizeAccess _ _ _ => none
  | .hostWindowAccess _ _ _ => none
  | .translationWalk _ _ _ _ => none
  | .dramRead _ _ _ _ => none
  | .dramWrite _ _ _ _ _ _ => none
  | .bdRawrd _ _ => none
  | .bdRawwr _ _ => none
  | .bdReplyArrive _ _ => none
  | .hotnessEpoch _ => none
  | .tierMoveStart _ _ => none
  | .tierMoveEnd _ _ => none
  | .linkFlitReceive _ _ _ _ => none
  | .linkPacketReceive _ _ _ _ => none
  | .portBringup _ _ _ _ => none
  | .rekey _ _ _ => none
  | .powerGood => none
  | .pldmActivate _ => none
  | .getVersion => none
  | .getCapabilities => none
  | .negotiateAlgorithms => none
  | .getDigests => none
  | .getCertificate _ => none
  | .challenge _ => none
  | .getMeasurements _ _ => none
  | .dualreport _ => none
  | .dualcert => none
  | .thermalSample _ _ _ _ => none
  | .powerTick _ => none
  | .lifetimeFlashWrite => none
  | .urgentEventFlush => none
  | .powerLoss => none
  | .ballastDutyWindow _ => none
  | .snapshotReady => none

/-- RPT of the header (R100). -/
def Instr.rpt : Instr → Rpt
  | .add _ _ _ _ _ _ => .none
  | .addImm _ _ _ _ => .none
  | .sub _ _ _ _ _ _ => .none
  | .subImm _ _ _ _ => .none
  | .mul _ _ _ _ _ _ => .none
  | .mulImm _ _ _ _ => .none
  | .mulh _ _ _ _ _ => .none
  | .mulhu _ _ _ _ _ => .none
  | .and _ _ _ _ _ => .none
  | .andImm _ _ _ _ => .none
  | .or _ _ _ _ _ => .none
  | .orImm _ _ _ _ => .none
  | .xor _ _ _ _ _ => .none
  | .xorImm _ _ _ _ => .none
  | .andn _ _ _ _ _ => .none
  | .andnImm _ _ _ _ => .none
  | .shl _ _ _ _ _ => .none
  | .shlImm _ _ _ _ => .none
  | .shr _ _ _ _ _ => .none
  | .shrImm _ _ _ _ => .none
  | .sra _ _ _ _ _ => .none
  | .sraImm _ _ _ _ => .none
  | .rot _ _ _ _ _ => .none
  | .rotImm _ _ _ _ => .none
  | .min _ _ _ _ _ => .none
  | .minImm _ _ _ _ => .none
  | .max _ _ _ _ _ => .none
  | .maxImm _ _ _ _ => .none
  | .minu _ _ _ _ _ => .none
  | .minuImm _ _ _ _ => .none
  | .maxu _ _ _ _ _ => .none
  | .maxuImm _ _ _ _ => .none
  | .clz _ _ _ _ => .none
  | .ctz _ _ _ _ => .none
  | .popc _ _ _ _ => .none
  | .sext _ _ _ _ => .none
  | .zext _ _ _ _ => .none
  | .bfx _ _ _ _ => .none
  | .bfi _ _ _ _ => .none
  | .sel _ _ _ _ _ => .none
  | .mov _ _ _ _ => .none
  | .movi _ _ _ _ => .none
  | .movhi _ _ _ => .none
  | .cmp _ _ _ _ _ _ => .none
  | .schk _ _ _ => .none
  | .wfld _ _ _ _ => .none
  | .fadd _ _ _ _ _ _ => .none
  | .fsub _ _ _ _ _ _ => .none
  | .fmul _ _ _ _ _ _ => .none
  | .ffma _ _ _ _ _ _ => .none
  | .fmin _ _ _ _ _ => .none
  | .fmax _ _ _ _ _ => .none
  | .fabs _ _ _ _ => .none
  | .fneg _ _ _ _ => .none
  | .fcmp _ _ _ _ _ _ => .none
  | .fcvt _ _ _ _ _ _ => .none
  | .fclass _ _ _ _ => .none
  | .ctlr _ _ _ => .none
  | .ctlw _ _ _ => .none
  | .shw _ _ _ _ _ => .none
  | .mpw _ _ _ => .none
  | .awr _ _ _ _ => .none
  | .div _ _ _ _ => .none
  | .divu _ _ _ _ => .none
  | .rem _ _ _ _ => .none
  | .remu _ _ _ _ => .none
  | .fdiv _ _ _ _ _ => .none
  | .fsqrt _ _ _ _ => .none
  | .yield => .none
  | .loop _ _ => .none
  | .br _ => .none
  | .bz _ _ => .none
  | .bnz _ _ => .none
  | .bp _ _ _ => .none
  | .jmp _ _ => .none
  | .call _ _ => .none
  | .callr _ _ _ => .none
  | .ret _ _ => .none
  | .nopBundle _ => .none
  | .vadd _ _ _ _ _ _ _ => .none
  | .vsub _ _ _ _ _ _ _ => .none
  | .vmul _ _ _ _ _ _ _ => .none
  | .vfma _ _ _ _ _ _ _ => .none
  | .vfms _ _ _ _ _ _ _ => .none
  | .vmulh _ _ _ _ _ _ _ => .none
  | .vneg _ _ _ _ _ _ => .none
  | .vabs _ _ _ _ _ _ => .none
  | .vmin _ _ _ _ _ _ _ => .none
  | .vmax _ _ _ _ _ _ _ => .none
  | .vdot4 _ _ _ _ _ _ _ => .none
  | .vand _ _ _ _ _ _ _ => .none
  | .vor _ _ _ _ _ _ _ => .none
  | .vxor _ _ _ _ _ _ _ => .none
  | .vandn _ _ _ _ _ _ _ => .none
  | .vshl _ _ _ _ _ _ _ => .none
  | .vshr _ _ _ _ _ _ _ => .none
  | .vsra _ _ _ _ _ _ _ => .none
  | .vcmp _ _ _ _ _ _ _ => .none
  | .vsel _ _ _ _ _ _ _ => .none
  | .vmov _ _ _ _ _ _ => .none
  | .vbcast _ _ _ _ _ _ => .none
  | .vextr _ _ _ _ _ _ => .none
  | .vins _ _ _ _ _ _ => .none
  | .viota _ _ _ _ _ _ _ => .none
  | .vcvt _ _ _ _ _ _ _ _ => .none
  | .vbfpk _ _ _ _ _ _ _ _ => .none
  | .vbfup _ _ _ _ _ _ _ _ => .none
  | .vperm _ _ _ _ _ _ _ => .none
  | .vshuf _ _ _ _ _ _ _ => .none
  | .vslide _ _ _ _ _ _ _ => .none
  | .vcompr _ _ _ _ _ _ => .none
  | .vexpand _ _ _ _ _ _ => .none
  | .vrsum _ _ _ _ _ _ => .none
  | .vrmax _ _ _ _ _ _ => .none
  | .vrmin _ _ _ _ _ _ => .none
  | .vscan _ _ _ _ _ _ => .none
  | .vchk _ _ _ _ _ _ => .none
  | .pand _ _ _ _ _ _ => .none
  | .por _ _ _ _ _ _ => .none
  | .pxor _ _ _ _ _ _ => .none
  | .pnot _ _ _ _ _ => .none
  | .pcnt _ _ _ _ _ _ => .none
  | .pfirst _ _ _ _ _ _ => .none
  | .pmov _ _ _ _ _ => .none
  | .ppack _ _ _ _ => .none
  | .punpk _ _ _ _ _ => .none
  | .vrcp _ _ _ _ => .none
  | .vrsq _ _ _ _ => .none
  | .vsqrt _ _ _ _ => .none
  | .vdiv _ _ _ _ _ => .none
  | .vexp2 _ _ _ _ => .none
  | .vlog2 _ _ _ _ => .none
  | .vsin _ _ _ _ => .none
  | .vcos _ _ _ _ => .none
  | .vtanh _ _ _ _ => .none
  | .vhist _ _ _ _ _ => .none
  | .vhmerge _ _ _ => .none
  | .vsort _ _ _ _ => .none
  | .vsortkv _ _ _ _ _ => .none
  | .vsrch _ _ _ _ _ => .none
  | .mcall _ _ _ _ _ rpt => rpt
  | .mzero _ _ rpt => rpt
  | .mrd _ _ _ rpt => rpt
  | .mwr _ _ _ rpt => rpt
  | .mst _ _ _ rpt => rpt
  | .mchk _ rpt => rpt
  | .mcsr _ rpt => rpt
  | .muld _ _ rpt => rpt
  | .mout _ _ _ rpt => rpt
  | .mwait rpt => rpt
  | .ldb _ _ _ _ _ => .none
  | .ldh _ _ _ _ _ => .none
  | .ldw _ _ _ _ _ => .none
  | .ldd _ _ _ _ _ => .none
  | .ldv _ _ _ _ _ _ => .none
  | .ldp _ _ _ _ _ => .none
  | .ldt _ _ _ _ _ _ _ => .none
  | .ldg _ _ _ _ _ _ => .none
  | .stb _ _ _ _ => .none
  | .sth _ _ _ _ => .none
  | .stw _ _ _ _ => .none
  | .std _ _ _ _ => .none
  | .stv _ _ _ _ _ => .none
  | .stp _ _ _ _ => .none
  | .stt _ _ _ _ _ _ => .none
  | .stg _ _ _ _ _ => .none
  | .feset _ _ => .none
  | .feclr _ _ => .none
  | .fetst _ _ _ => .none
  | .wldw _ _ _ _ _ => .none
  | .wldd _ _ _ _ _ => .none
  | .wldv _ _ _ _ _ _ => .none
  | .wldt _ _ _ _ _ _ _ => .none
  | .wldg _ _ _ _ _ _ => .none
  | .wstw _ _ _ _ => .none
  | .wstd _ _ _ _ => .none
  | .wstv _ _ _ _ _ => .none
  | .wstt _ _ _ _ _ _ => .none
  | .wstg _ _ _ _ _ => .none
  | .wfeset _ _ => .none
  | .wfeclr _ _ => .none
  | .probe _ _ _ => .none
  | .fill _ _ => .none
  | .evict _ => .none
  | .wback _ => .none
  | .pin _ _ => .none
  | .unpin _ => .none
  | .tginv _ => .none
  | .tgstat _ _ => .none
  | .cpy _ _ _ _ _ => .none
  | .cwait _ _ _ => .none
  | .ctest _ _ _ => .none
  | .ccancel _ => .none
  | .rput _ _ => .none
  | .rflag _ _ _ _ => .none
  | .rfence => .none
  | .halo _ _ _ _ => .none
  | .hwait _ _ => .none
  | .tidw _ _ => .none
  | .tidr _ _ _ => .none
  | .tidinv _ => .none
  | .layset _ _ _ => .none
  | .coll _ _ _ _ => .none
  | .clwait _ _ _ => .none
  | .reshard _ _ _ _ => .none
  | .gathj _ _ _ _ => .none
  | .aadd _ _ _ _ _ => .none
  | .amin _ _ _ _ _ => .none
  | .amax _ _ _ _ _ => .none
  | .aand _ _ _ _ _ => .none
  | .aor _ _ _ _ _ => .none
  | .axor _ _ _ _ _ => .none
  | .aswp _ _ _ _ _ => .none
  | .acas _ _ _ _ _ => .none
  | .ared _ _ _ => .none
  | .alock _ _ _ _ => .none
  | .aunlk _ _ _ => .none
  | .barc _ _ _ _ => .none
  | .barw _ _ _ _ => .none
  | .tspawn _ _ _ => .none
  | .tdec _ => .none
  | .tdone => .none
  | .qpop _ _ => .none
  | .qpush _ _ _ => .none
  | .qstat _ _ => .none
  | .phend => .none
  | .rmack _ => .none
  | .drain _ => .none
  | .xfence _ _ => .none
  | .trap _ _ => .none
  | .xret _ => .none
  | .halt => .none
  | .bdpkt _ => .none
  | .bdrsp _ _ => .none
  | .mcallRepeatIssue _ _ => .none
  | .matrixOpComplete _ _ => .none
  | .trellisFillGranule _ _ _ => .none
  | .trellisFillEnd _ _ => .none
  | .trellisWritebackEnd _ _ => .none
  | .copyChunkLand _ _ _ _ => .none
  | .engineTransferFault _ _ _ _ _ => .none
  | .remotePieceLand _ _ _ _ _ => .none
  | .remoteAck _ _ _ _ _ => .none
  | .haloFaceLand _ _ _ _ => .none
  | .haloFaceAck _ _ _ _ => .none
  | .collTransferApply _ _ _ _ => .none
  | .reshardStep _ _ _ => .none
  | .collEnd _ _ _ => .none
  | .cleatReply _ _ => .none
  | .scWheelIssue _ => .none
  | .taskServe _ => .none
  | .queueAgeing _ _ => .none
  | .deferredFaultDelivery _ _ => .none
  | .watchdog _ _ => .none
  | .dieArrive _ => .none
  | .domainCross => .none
  | .stragglerTimeout => .none
  | .sailplanPublish => .none
  | .leaseClaim _ => .none
  | .leaseRenew _ => .none
  | .belvedereLapse _ => .none
  | .packageUnmanaged => .none
  | .errorRetryClassify _ _ _ _ _ _ => .none
  | .sramLineRetest _ _ _ => .none
  | .schedTableRebuild _ _ => .none
  | .lodgeHalt _ => .none
  | .lodgeReloadTimeout _ => .none
  | .lodgeReloadComplete _ => .none
  | .clusterReplan _ _ => .none
  | .jobOpen => .none
  | .jobClose => .none
  | .pageroot => .none
  | .trellis => .none
  | .wheel => .none
  | .layouts => .none
  | .sched => .none
  | .tids => .none
  | .image => .none
  | .queues => .none
  | .launch => .none
  | .resumeSuspended => .none
  | .resumeJob => .none
  | .switchOut => .none
  | .cmdTailWrite _ => .none
  | .cmdCtlWrite _ => .none
  | .hyCtlWrite _ => .none
  | .qtail _ _ _ => .none
  | .xlInvAll _ => .none
  | .xlInvPage _ _ => .none
  | .tcCtlWrite _ _ => .none
  | .thLimitsWrite _ _ => .none
  | .pwCtlWrite _ => .none
  | .snap => .none
  | .lrDataRead => .none
  | .msixUnmask _ => .none
  | .registerWrite _ _ _ => .none
  | .regsizeAccess _ _ _ => .none
  | .hostWindowAccess _ _ _ => .none
  | .translationWalk _ _ _ _ => .none
  | .dramRead _ _ _ _ => .none
  | .dramWrite _ _ _ _ _ _ => .none
  | .bdRawrd _ _ => .none
  | .bdRawwr _ _ => .none
  | .bdReplyArrive _ _ => .none
  | .hotnessEpoch _ => .none
  | .tierMoveStart _ _ => .none
  | .tierMoveEnd _ _ => .none
  | .linkFlitReceive _ _ _ _ => .none
  | .linkPacketReceive _ _ _ _ => .none
  | .portBringup _ _ _ _ => .none
  | .rekey _ _ _ => .none
  | .powerGood => .none
  | .pldmActivate _ => .none
  | .getVersion => .none
  | .getCapabilities => .none
  | .negotiateAlgorithms => .none
  | .getDigests => .none
  | .getCertificate _ => .none
  | .challenge _ => .none
  | .getMeasurements _ _ => .none
  | .dualreport _ => .none
  | .dualcert => .none
  | .thermalSample _ _ _ _ => .none
  | .powerTick _ => .none
  | .lifetimeFlashWrite => .none
  | .urgentEventFlush => .none
  | .powerLoss => .none
  | .ballastDutyWindow _ => .none
  | .snapshotReady => .none


/-- The number in XT that names a slot (R97); VB and MX have none. -/
def xtOf : Slot → Nat
  | .sa => 1 | .sb => 2 | .va => 3 | .ls => 4 | .wy => 5 | .tg => 6 | .en => 7 | .vb => 0 | .mx => 0

/-- The header of the bundle that holds `i` alone, with S = 1 (R97). -/
def encodeHeader (i : Instr) : Nat :=
  match i.slot with
  | none => match i with
    | .nopBundle s => encBool s * 4194304
    | _ => 0
  | some s => 2 ^ s.maskBit + 4194304 + encRpt i.rpt * 524288 +
    (match i.ext with
     | none => 0
     | some x => xtOf s * 65536 + x.toNat)

/-- The words of the bundle that holds `i` alone: a header and its syllable; the header alone for a no-operation
bundle; nothing for a row without an encoding. -/
def encode (i : Instr) : List Word :=
  match i.slot with
  | some _ => [BitVec.ofNat 32 (encodeHeader i), BitVec.ofNat 32 (encodeSyl i)]
  | none => match i with
    | .nopBundle _ => [BitVec.ofNat 32 (encodeHeader i)]
    | _ => []

/-- Decodes the words of one bundle that holds one instruction, as `encode` lays them out. -/
def decodeOne : List Word → Option Instr
  | [] => none
  | h :: ws =>
    match decodeBundle h ws with
    | none => none
    | some b =>
      match b.syls with
      | [] => some (.nopBundle b.stop)
      | [(_, .ok i)] => some i
      | _ => none

/-- Whether a word is a no-operation bundle's header (R98). -/
def isNopWord (w : Word) : Bool := w = 0 || w = 0x00400000

/-- The first slot, in presence-mask order, in which the syllable `w` is an instruction. The opcode table gives a row
no slot, and its bits are one word: a no-operation bundle's header or a syllable (log 11). -/
def tableSlot (w : Word) : Option Slot :=
  if isNopWord w then none
  else allSlots.find? fun s => match decodeSyl s .none w none with
    | .ok _ => true
    | .error _ => false

/-- The instruction the decoder reads from a row of the opcode table: the word is a syllable of the first slot that
holds its code, in a bundle of its own, or else a no-operation bundle's header. The lengths the table gives are 32
bits, and 0 for a row without an encoding. -/
def decodeTableWord (nbits w : Nat) : Option Instr :=
  if nbits = 0 then none
  else
    let word : Word := BitVec.ofNat 32 w
    match tableSlot word with
    | some s => decodeOne [BitVec.ofNat 32 (2 ^ s.maskBit + 4194304), word]
    | none => decodeOne [word]

end Sys2Proof
end

