-- ==== Sys2Proof/Config.lean ====
section
/-! DEFINITION. What the spec leaves open and what stands outside it: free values, cryptographic functions and the
monitors of the silicon, as opaque constants that no proof can evaluate (log 2, log 8). -/

namespace Sys2Proof

/-- A halo face as its packets name it: the sender's identifier, barrier, depths, face and entry (R235, R236). -/
structure LinkFace where
  tid : Nat
  bar : Nat
  dx : Nat
  dy : Nat
  dz : Nat
  face : Nat
  entry : BitVec 512
  deriving DecidableEq, Repr, Inhabited

/-- What the header flit of a packet names (R411): the destination fabric die, the route class, the requester (its fabric
die, its context and the number of its transfer there), the target address, in the form of RPUT's DST field, or for a face
the offset of the packet's bytes in the face, how many data flits follow and how many bytes they hold; and what the routers
keep with it: the rest of its axis order and the axes on which it has taken a detour (R415, R416). The fields beyond those
that R411 names are the model's (log 12). -/
structure LinkHeader where
  dst : Nat
  cls : Nat
  src : Nat
  ctx : Nat
  index : Nat
  addr : Nat
  flits : Nat
  len : Nat
  face : Option LinkFace
  order : List Nat
  detours : List Nat
  deriving DecidableEq, Repr, Inhabited

end Sys2Proof

namespace Sys2Proof.Config

/-- A free value of any use, one per count: the spec gives no value there (log 2). -/
opaque freeValue : Nat → Nat
/-- How long an engine path goes on reading the byte that another path's write has replaced, in free values used since: by the
write, the reading path's class and the byte's key (R269, R271, R274). -/
opaque unseenFor : Nat → Nat → Nat → Nat
/-- Whether an Ed25519 signature of some bytes is good under the key hashed in fuses (R420). -/
opaque edVerify : List Byte → List Byte → Bool
/-- Whether an ML-DSA-65 signature of some bytes is good under the key hashed in fuses (R420). -/
opaque mlVerify : List Byte → List Byte → Bool
/-- The Ed25519 signature of some bytes under the alias key derived from an image's DIGEST and SVN (R421, R422). -/
opaque edSign : BitVec 384 → Nat → List Byte → List Byte
/-- The ML-DSA-65 signature of some bytes under the alias key derived from an image's DIGEST and SVN (R421, R422). -/
opaque mlSign : BitVec 384 → Nat → List Byte → List Byte
/-- The identity certificate of the Ed25519 key, and with `true` that of the ML-DSA-65 key, as the Plawyn certificate
authority signed it at manufacture (R421). -/
opaque identityCert : Bool → List Byte
/-- The certificate of the alias key of an algorithm, derived from an image's DIGEST and SVN and signed by the identity key
(R421). -/
opaque aliasCert : Bool → BitVec 384 → Nat → List Byte
/-- Whether a far end's signature of some bytes, Ed25519 or with `true` ML-DSA-65, is good under the key that its chain
certifies, and the chain under the Plawyn roots of the boot ROM: chain, bytes, signature (R418). -/
opaque hopVerify : Bool → List Byte → List Byte → List Byte → Bool
/-- The X25519 public key of a private key drawn as a free value (RFC 7748, R418). -/
opaque xPublic : Nat → List Byte
/-- The X25519 secret of a drawn private key and a far end's public key (R418). -/
opaque xSecret : Nat → List Byte → List Byte
/-- The ML-KEM-768 encapsulation key of a drawn key pair (FIPS 203, R418). -/
opaque kemKey : Nat → List Byte
/-- The ciphertext and the secret of an encapsulation, from a drawn value, to a far end's key (R418). -/
opaque kemWrap : Nat → List Byte → List Byte × List Byte
/-- The secret of a ciphertext under a drawn key pair (R418). -/
opaque kemOpen : Nat → List Byte → List Byte
/-- HKDF-SHA-384 of a salt and a secret to two 256-bit keys (RFC 5869, R418). -/
opaque hkdf : BitVec 384 → List Byte → BitVec 256 × BitVec 256
/-- AES-256-GCM under a key and a nonce of 96 bits, with a header flit as associated data: the data flits sealed, and the
tag (R419). -/
opaque gcmSeal : BitVec 256 → BitVec 96 → BitVec 512 → List (BitVec 512) → List (BitVec 512) × BitVec 128
/-- The data flits of a sealed message; `none` where its tag fails (R419). -/
opaque gcmOpen : BitVec 256 → BitVec 96 → BitVec 512 → List (BitVec 512) → BitVec 128 → Option (List (BitVec 512))
/-- The CRC-32 of a flit with its sequence number; the spec gives no polynomial (R411). -/
opaque flitCrc : Nat → BitVec 512 → BitVec 32
/-- The free link credits of a port of a die, at a count of readings (R413). -/
opaque credits : Nat → Nat → Nat → Nat
/-- The bits of a header flit, whose layout the spec does not give (R411). -/
opaque headerFlit : LinkHeader → BitVec 512
/-- What the bits of a header flit say. -/
opaque readHeader : BitVec 512 → LinkHeader
/-- The boot ROM's bytes (R423). -/
opaque bootRom : List Byte
/-- Plawyn's PCI-SIG vendor identifier (R333). -/
opaque vendor : BitVec 16
/-- The revision that PK_ID shows (R335). -/
opaque rev : BitVec 8
/-- The timing slack in ps of a cluster of a die at a voltage in mV and a clock in MHz, as its monitors report it at a count
of readings (R389). -/
opaque slack : Nat → Nat → Nat → Nat → Nat → Int

/-- The bytes of a saved Cleat system area, whose layout the spec does not give (R240, R358, log 56). -/
opaque systemByte : Nat → Nat → BitVec 8
/-- The columns of the code of a 128-byte line of a die image, by data bit: the spec gives none (R362, log 8). -/
opaque lineColumn : Nat → BitVec 11
/-- The DRAM row of an address, by tier; the spec gives no geometry (R397, log 2). -/
opaque dramRow : Bool → Nat → Nat

/-- The temperature that the cold plate's inlet shows at a time in µs, and with `true` the outlet's, in units of 0.125 °C:
sensors outside the machine (R425, log 8). -/
opaque coolant : Bool → Nat → Int

/-- The group counters that the Cleat's system area of a die has room for; the spec gives no number (log 2). -/
opaque counterRoom : Nat

end Sys2Proof.Config
end

