-- ==== Sys2Proof/Machine/Context.lean ====
section
/-! DEFINITION. The state of one hardware context: its registers, latches, trap records and run state
(R58, R65, R105, R148, R361), as plain data. -/

namespace Sys2Proof.Machine

/-- A hardware context of the package: die 0 to 7, core 0 to 575 of the die, context 0 to 3 of the core (R12). -/
structure CtxId where
  die : Nat
  core : Nat
  ctx : Nat
  deriving DecidableEq, Repr

/-- The context's identity within its die, 4 × core + context: the s2 value at launch (R44) and the lock owner's
id (R246). -/
def CtxId.inDie (c : CtxId) : Nat := 4 * c.core + c.ctx

/-- The states of a context (R58); Sleeping is split by its two reasons, as R59 does. -/
inductive RunState
  | idle | ready | running | stalled | sleepQueue | sleepBoundary | frozen | suspended
  deriving DecidableEq, Repr

/-- An address register a0 to a7 (R65). -/
structure AReg where
  base : Dword
  stride : Dword
  count : Dword
  deriving DecidableEq, Repr

/-- The control registers a context holds (R148). ctl.phc is the Halyard's counter and ctl.where follows from the
placement, so neither is stored here; reserved bits read zero (R4) and are not stored. -/
structure Ctl where
  wid : Dword
  warg : Dword
  wdep : Dword
  rmp : Dword
  rmv : Dword
  rnd : BitVec 2
  fflags : BitVec 5
  stkb : Dword
  stkl : Dword
  wdog : Dword
  cyc : Dword
  lcnt : Dword
  lbeg : Dword
  lend : Dword
  lstep : BitVec 8
  tvec : Dword
  tcause : Dword
  tpc : Dword
  tinfo0 : Dword
  tinfo1 : Dword
  tinfo2 : Dword
  tinfo3 : Dword
  deriving DecidableEq, Repr

/-- The trap causes, in the order of their codes 1 to 23 (R266). -/
inductive Cause
  | illegalOpcode | reservedEncoding | regCap | latchLost | phaseIllegal | access | align | translation
  | carryEarly | stackLimit | checkMismatch | accChecksum | eccUncorrectable | tidInvalid | tidRange
  | layoutStale | shardStale | formatAxis | collSealed | engineAsync | watchdog | sailplanUnacked | software
  deriving DecidableEq, Repr

/-- The code that ctl.tcause receives (R266). -/
def Cause.code : Cause → Nat
  | .illegalOpcode => 1 | .reservedEncoding => 2 | .regCap => 3 | .latchLost => 4 | .phaseIllegal => 5
  | .access => 6 | .align => 7 | .translation => 8 | .carryEarly => 9 | .stackLimit => 10
  | .checkMismatch => 11 | .accChecksum => 12 | .eccUncorrectable => 13 | .tidInvalid => 14
  | .tidRange => 15 | .layoutStale => 16 | .shardStale => 17 | .formatAxis => 18 | .collSealed => 19
  | .engineAsync => 20 | .watchdog => 21 | .sailplanUnacked => 22 | .software => 23

/-- The values a trap gives ctl.tinfo0 to ctl.tinfo3; `none` where the cause's rule names none, so that
ctl.tinfo0 receives SLOT (R349). -/
structure TInfo where
  t0 : Dword := 0
  t1 : Dword := 0
  t2 : Dword := 0
  t3 : Dword := 0
  deriving DecidableEq, Repr

/-- The transfer on which an XRET action acts (R231, R361): a copy by its handle, an RPUT by its place among the
context's outstanding RPUTs. -/
inductive XferRef
  | cpy (handle : Nat)
  | rput (place : Nat)
  deriving DecidableEq, Repr

/-- The six registers that rec[2].SAVED keeps (R349). -/
structure SavedTrap where
  tcause : Dword
  tpc : Dword
  tinfo0 : Dword
  tinfo1 : Dword
  tinfo2 : Dword
  tinfo3 : Dword
  deriving DecidableEq, Repr

/-- A bundle to be reissued: its address, its words, the performed bits kept (SA at bit 0 to EN at bit 8) and the
target of a pending control transfer (R353, R361). -/
structure Resume where
  rpc : Dword
  words : List Word
  perf : BitVec 9
  pend : Option Dword
  deriving DecidableEq, Repr

/-- A trap record of level 1 or 2 (R361), with the latches that delivery put aside (R105) and the cause, on which
XRET's action turns (R352). `bundle.words` is empty when the bundle's words could not be fetched. -/
structure TrapRec where
  bundle : Resume
  slot : Nat
  defer : Bool
  cause : Cause
  xfer : Option XferRef
  saved : Option SavedTrap
  aside : Vector (Option Vec) 8
  deriving DecidableEq, Repr

/-- A deferred fault: the cause, ctl.tpc, the information registers and the transfer it names (R206, R231), and whether an
operation of the replayable node that the context holds raised it (R386). -/
structure DFault where
  cause : Cause
  tpc : Dword
  info : TInfo
  xfer : Option XferRef
  node : Bool := false
  deriving DecidableEq, Repr

/-- One staged operation of a node log (R254). -/
inductive LogOp
  | ared (addr b : Dword)
  | tdec (task : Nat)
  | qpush (queue : Nat) (record : BitVec 512)
  | arm (task : Nat) (count : BitVec 32)
  deriving DecidableEq, Repr

/-- The item a context holds: the queue and ring index of its record, and, for a replayable node, the address of
its node record, its regions as ranges of memory keys, its log, its replay count and the QPOP that delivered it (R51, R253, R254,
R386), and the cores on which earlier tries failed, each with the CLASS (R383, R439).
`regions` also holds device memory ranges, under the keys of `devNodeKey`. -/
structure Item where
  queue : Nat
  index : Nat
  wid : Dword
  node : Option Dword
  regions : List (Nat × Nat)
  log : List LogOp
  replays : Nat
  pc : Dword
  failed : List (Nat × Nat)
  deriving DecidableEq, Repr

/-- One hardware context (R58, R65). `prio` is its priority (R53), `lastQ` the queue it last took from (R52). `lapsed`
holds once the context has lost the width while its bundle waits: the latches stand only as that bundle's operands (R55,
R317). `woken` holds in a Ready context of which no bundle waits: it woke, or lost the width between two
bundles. `fills` is when
the bundle of a Stalled context began to wait for the granules of a .w.c load, and those granules (R79). `tmpl`
is the template or record that a bundle waiting on a table rebuild has read (R309). -/
structure Ctx where
  st : RunState
  pc : Dword
  s : Vector Dword 48
  v : Vector Vec 48
  p : Vector Pred 16
  b : Vector (Option Vec) 8
  a : Vector AReg 8
  m : Vector Dword 8
  live : Vector (BitVec 256) 16
  shadow : Vector (BitVec 256) 16
  ctl : Ctl
  level : Nat
  rec1 : Option TrapRec
  rec2 : Option TrapRec
  resume : Option Resume
  sleepRec : Option Resume
  lapsed : Bool
  woken : Bool
  fills : Option (Nat × List Nat)
  tmpl : Option (BitVec 512)
  held : List DFault
  item : Option Item
  rollback : Bool
  prio : Nat
  lastQ : Nat
  sailPend : Bool
  deadline : Option Nat
  launch : Nat
  cap : Nat
  tiles : BitVec 8
  ballast : Option Nat
  priv : Bool
  budget : Nat
  deriving DecidableEq, Repr

/-- The control registers all zero. -/
def Ctl.zero : Ctl :=
  { wid := 0, warg := 0, wdep := 0, rmp := 0, rmv := 0, rnd := 0, fflags := 0, stkb := 0, stkl := 0, wdog := 0,
    cyc := 0, lcnt := 0, lbeg := 0, lend := 0, lstep := 0, tvec := 0, tcause := 0, tpc := 0, tinfo0 := 0,
    tinfo1 := 0, tinfo2 := 0, tinfo3 := 0 }

/-- An Idle context: it holds no program (R58); every register zero but p0, which reads all ones (R65), and
every latch invalid. -/
def Ctx.idle : Ctx :=
  { st := .idle, pc := 0, s := Vector.replicate 48 0, v := Vector.replicate 48 0,
    p := (Vector.replicate 16 0).set 0 (BitVec.allOnes 256), b := Vector.replicate 8 none,
    a := Vector.replicate 8 ⟨0, 0, 0⟩, m := Vector.replicate 8 0,
    live := Vector.replicate 16 0, shadow := Vector.replicate 16 0, ctl := Ctl.zero, level := 0,
    rec1 := none, rec2 := none, resume := none, sleepRec := none, lapsed := false, woken := false, fills := none,
    tmpl := none, held := [], item := none,
    rollback := false, prio := 0, lastQ := 0, sailPend := false, deadline := none, launch := 0, cap := 16, tiles := 0,
    ballast := none, priv := false, budget := 0 }

end Sys2Proof.Machine
end

