-- ==== Sys2Proof/Machine/DieState.lean ====
section
/-! DEFINITION. The state of one compute die beside its contexts and memory: cores and tiles, tables, queues,
the task scheduler, engines and their transfers, Trellis tags, tiers and translation, as plain data. -/

namespace Sys2Proof.Machine

/-- A sparse table: key and value pairs in strictly rising key order. An absent key reads as the table's default,
which its accessor names. -/
abbrev Tab (α : Type) := List (Nat × α)

/-! ### Matrix unit (R177 to R204) -/

/-- An attached outlier list: its LS offset in the own scratchpad and its entry count (R190, R202). -/
structure Outl where
  offset : Nat
  count : Nat
  deriving DecidableEq, Repr

/-- An accumulator tile: 32 rows of 1,024 bits, a checksum pair per row, mode, POISON and attached list (R177). -/
structure Tile where
  rows : Vector (BitVec 1024) 32
  cs : Vector Dword 32
  ms : Vector Dword 32
  mode : TileMode
  poison : Bool
  outl : Option Outl
  deriving DecidableEq, Repr

/-- The register values that a queued matrix operation captures at acceptance (R196). -/
structure MxArgs where
  sreg : Dword
  m : Vector Dword 8
  a : Vector AReg 8
  mh : BitVec 256
  deriving DecidableEq, Repr

/-- A queued matrix operation (R196). `before` holds what the earlier issues of an MCALL's repeat captured, the first issue
first; `last` marks the issue after which an attached outlier list is applied and detached (R188, R190). -/
inductive MxOp
  | mcall (z : Nat) (r : Nat) (args : MxArgs) (before : List MxArgs) (last : Bool)
  | mzero (z : Nat) (mode : TileMode)
  | mst (z : Nat) (form : Nat) (sreg : Dword)
  | mout (z : Nat) (list : Outl)
  | detach (z : Nat)
  deriving DecidableEq, Repr

/-- One entry of the matrix queue: the context that issued it, the bundle it belongs to, the operation, and whether the
replayable node that the context holds issued it (R386). -/
structure MxEntry where
  ctx : Nat
  tpc : Dword
  op : MxOp
  node : Bool
  deriving DecidableEq, Repr

/-- An interlocked operation as a repeat issues it again, with the operands of its first issue (R100, R198, R200, R201): MRD,
MWR, MCHK, MCSR and MULD. -/
inductive MxLock
  | mrd (d z q : Nat)
  | mwr (z q : Nat) (v : Vec)
  | mchk (z : Nat)
  | mcsr (z : Nat)
  | muld (r : Nat) (v : Dword)
  deriving DecidableEq, Repr

/-- What a repeat issues again: an MCALL, with its first issue's operands and what the issues so far captured (R188), or
another queued operation, or an interlocked one (R100). -/
inductive MxAgain
  | mcall (z : Nat) (r : Nat) (sreg : Dword) (mh : BitVec 256) (before : List MxArgs)
  | op (o : MxOp)
  | lock (o : MxLock)
  deriving DecidableEq, Repr

/-- A running matrix repeat: the issuing context, the bundle, what is issued again, the issues left (R100, R188), and
whether the replayable node that the context holds issued it (R386). -/
structure MxRepeat where
  ctx : Nat
  tpc : Dword
  again : MxAgain
  left : Nat
  node : Bool
  deriving DecidableEq, Repr

/-- One core beside its contexts: tiles, microword store, routine table, matrix queue, the running repeat, the
context that holds the issue width, whether it offers the width to another (R55), the context last selected, and the vector
registers in use (R12, R55, R191). -/
structure Core where
  tiles : Vector Tile 8
  ucode : Tab (BitVec 64)
  routines : Tab (Nat × Nat)
  queue : List MxEntry
  rept : Option MxRepeat
  running : Option Nat
  offer : Bool
  lastSel : Nat
  regionTop : Nat
  ballasts : Nat
  deriving DecidableEq, Repr

/-! ### Launches, queues, tasks (R41 to R64, R343) -/

/-- A live launch: its 128-byte header, its contexts and its privileged mark (R41, R122). -/
structure Launch where
  id : Nat
  header : BitVec 1024
  ctxs : List Nat
  priv : Bool
  deriving DecidableEq, Repr

/-- A queue: its descriptor (R343) with HEAD and TAIL, the levels it has risen, and the cycle since which
it waits for a pop (R53). `stuck` holds where an ended launch left records in it, which no launch is given before a
QUEUES command (R42). -/
structure Queue where
  rbase : Dword
  log2n : Nat
  prod : Bool
  held : Bool
  vec : Nat
  note : Nat
  head : BitVec 32
  tail : BitVec 32
  aged : Nat
  since : Nat
  stuck : Bool
  deriving DecidableEq, Repr

/-- A record some of whose identifiers have been delivered and which has not retired (R51): its fields, the
identifiers delivered out of order, those retired, and the task it stands for (R62). -/
structure OpenRec where
  queue : Nat
  index : BitVec 32
  widlo : Nat
  widn : Nat
  arg : Dword
  parent : BitVec 32
  depth : Nat
  peritem : Bool
  task : Option Nat
  next : Nat
  extra : List Nat
  retired : Nat
  deriving DecidableEq, Repr

/-- An item to be replayed (R386): its queue and index, identifier, ARG, DEPTH and replay count, and the cores on which it
failed with CHECK_MISMATCH or ACC_CHECKSUM, each with the CLASS (R383, R439). -/
structure Replay where
  queue : Nat
  index : Nat
  wid : Dword
  arg : Dword
  depth : Nat
  count : Nat
  failed : List (Nat × Nat)
  deriving DecidableEq, Repr

/-- A group counter of an open group (R49): its launch, level, group number and identifiers retired. `overflow`
marks a counter taken from the overflow area. -/
structure GroupCtr where
  launch : Nat
  level : Nat
  group : Nat
  retired : Nat
  overflow : Bool
  deriving DecidableEq, Repr

/-- A placement binding (R47): the place is a cluster, a core or a context number of the die, by the binding's
kind 1, 2 or 3, and holds until every item of the group has retired. -/
structure Binding where
  launch : Nat
  level : Nat
  group : Nat
  kind : Nat
  place : Nat
  retired : Nat
  deriving DecidableEq, Repr

/-- An entry of the ready queue (R61, R49): a READY task, or a continuation whose queue had no room, with its template's
address, its group's first identifier, its launch and whether its counter stands in the overflow area. -/
inductive ReadyItem
  | task (t : Nat)
  | cont (tmpl first launch : Nat) (overflow : Bool)
  deriving DecidableEq, Repr

/-- A lock record of the Cleat (R246): the lock word's address, its holder and its waiters in order of arrival, whether
the holder was granted it and has not seen so yet, and whether its holder has become Idle and the write that frees it waits
for an entry of the park buffer (R370). -/
structure LockRec where
  addr : Nat
  owner : Nat
  waiters : List Nat
  granted : Bool
  dropping : Bool
  deriving DecidableEq, Repr

/-- A counting barrier (R247). -/
structure Barrier where
  target : BitVec 32
  count : BitVec 32
  gen : BitVec 32
  deriving DecidableEq, Repr

/-! ### Engines (R221 to R239, R286 to R306) -/

/-- A place in the package's memory that an engine names: a region of a die and a byte offset in it, a device
virtual address of a die, an offset in the host window, or an address at a fabric die of another package, in the form of
RPUT's DST field. -/
inductive Place
  | spad (die core off : Nat)
  | wbuf (die core off : Nat)
  | vault (die v off : Nat)
  | dev (die : Nat) (dva : Nat)
  | host (off : Nat)
  | away (fabric addr : Nat)
  deriving DecidableEq, Repr

/-- A copy (R225 to R231): its context and handle, its captured entries and box, and its progress. -/
structure Copy where
  ctx : Nat
  handle : Nat
  tpc : Dword
  srcEnt : BitVec 512
  dstEnt : BitVec 512
  srcId : Nat
  dstId : Nat
  eh : BitVec 256
  coords : BitVec 512
  dstDie : Nat
  srcHost : Bool
  dstHost : Bool
  remote : Bool
  len : Nat
  shift : Nat
  landed : List Nat
  parked : List Nat
  fault : Option Nat
  lost : Bool
  skipped : Bool
  cancelled : Bool
  ended : Bool
  carry : Option Nat
  phase : Nat
  node : Bool
  deriving DecidableEq, Repr

/-- An RPUT (R232): its context and place, its endpoints and the pieces landed and acknowledged. -/
structure Rput where
  ctx : Nat
  place : Nat
  tpc : Dword
  src : Place
  dst : Place
  len : Nat
  die : Nat
  paths : Nat
  landed : List Nat
  acked : List Nat
  fault : Option Nat
  stopped : Bool
  carry : Option Nat
  phase : Nat
  seq : Nat
  deriving DecidableEq, Repr

/-- An RFLAG (R233) by its place among the context's outstanding RFLAGs. -/
structure Rflag where
  ctx : Nat
  place : Nat
  tpc : Dword
  dst : Place
  die : Nat
  value : Dword
  ord : Bool
  landed : Bool
  carry : Option Nat
  phase : Nat
  seq : Nat
  deriving DecidableEq, Repr

/-- A halo exchange (R235 to R237) at its issuing die: incoming faces landed, edge faces, aborted
faces, and its own faces sent and acknowledged, each in the order XN, XP, YN, YP, ZN, ZP. -/
structure Halo where
  ctx : Nat
  handle : Nat
  tid : Nat
  entry : BitVec 512
  dx : Nat
  dy : Nat
  dz : Nat
  bar : Nat
  inn : BitVec 6
  edge : BitVec 6
  abort : BitVec 6
  sent : BitVec 6
  acked : BitVec 6
  carry : Option Nat
  phase : Nat
  deriving DecidableEq, Repr

/-- Which collective an operation is (R297). -/
inductive CollKind | coll | gathj | reshard
  deriving DecidableEq, Repr

/-- A collective operation as one die issued it (R292 to R304): its record, its group as dies of the package in rank
order, its schedule and the schedule's step, the expected shard version, the transfers applied at this die by rank and
index, whether a rank has found it complete, so that no loss aborts it any more, and the entries that an aborted carry
re-shard restores. A handle of 4 is a freed one. -/
structure Coll where
  ctx : Nat
  handle : Nat
  kind : CollKind
  tag : Nat
  record : BitVec 1024
  group : List Nat
  sched : Nat
  srcId : Nat
  dstId : Nat
  srcEnt : BitVec 512
  dstEnt : BitVec 512
  shard : BitVec 32
  step : Nat
  applied : List (Nat × Nat)
  aborted : Bool
  reason : Nat
  who : Nat
  complete : Bool
  ended : Bool
  carry : Option Nat
  phase : Nat
  undo : Bool
  deriving DecidableEq, Repr

/-- An open carry window at a die (R28): destination or source, its owner's key, its boundary, and its byte
ranges as (first memory key, length). -/
structure Window where
  owner : Nat
  dst : Bool
  boundary : Nat
  ranges : List (Nat × Nat)
  deriving DecidableEq, Repr

/-- A step of a re-shard schedule (R300). -/
structure SchedStep where
  sdie : Nat
  rdie : Nat
  scount : Nat
  sstart : Nat
  dstart : Nat
  rcount : Nat
  deriving DecidableEq, Repr

/-- A loaded re-shard schedule (R299): its 64-byte header and its steps. -/
structure Schedule where
  header : BitVec 512
  steps : List SchedStep
  deriving DecidableEq, Repr

/-! ### Trellis (R216 to R219, R442) -/

/-- The states of a way (R216). -/
inductive WaySt | invalid | filling | clean | dirty | writing | failed
  deriving DecidableEq, Repr

/-- A way: its state, PIN, the sequence number of its latest fill, its block, a pending write-back of an older
block (R442), whether EVICT awaits the write-back (R218), and whether the block was stored to again while WRITING (R73). -/
structure Way where
  st : WaySt
  pin : Bool
  seq : BitVec 16
  block : Nat
  pending : Option Nat
  evict : Bool
  again : Bool
  deriving DecidableEq, Repr

/-- A queued fill or write-back (R217, R219): the way's key, the requesting context, granules landed, and whether the
replayable node that the context holds asked for it (R386). -/
structure FillJob where
  way : Nat
  wb : Bool
  block : Nat
  ctx : Nat
  tpc : Dword
  landed : Nat
  parked : Bool
  node : Bool
  deriving DecidableEq, Repr

/-! ### Tiers, translation, diagnostics (R364 to R371, R391 to R409) -/

/-- Who made a parked write (R370): the host, a Cleat operation of a context of the die, the die's scheduler, a way's
write-back, or a transfer: a copy's chunk, an RPUT's piece or a halo's face, by the die, the context and the handle or
place of its issue and its own number, or a collective's transfer, by the sending die, the superstep, the tag and its
index. -/
inductive ParkOwner
  | host
  | cleat (ctx : Nat)
  | sched
  | writeBack (way : Nat)
  | copy (die ctx handle chunk : Nat)
  | rput (die ctx place piece : Nat)
  | face (die ctx handle face : Nat)
  | coll (die phase tag index : Nat)
  deriving DecidableEq, Repr

/-- A parked write request of up to 64 bytes (R370): the device physical address; the translation that it holds, as the
page's first address and log2 of its size, and whether that entry has been invalidated since (R369, R371); its bytes and
who made it. -/
structure Parked where
  dpa : Nat
  page : Nat × Nat
  stale : Bool
  bytes : List Byte
  owner : ParkOwner
  deriving DecidableEq, Repr

/-- A tier move in progress (R402). -/
structure TierMove where
  group : Nat
  member : Nat
  deriving DecidableEq, Repr

/-- A cached translation (R368): the first address of the page, log2 of its size, its DPA, W and X. -/
structure TlbEntry where
  base : Nat
  bits : Nat
  dpa : Nat
  w : Bool
  x : Bool
  deriving DecidableEq, Repr

/-- A diagnostic packet or reply (R406 to R408): its context, its request fields, its reply once the base die has
served it, whether that reply has reached the die, and whether its context has become Idle since. -/
structure DiagPkt where
  ctx : Nat
  hdr : Dword
  addr : Nat
  mask : BitVec 64
  check : BitVec 32
  data : BitVec 512
  reply : Option (BitVec 768)
  arrived : Bool
  orphan : Bool
  deriving DecidableEq, Repr

/-- The translation root of a job on a die (R364). -/
structure Root where
  troot : Nat
  imga : Nat
  imgb : Nat
  own : BitVec 64
  deriving DecidableEq, Repr

/-- The job status registers of a die (R347). -/
structure JobStatus where
  status : BitVec 8
  info0 : Dword
  info1 : Dword
  deriving DecidableEq, Repr

end Sys2Proof.Machine
end

