-- ==== Sys2Proof/Machine/PackageState.lean ====
section
/-! DEFINITION. The state of the package beside its dies: the Halyard, the host port, firmware and the sail plan,
links, boot, attestation, thermal and power control, and the lifetime records, as plain data. -/

namespace Sys2Proof.Machine

/-! ### Halyard (R16 to R40) -/

/-- The Halyard of the domain: ctl.phc and the registers of R40, the dies that have arrived (bit d is die d), the
time in µs since the first arrival, the expiries whose policy no Belvedere has applied yet (R31, R32, R376), the other
packages of the domain, and whether its contexts are frozen at a marked boundary (R35). -/
structure Halyard where
  phc : BitVec 64
  tmo : Nat
  extend : Bool
  preen : Bool
  target : Dword
  strag : Bool
  extended : Bool
  premiss : Bool
  frozen : Bool
  arrived : BitVec 8
  timer : Option Nat
  expiries : Nat
  pkgs : List (Nat × Nat × Nat)
  deriving DecidableEq, Repr

/-! ### Host port (R333 to R347) -/

/-- An MSI-X table entry: message address, message data, mask bit, pending bit (R336). -/
structure MsixEntry where
  addr : Dword
  data : Word
  masked : Bool
  pending : Bool
  deriving DecidableEq, Repr

/-- The host port's registers (R335, R337, R340): PK_ERR, PK_WINADDR, the WINMAPs, the host window, the command
ring with BASE and LOG2N as taken when EN was set, the MSI-X table and the vectors sent, oldest first. -/
structure HostPort where
  err : BitVec 3
  winaddr : Dword
  winmap : Vector Dword 32
  bar4Log : Nat
  winBase : Dword
  winSize : Dword
  cmdBase : Dword
  cmdLog2n : Nat
  cmdEn : Bool
  ringBase : Dword
  ringLog2n : Nat
  cmdTail : BitVec 32
  cmdHead : BitVec 32
  msix : Tab MsixEntry
  sent : List Nat
  readData : Dword
  deriving DecidableEq, Repr

/-! ### Lodge cores and the sail plan (R372 to R390) -/

/-- A report posted in a mailbox for the Belvedere (R372, R376). -/
inductive PlanChange
  | coreOff (die core : Nat)
  | vaultOff (die v : Nat)
  | copyEngineOff (die e : Nat)
  | portMode (die port mode : Nat)
  | lodge (die standing : Nat)
  | memOff (die : Nat) (cap : Bool)
  | dieLost (die : Nat)
  | spares (die : Nat)
  | volt (die cluster mv : Nat)
  | clock (die cluster mhz : Nat)
  | clusterOff (die cluster : Nat)
  deriving DecidableEq, Repr

/-- A report with the lifetime event that goes with it: CLASS, UNIT and ADDR of R439, or no event. -/
structure Report where
  change : PlanChange
  cls : Option Nat
  unit : Nat
  addr : Nat
  deriving DecidableEq, Repr

/-- A die's mailbox: the lease word with its stamp in µs (R372, R373). -/
structure Mailbox where
  holder : Nat
  term : Nat
  stamp : Nat
  deriving DecidableEq, Repr

/-- A cluster's entry in a die section (R377). -/
structure ClusterPlan where
  cores : BitVec 96
  mhz : Nat
  mv : Nat
  deriving DecidableEq, Repr

/-- A die section of the sail plan (R377). -/
structure DiePlan where
  alive : Bool
  lodge : Nat
  copyE : BitVec 4
  hbm : Bool
  cap : Bool
  ports : Vector Nat 6
  vaults : BitVec 72
  spares : Nat
  clusters : Vector ClusterPlan 6
  deriving DecidableEq, Repr

/-- A sail plan record (R377). -/
structure SailPlan where
  version : Nat
  time : Nat
  cause : Nat
  cdie : Nat
  cunit : Nat
  pkg : Nat × Nat × Nat
  belv : Nat
  dies : Vector DiePlan 8
  deriving DecidableEq, Repr

/-- A lodge core (R372 to R376, R388): whether it runs, when it halted, halts within 24 h, the term it acts in as
Belvedere, the time of its last majority renewal, in µs, and whether its last claim failed (R374). -/
structure Lodge where
  running : Bool
  haltedAt : Option Nat
  lastHalt : Option Nat
  acting : Option Nat
  renewed : Nat
  again : Bool
  deriving DecidableEq, Repr

/-- The count of events against a unit within 24 h (R382, R383, R388, R397): CLASS, die, unit and the times in µs. -/
structure Against where
  die : Nat
  cls : Nat
  unit : Nat
  times : List Nat
  deriving DecidableEq, Repr

/-- What the outside shows to the happenings that ask for it (the model's own inputs, log 13): the mailboxes that a lodge
core's compare-and-swap can write now and finds unchanged (R373 to R375), the lodge cores whose two reads of flash slot A and
of slot B fail (R420), the dies where the first read of a stored image fails for a passing cause (R363), and whether the flash
is being written as the power fails (R435). -/
structure Outside where
  mail : BitVec 8
  errA : BitVec 8
  errB : BitVec 8
  reread : BitVec 8
  writing : Bool
  deriving DecidableEq, Repr

/-! ### Links, boot and attestation (R411 to R423) -/

/-- A packet: what its header names, and its data flits (R411). -/
structure LinkPacket where
  head : LinkHeader
  data : List (BitVec 512)
  deriving DecidableEq, Repr

/-- A Leral port (R411, R412, R417 to R419): STATE, PEER, RESENDS, the key epoch, the packets sent and received under the
current keys, the time in µs of those keys, the keys of the two directions, the far end's package identity and whether its
lodge core was reloaded since the bring-up; the sequence number of the next flit, whether its last copy failed its CRC, the
flits received of packets not yet complete, whether the packet under way failed its tag; and the packets in the replay
buffer with their flits as sent, oldest first, and whether the far end found the oldest one's tag failing. -/
structure Port where
  st : Nat
  peer : Nat
  resends : Nat
  epoch : Nat
  sent : Nat
  received : Nat
  keyedAt : Nat
  txKey : BitVec 256
  rxKey : BitVec 256
  ident : BitVec 64
  stale : Bool
  seq : Nat
  badFlit : Bool
  rx : List (BitVec 512)
  badTag : Bool
  out : List (LinkPacket × List (BitVec 512))
  badOut : Bool
  deriving DecidableEq, Repr

/-- A port at power-on. -/
def Port.reset : Port :=
  { st := 0, peer := 0, resends := 0, epoch := 0, sent := 0, received := 0, keyedAt := 0, txKey := 0, rxKey := 0, ident := 0,
    stale := false, seq := 0, badFlit := false, rx := [], badTag := false, out := [], badOut := false }

/-- A Finast image slot of the serial flash: the header's fields and the body (R420). -/
structure FlashSlot where
  magic : BitVec 32
  svn : BitVec 32
  bodyLen : Nat
  digest : BitVec 384
  edsig : List Byte
  mlsig : List Byte
  body : List Byte
  deriving DecidableEq, Repr

/-- Boot state: READY and FALLBACK of BOOT_STATUS, the fused minimum SVN, the two slots and by die the slot that its lodge
core runs (R420). -/
structure Boot where
  ready : Bool
  fallback : Bool
  minSvn : BitVec 8
  slotA : Option FlashSlot
  slotB : Option FlashSlot
  dieSlots : Vector (Option Bool) 8
  deriving DecidableEq, Repr

/-- An answer of the SPDM responder (R422): versions as major and minor numbers; Ed25519 and SHA-384; the digest of
slot 0; a chain; a signed challenge; signed measurement blocks by index; blocks with both signatures. -/
inductive SpdmAnswer
  | silent
  | error
  | versions (vs : List (Nat × Nat))
  | capabilities
  | algorithms
  | digests (ds : List (BitVec 384))
  | certificate (bytes : List Byte)
  | challengeAuth (digest : BitVec 384) (nonce : BitVec 256) (sig : List Byte)
  | measurements (blocks : List (Nat × List Byte)) (nonce : BitVec 256) (sig : List Byte)
  | report (blocks : List (Nat × List Byte)) (nonce : BitVec 256) (edsig mlsig : List Byte)
  deriving DecidableEq, Repr

/-- The SPDM responder: how far the connection has come, and the last answer (R422). -/
structure Spdm where
  version : Bool
  capable : Bool
  negotiated : Bool
  answer : SpdmAnswer
  deriving DecidableEq, Repr

/-! ### Thermal and power (R424 to R434) -/

/-- A die's sensors and limits (R426 to R431). `stopped` holds from a trip: the cluster clocks of the die stand (R427). -/
structure Thermal where
  temps : Vector Int 32
  valid : Bool
  stopped : Bool
  htemp : Int
  ctemp : Int
  hstep : Nat
  cstep : Nat
  hot : Bool
  max : Int
  st : Nat
  warn : Nat
  throt : Nat
  trip : Nat
  event : BitVec 5
  deriving DecidableEq, Repr

/-- Steady-power mode and the cold plate (R425, R432, R433). -/
structure Power where
  en : Bool
  set : Nat
  watts : Nat
  duty : Nat
  inlet : Int
  outlet : Int
  deriving DecidableEq, Repr

/-! ### Lifetime records (R435 to R440) -/

/-- A flash copy of the lifetime image: the image as 64-bit values by byte offset ÷ 8, and the SHA-384 digest that follows it
(R435). -/
structure FlashCopy where
  image : Tab (BitVec 64)
  digest : BitVec 384
  deriving DecidableEq, Repr

/-- The lifetime records: the image in the service block as 64-bit values by byte offset ÷ 8 (R438), the two flash
copies with their completeness, whether the next write goes to B, urgent entries not yet in flash, and the snapshot
with LR_ADDR and the readiness of R437. `wroteAt` is the time of the last hourly write in µs, and `owed` holds from a
Belvedere's taking of the role to its first write (R436). -/
structure Lifetime where
  image : Tab (BitVec 64)
  copyA : Option FlashCopy
  copyB : Option FlashCopy
  nextB : Bool
  urgent : List Nat
  snapshot : Option (Tab (BitVec 64))
  snapping : Bool
  offs : Nat
  wroteAt : Nat
  owed : Bool
  deriving DecidableEq, Repr

end Sys2Proof.Machine
end

