-- ==== Sys2Proof/Machine/State.lean ====
section
/-! DEFINITION. The state of the machine: one KZ-880 package of eight dies, as plain data; the state after a cold
reset; the reasons a step can stop. -/

namespace Sys2Proof.Machine

/-- The tables of a die that tensor identifiers, layouts, schedules and the Cleat use (R221, R247, R246, R283,
R286, R288, R290, R299). `wheelPos` is the slot wheel's position and `wheelRev` its count of revolutions. -/
structure DieTables where
  tids : Tab (BitVec 512)
  layouts : Tab (BitVec 256)
  shards : Tab (BitVec 32)
  scheds : Tab Schedule
  wheel : Tab (BitVec 16)
  wheelPos : Nat
  wheelRev : Nat
  scWait : List Nat
  barriers : Tab Barrier
  locks : List LockRec
  deriving DecidableEq, Repr

/-- The scheduler of a die (R41 to R64): queues, launches, records in delivery, replay lists, the ready queue, group
counters and bindings, pool records reserved by replayable nodes, whether its tables are being rebuilt, and the QTAIL
writes held meanwhile, by queue (R387). -/
structure DieSched where
  queues : Tab Queue
  launches : List Launch
  nextLaunch : Nat
  recs : List OpenRec
  links : List (Nat × Nat × Nat)
  replays : List Replay
  ready : List ReadyItem
  groups : List GroupCtr
  binds : List Binding
  reserved : List Nat
  rebuilding : Bool
  tails : List (Nat × Dword)
  deriving DecidableEq, Repr

/-- The transfers in flight that a die issued, its carry windows and the collective tags used in the superstep
(R225 to R237, R292 to R304, R28). `early` holds incoming halo faces that came before the die's own HALO: the identifier,
the margin and whether it was dropped (R236). `former` holds the destination windows closed since the boundary before
last, whose granules a resume sets full (R36). -/
structure DieXfers where
  copies : List Copy
  rputs : List Rput
  rflags : List Rflag
  halos : List Halo
  early : List (Nat × Nat × Bool)
  colls : List Coll
  windows : List Window
  former : List Window
  tags : List Nat
  nextKey : Nat
  deriving DecidableEq, Repr

/-- The Trellis of a die (R71, R216, R217): the partition size P in units of 256 KiB, the vault mask, the ways, the
order of recency of each set with the most recently used way first, the fill counters and the queue of fills and
write-backs. -/
structure DieTrellis where
  p : Nat
  mask : BitVec 72
  ways : Tab Way
  recency : Tab (List Nat)
  counters : Tab (BitVec 16)
  jobs : List FillJob
  deriving DecidableEq, Repr

/-- An entry of the remap table (R399); MOVING stands in the list of moves. -/
structure Remap where
  fast : Nat
  slot0 : Nat
  pin : Bool
  deriving DecidableEq, Repr

/-- The base die and tier controller of a die (R370, R397, R399 to R403, R406, R408). `cache` lists the groups of each set
of the controller's cache of remap entries, the most recently used first (R400); `halvedAt` is the time in µs of the last
halving of the counters (R401). -/
structure DieTiers where
  remap : Tab Remap
  cache : Tab (List Nat)
  moves : List TierMove
  parked : List Parked
  hot : Tab Nat
  en : Bool
  thresh : Nat
  epoch : Nat
  halvedAt : Nat
  maxmov : Nat
  swaps : BitVec 64
  spareRows : Tab Nat
  diag : List DiagPkt
  deriving DecidableEq, Repr

/-- What a switched-out die keeps beside its image's bytes: the cores, tables, scheduler, Trellis and contexts, whose
parts the image states are read back from it, and the plan's section of the die at the save (R356 to R363, log 56). -/
structure Saved where
  cores : Tab Core
  tables : DieTables
  sched : DieSched
  tr : DieTrellis
  former : List Window
  launched : Bool
  ctxs : Tab Ctx
  plan : DiePlan
  diag : Bool
  pkgs : List (Nat × Nat × Nat)
  deriving DecidableEq, Repr

/-- An entry of the directory of switched-out jobs (R356, R363). -/
structure DirEntry where
  job : Dword
  root : Root
  phc : Nat
  saved : Saved
  deriving DecidableEq, Repr

/-- Translation on a die (R364 to R369): the root in force, the root set last, whose groups stay pinned until another
replaces it (R399), the owners of its DPA units, the cached translations, and the directory of switched-out jobs. -/
structure DieXlate where
  root : Option Root
  last : Option Root
  owners : List (Dword × BitVec 64)
  tlb : List TlbEntry
  dir : List DirEntry
  deriving DecidableEq, Repr

/-- One compute die beside its contexts and memory. `launched` holds once the open job has made a launch, `arrivedAt` is
the time in µs of its last arrival, `inbox` the packets of halo faces that came from other packages and have not landed,
`suspects` the suspect SRAM lines and `spareLines` the spare lines in use by unit: a
die core, or 1,000 + a vault (R384). -/
structure Die where
  cores : Tab Core
  tables : DieTables
  sched : DieSched
  xf : DieXfers
  tr : DieTrellis
  tiers : DieTiers
  xl : DieXlate
  js : JobStatus
  job : Option Dword
  diag : Bool
  launched : Bool
  th : Thermal
  ports : Vector Port 6
  suspects : List Nat
  spareLines : Tab Nat
  arrivedAt : Nat
  inbox : List LinkPacket
  deriving DecidableEq, Repr

/-- The next turn, when an input names it: a core that issues, a happening of the opcode table, time that passes in µs, or a
change of what the outside shows. -/
inductive Turn
  | core (die core : Nat)
  | event (i : Instr)
  | elapse (us : Nat)
  | inputs (x : Outside)
  deriving DecidableEq, Repr

/-- A write of an engine path: the die of its bytes, the class of the path (R274), the count of free values used when it
performed, the classes that need not read it yet, and by key the bytes that they may still read. -/
structure Unseen where
  die : Nat
  path : Nat
  born : Nat
  blind : List Nat
  cells : List (Nat × Byte)
  deriving DecidableEq, Repr

/-- The machine. `cx` holds the registers of the context `cur`, whose turn it is, and `ctxs` those of the other
contexts; an absent context is Idle. `mem` lists the bytes of every memory of the package that are not zero;
`empty` the granules that are empty, `bad` the 64-bit SRAM words that read uncorrectable and the words of host memory whose
DMA read fails, `codes` the DRAM check codes that differ from the fresh code of the word's bytes, `unseen` the engine writes that other paths may not read yet.
`belv` is SP_BELV: the last Belvedere's die and term (R379).
`clocks` lists the clusters whose clock in force is not yet the plan's (R380), `changes` the reports in the mailboxes.
`nowCyc` counts cycles of the 1 GHz clock, and `lag` by cluster the cycles of it that a lowered clock has not made (R2).
`replans` holds by cluster the time in µs of its last re-plan and the slack in ps that it left (R389). `outside` is what the
outside shows, `fresh` counts the free values used, and `agenda` says which agent moves next. -/
structure State where
  cur : CtxId
  cx : Ctx
  ctxs : Tab Ctx
  dies : Vector Die 8
  mem : List Host.Cell
  empty : List Nat
  bad : List Nat
  codes : Tab (BitVec 16)
  unseen : List Unseen
  hy : Halyard
  host : HostPort
  mail : Vector Mailbox 8
  lodge : Vector Lodge 8
  plan : SailPlan
  changes : List Report
  belv : Nat × Nat
  unmanaged : Bool
  clocks : List (Nat × Nat × Nat)
  against : List Against
  replans : Tab (Nat × Int)
  boot : Boot
  spdm : Spdm
  power : Power
  life : Lifetime
  nowUs : Nat
  nowCyc : Nat
  lag : Tab Nat
  outside : Outside
  fresh : Nat
  agenda : List Turn
  deriving DecidableEq, Repr

/-- The reasons a step stops with a fault. -/
inductive Fault
  /-- Raised by the meanings of the syllables when the context whose turn it is is not Running: no context issues a
  bundle then (R58). Safe: the hardware issues nothing either. -/
  | noRunningContext
  deriving DecidableEq, Repr

/-- The reasons a step is refused. -/
inductive Refusal
  /-- Raised by `exec` for an instruction that has no meaning yet, by its mnemonic. Safe: nothing can be proved of
  the instruction. -/
  | notModelled (mnemonic : String)
  deriving DecidableEq, Repr

/-- A tile before any launch: FP32 mode with zeros everywhere, as a launch leaves it (R66, R177). -/
def Tile.zero : Tile :=
  { rows := Vector.replicate 32 0, cs := Vector.replicate 32 0, ms := Vector.replicate 32 0, mode := .fp32,
    poison := false, outl := none }

/-- A core that holds no job. -/
def Core.reset : Core :=
  { tiles := Vector.replicate 8 Tile.zero, ucode := [], routines := [], queue := [], rept := none,
    running := none, offer := false, lastSel := 3, regionTop := 0, ballasts := 0 }

/-- A queue that was never described: no ring (R343). -/
def Queue.reset : Queue :=
  { rbase := 0, log2n := 0, prod := false, held := false, vec := 0, note := 0, head := 0, tail := 0, aged := 0, since := 0, stuck := false }

/-- A remap entry at power-on (R399), for any group but 0xF_FFFF. -/
def Remap.reset : Remap := { fast := 0, slot0 := 1, pin := false }

/-- What the outside shows before an input says otherwise: every mailbox answers and nothing fails (log 13). -/
def Outside.reset : Outside := { mail := BitVec.allOnes 8, errA := 0, errB := 0, reread := 0, writing := false }

/-- A cluster of the power-on plan: every core alive, 1,000 MHz (R2, R14), and a core voltage (log 3). -/
def ClusterPlan.reset : ClusterPlan := { cores := BitVec.allOnes 96, mhz := 1000, mv := 700 }

/-- A die section of the power-on plan: everything alive, the port facing the pair's other die in-package and the
edge port looped (R11, R377). -/
def DiePlan.reset (d : Nat) : DiePlan :=
  { alive := true, lodge := 0, copyE := 0xF, hbm := true, cap := true,
    ports := #v[if d % 2 = 0 then 1 else 2, if d % 2 = 0 then 2 else 1,
      if d / 2 % 2 = 0 then 1 else 2, if d / 2 % 2 = 0 then 2 else 1,
      if d / 4 % 2 = 0 then 1 else 2, if d / 4 % 2 = 0 then 2 else 1],
    vaults := BitVec.allOnes 72, spares := 0, clusters := Vector.replicate 6 ClusterPlan.reset }

/-- The power-on sail plan record (R377): version 1, cause power-on. -/
def SailPlan.reset : SailPlan :=
  { version := 1, time := 0, cause := 0, cdie := 0, cunit := 0, pkg := (0, 0, 0), belv := 0,
    dies := Vector.ofFn fun d => DiePlan.reset d.val }

/-- A die's sensors after reset (R426 to R428). -/
def Thermal.reset : Thermal :=
  { temps := Vector.replicate 32 0, valid := false, stopped := false, htemp := 0, ctemp := 0, hstep := 0, cstep := 0, hot := false,
    max := 0, st := 0, warn := 864, throt := 896, trip := 960, event := 0 }

/-- A die after a cold reset. -/
def Die.reset : Die :=
  { cores := [],
    tables := {
      tids := [], layouts := [], shards := [], scheds := [], wheel := [], wheelPos := 0, wheelRev := 0, scWait := [],
      barriers := [], locks := [] },
    sched := {
      queues := [], launches := [], nextLaunch := 0, recs := [], links := [], replays := [], ready := [],
      groups := [], binds := [], reserved := [], rebuilding := false, tails := [] },
    xf := {
      copies := [], rputs := [], rflags := [], halos := [], early := [], colls := [], windows := [], former := [], tags := [],
      nextKey := 0 },
    tr := { p := 0, mask := 0, ways := [], recency := [], counters := [], jobs := [] },
    tiers := {
      remap := [(0xFFFFF, { fast := 2, slot0 := 0, pin := true })], cache := [], moves := [], parked := [], hot := [],
      en := true, thresh := 32, epoch := 0, halvedAt := 0, maxmov := 16, swaps := 0, spareRows := [], diag := [] },
    xl := { root := none, last := none, owners := [], tlb := [], dir := [] },
    js := { status := 0, info0 := 0, info1 := 0 },
    job := none, diag := false, launched := false, th := Thermal.reset,
    ports := Vector.replicate 6 Port.reset,
    suspects := [], spareLines := [], arrivedAt := 0, inbox := [] }

/-- The machine right after a cold reset of the package (R5): no job, every context Idle, nothing listed in memory,
the lodge cores not yet started (R420). The values the spec does not state are those of log 3. -/
def State.reset : State :=
  { cur := ⟨0, 0, 0⟩, cx := Ctx.idle, ctxs := [], dies := Vector.replicate 8 Die.reset, mem := [], empty := [],
    bad := [], codes := [], unseen := [],
    hy := {
      phc := 0, tmo := 0xC350, extend := false, preen := false, target := 0, strag := false,
      extended := false, premiss := false, frozen := false, arrived := 0, timer := none, expiries := 0, pkgs := [] },
    host := {
      err := 0, winaddr := 0, winmap := Vector.replicate 32 0, bar4Log := 36, winBase := 0, winSize := 0,
      cmdBase := 0, cmdLog2n := 0, cmdEn := false, ringBase := 0, ringLog2n := 0, cmdTail := 0, cmdHead := 0,
      msix := [], sent := [], readData := 0 },
    mail := Vector.replicate 8 { holder := 0xFF, term := 0, stamp := 0 },
    lodge := Vector.replicate 8 {
      running := false, haltedAt := none, lastHalt := none, acting := none,
      renewed := 0, again := false },
    plan := SailPlan.reset, changes := [], belv := (0xFF, 0), unmanaged := false, clocks := [], against := [], replans := [],
    boot := {
      ready := false, fallback := false, minSvn := 0, slotA := none, slotB := none, dieSlots := Vector.replicate 8 none },
    spdm := { version := false, capable := false, negotiated := false, answer := .silent },
    power := { en := false, set := 3600, watts := 0, duty := 0, inlet := 0, outlet := 0 },
    life := {
      image := [], copyA := none, copyB := none, nextB := false, urgent := [], snapshot := none,
      snapping := false, offs := 0, wroteAt := 0, owed := false },
    nowUs := 0, nowCyc := 0, lag := [], outside := Outside.reset, fresh := 0, agenda := [] }

end Sys2Proof.Machine
end

