-- ==== Sys2Proof/Machine/Mem.lean ====
section
/-! DEFINITION. Named operations over memory and over the sparse tables: one byte, wider little-endian values,
full/empty granules, uncorrectable SRAM words, and the keys that the package's memories have in the one list
(R1, R12, R77, R384). -/

namespace Sys2Proof.Machine

/-! ### Sparse tables -/

/-- The entry of key `k`. -/
def tabGet {α : Type} : Tab α → Nat → Option α
  | [], _ => none
  | (j, v) :: r, k => if k = j then some v else tabGet r k

/-- The table with `v` at `k`, in rising key order. -/
def tabSet {α : Type} : Tab α → Nat → α → Tab α
  | [], k, v => [(k, v)]
  | (j, w) :: r, k, v =>
    if k < j then (k, v) :: (j, w) :: r
    else if k = j then (k, v) :: r
    else (j, w) :: tabSet r k v

/-- The table without key `k`. -/
def tabErase {α : Type} : Tab α → Nat → Tab α
  | [], _ => []
  | (j, w) :: r, k => if k = j then tabErase r k else (j, w) :: tabErase r k

/-- The entry of key `k`, or the table's default. -/
def tabGetD {α : Type} (t : Tab α) (k : Nat) (d : α) : α := (tabGet t k).getD d

/-! ### Bytes -/

/-- What the memory list reads at key `k`: the listed byte, or zero. Zero is what SRAM reads after the scrub
(R77, R240); for DRAM and host memory it is this model's choice (log 4). -/
def memGet : List Host.Cell → Nat → Byte
  | [], _ => 0
  | (j, b) :: r, k => if k = j then b else memGet r k

/-- The list without key `k`. -/
def memDel : List Host.Cell → Nat → List Host.Cell
  | [], _ => []
  | (j, b) :: r, k => if k = j then memDel r k else (j, b) :: memDel r k

/-- The list with the byte `v`, not zero, at `k`, in rising key order. -/
def memIns : List Host.Cell → Nat → Byte → List Host.Cell
  | [], k, v => [(k, v)]
  | (j, b) :: r, k, v =>
    if k < j then (k, v) :: (j, b) :: r
    else if k = j then (k, v) :: r
    else (j, b) :: memIns r k v

/-- The list after byte `v` is written at `k`: writing what an unlisted key reads as removes the entry. -/
def memSet (m : List Host.Cell) (k : Nat) (v : Byte) : List Host.Cell :=
  if v = 0 then memDel m k else memIns m k v

/-- The canonical form: keys strictly rising, no byte that an unlisted key reads as. -/
def Memory.wf : List Host.Cell → Bool
  | [] => true
  | [(_, b)] => b ≠ 0
  | (j, b) :: (k, c) :: r => b ≠ 0 && j < k && Memory.wf ((k, c) :: r)

/-- The bytes from key `k` upward. -/
def memBytes (m : List Host.Cell) (k : Nat) : Nat → List Byte
  | 0 => []
  | n + 1 => memGet m k :: memBytes m (k + 1) n

/-- The list after the bytes `bs` are written from key `k` upward. -/
def memPut (m : List Host.Cell) (k : Nat) : List Byte → List Host.Cell
  | [] => m
  | b :: bs => memPut (memSet m k b) (k + 1) bs

/-- The number whose little-endian bytes are `bs` (R1). -/
def leNat : List Byte → Nat
  | [] => 0
  | b :: bs => b.toNat + 256 * leNat bs

/-- The `n` little-endian bytes of a number (R1). -/
def leBytes : Nat → Nat → List Byte
  | 0, _ => []
  | n + 1, x => BitVec.ofNat 8 x :: leBytes n (x / 256)

/-- The little-endian value of `n` bytes from key `k` (R1). -/
def memNat (m : List Host.Cell) (k n : Nat) : Nat := leNat (memBytes m k n)

/-- Reads the value of `n` bytes at key `k`. -/
def State.rd (s : State) (k n : Nat) : Nat := memNat s.mem k n
/-- Reads one byte. -/
def State.byte (s : State) (k : Nat) : Byte := memGet s.mem k
/-- Reads `n` bytes. -/
def State.bytes (s : State) (k n : Nat) : List Byte := memBytes s.mem k n

/-! ### Keys of the package's memories -/

/-- The key of byte `off` of region `r` of die `d`: 0 scratchpads, 1 weight buffers, 2 vaults, 3 Cleat SRAM,
4 HBM4E, 5 capacity tier; 6 stands for device physical addresses in carry windows and holds no bytes. -/
def regionKey (d r off : Nat) : Nat := (d * 16 + r) * 1099511627776 + off
/-- Scratchpad byte `off` of die core `c` (R12, R67). -/
def spKey (d c off : Nat) : Nat := regionKey d 0 (c * 524288 + off)
/-- Weight-buffer byte `off` of die core `c` (R12, R181). -/
def wbKey (d c off : Nat) : Nat := regionKey d 1 (c * 131072 + off)
/-- Byte `off` of vault `v` (R69). -/
def vaultKey (d v off : Nat) : Nat := regionKey d 2 (v * 4194304 + off)
/-- Cleat SRAM byte `off` (R240). -/
def cleatKey (d off : Nat) : Nat := regionKey d 3 off
/-- HBM4E byte (R391). -/
def hbmKey (d a : Nat) : Nat := regionKey d 4 a
/-- Capacity-tier byte (R391). -/
def capKey (d a : Nat) : Nat := regionKey d 5 a
/-- A device physical address, for carry windows over device memory (R28). -/
def dpaKey (d a : Nat) : Nat := regionKey d 6 a
/-- A byte of host memory at a bus address. -/
def hostKey (a : Nat) : Nat := 1125899906842624 + a

/-- Whether a key lies in SRAM (regions 0 to 3), whose words carry the SECDED codes of R390. -/
def isSram (k : Nat) : Bool := k < 8 * 16 * 1099511627776 && k / 1099511627776 % 16 < 4
/-- Whether a key has a full/empty bit: scratchpads and vaults (R77). -/
def hasGranule (k : Nat) : Bool :=
  k < 8 * 16 * 1099511627776 && (k / 1099511627776 % 16 = 0 || k / 1099511627776 % 16 = 2)

/-! ### Sorted sets of numbers: empty granules, uncorrectable words -/

/-- The set with `k`. -/
def setIns : List Nat → Nat → List Nat
  | [], k => [k]
  | j :: r, k => if k < j then k :: j :: r else if k = j then j :: r else j :: setIns r k

/-- The set without `k`. -/
def setDel : List Nat → Nat → List Nat
  | [], _ => []
  | j :: r, k => if k = j then setDel r k else j :: setDel r k

/-- The numbers `k`, `k + 1`, … (`n` of them). -/
def numsFrom (k : Nat) : Nat → List Nat
  | 0 => []
  | n + 1 => k :: numsFrom (k + 1) n

/-- The granules (key ÷ 16) that the `n` bytes from key `k` touch. -/
def granulesOf (k n : Nat) : List Nat :=
  if n = 0 then [] else numsFrom (k / 16) ((k + n - 1) / 16 - k / 16 + 1)

/-- Whether granule `g` is full (R77). -/
def State.full (s : State) (g : Nat) : Bool := !s.empty.contains g
/-- Sets granules full. -/
def State.setFull (s : State) (gs : List Nat) : State := { s with empty := gs.foldl setDel s.empty }
/-- Sets granules empty. -/
def State.setEmpty (s : State) (gs : List Nat) : State := { s with empty := gs.foldl setIns s.empty }

/-! ### SRAM words that read uncorrectable (R384) -/

/-- Whether a read of the `n` bytes from key `k` meets an uncorrectable SRAM word. -/
def State.badRead (s : State) (k n : Nat) : Bool :=
  n ≠ 0 && isSram k && (numsFrom (k / 8) ((k + n - 1) / 8 - k / 8 + 1)).any fun w => s.bad.contains w

/-- The distance from `k` of the first of its `n` bytes that lies in an uncorrectable SRAM word. -/
def State.badOff (s : State) (k n : Nat) : Nat :=
  match (numsFrom (k / 8) ((k + n - 1) / 8 - k / 8 + 1)).find? fun w => s.bad.contains w with
  | none => 0
  | some w => 8 * w - k
/-- The 64-bit words that the `n` bytes from key `k` cover whole. -/
def wholeWords (k n : Nat) : List Nat :=
  let a := (k + 7) / 8
  let b := (k + n) / 8
  numsFrom a (b - a)

/-- Bytes written over are no longer what another path may read there. -/
def dropCells (k n : Nat) (us : List Unseen) : List Unseen :=
  (us.map fun u => { u with cells := u.cells.filter fun c => c.1 < k || k + n ≤ c.1 }).filter fun u => !u.cells.isEmpty
/-- Writes bytes from key `k` upward. A word covered whole gets a fresh code; one covered in part keeps reading
uncorrectable (R384). -/
def State.put (s : State) (k : Nat) (bs : List Byte) : State :=
  { s with
    mem := memPut s.mem k bs
    bad := if isSram k then (wholeWords k bs.length).foldl setDel s.bad else s.bad
    unseen := dropCells k bs.length s.unseen }

/-! ### Path classes (R269, R271, R274 to R279) -/

/-- The classes of the engines' reads: Trellis, copy, matrix, Shroud and Traveller (R260). -/
def engineClasses : List Nat := [2, 3, 4, 5, 6]
/-- The byte at key `k`, now `b`, as a path of class `cls` reads it: while a write of another path is not yet visible to it,
the byte that the write replaced. -/
def State.seenByte (s : State) (cls k : Nat) (b : Byte) : Byte :=
  match s.unseen.findSome? fun u =>
    if u.blind.contains cls && s.fresh < u.born + Config.unseenFor u.born cls k then u.cells.find? fun c => c.1 = k else none with
  | some c => c.2
  | none => b
/-- Bytes from key `k`, as a path of class `cls` reads them. -/
def State.seen (s : State) (cls k : Nat) (bs : List Byte) : List Byte :=
  if s.unseen.isEmpty then bs else bs.mapIdx fun i b => s.seenByte cls (k + i) b
/-- The state after a write of `n` bytes from key `k` of die `d` by a path of class `path`, from the state before it: the other
engine paths need not read the write until something orders it before them (R274); bytes that a copy brings to a weight
buffer are acquired with its wait (R276). -/
def State.veil (s pre : State) (path d k n : Nat) : State :=
  let cells := (numsFrom k n).filterMap fun a => if pre.byte a = s.byte a then none else some (a, pre.byte a)
  if cells.isEmpty || path > 7 then s
  else { s with
    fresh := s.fresh + 1
    unseen := s.unseen ++ [{
      die := d, path := path, born := s.fresh, cells := cells
      blind := engineClasses.filter fun c => c ≠ path && !(c = 4 && k / 1099511627776 % 16 = 1) }] }
/-- Writes bytes by a path of a class. -/
def State.putBy (s : State) (path d k : Nat) (bs : List Byte) : State := (s.put k bs).veil s path d k bs.length
/-- XFENCE from class `f` to class `t` on die `d` (R260, R277). -/
def State.fence (s : State) (d f t : Nat) : State :=
  { s with unseen := s.unseen.map fun u =>
      if u.die = d ∧ u.path = f then { u with blind := u.blind.filter fun c => c ≠ t } else u }
/-- A release or an acquire on die `d`: every write of an engine path there is ordered before what follows (R278, R279). The
model orders more than the spec asks: the writes that the releasing context has not observed too (log 5). -/
def State.ordered (s : State) (d : Nat) : State := { s with unseen := s.unseen.filter fun u => u.die ≠ d }

/-- Writes the `n` little-endian bytes of a value at key `k`. -/
def State.wr (s : State) (k n x : Nat) : State := s.put k (leBytes n x)

end Sys2Proof.Machine
end

