-- ==== Sys2Proof/Machine/Sha.lean ====
section
/-! DEFINITION. SHA-384, which the spec names and does not restate (R362, R420, R423, R435): FIPS 180-4, written out from its
defining constants (PRESUMED, log 8). -/

namespace Sys2Proof.Machine

/-- The largest `x` below `lo + 2 ^ n` with `x ^ k` at most `v`, bit by bit from the top. -/
def rootFloor (k v : Nat) : Nat → Nat → Nat
  | 0, lo => lo
  | n + 1, lo => if (lo + 2 ^ n) ^ k ≤ v then rootFloor k v n (lo + 2 ^ n) else rootFloor k v n lo
/-- The first 64 bits of the fractional part of the `k`th root of a number. -/
def rootBits (k p : Nat) : Dword := BitVec.ofNat 64 (rootFloor k (p * 2 ^ (64 * k)) 72 0)
/-- The primes from `p` upward, `n` of them at most, among `fuel` numbers. -/
def primesFrom (p n : Nat) : Nat → List Nat
  | 0 => []
  | fuel + 1 =>
    if n = 0 then []
    else if (numsFrom 2 (p - 2)).all fun q => p % q ≠ 0 then p :: primesFrom (p + 1) (n - 1) fuel
    else primesFrom (p + 1) n fuel
/-- The round constants: the cube roots of the first 80 primes. -/
def shaRounds : List Dword := (primesFrom 2 80 420).map (rootBits 3)
/-- The initial value of SHA-384: the square roots of the ninth to the sixteenth prime. -/
def shaStart : List Dword := ((primesFrom 2 16 60).drop 8).map (rootBits 2)
/-- A small sigma: two rotations and a shift. -/
def shaSmall (a b c : Nat) (x : Dword) : Dword := x.rotateRight a ^^^ x.rotateRight b ^^^ (x >>> c)
/-- A large sigma: three rotations. -/
def shaLarge (a b c : Nat) (x : Dword) : Dword := x.rotateRight a ^^^ x.rotateRight b ^^^ x.rotateRight c
/-- The message schedule: from the last 16 words, newest first, `n` more words. -/
def shaExpand (w : List Dword) : Nat → List Dword
  | 0 => w
  | n + 1 =>
    let at_ := fun k => w[k - 1]?.getD 0
    shaExpand ((shaSmall 19 61 6 (at_ 2) + at_ 7 + shaSmall 1 8 7 (at_ 15) + at_ 16) :: w) n
/-- One round. -/
def shaRound (v : List Dword) (kw : Dword × Dword) : List Dword :=
  match v with
  | [a, b, c, d, e, f, g, h] =>
    let t1 := h + shaLarge 14 18 41 e + ((e &&& f) ^^^ (~~~e &&& g)) + kw.1 + kw.2
    let t2 := shaLarge 28 34 39 a + ((a &&& b) ^^^ (a &&& c) ^^^ (b &&& c))
    [t1 + t2, a, b, c, d + t1, e, f, g]
  | _ => v
/-- One block of 16 words. -/
def shaBlock (h : List Dword) (block : List Dword) : List Dword :=
  let w := (shaExpand block.reverse 64).reverse
  (h.zip ((shaRounds.zip w).foldl shaRound h)).map fun x => x.1 + x.2
/-- A big-endian word of 8 bytes. -/
def beWord (bs : List Byte) : Dword := BitVec.ofNat 64 (leNat (bs.take 8).reverse)
/-- The 16 words of a block. -/
def shaWords (bs : List Byte) : List Dword := (numsFrom 0 16).map fun i => beWord (bs.drop (8 * i))
/-- A message with its padding: the byte 0x80, zeros, and its length in bits. -/
def shaPadded (bs : List Byte) : List Byte :=
  bs ++ 0x80 :: List.replicate ((111 + 128 - bs.length % 128) % 128) 0 ++ (leBytes 16 (8 * bs.length)).reverse
/-- The hash of `n` blocks. -/
def shaBlocks (h : List Dword) (bs : List Byte) : Nat → List Dword
  | 0 => h
  | n + 1 => shaBlocks (shaBlock h (shaWords bs)) (bs.drop 128) n
/-- The SHA-384 digest of a byte string: its first byte is the digest's least significant, as a field of 48 bytes holds it. -/
@[irreducible] def sha384 (bs : List Byte) : BitVec 384 :=
  let h := shaBlocks shaStart (shaPadded bs) ((shaPadded bs).length / 128)
  BitVec.ofNat 384 (leNat ((h.take 6).flatMap fun w => (leBytes 8 w.toNat).reverse))

end Sys2Proof.Machine
end

