-- ==== Sys2Proof/Machine/Ops.lean ====
section
/-! DEFINITION. Named operations over the machine's state: contexts, cores and dies, the sail plan's living units,
job status and interrupts, free values, and the addresses of the LS and WY spaces (R12, R67 to R69, R336, R347). -/

namespace Sys2Proof.Machine

/-! ### Contexts -/

/-- The context's number in the package. -/
def CtxId.gid (c : CtxId) : Nat := (c.die * 576 + c.core) * 4 + c.ctx
/-- The context of a package-wide number. -/
def ctxOfGid (g : Nat) : CtxId := ⟨g / 4 / 576, g / 4 % 576, g % 4⟩
/-- The context of a number within die `d`: 4 × core + context (R44). -/
def ctxIn (d n : Nat) : CtxId := ⟨d, n / 4, n % 4⟩

/-- The registers of a context. -/
def State.ctx (s : State) (g : CtxId) : Ctx := if g = s.cur then s.cx else tabGetD s.ctxs g.gid Ctx.idle
/-- Replaces the registers of a context. -/
def State.setCtx (s : State) (g : CtxId) (c : Ctx) : State :=
  if g = s.cur then { s with cx := c } else { s with ctxs := tabSet s.ctxs g.gid c }
/-- Changes the registers of a context. -/
def State.modCtx (s : State) (g : CtxId) (f : Ctx → Ctx) : State := s.setCtx g (f (s.ctx g))
/-- Makes `g` the context whose turn it is. -/
def State.focus (s : State) (g : CtxId) : State :=
  if g = s.cur then s
  else { s with cur := g, cx := tabGetD s.ctxs g.gid Ctx.idle, ctxs := tabErase (tabSet s.ctxs s.cur.gid s.cx) g.gid }
/-- A context that may issue now or whose wait may be over. -/
def RunState.awake : RunState → Bool
  | .ready => true | .running => true | .stalled => true
  | .idle => false | .sleepQueue => false | .sleepBoundary => false | .frozen => false | .suspended => false
/-- The contexts that hold a program, by number. -/
def State.placed (s : State) : List CtxId :=
  let others := (s.ctxs.filter fun e => e.2.st ≠ .idle).map fun e => e.1
  (if s.cx.st = .idle then others else setIns others s.cur.gid).map ctxOfGid
/-- The contexts of a die that hold a program. -/
def State.placedOn (s : State) (d : Nat) : List CtxId := s.placed.filter fun g => g.die = d
/-- Changes each context of a list. -/
def State.modAll (s : State) (gs : List CtxId) (f : Ctx → Ctx) : State := gs.foldl (fun s g => s.modCtx g f) s

/-! ### Dies and cores -/

/-- A die's state. -/
def State.die (s : State) (d : Nat) : Die := s.dies[d]?.getD Die.reset
/-- Changes a die's state. -/
def State.modDie (s : State) (d : Nat) (f : Die → Die) : State :=
  { s with dies := s.dies.setIfInBounds d (f (s.die d)) }
/-- A core's state. -/
def State.core (s : State) (d c : Nat) : Core := tabGetD (s.die d).cores c Core.reset
/-- Changes a core's state. -/
def State.modCore (s : State) (d c : Nat) (f : Core → Core) : State :=
  s.modDie d fun x => { x with cores := tabSet x.cores c (f (tabGetD x.cores c Core.reset)) }
/-- The die of the current context. -/
def State.myDie (s : State) : Die := s.die s.cur.die
/-- The core of the current context. -/
def State.myCore (s : State) : Core := s.core s.cur.die s.cur.core
/-- Changes the tables of a die. -/
def State.modTables (s : State) (d : Nat) (f : DieTables → DieTables) : State :=
  s.modDie d fun x => { x with tables := f x.tables }
/-- Changes the scheduler of a die. -/
def State.modSched (s : State) (d : Nat) (f : DieSched → DieSched) : State :=
  s.modDie d fun x => { x with sched := f x.sched }
/-- Changes the transfers of a die. -/
def State.modXf (s : State) (d : Nat) (f : DieXfers → DieXfers) : State := s.modDie d fun x => { x with xf := f x.xf }
/-- Changes the Trellis of a die. -/
def State.modTr (s : State) (d : Nat) (f : DieTrellis → DieTrellis) : State := s.modDie d fun x => { x with tr := f x.tr }
/-- Changes the tier controller and base die of a die. -/
def State.modTiers (s : State) (d : Nat) (f : DieTiers → DieTiers) : State :=
  s.modDie d fun x => { x with tiers := f x.tiers }

/-- The current superstep is an exchange superstep (R16). -/
def State.exchange (s : State) : Bool := s.hy.phc.getLsbD 0
/-- The current context is a ballast context (R19). -/
def State.isBallast (s : State) : Bool := s.cx.ballast.isSome

/-- The next free value, of width `w` (log 2). -/
def State.freeBits (s : State) (w : Nat) : BitVec w := BitVec.ofNat w (Config.freeValue s.fresh)
/-- Counts a free value as used. -/
def State.tickFree (s : State) : State := { s with fresh := s.fresh + 1 }
/-- An engine has read: later reads may find more of what other paths wrote (R269). -/
def State.looked (s : State) : State := if s.unseen.isEmpty then s else s.tickFree

/-- Removes the elements of a list that hold, keeping the order. -/
def dropWhere {α : Type} (l : List α) (f : α → Bool) : List α := l.filter fun x => !f x
/-- Applies `f` to the elements of a list for which `c` holds. -/
def mapWhere {α : Type} (l : List α) (c : α → Bool) (f : α → α) : List α := l.map fun x => if c x then f x else x

/-! ### The sail plan's living units (R377, R380) -/

/-- Die `d` is in the sail plan. -/
def State.dieAlive (s : State) (d : Nat) : Bool := (s.plan.dies[d]?.map (·.alive)).getD false
/-- Die core `c` is alive. -/
def State.coreAlive (s : State) (d c : Nat) : Bool :=
  match s.plan.dies[d]? with
  | none => false
  | some p => p.alive && ((p.clusters[c / 96]?.map fun k => k.cores.getLsbD (c % 96)).getD false)
/-- Vault `v` is alive. -/
def State.vaultAlive (s : State) (d v : Nat) : Bool :=
  match s.plan.dies[d]? with
  | none => false
  | some p => p.alive && p.vaults.getLsbD v
/-- The dies of the package that hold the job of the phase domain. -/
def State.domain (s : State) : List Nat := (numsFrom 0 8).filter fun d => (s.die d).job.isSome && s.dieAlive d
/-- The dies of the package that hold the job of the phase domain, alive or lost. -/
def State.members (s : State) : List Nat := (numsFrom 0 8).filter fun d => (s.die d).job.isSome
/-- Die `d` is a die of the package that was lost; dies of other packages are not seen (log 12). -/
def State.dieGone (s : State) (d : Nat) : Bool := d < 8 && !s.dieAlive d
/-- The package of a fabric die number (R11). -/
def fabricPkg (f : Nat) : Nat × Nat × Nat := (f % 16 / 2, f / 16 % 16 / 2, f / 512)
/-- The package's coordinates in the fabric, each 0 to 7, as the sail plan holds them (R11, R377). -/
def State.pkg (s : State) : Nat × Nat × Nat := (s.plan.pkg.1 % 8, s.plan.pkg.2.1 % 8, s.plan.pkg.2.2 % 8)
/-- The fabric die number of die (x, y, z) of package (X, Y, Z): that of the place (2X + x, 2Y + y, 2Z + z) (R10, R11). -/
def fabricDie (k : Nat × Nat × Nat) (d : Nat) : Nat :=
  2 * k.1 + d % 2 + 16 * (2 * k.2.1 + d / 2 % 2) + 256 * (2 * k.2.2 + d / 4 % 2)
/-- The fabric die number of a die of the package. -/
def State.fabricDie (s : State) (d : Nat) : Nat := Machine.fabricDie s.pkg d
/-- The package's die that a fabric die number names. -/
def State.dieOfFabric (s : State) (f : Nat) : Option Nat :=
  if f < 4096 ∧ fabricPkg f = s.pkg then some (f % 2 + 2 * (f / 16 % 2) + 4 * (f / 256 % 2)) else none
/-- The die that a fabric die number of the phase domain names (R225, R232): a die of the package with an open job, alive
or lost, by its number; a die of another package that the domain lists, as 8 more than its fabric number (log 12). -/
def State.domainDie (s : State) (f : Nat) : Option Nat :=
  match s.dieOfFabric f with
  | some d => if (s.die d).job.isSome then some d else none
  | none => if f < 4096 && s.hy.pkgs.contains (fabricPkg f) then some (8 + f) else none
/-- The fabric die number of a die that `State.domainDie` gives. -/
def State.fabricOf (s : State) (d : Nat) : Nat := if d < 8 then s.fabricDie d else d - 8

/-! ### Leral ports (R11) -/

/-- The section of a die in the sail plan. -/
def State.planDie (s : State) (d : Nat) : DiePlan := s.plan.dies[d]?.getD (DiePlan.reset 0)
/-- The mode of a port in the plan: 0 retired, 1 in-package, 2 looped, 3 off-package (R412). -/
def State.portMode (s : State) (d p : Nat) : Nat := (s.planDie d).ports[p]?.getD 0
/-- The port faces the pair's other die (R11). -/
def inPackage (d p : Nat) : Bool := (d / 2 ^ (p / 2) % 2 = 0) = (p % 2 = 0)
/-- The fabric die at the other end of an off-package port, in the torus of 16 by 16 by 16 dies, the largest fabric: the
spec does not say how long the rings of a smaller one are (R11; the model's choice, log 12). -/
def State.fabricNext (s : State) (d p : Nat) : Nat :=
  let f := s.fabricDie d
  let k := 16 ^ (p / 2)
  let c := f / k % 16
  f - c * k + (if p % 2 = 0 then c + 1 else c + 15) % 16 * k

/-! ### Clocks (R2) -/

/-- Cycles that the clock of core `c`'s cluster has made. -/
def State.cycOf (s : State) (d c : Nat) : Nat := s.nowCyc - tabGetD s.lag (6 * d + c / 96) 0
/-- The clock in force of a cluster, in MHz: the plan's, but for a change that waits for the crossing (R380). -/
def State.mhzOf (s : State) (d k : Nat) : Nat :=
  match s.clocks.find? fun x => x.1 = d && x.2.1 = k with
  | some x => x.2.2
  | none => ((s.planDie d).clusters[k]?.map (·.mhz)).getD 1000
/-- The lag after `cyc` cycles: a cluster below 1 GHz makes fewer cycles than the 1 GHz clock. -/
def State.lagAfter (s : State) (cyc : Nat) : Tab Nat :=
  (numsFrom 0 48).foldl (fun t i =>
    let n := (1000 - s.mhzOf (i / 6) (i % 6)) * cyc / 1000
    if n = 0 then t else tabSet t i (tabGetD t i 0 + n)) s.lag

/-! ### The ballast duty (R433, R434) -/

/-- The duty of a die: 0 while it throttles (R427, R434). -/
def State.dutyOf (s : State) (d : Nat) : Nat := if (s.die d).th.st = 2 then 0 else s.power.duty
/-- Ballast contexts of a die may be Ready: the first D cycles of each window of 1,024. The spec does not say which clock
counts the window: the model counts one window for every die on the 1 GHz clock (R2, R434, log 9). -/
def State.dutyOpen (s : State) (d : Nat) : Bool := s.nowCyc % 1024 < s.dutyOf d

/-! ### Interrupts and job status -/

/-- An MSI-X table entry at reset (log 3). -/
def MsixEntry.reset : MsixEntry := { addr := 0, data := 0, masked := true, pending := false }
/-- Sends MSI-X vector `v`, or sets its pending bit while it is masked (R336). The message is a write to host
memory. -/
def State.sendVec (s : State) (v : Nat) : State :=
  let e := tabGetD s.host.msix v MsixEntry.reset
  if e.masked then { s with host := { s.host with msix := tabSet s.host.msix v { e with pending := true } } }
  else { s.wr (hostKey e.addr.toNat) 4 e.data.toNat with host := { s.host with sent := s.host.sent ++ [v] } }
/-- Sends a queue's vector, where it is one of a queue's: vectors 16 to 2,047 (R336, R343). -/
def State.sendNote (s : State) (v : Nat) : State := if 16 ≤ v && v < 2048 then s.sendVec v else s

/-- The bits of JOB_STATUS (R347). -/
inductive JobBit | widrange | taskstray | lockdrop | idlefault | taskfault | engfault | suspended | jobfault
  deriving DecidableEq, Repr
/-- Their positions. -/
def JobBit.pos : JobBit → Nat
  | .widrange => 0 | .taskstray => 1 | .lockdrop => 2 | .idlefault => 3 | .taskfault => 4 | .engfault => 5
  | .suspended => 6 | .jobfault => 7

/-- Sets a bit of die `d`'s JOB_STATUS. If it was clear, the information registers that the event names are written
and vector 8 + d is sent (R336, R347). -/
def State.raiseJob (s : State) (d : Nat) (b : JobBit) (i0 i1 : Option Dword) : State :=
  let j := (s.die d).js
  if j.status.getLsbD b.pos then s
  else
    (s.modDie d fun x => { x with
      js := {
        status := j.status ||| (1 <<< b.pos)
        info0 := i0.getD j.info0
        info1 := i1.getD j.info1 } }).sendVec (8 + d)

/-! ### LS and WY addresses -/

/-- The vault above a die core (R12, R69). -/
def ownVault (c : Nat) : Nat := 12 * (c / 96) + c % 96 / 8
/-- Bytes of a scratchpad. -/
def spBytes : Nat := 393216

/-- Ballast scratches placed on a core: offsets at or above this limit belong to one (R68). -/
def State.spLimit (s : State) (d c : Nat) : Nat := spBytes - 16384 * (s.core d c).ballasts

/-- The memory key of an LS access of `n` bytes at address `a` (bits [31:0]) by the current context, or `none`
where R67 or R380 traps ACCESS. -/
def State.lsKey (s : State) (a n : Nat) : Option Nat :=
  let d := s.cur.die
  let core := a / 524288 % 128
  let off := a % 524288
  if a / 67108864 ≠ 0 then none
  else if core = 126 then
    match s.cx.ballast with
    | none => none
    | some k => if off + n ≤ 16384 then some (spKey d s.cur.core (spBytes - 16384 * (k + 1) + off)) else none
  else
    let c := if core = 127 then s.cur.core else s.cur.core / 96 * 96 + core
    if core ≠ 127 && core ≥ 96 then none
    else if off + n > s.spLimit d c then none
    else if !s.coreAlive d c then none
    else some (spKey d c off)

/-- The memory key of a WY access of `n` bytes at address `a`, or `none` where R69 or R380 traps ACCESS. -/
def State.wyKey (s : State) (a n : Nat) : Option Nat :=
  let d := s.cur.die
  let v := a / 4194304 % 256
  let off := a % 4194304
  if a / 1073741824 ≠ 0 then none
  else if v ≠ 255 && v ≥ 72 then none
  else
    let u := if v = 255 then ownVault s.cur.core else v
    if off + n > 4194304 then none
    else if !s.vaultAlive d u then none
    else some (vaultKey d u off)

/-- The memory key of `n` bytes at a 16-aligned LS address in the own scratchpad, with CORE 127 or the core's own
index (R223, R225, R248, R404). -/
def State.ownKey (s : State) (a n : Nat) : Option Nat :=
  let core := a / 524288 % 128
  if a % 16 = 0 && a / 4294967296 = 0 && (core = 127 || core = s.cur.core % 96) then s.lsKey a n else none

/-! ### Work identifiers of a launch header (R41, R45) -/

/-- `n` bytes at an offset of the launch's header. -/
def Launch.fld (l : Launch) (off n : Nat) : Nat := l.header.toNat / 2 ^ (8 * off) % 2 ^ (8 * n)
/-- The width of identifier field i. -/
def Launch.width (l : Launch) (i : Nat) : Nat := l.fld (8 + i) 1
/-- S_i: the sum of the widths before field i. -/
def Launch.sumTo (l : Launch) : Nat → Nat
  | 0 => 0
  | i + 1 => l.sumTo i + l.width i
/-- T: the sum of the widths. -/
def Launch.total (l : Launch) : Nat := l.sumTo 6
/-- Field i of an identifier; a level whose width is 0 gives 0 (R45, R154). -/
def Launch.field (l : Launch) (i wid : Nat) : Nat := wid / 2 ^ (l.total - l.sumTo (i + 1)) % 2 ^ l.width i
/-- The launch that placed a context, if it is live. -/
def State.launchOf (s : State) (d id : Nat) : Option Launch := (s.die d).sched.launches.find? fun l => l.id = id
/-- The current context's launch. -/
def State.myLaunch (s : State) : Option Launch := s.launchOf s.cur.die s.cx.launch

end Sys2Proof.Machine
end

