-- ==== Sys2Proof/Machine/Xlate.lean ====
section
/-! DEFINITION. Device memory below a device virtual address: the base die's check codes, the remap table that
places a device physical address in a tier, the five-level walk, and the reads and writes that engines, fetch and
host make through them (R364 to R371, R391 to R399). -/

namespace Sys2Proof.Machine

/-! ### Check codes (R394, R395) -/

/-- A power of two, or zero. -/
def isPow2 (n : Nat) : Bool := n &&& (n - 1) = 0
/-- The columns c(0), c(1), …: the 9-bit integers from `k` upward that are no power of two, `n` candidates. -/
def eccCols : Nat → Nat → List Nat
  | _, 0 => []
  | k, n + 1 => if isPow2 k then eccCols (k + 1) n else k :: eccCols (k + 1) n
/-- The 256 columns of R394: 3 to 265 without the seven powers of two between them. -/
def eccColumns : List Nat := eccCols 3 263
/-- XOR of the columns of the set bits of `x`, bit 0 first. -/
def eccSyn : List Nat → Nat → Nat
  | [], _ => 0
  | c :: cs, x => (if x % 2 = 1 then c else 0) ^^^ eccSyn cs (x / 2)
/-- The number of set bits among the low `n` of `x`. -/
def onesIn : Nat → Nat → Nat
  | 0, _ => 0
  | n + 1, x => x % 2 + onesIn n (x / 2)
/-- SYN of a 32-byte word given as a number. -/
def synOf (x : Nat) : Nat := eccSyn eccColumns x
/-- The code of a word written whole (R394). -/
def freshCode (x : Nat) : BitVec 16 :=
  let syn := synOf x
  BitVec.ofNat 16 (syn + 512 * ((onesIn 256 x + onesIn 9 syn) % 2))
/-- The place of `v` in a list. -/
def indexIn : List Nat → Nat → Option Nat
  | [], _ => none
  | c :: cs, v => if v = c then some 0 else (indexIn cs v).map (· + 1)
/-- Status and data of a stored word and code (R395). -/
def eccDecode (x : Nat) (code : BitVec 16) : Nat × Nat :=
  let s := (code.toNat % 512) ^^^ synOf x
  let p := (onesIn 256 x + onesIn 10 code.toNat) % 2
  if code.getLsbD 15 then (3, x)
  else if s = 0 ∧ p = 0 then (0, x)
  else if p = 1 then
    if isPow2 s then (1, x)
    else match indexIn eccColumns s with
      | some i => (1, x ^^^ 2 ^ i)
      | none => (2, x)
  else (2, x)

/-- The code stored for the word at DRAM key `32 w`: listed, or the fresh code of its bytes (log 4). -/
def State.codeAt (s : State) (w : Nat) : BitVec 16 :=
  match tabGet s.codes w with
  | some c => c
  | none => freshCode (s.rd (32 * w) 32)
/-- Stores a code, listing it only where it differs from the fresh code. -/
def State.setCode (s : State) (w : Nat) (c : BitVec 16) : State :=
  { s with codes := if c = freshCode (s.rd (32 * w) 32) then tabErase s.codes w else tabSet s.codes w c }
/-- Status of the word at DRAM key `32 w`, and its data after correction. -/
def State.readWord (s : State) (w : Nat) : Nat × Nat :=
  match tabGet s.codes w with
  | none => (0, s.rd (32 * w) 32)
  | some c => eccDecode (s.rd (32 * w) 32) c
/-- Writes a word whole with a fresh code (R396). -/
def State.writeWord (s : State) (w x : Nat) : State := { s.wr (32 * w) 32 x with codes := tabErase s.codes w }
/-- Writes bytes into part of a word from offset `o`: read, decode, merge, write back (R396). -/
def State.mergeWord (s : State) (w o : Nat) (bs : List Byte) : State :=
  match tabGet s.codes w with
  | none => s.put (32 * w + o) bs
  | some c =>
    let r := eccDecode (s.rd (32 * w) 32) c
    let s1 := (if r.1 ≤ 1 then s.wr (32 * w) 32 r.2 else s).put (32 * w + o) bs
    if r.1 ≤ 1 then { s1 with codes := tabErase s1.codes w }
    else s1.setCode w (freshCode (s1.rd (32 * w) 32) ||| 0x8000)
/-- Writes bytes to DRAM from a key upward, word by word; `fuel` bounds the words. -/
def State.dramPut (s : State) (k : Nat) (bs : List Byte) : Nat → State
  | 0 => s
  | fuel + 1 =>
    if bs.isEmpty then s
    else
      let o := k % 32
      let part := bs.take (32 - o)
      let s1 := if part.length = 32 then s.writeWord (k / 32) (leNat part) else s.mergeWord (k / 32) o part
      s1.dramPut (k + part.length) (bs.drop (32 - o)) fuel
/-- Reads `n` bytes of DRAM from a key upward, corrected; `none` where a word is uncorrectable or poisoned. -/
def State.dramGet (s : State) (k n : Nat) : Option (List Byte) :=
  let ws := if n = 0 then [] else numsFrom (k / 32) ((k + n - 1) / 32 - k / 32 + 1)
  let rs := ws.map s.readWord
  if rs.any fun r => r.1 ≥ 2 then none
  else some (((rs.flatMap fun r => leBytes 32 r.2).drop (k % 32)).take n)
/-- The distance from `k` of the first of its `n` bytes that lies in an uncorrectable or poisoned word. -/
def State.dramBadOff (s : State) (k n : Nat) : Nat :=
  match (numsFrom (k / 32) ((k + n - 1) / 32 - k / 32 + 1)).find? fun w => (s.readWord w).1 ≥ 2 with
  | none => 0
  | some w => 32 * w - k
/-- The write-back of corrected words that an ordinary READ makes (R395). -/
def State.dramScrub (s : State) (k n : Nat) : State :=
  let ws := if n = 0 then [] else numsFrom (k / 32) ((k + n - 1) / 32 - k / 32 + 1)
  ws.foldl (fun s w =>
    match tabGet s.codes w with
    | none => s
    | some c => let r := eccDecode (s.rd (32 * w) 32) c; if r.1 = 1 then s.writeWord w r.2 else s) s

/-! ### Tiers (R398, R399) -/

/-- The key of the byte at a tier address. -/
def bdaKey (d tier a : Nat) : Nat := if tier = 0 then hbmKey d a else capKey d a
/-- The congruence group of a DPA. -/
def dpaGroup (dpa : Nat) : Nat := dpa / 65536 % 1048576
/-- The member of a DPA. -/
def dpaMember (dpa : Nat) : Nat := dpa / 68719476736 % 4
/-- The tier and address that hold member `j` of group `g` at offset `o`. -/
def memberSlot (r : Remap) (g j o : Nat) : Nat × Nat :=
  if r.fast = j then (0, g * 65536 + o)
  else if r.slot0 = j then (1, g * 65536 + o)
  else (1, 68719476736 + g * 65536 + o)
/-- The remap entry of a group. -/
def State.remapOf (s : State) (d g : Nat) : Remap := tabGetD (s.die d).tiers.remap g Remap.reset
/-- The key that holds the byte at a DPA now. -/
def State.dpaCell (s : State) (d dpa : Nat) : Nat :=
  let g := dpaGroup dpa
  let b := memberSlot (s.remapOf d g) g (dpaMember dpa) (dpa % 65536)
  bdaKey d b.1 b.2
/-- A move of the group is in progress. -/
def State.moving (s : State) (d g : Nat) : Bool := (s.die d).tiers.moves.any fun m => m.group = g
/-- A request to group `g` finds or takes its entry in the cache: 8 ways in the set `g` mod 8,192, the least recently
used replaced, whose counters are lost (R400, R401). -/
def DieTiers.touch (t : DieTiers) (g : Nat) : DieTiers :=
  let ws := g :: (tabGetD t.cache (g % 8192) []).erase g
  { t with
    cache := tabSet t.cache (g % 8192) (ws.take 8)
    hot := ((ws.drop 8).flatMap fun x => [4 * x, 4 * x + 1, 4 * x + 2]).foldl tabErase t.hot }
/-- Lines of 64 bytes that `n` bytes from an address touch. -/
def linesOf (a n : Nat) : Nat := if n = 0 then 0 else (a + n - 1) / 64 - a / 64 + 1
/-- Every hotness counter is halved (R401). -/
def DieTiers.halve (t : DieTiers) : DieTiers :=
  { t with hot := t.hot.filterMap fun e => if e.2 ≤ 1 then none else some (e.1, e.2 / 2) }
/-- The µs between two halvings: (TC_CTL.EPOCH + 1) ms (R401, R403). -/
def DieTiers.period (t : DieTiers) : Nat := 1000 * (t.epoch + 1)
/-- The halvings that fall before time `us`, `n` of them at most; those of an empty list of counters leave it as it is. -/
def DieTiers.halveTo (us : Nat) (t : DieTiers) : Nat → DieTiers
  | 0 => t
  | n + 1 =>
    if us ≤ t.halvedAt + t.period then t
    else DieTiers.halveTo us { t.halve with halvedAt := t.halvedAt + t.period } n
/-- The halvings that fall before time `us`: eight leave no counter above 0. -/
def DieTiers.halveAll (us : Nat) (t : DieTiers) : DieTiers :=
  let n := (us - t.halvedAt - 1) / t.period
  if n ≤ 8 then t.halveTo us n else { t with hot := [], halvedAt := t.halvedAt + n * t.period }
/-- Counts requests for `lines` lines of the member at a DPA (R400, R401). -/
def State.heat (s : State) (d dpa lines : Nat) : State :=
  let k := dpaGroup dpa * 4 + dpaMember dpa
  s.modTiers d fun t =>
    let t1 := t.touch (dpaGroup dpa)
    { t1 with hot := tabSet t1.hot k (Nat.min 255 (tabGetD t1.hot k 0 + lines)) }

/-- The first byte of the sail plan page (R379). -/
def sailPage : Nat := 0x2FFFFF0000

/-- Reads `n` bytes of device memory within one page. -/
def State.devGet (s : State) (d dpa n : Nat) : Option (List Byte) := s.dramGet (s.dpaCell d dpa) n
/-- Writes bytes of device memory within one page, past the tier controller. -/
def State.devPutRaw (s : State) (d dpa : Nat) (bs : List Byte) : State :=
  s.dramPut (s.dpaCell d dpa) bs (bs.length / 32 + 2)
/-- The class of the path that a write takes (R274): 7 the Cleat and the scheduler, 8 for the host, which has none. -/
def ParkOwner.path : ParkOwner → Nat
  | .host => 8 | .cleat _ => 7 | .sched => 7 | .writeBack _ => 2 | .copy .. => 3 | .rput .. => 3 | .face .. => 5 | .coll .. => 6
/-- Bytes of device memory written by a path of a class (R274). -/
def State.devPutBy (s : State) (path d dpa : Nat) (bs : List Byte) : State :=
  (s.devPutRaw d dpa bs).veil s path d (s.dpaCell d dpa) bs.length
/-- A write cut into requests of one 64-byte line each; `fuel` bounds them. -/
def lineCuts (dpa : Nat) (bs : List Byte) : Nat → List (Nat × List Byte)
  | 0 => []
  | fuel + 1 =>
    if bs.isEmpty then []
    else (dpa, bs.take (64 - dpa % 64)) :: lineCuts (dpa + (64 - dpa % 64)) (bs.drop (64 - dpa % 64)) fuel
/-- A write by an agent that is no lodge core: dropped on the sail plan page, parked while the group moves, else
performed (R370, R379). `owner` says whose a parked write is, `page` the translation it holds. -/
def State.devPut (s : State) (d dpa : Nat) (page : Nat × Nat) (bs : List Byte) (owner : ParkOwner) : State :=
  if dpa ≥ sailPage then s
  else if s.moving d (dpaGroup dpa) then
    s.modTiers d fun t => { t with
      parked := t.parked ++ (lineCuts dpa bs (bs.length / 64 + 2)).map fun x =>
        { dpa := x.1, page := page, stale := false, bytes := x.2, owner := owner } }
  else s.devPutBy owner.path d dpa bs
/-- Some write of an owner that `f` picks is parked on die `d`. -/
def State.parkedBy (s : State) (d : Nat) (f : ParkOwner → Bool) : Bool := (s.die d).tiers.parked.any fun p => f p.owner
/-- Some write of an owner is parked on some die. -/
def State.ownerParked (s : State) (o : ParkOwner) : Bool := (numsFrom 0 8).any fun d => s.parkedBy d fun x => x = o
/-- A Cleat write of the current context is parked, and so not yet performed (R370). -/
def State.myParked (s : State) : Bool := s.parkedBy s.cur.die fun o => o = .cleat s.cur.inDie
/-- An owner that `f` picks has a parked write that meets `n` bytes of device memory. -/
def State.parkedOver (s : State) (d dpa n : Nat) (f : ParkOwner → Bool) : Bool :=
  (s.die d).tiers.parked.any fun p => f p.owner && p.dpa < dpa + n && dpa < p.dpa + p.bytes.length
/-- A parked write of a copy, of an RPUT, of the Shroud, of the Traveller: each of these is one requester of its die. -/
def ParkOwner.isCopy : ParkOwner → Bool
  | .copy .. => true
  | .host => false | .cleat _ => false | .sched => false | .writeBack _ => false | .rput .. => false | .face .. => false
  | .coll .. => false
/-- Of an RPUT. -/
def ParkOwner.isRput : ParkOwner → Bool
  | .rput .. => true
  | .host => false | .cleat _ => false | .sched => false | .writeBack _ => false | .copy .. => false | .face .. => false
  | .coll .. => false
/-- Of the Shroud. -/
def ParkOwner.isFace : ParkOwner → Bool
  | .face .. => true
  | .host => false | .cleat _ => false | .sched => false | .writeBack _ => false | .copy .. => false | .rput .. => false
  | .coll .. => false
/-- Of the Traveller. -/
def ParkOwner.isColl : ParkOwner → Bool
  | .coll .. => true
  | .host => false | .cleat _ => false | .sched => false | .writeBack _ => false | .copy .. => false | .rput .. => false
  | .face .. => false
/-- Of a write-back. -/
def ParkOwner.isWb : ParkOwner → Bool
  | .writeBack _ => true
  | .host => false | .cleat _ => false | .sched => false | .copy .. => false | .rput .. => false | .face .. => false
  | .coll .. => false
/-- The Cleat and the die's scheduler, one requester. -/
def ParkOwner.isCleat : ParkOwner → Bool
  | .cleat _ => true | .sched => true
  | .host => false | .writeBack _ => false | .copy .. => false | .rput .. => false | .face .. => false | .coll .. => false

/-! ### Translation (R364 to R369) -/

/-- How a translation fails: an invalid entry, or a table entry read uncorrectable (R367). -/
inductive XErr | invalid | ecc
  deriving DecidableEq, Repr
/-- What a translation is for. -/
inductive XUse | read | write | fetch
  deriving DecidableEq, Repr

/-- DPA unit u of 3 GiB is owned under the root. -/
def Root.owns (r : Root) (dpa : Nat) : Bool := r.own.getLsbD (dpa / 0xC0000000)
/-- Index of level `l` in an address, and the number of address bits below it (R366). -/
def walkShift : Nat → Nat
  | 0 => 48 | 1 => 39 | 2 => 30 | 3 => 21 | _ => 16
/-- Entries of a table of level `l`. -/
def walkEntries (l : Nat) : Nat := if l = 4 then 32 else 512

/-- The page that a leaf or a table entry of level `l` gives, where it is valid (R365, R366). -/
def entryOk (r : Root) (l e : Nat) : Bool :=
  let addr := e / 256 % 1073741824 * 256
  let leaf := e / 2 % 2 = 1
  e % 2 = 1 && e / 16 % 16 = 0 && e / 274877906944 = 0 && (if l ≤ 1 then !leaf else if l = 4 then leaf else true) &&
    addr < 0x3000000000 && addr % (if leaf then 2 ^ walkShift l else if l = 3 then 256 else 4096) = 0 &&
    (r.owns addr || (leaf && l = 4 && addr = sailPage && e / 4 % 2 = 0))

/-- Walks from level `l` with the table at `tab`; `fuel` bounds the levels. -/
def State.walkFrom (s : State) (d : Nat) (r : Root) (va : Nat) (l tab : Nat) : Nat → Except XErr TlbEntry
  | 0 => .error .invalid
  | fuel + 1 =>
    match s.devGet d (tab + 8 * (va / 2 ^ walkShift l % walkEntries l)) 8 with
    | none => .error .ecc
    | some bs =>
      let e := leNat bs
      let addr := e / 256 % 1073741824 * 256
      if !entryOk r l e then .error .invalid
      else if e / 2 % 2 = 1 then
        let n := walkShift l
        .ok { base := va / 2 ^ n * 2 ^ n, bits := n, dpa := addr, w := e / 4 % 2 = 1, x := e / 8 % 2 = 1 }
      else s.walkFrom d r va (l + 1) addr fuel
/-- The five-level walk of R366. -/
def State.walk (s : State) (d va : Nat) : Except XErr TlbEntry :=
  match (s.die d).xl.root with
  | none => .error .invalid
  | some r => if r.owns r.troot then s.walkFrom d r va 0 r.troot 5 else .error .invalid
/-- A cached translation that covers the address, or else a walk (R368, R369). -/
def State.lookup (s : State) (d va : Nat) : Except XErr TlbEntry :=
  match (s.die d).xl.tlb.find? fun e => va / 2 ^ e.bits = e.base / 2 ^ e.bits with
  | some e => .ok e
  | none => s.walk d va
/-- The page that an address's translation names: its first address and log2 of its size. -/
def State.pageOf (s : State) (d va : Nat) : Nat × Nat :=
  match s.lookup d va with | .ok e => (e.base, e.bits) | .error _ => (va / 65536 * 65536, 16)
/-- The DPA of an address for a use, under its permissions (R366). -/
def State.xlate (s : State) (d va : Nat) (u : XUse) : Except XErr Nat :=
  if va ≥ 2 ^ 57 then .error .invalid
  else match s.lookup d va with
  | .error e => .error e
  | .ok e =>
    if (u = .write && !e.w) || (u = .fetch && !e.x) then .error .invalid
    else .ok (e.dpa + va % 2 ^ e.bits)

/-- The device physical addresses of the table entries that a walk reads from level `l` with the table at `tab`. -/
def State.walkPath (s : State) (d : Nat) (r : Root) (va : Nat) (l tab : Nat) : Nat → List Nat
  | 0 => []
  | fuel + 1 =>
    let k := tab + 8 * (va / 2 ^ walkShift l % walkEntries l)
    k :: match s.devGet d k 8 with
      | none => []
      | some bs =>
        let e := leNat bs
        if !entryOk r l e || e / 2 % 2 = 1 then [] else s.walkPath d r va (l + 1) (e / 256 % 1073741824 * 256) fuel
/-- The table entries that an access at an address reads: those of its walk, where no cached translation covers it (R368). -/
def State.walkReads (s : State) (d va : Nat) : List Nat :=
  if va ≥ 2 ^ 57 || (s.die d).xl.tlb.any fun e => va / 2 ^ e.bits = e.base / 2 ^ e.bits then []
  else match (s.die d).xl.root with
    | none => []
    | some r => if r.owns r.troot then s.walkPath d r va 0 r.troot 5 else []
/-- What a walk's reads do beside their result: each is an ordinary read of its line (R367, R395, R401). -/
def State.walked (s : State) (d va : Nat) : State :=
  (s.walkReads d va).foldl (fun s a => (s.dramScrub (s.dpaCell d a) 8).heat d a 1) s

/-! ### Requests that a diagnostic packet holds (R392, R393) -/

/-- Some byte of `n` from an address of a tier lies on port `q` (R391). -/
def onPort (q a n : Nat) : Bool := (numsFrom (a / 256) (Nat.min 16 ((a + n - 1) / 256 - a / 256 + 1))).any fun k => k % 16 = q
/-- A request to `n` bytes from an address of a tier waits: a packet sent earlier to one of its lines has not performed
(R393), or diagnostic packets hold all 8 tags of its port (R392). -/
def State.bdaHeld (s : State) (d tier a n : Nat) : Bool :=
  let ps := (s.die d).tiers.diag
  n ≠ 0 && !ps.isEmpty &&
    ((ps.any fun p => p.reply.isNone && p.hdr.getLsbD 7 = (tier = 1) && p.addr < a + n && a < p.addr + 64) ||
      (numsFrom 0 16).any fun q => onPort q a n && (ps.filter fun p => !p.arrived && p.addr / 256 % 16 = q).length ≥ 8)
/-- The same for `n` bytes of device memory within one page. -/
def State.dpaHeld (s : State) (d dpa n : Nat) : Bool :=
  let g := dpaGroup dpa
  let b := memberSlot (s.remapOf d g) g (dpaMember dpa) (dpa % 65536)
  s.bdaHeld d b.1 b.2 n

/-- The pieces (address, length) of a byte range, cut at 64 KiB pages; `fuel` bounds them. -/
def pageRuns (va n : Nat) : Nat → List (Nat × Nat)
  | 0 => []
  | fuel + 1 =>
    if n = 0 then []
    else
      let m := Nat.min n (65536 - va % 65536)
      (va, m) :: pageRuns (va + m) (n - m) fuel

/-- Reads device virtual bytes; the error carries the address that failed: of the piece that does not translate, or of the
first byte in a word that reads uncorrectable. -/
def State.dvaGet (s : State) (d va n : Nat) : Except (XErr × Nat) (List Byte) :=
  (pageRuns va n (n / 65536 + 2)).foldlM (fun acc p =>
    match s.xlate d p.1 .read with
    | .error e => .error (e, p.1)
    | .ok dpa =>
      match s.devGet d dpa p.2 with
      | none => .error (.ecc, p.1 + s.dramBadOff (s.dpaCell d dpa) p.2)
      | some bs => .ok (acc ++ bs)) []
/-- Bytes read from a device virtual address, as a path of class `cls` reads them (R269, R271). -/
def State.dvaSeen (s : State) (cls d va : Nat) (bs : List Byte) : List Byte :=
  if s.unseen.isEmpty then bs
  else ((pageRuns va bs.length (bs.length / 65536 + 2)).foldl (fun (a : List Byte × List Byte) p =>
    let part := a.2.take p.2
    let got := match s.xlate d p.1 .read with | .error _ => part | .ok dpa => s.seen cls (s.dpaCell d dpa) part
    (a.1 ++ got, a.2.drop p.2)) ([], bs)).1
/-- Whether every page of a range can be written. -/
def State.dvaCanPut (s : State) (d va n : Nat) : Except (XErr × Nat) Unit :=
  (pageRuns va n (n / 65536 + 2)).forM fun p =>
    match s.xlate d p.1 .write with
    | .error e => .error (e, p.1)
    | .ok _ => .ok ()
/-- The bytes cut at pages, written in order; a page that does not translate is left out. -/
def State.dvaPut (s : State) (d va : Nat) (bs : List Byte) (owner : ParkOwner) : State :=
  ((pageRuns va bs.length (bs.length / 65536 + 2)).foldl (fun (a : State × List Byte) p =>
    let s1 := match a.1.xlate d p.1 .write with
      | .error _ => a.1.walked d p.1
      | .ok dpa => ((a.1.walked d p.1).devPut d dpa (a.1.pageOf d p.1) (a.2.take p.2) owner).heat d dpa (linesOf dpa p.2)
    (s1, a.2.drop p.2)) (s, bs)).1
/-- Entries of the park buffer that a write of `n` bytes needs (R370). -/
def State.parkNeed (s : State) (d va n : Nat) : Nat :=
  ((pageRuns va n (n / 65536 + 2)).map fun p =>
    match s.xlate d p.1 .write with
    | .error _ => 0
    | .ok dpa => if dpa < sailPage && s.moving d (dpaGroup dpa) then linesOf dpa p.2 else 0).foldl (· + ·) 0
/-- The park buffer of die `d` takes `need` more entries (R370). -/
def State.parkRoom (s : State) (d need : Nat) : Bool := need = 0 || (s.die d).tiers.parked.length + need ≤ 256
/-- A read of device virtual bytes meets a parked write of an owner that `f` picks, and waits for its replay (R370). -/
def State.dvaParked (s : State) (d va n : Nat) (f : ParkOwner → Bool) : Bool :=
  (pageRuns va n (n / 65536 + 2)).any fun p =>
    match s.xlate d p.1 .read with
    | .error _ => false
    | .ok dpa => s.parkedOver d dpa p.2 f
/-- An access of device virtual bytes waits on a diagnostic packet, for itself or for its walk (R392, R393). -/
def State.dvaHeld (s : State) (d va n : Nat) (u : XUse) : Bool :=
  !(s.die d).tiers.diag.isEmpty && (pageRuns va n (n / 65536 + 2)).any fun p =>
    ((s.walkReads d p.1).any fun a => s.dpaHeld d a 8) ||
      match s.xlate d p.1 u with | .error _ => false | .ok dpa => s.dpaHeld d dpa p.2
/-- The device physical byte ranges, as carry-window keys, of a device virtual range (R28). -/
def State.dvaRanges (s : State) (d va n : Nat) (u : XUse) : List (Nat × Nat) :=
  (pageRuns va n (n / 65536 + 2)).filterMap fun p =>
    match s.xlate d p.1 u with
    | .error _ => none
    | .ok dpa => some (dpaKey d dpa, p.2)
/-- What reads of a device virtual range do beside their result: the write-back of corrected words, of the walks' entries
too (R395), and, where `hot` holds, its requests' heat (R401). -/
def State.dvaScrub (s : State) (d va n : Nat) (hot : Bool) : State :=
  (pageRuns va n (n / 65536 + 2)).foldl (fun s p =>
    match s.xlate d p.1 .read with
    | .error _ => s.walked d p.1
    | .ok dpa =>
      let s1 := (s.walked d p.1).dramScrub (s.dpaCell d dpa) p.2
      if hot then s1.heat d dpa (linesOf dpa p.2) else s1) s

/-! ### Instruction fetch (R96, R348) -/

/-- Fetches the word at an address. -/
def State.fetchWord (s : State) (d va : Nat) : Except XErr Word :=
  match s.xlate d va .fetch with
  | .error e => .error e
  | .ok dpa =>
    match s.devGet d dpa 4 with
    | none => .error .ecc
    | some bs => .ok (BitVec.ofNat 32 (leNat bs))
/-- Fetches `n` words; the error carries the address that failed. -/
def State.fetchN (s : State) (d va : Nat) : Nat → Except (XErr × Nat) (List Word)
  | 0 => .ok []
  | n + 1 =>
    match s.fetchWord d va with
    | .error e => .error (e, va)
    | .ok w =>
      match s.fetchN d (va + 4) n with
      | .error e => .error e
      | .ok ws => .ok (w :: ws)
/-- The number of syllables that a header names (R96, R97). -/
def headerSyls (h : Word) : Nat := onesIn 9 (h.toNat / 8388608)
/-- Fetches the bundle at an address: its header and as many syllables as the header names (R96). -/
def State.fetchBundle (s : State) (d va : Nat) : Except (XErr × Nat) (List Word) :=
  match s.fetchWord d va with
  | .error e => .error (e, va)
  | .ok h =>
    match s.fetchN d (va + 4) (headerSyls h) with
    | .error e => .error e
    | .ok ws => .ok (h :: ws)
/-- What a bundle's fetch does beside its result: its walk's reads, and the write-back of corrected words. The lines that
a fetch reads are not counted as requests of their member: R391 does not list them, and the instruction cache answers most
of them (DESIGN CHOICE, log 63). -/
def State.fetchScrub (s : State) (d va : Nat) : State :=
  let n := match s.fetchWord d va with | .ok h => 4 * (headerSyls h + 1) | .error _ => 4
  (pageRuns va n 2).foldl (fun s p =>
    match s.xlate d p.1 .fetch with
    | .error _ => s.walked d p.1
    | .ok dpa => (s.walked d p.1).dramScrub (s.dpaCell d dpa) p.2) s
/-- A bundle's fetch waits on a diagnostic packet (R392, R393). -/
def State.fetchHeld (s : State) (d va : Nat) : Bool :=
  s.dvaHeld d va (match s.fetchWord d va with | .ok h => 4 * (headerSyls h + 1) | .error _ => 4) .fetch

end Sys2Proof.Machine
end

