-- ==== Sys2Proof/Machine/Trap.lean ====
section
/-! DEFINITION. Taking a trap and returning from one, as one shared operation each (R348 to R355); deferred faults
(R206, R231); what becoming Idle does (R246, R263, R350); node rollback (R385, R386); the end of a job (R33, R59). -/

namespace Sys2Proof.Machine

/-! ### Cleat words and locks (R240, R246) -/

/-- The key of a Cleat word: below 2^40 an offset in the Cleat SRAM, above it an overflow word's device virtual
address (R240). -/
def overflowKey (dva : Nat) : Nat := 1099511627776 + dva
/-- Reads `n` bytes of a Cleat word; the error is of its translation or of a read that fails twice (R241). -/
def State.cleatGet (s : State) (d key n : Nat) : Except (XErr × Bool) Nat :=
  if key < 1099511627776 then
    if s.badRead (cleatKey d key) n then .error (.ecc, true) else .ok (s.rd (cleatKey d key) n)
  else
    match s.xlate d (key - 1099511627776) .read with
    | .error e => .error (e, false)
    | .ok dpa =>
      match s.devGet d dpa n with
      | none => .error (.ecc, true)
      | some bs => .ok (leNat bs)
/-- The device virtual address of an overflow word, or the offset of a word of the Cleat SRAM. -/
def cleatAddr (key : Nat) : Nat := if key < 1099511627776 then key else key - 1099511627776
/-- Writes `n` bytes of a Cleat word for context `ctx` of the die. -/
def State.cleatPut (s : State) (d key n v ctx : Nat) : State :=
  if key < 1099511627776 then s.wr (cleatKey d key) n v
  else s.dvaPut d (key - 1099511627776) (leBytes n v) (.cleat ctx)

/-- The value of a held lock word (R246). -/
def lockWord (owner : Nat) : Nat := 0x8000000000000000 + owner
/-- Frees a lock held by `id` and grants it to the oldest waiter (R246). -/
def State.releaseLock (s : State) (d : Nat) (l : LockRec) : State :=
  match l.waiters with
  | [] =>
    (s.modTables d fun t => { t with locks := dropWhere t.locks fun x => x.addr = l.addr }).cleatPut d l.addr 8 0 l.owner
  | w :: ws =>
    (s.modTables d fun t => { t with
      locks := mapWhere t.locks (fun x => x.addr = l.addr) fun x =>
        { x with owner := w, waiters := ws, granted := true, dropping := false } }).cleatPut d l.addr 8 (lockWord w) l.owner
/-- The write that frees a lock waits for an entry of the park buffer, or on a diagnostic packet (R370, R393). -/
def State.lockWaits (s : State) (d : Nat) (l : LockRec) : Bool :=
  let va := l.addr - 1099511627776
  l.addr ≥ 1099511627776 && (!s.parkRoom d (s.parkNeed d va 8) || s.dvaHeld d va 8 .write)
/-- Frees a lock of a context that becomes Idle, or has it freed once its write can be made. -/
def State.dropLock (s : State) (d : Nat) (l : LockRec) : State :=
  if s.lockWaits d l then
    s.modTables d fun t => { t with locks := mapWhere t.locks (fun x => x.addr = l.addr) fun x => { x with dropping := true } }
  else s.releaseLock d l
/-- Frees the locks of Idle contexts whose writes waited and can be made now. -/
def State.finishDrops (s : State) (d : Nat) : State :=
  ((s.die d).tables.locks.filter (·.dropping)).foldl (fun s l => s.dropLock d l) s
/-- A context's .sc operation no longer waits for a position, and gives back one it was given (R245, R283). -/
def State.scLeave (s : State) (g : CtxId) : State :=
  s.modTables g.die fun t => { t with scWait := dropWhere t.scWait fun w => w % 4096 = g.inDie }
/-- Frees every lock a context still holds, and sets LOCKDROP (R246). -/
def State.dropLocks (s : State) (g : CtxId) : State :=
  let n := g.inDie
  let s0 := (s.scLeave g).modTables g.die fun t => { t with
    locks := t.locks.map fun l => { l with waiters := dropWhere l.waiters fun w => w = n } }
  ((s0.die g.die).tables.locks.filter fun l => l.owner = n && !l.dropping).foldl (fun s l =>
    (s.dropLock g.die l).raiseJob g.die .lockdrop (some (BitVec.ofNat 64 (cleatAddr l.addr))) none) s0

/-! ### Transfers named by a trap (R230, R231) -/

/-- Closes the carry windows of an owner (R28); the destinations are kept for a resume (R36). -/
def State.closeWindows (s : State) (owner : Option Nat) : State :=
  match owner with
  | none => s
  | some k => { s with
      dies := s.dies.map fun x => { x with
        xf := { x.xf with
          windows := dropWhere x.xf.windows fun w => w.owner = k
          former := x.xf.former ++ x.xf.windows.filter fun w => w.dst && w.owner = k } } }
/-- The ABORT action on a transfer of a context (R231): a copy is cancelled and ends once its parked chunks have
landed; an RPUT sends nothing further. -/
def State.abortXfer (s : State) (g : CtxId) : Option XferRef → State
  | none => s
  | some (.cpy h) =>
    let c? := (s.die g.die).xf.copies.find? fun c => c.ctx = g.inDie && c.handle = h && !c.ended
    match c? with
    | none => s
    | some c =>
      (s.modXf g.die fun x => { x with
        copies := mapWhere x.copies (fun c => c.ctx = g.inDie && c.handle = h) fun c =>
          { c with cancelled := true, fault := none, ended := c.parked.isEmpty } }).closeWindows
        (if c.parked.isEmpty then c.carry else none)
  | some (.rput p) =>
    match (s.die g.die).xf.rputs.find? fun r => r.ctx = g.inDie && r.place = p with
    | none => s
    | some r =>
      if r.landed.length = r.acked.length then
        (s.modXf g.die fun x => { x with
          rputs := dropWhere x.rputs fun r => r.ctx = g.inDie && r.place = p }).closeWindows r.carry
      else
        s.modXf g.die fun x => { x with
          rputs := mapWhere x.rputs (fun r => r.ctx = g.inDie && r.place = p) fun r =>
            { r with stopped := true, fault := none } }
/-- The RETRY and SKIP actions (R231): the transfer goes on; SKIP counts the faulting chunk or piece as landed. -/
def State.retryXfer (s : State) (g : CtxId) (skip : Bool) : Option XferRef → State
  | none => s
  | some (.cpy h) =>
    s.modXf g.die fun x => { x with
      copies := mapWhere x.copies (fun c => c.ctx = g.inDie && c.handle = h) fun c =>
        match c.fault with
        | none => c
        | some q => if skip then { c with fault := none, skipped := true, landed := setIns c.landed q }
          else { c with fault := none } }
  | some (.rput p) =>
    s.modXf g.die fun x => { x with
      rputs := mapWhere x.rputs (fun r => r.ctx = g.inDie && r.place = p) fun r =>
        match r.fault with
        | none => r
        | some q => if skip then { r with fault := none, landed := setIns r.landed q, acked := setIns r.acked q }
          else { r with fault := none } }

/-! ### Becoming Idle -/

/-- A deferred fault of an Idle context: IDLEFAULT, and the ABORT action for a copy or RPUT (R206, R355). -/
def State.recordFault (s : State) (g : CtxId) (f : DFault) : State :=
  (s.raiseJob g.die .idlefault (some (BitVec.ofNat 64 f.cause.code)) (some f.tpc)).abortXfer g f.xfer
/-- The context holds a replayable node (R254). -/
def Ctx.inNode (c : Ctx) : Bool := match c.item with | none => false | some it => it.node.isSome
/-- The node that a context held is at its end: what it started and still runs is no longer a node's (R385, R386). -/
def State.nodeEnds (s : State) (g : CtxId) : State :=
  let s1 := s.modCore g.die g.core fun c => { c with
    queue := mapWhere c.queue (fun e => e.ctx = g.ctx) fun e => { e with node := false }
    rept := c.rept.map fun r => if r.ctx = g.ctx then { r with node := false } else r }
  let s2 := s1.modXf g.die fun x => { x with
    copies := mapWhere x.copies (fun c => c.ctx = g.inDie) fun c => { c with node := false } }
  let s3 := s2.modTr g.die fun t => { t with
    jobs := mapWhere t.jobs (fun j => j.ctx = g.inDie) fun j => { j with node := false } }
  s3.modCtx g fun c => { c with held := c.held.map fun f => { f with node := false } }
/-- The task records that a node log reserves (R254). -/
def logTasks (l : List LogOp) : List Nat := l.filterMap fun o => match o with | .arm t _ => some t | _ => none
/-- Discards the node log of an item: its reserved task records return to FREE (R254, R350). -/
def State.discardLog (s : State) (g : CtxId) : State :=
  match (s.ctx g).item with
  | none => s
  | some it => s.modSched g.die fun x => { x with
      reserved := dropWhere x.reserved fun t => (logTasks it.log).contains t }
/-- A queue as the launch that held it ends: records left in it stay undelivered (R42). -/
def Queue.release (q : Queue) : Queue := { q with held := false, stuck := q.stuck || decide (q.head ≠ q.tail) }
/-- Ends a launch whose last context is Idle: its contexts, tiles and queues are released, and what was in delivery
from them is forgotten (R42). -/
def State.endLaunch (s : State) (d id : Nat) : State :=
  match s.launchOf d id with
  | none => s
  | some l =>
    if l.ctxs.all fun n => (s.ctx (ctxIn d n)).st = .idle then
      let q0 := l.fld 0x68 2
      let q1 := q0 + l.fld 0x6A 2
      s.modSched d fun x => { x with
        launches := dropWhere x.launches fun y => y.id = id
        queues := x.queues.map fun q => if q0 ≤ q.1 ∧ q.1 < q1 then (q.1, q.2.release) else q
        recs := dropWhere x.recs fun r => q0 ≤ r.queue && r.queue < q1
        replays := dropWhere x.replays fun r => q0 ≤ r.queue && r.queue < q1
        links := dropWhere x.links fun k => q0 ≤ k.1 && k.1 < q1
        groups := dropWhere x.groups fun c => c.launch = id
        binds := dropWhere x.binds fun b => b.launch = id }
    else s
/-- A context becomes Idle: it frees its locks (R246), its held faults are recorded (R206), its diagnostic replies
and packets are discarded (R408), and its launch may end. Registers keep their values. -/
def State.becomeIdle (s : State) (g : CtxId) : State :=
  let held := (s.ctx g).held
  let s1 := ((s.discardLog g).dropLocks g).modCtx g fun c => { c with
    st := .idle, held := [], item := none, level := 0, rec1 := none, rec2 := none, resume := none, sleepRec := none,
    sailPend := false, deadline := none, rollback := false }
  let s2 := (held.foldl (fun s f => s.recordFault g f) s1).nodeEnds g
  let s3 := s2.modTiers g.die fun t => { t with
    diag := mapWhere (dropWhere t.diag fun p => p.ctx = g.inDie && p.arrived) (fun p => p.ctx = g.inDie) fun p =>
      { p with orphan := true } }
  let s4 := s3.modCore g.die g.core fun c => { c with
    running := if c.running = some g.ctx then none else c.running }
  s4.endLaunch g.die (s.ctx g).launch

/-- The job is faulted on every die of the domain (R33): its contexts become Idle and JOBFAULT is set. -/
def State.faultJob (s : State) : State :=
  let ds := (numsFrom 0 8).filter fun d => (s.die d).job.isSome
  let s1 := (s.placed.filter fun g => ds.contains g.die).foldl (fun s g => s.becomeIdle g) s
  ds.foldl (fun s d => s.raiseJob d .jobfault none none) s1

/-! ### Node rollback (R385, R386) -/

/-- The memory keys under which an item's regions name device memory. -/
def devNodeKey (d va : Nat) : Nat := regionKey d 7 0 + va
/-- Whether matrix operations of a context are queued or repeating (R203). -/
def State.mxBusy (s : State) (g : CtxId) : Bool :=
  let c := s.core g.die g.core
  c.queue.any (fun e => e.ctx = g.ctx) || (match c.rept with | some r => r.ctx = g.ctx | none => false)
/-- Steps 3 to 7 of a rollback, once the context's matrix operations are done. -/
def State.rollbackEnd (s : State) (g : CtxId) (lost : Bool) : State :=
  match (s.ctx g).item with
  | none => s.modCtx g fun c => { c with rollback := false }
  | some it =>
    let grans := it.regions.flatMap fun r => if hasGranule r.1 then granulesOf r.1 r.2 else []
    let s0 := ((s.discardLog g).setEmpty grans).modCtx g fun c => { c with
      held := dropWhere c.held fun f => f.node, rollback := false }
    let s1 := s0.nodeEnds g
    let rs := (s1.die g.die).sched.replays
    if it.replays + 1 ≥ 3 || rs.length ≥ 64 then s1.faultJob
    else
      let s2 := s1.modSched g.die fun x => { x with
        queues := x.queues.map fun q =>
          if q.1 = it.queue && q.2.head = q.2.tail && !(rs.any fun r => r.queue = it.queue) then
            (q.1, { q.2 with aged := 0, since := s.nowCyc })
          else q
        replays := x.replays ++ [{
          queue := it.queue, index := it.index, wid := it.wid, arg := (s.ctx g).ctl.warg, depth := (s.ctx g).ctl.wdep.toNat, count := it.replays + 1
          failed := it.failed }] }
      let s3 := s2.modCtx g fun c => { c with item := none }
      if lost then s3.becomeIdle g
      else s3.modCtx g fun c => { c with
        level := 0, rec1 := none, rec2 := none, b := Vector.replicate 8 none, lapsed := false, woken := false, fills := none
        tmpl := none, pc := it.pc
        resume := none,
        sleepRec := none, st := if c.st = .running then .running else .ready }
/-- Steps 1 and 2: the node's copies are cancelled, their handles freed and their statuses lost; then the rest, or a
wait for the context's matrix operations; those of a lost core are gone before its contexts are lost (`State.dropCore`). -/
def State.rollback (s : State) (g : CtxId) (lost : Bool) : State :=
  let mine := fun (c : Copy) => c.ctx = g.inDie && c.node
  let s1 := ((s.die g.die).xf.copies.filter mine).foldl (fun s c => s.closeWindows c.carry) s
  let s2 := s1.modXf g.die fun x => { x with copies := dropWhere x.copies mine }
  if s2.mxBusy g then s2.modCtx g fun c => { c with rollback := true } else s2.rollbackEnd g lost

/-! ### Delivery (R349, R350) -/

/-- A trap as it is raised: the cause, SLOT, the information registers that the cause's rule names, and the transfer
that it names (R348, R349); whether it is a deferred fault (R361), and whether it is an uncorrectable read of none of the
kinds that R385 lists, so that a node delivers it: of a bundle, a record, a template or a request image. -/
structure Trap where
  cause : Cause
  slot : Nat
  info : Option TInfo := none
  xfer : Option XferRef := none
  defer : Bool := false
  keep : Bool := false
  deriving DecidableEq, Repr

/-- An uncorrectable read of a record or template that a node delivers (R385). -/
def enTrapKeep (c : Cause) : Trap := { cause := c, slot := 9, keep := true }
/-- The trap would be unhandled (R350). -/
def Ctx.unhandled (c : Ctx) : Bool :=
  c.level ≥ 2 || c.ctl.tvec = 0 || c.ctl.tvec.toNat % 4 ≠ 0 || c.ctl.tvec.toNat / 2 ^ 57 ≠ 0
/-- The information registers of a trap: where the rule names none, ctl.tinfo0 receives SLOT (R349). -/
def Trap.tinfo (t : Trap) : TInfo := t.info.getD { t0 := BitVec.ofNat 64 t.slot }
/-- What delivery does to the context's registers (R349): the record of level L + 1, the latches put aside, the
cause, ctl.tpc and the information registers, the watchdog's budget, the level and the handler's address. -/
def Ctx.deliver (c : Ctx) (t : Trap) (tpc : Dword) (r : Resume) : Ctx :=
  let saved : SavedTrap :=
    { tcause := c.ctl.tcause, tpc := c.ctl.tpc, tinfo0 := c.ctl.tinfo0, tinfo1 := c.ctl.tinfo1,
      tinfo2 := c.ctl.tinfo2, tinfo3 := c.ctl.tinfo3 }
  let rec_ : TrapRec :=
    { bundle := r, slot := t.slot, defer := t.defer, cause := t.cause, xfer := t.xfer,
      saved := if c.level = 1 then some saved else none
      aside := if c.lapsed then Vector.replicate 8 none else c.b }
  { c with
    rec1 := if c.level = 0 then some rec_ else c.rec1
    rec2 := if c.level = 1 then some rec_ else c.rec2
    b := Vector.replicate 8 none
    lapsed := false
    woken := false
    fills := none
    tmpl := none
    ctl := { c.ctl with
      tcause := BitVec.ofNat 64 t.cause.code, tpc := tpc, tinfo0 := t.tinfo.t0, tinfo1 := t.tinfo.t1,
      tinfo2 := t.tinfo.t2, tinfo3 := t.tinfo.t3, wdog := BitVec.ofNat 64 c.budget }
    level := c.level + 1
    pc := c.ctl.tvec
    resume := none
    sleepRec := none
    sailPend := if t.cause = .sailplanUnacked then false else c.sailPend }
/-- Whether a trap is an error that a context holding a replayable node consumes (R385). -/
def State.consumes (s : State) (g : CtxId) (t : Trap) : Bool :=
  (s.ctx g).inNode &&
    match t.cause with
    | .eccUncorrectable => !t.keep
    | .checkMismatch => true
    | .accChecksum => true
    | .engineAsync => t.tinfo.t0.toNat / 512 % 4 = 1 && match t.xfer with
      | some (.cpy h) => (s.die g.die).xf.copies.any fun c => c.ctx = g.inDie && c.handle = h && c.node
      | _ => false
    | _ => false
/-- A failure of a node that a replay on another core may lay at this core's door: CHECK_MISMATCH or ACC_CHECKSUM, by CLASS
(R383, R439). -/
def Cause.against : Cause → Option Nat
  | .accChecksum => some 4
  | .checkMismatch => some 5
  | _ => none
/-- Notes in the item that a context holds that it failed on this core (R383). -/
def State.noteFailed (s : State) (g : CtxId) (c : Cause) : State :=
  match c.against with
  | none => s
  | some k => s.modCtx g fun x => { x with item := x.item.map fun it => { it with
      failed := if it.failed.contains (g.core, k) then it.failed else it.failed ++ [(g.core, k)] } }
/-- Taking a trap: rolled back where a node consumes the error (R385), unhandled under R350, else delivered under
R349. -/
def State.takeTrap (s : State) (g : CtxId) (t : Trap) (tpc : Dword) (r : Resume) : State :=
  let c := s.ctx g
  if s.consumes g t then (s.noteFailed g t.cause).rollback g false
  else if c.unhandled then
    (s.becomeIdle g).recordFault g { cause := t.cause, tpc := tpc, info := t.tinfo, xfer := t.xfer }
  else (s.scLeave g).setCtx g (c.deliver t tpc r)

/-! ### Return (R352, R353) -/

/-- XRET at level L ≥ 1 (R352): the level below, the information of level 1, the put-aside latches, and the bundle
to be reissued. -/
def Ctx.xret (c : Ctx) : Ctx :=
  match if c.level = 2 then c.rec2 else c.rec1 with
  | none => c
  | some r => { c with
      ctl := match r.saved with
        | none => c.ctl
        | some v => { c.ctl with
            tcause := v.tcause, tpc := v.tpc, tinfo0 := v.tinfo0, tinfo1 := v.tinfo1, tinfo2 := v.tinfo2,
            tinfo3 := v.tinfo3 }
      b := r.aside
      lapsed := false
      level := c.level - 1
      rec1 := if c.level = 1 then none else c.rec1
      rec2 := none
      pc := r.bundle.rpc
      resume := some r.bundle }
/-- The trap record of the current level. -/
def Ctx.topRec (c : Ctx) : Option TrapRec :=
  if c.level = 2 then c.rec2 else if c.level = 1 then c.rec1 else none

/-! ### Deferred faults (R206, R231, R351, R355) -/

/-- A deferred fault arises for a context: it is recorded if the context is Idle, held if its queue of 32 has room,
and left with its operation otherwise. A Stalled context becomes Ready to take it; so does a context Sleeping in
QPOP, or after PHEND for a copy or RPUT fault (R355). -/
def State.raiseFault (s : State) (g : CtxId) (f : DFault) : State :=
  let c := s.ctx g
  if c.st = .idle then s.recordFault g f
  else if c.held.length ≥ 32 then s
  else s.modCtx g fun c =>
    let c1 := { c with held := c.held ++ [f] }
    match c.st with
    | .stalled => if c.level = 0 then { c1 with st := .ready } else c1
    | .sleepQueue => { c1 with st := .ready, sleepRec := none, resume := c.sleepRec }
    | .sleepBoundary =>
      if f.xfer.isSome then { c1 with st := .ready, woken := true, sleepRec := none, resume := c.sleepRec } else c1
    | _ => c1

/-- The number of words of a bundle in a record. -/
def Resume.size (r : Resume) : Nat := if r.words.isEmpty then 2 else r.words.length

end Sys2Proof.Machine
end

