-- ==== Sys2Proof/Machine/Operands.lean ====
section
/-! DEFINITION. Operand forms and destinations: source codes for scalar and vector readers, latches, immediates, the
writes of the s, v, p, a, m and shape registers, and memory operands (R101, R103 to R105, R113, R128). -/

namespace Sys2Proof

/-! ### Immediates (R101, R108) -/

/-- An immediate sign-extended to 64 bits. -/
def Imm16.sx (i : Imm16) : Dword :=
  match i.ext with
  | none => i.lo.signExtend 64
  | some h => (h ++ i.lo).signExtend 64
/-- An immediate zero-extended to 64 bits. -/
def Imm16.zx (i : Imm16) : Dword :=
  match i.ext with
  | none => i.lo.setWidth 64
  | some h => (h ++ i.lo).setWidth 64
/-- A branch target: the header address plus 4 × OFF (R108). -/
def Imm16.target (i : Imm16) (pc : Dword) : Dword := pc + i.sx * 4
/-- The offset of form M: OFF7 × size, or the extended immediate unscaled (R113). -/
def MOff.bytes (o : MOff) (size : Nat) : Dword :=
  match o.ext with
  | none => o.lo.signExtend 64 * BitVec.ofNat 64 size
  | some h => (h ++ o.lo.signExtend 16).signExtend 64
/-- PROBE's miss target (R114). -/
def POff.target (o : POff) (pc : Dword) : Dword :=
  match o.ext with
  | none => pc + o.lo.signExtend 64 * 4
  | some h => pc + (h ++ o.lo.signExtend 16).signExtend 64 * 4
/-- The slot's latch (R105). -/
def SUnit.latch : SUnit → Fin 8 | .sa => 0 | .sb => 1
/-- The slot's latch (R105). -/
def VUnit.latch : VUnit → Fin 8 | .va => 2 | .vb => 3

/-- The latch codes of an EN operand. -/
def EnB.latches : EnB → List (Fin 8)
  | .src (.latch k) => [k]
  | .src _ => []
  | .imm _ _ => []

end Sys2Proof

namespace Sys2Proof.Machine

/-! ### Sources -/

/-- The latch codes among some source codes (R104, R105). -/
def latchesOf : List Src → List (Fin 8)
  | [] => []
  | .latch k :: r => k :: latchesOf r
  | _ :: r => latchesOf r
/-- The v registers among some vector source codes. -/
def vregsOf : List Src → List Nat
  | [] => []
  | .reg n :: r => n.val :: vregsOf r
  | _ :: r => vregsOf r

/-- What a scalar reader receives (R104). -/
def Ctx.sval (c : Ctx) : Src → Dword
  | .reg n => c.s.get n
  | .latch k => ((c.b.get k).getD 0).setWidth 64
  | .zero => 0
  | .one => 1
  | .lane => 0
  | .ones => BitVec.allOnes 64
  | .widlo => (c.ctl.wid.setWidth 32).setWidth 64
  | .neg1 => BitVec.allOnes 64

/-- Joins lanes of `w` bits into a vector, lane 0 lowest. -/
def lanesOf (w : Nat) : List Nat → Nat
  | [] => 0
  | x :: xs => x % 2 ^ w + 2 ^ w * lanesOf w xs
/-- A vector from its lanes. -/
def Vec.ofLanes (w : Nat) (xs : List Nat) : Vec := BitVec.ofNat 2048 (lanesOf w xs)
/-- Lane `i` of width `w`. -/
def laneAt (v : Vec) (w i : Nat) : Nat := v.toNat / 2 ^ (w * i) % 2 ^ w
/-- The lanes of a number, `n` of them. -/
def splitLanes (w : Nat) : Nat → Nat → List Nat
  | 0, _ => []
  | n + 1, x => x % 2 ^ w :: splitLanes w n (x / 2 ^ w)
/-- The lanes of a vector (R156). -/
def Vec.lanes (v : Vec) (w : Nat) : List Nat := splitLanes w (2048 / w) v.toNat
/-- A vector with the same value in each lane. -/
def Vec.splat (w x : Nat) : Vec := Vec.ofLanes w (List.replicate (2048 / w) x)

/-- What a vector reader receives, given how a lane value is written in the format: `num` for the integers 0, 1, −1
and the lane index, `wid` for ctl.wid[31:0] (R104). -/
def Ctx.vvalBy (c : Ctx) (w : Nat) (num : Int → Nat) (wid : Nat → Nat) : Src → Vec
  | .reg n => c.v.get n
  | .latch k => (c.b.get k).getD 0
  | .zero => Vec.splat w (num 0)
  | .one => Vec.splat w (num 1)
  | .lane => Vec.ofLanes w ((List.range (2048 / w)).map fun i => num (Int.ofNat i))
  | .ones => BitVec.allOnes 2048
  | .widlo => Vec.splat w (wid (c.ctl.wid.toNat % 4294967296))
  | .neg1 => Vec.splat w (num (-1))
/-- A vector reader of integer lanes of width `w`. -/
def Ctx.vvalInt (c : Ctx) (w : Nat) (a : Src) : Vec :=
  c.vvalBy w (fun x => (toWidth w x).toNat) (fun x => x % 2 ^ w) a

/-! ### Engine operands (R116) -/

/-- SRCB of an EN instruction of R116. -/
def Ctx.enval (c : Ctx) : EnB → Dword
  | .src b => c.sval b
  | .imm lo hi => (hi ++ lo.setWidth 16).setWidth 64
/-! ### Destinations -/

/-- Writes latch bk (R105). -/
def Ctx.setLatch (c : Ctx) (k : Fin 8) (v : Vec) : Ctx := { c with b := c.b.set k (some v) }
/-- Writes an s register, or none under NW. -/
def Ctx.setS (c : Ctx) (d : Dst) (x : Dword) : Ctx :=
  match d with
  | none => c
  | some n => { c with s := c.s.set n x }
/-- Writes a v register, or none under NW. -/
def Ctx.setV (c : Ctx) (d : Dst) (x : Vec) : Ctx :=
  match d with
  | none => c
  | some n => { c with v := c.v.set n x }
/-- Writes a p register; a write to p0 is discarded (R65). -/
def Ctx.setP (c : Ctx) (d : PDst) (x : Pred) : Ctx :=
  match d with
  | none => c
  | some n => if n = 0 then c else { c with p := c.p.set n x }
/-- The value of a p register; p0 always reads all ones (R65). -/
def Ctx.pval (c : Ctx) (n : Fin 16) : Pred := if n = 0 then BitVec.allOnes 256 else c.p.get n
/-- A scalar result: the s register unless NW, and the slot's latch. -/
def Ctx.outS (c : Ctx) (k : Fin 8) (d : Dst) (x : Dword) : Ctx := (c.setS d x).setLatch k (x.setWidth 2048)
/-- A vector result: the v register unless NW, and the slot's latch. -/
def Ctx.outV (c : Ctx) (k : Fin 8) (d : Dst) (x : Vec) : Ctx := (c.setV d x).setLatch k x
/-- A predicate result: the p register unless NW, and the slot's latch. -/
def Ctx.outP (c : Ctx) (k : Fin 8) (d : PDst) (x : Pred) : Ctx := (c.setP d x).setLatch k (x.setWidth 2048)
/-- Raises flags of ctl.fflags (R85). -/
def Ctx.raiseFlags (c : Ctx) (f : BitVec 5) : Ctx := { c with ctl := { c.ctl with fflags := c.ctl.fflags ||| f } }

/-! ### Shape registers (R152) -/

/-- The index of mh, lh, wh and eh registers among the sixteen (R108). -/
def mhIdx (h : Fin 4) : Fin 16 := ⟨h, by omega⟩
/-- lh0 to lh3. -/
def lhIdx (h : Fin 4) : Fin 16 := ⟨4 + h, by omega⟩
/-- wh0 to wh3. -/
def whIdx (h : Fin 4) : Fin 16 := ⟨8 + h, by omega⟩
/-- eh0 to eh3. -/
def ehIdx (h : Fin 4) : Fin 16 := ⟨12 + h, by omega⟩
/-- Swaps the shadow and live copy of a shape register. -/
def Ctx.swapShape (c : Ctx) (h : Fin 16) : Ctx :=
  { c with live := c.live.set h (c.shadow.get h), shadow := c.shadow.set h (c.live.get h) }
/-- The live copy a syllable reads: after its own swap, if SW is set. -/
def Ctx.shape (c : Ctx) (h : Fin 16) (sw : Bool) : BitVec 256 := if sw then c.shadow.get h else c.live.get h
/-- A field of a wide register: `w` bits from bit `lo`. -/
def fieldAt {n : Nat} (x : BitVec n) (lo w : Nat) : Nat := x.toNat / 2 ^ lo % 2 ^ w
/-- The same field read signed. -/
def sfieldAt {n : Nat} (x : BitVec n) (lo w : Nat) : Int :=
  let v := fieldAt x lo w
  if v < 2 ^ (w - 1) then v else (v : Int) - 2 ^ w

end Sys2Proof.Machine
end

