-- ==== Sys2Proof/Machine/Issue.lean ====
section
/-! DEFINITION. Issuing a bundle: what a syllable does as data (`Syl`), the checks of R117 in their order, blocking
(R54), performance in the order of R265, the loop end test (R145), and the end of the bundle. -/

namespace Sys2Proof.Machine

/-- The register files whose destinations R102 compares. -/
inductive DFile | s | v | p | a | m | shape | ctl
  deriving DecidableEq, Repr

/-- What a bundle does after all its slots have performed. -/
inductive Post
  /-- YIELD, PHEND of a ballast context, and a bundle that waits on a Cleat reply: the width is offered (R54, R55). -/
  | offer
  /-- PHEND of a member context (R257). -/
  | sleep
  /-- HALT (R263). -/
  | halt
  /-- TRAP (R261). -/
  | software (v : Dword) (n : Nat)
  /-- XRET (R352). -/
  | xret (act : Nat)
  deriving DecidableEq, Repr

/-- The outcome of a syllable's performance: the state, a taken control transfer (R102) and what follows the
bundle. -/
structure Eff where
  st : State
  jump : Option Dword := none
  post : Option Post := none

/-- How a bundle blocks. -/
inductive Wait
  /-- R54: a switch may follow. -/
  | stall
  /-- The same, on a granule of a load .w (R78, R79). -/
  | fill
  /-- An interlock that keeps the issue width (R54, R153, R234, R259). -/
  | hold
  /-- QPOP on empty queues (R59). -/
  | queue
  deriving DecidableEq, Repr

/-- What a performance reads: the state before the bundle, the shape registers that syllables of the bundle swap, and
the address of the word after the bundle. -/
structure Env where
  pre : State
  swaps : List (Fin 16)
  next : Dword

/-- What a syllable does: its slot; the vector registers and latches it names; its destination; the tile it names; a
cause of step 2 of R117 that its fields alone do not show; whether the superstep forbids it (step 5); its issue
checks (step 6); whether it blocks, with the state it leaves; the shape register it swaps; and its performance
upon the state so far, with every register read from the state before the bundle. `store` marks a slot that performs
after the loads, `early` a CTLW, whose value is written before any flag is raised (R149), `orders` a release or an acquire
(R278). -/
structure Syl where
  slot : Slot
  vregs : List Nat := []
  latches : List (Fin 8) := []
  dest : Option (DFile × Nat) := none
  tile : Option Nat := none
  illegal : State → Bool := fun _ => false
  phase : State → Bool := fun _ => false
  check : State → Option Trap := fun _ => none
  blocks : State → Option (State × Wait) := fun _ => none
  swap : Option (Fin 16) := none
  perform : Env → State → Except Trap Eff
  early : Bool := false
  orders : State → Bool := fun _ => false
  store : Bool := false
  branch : Bool := false
  probe : Bool := false

/-- One slot of a bundle: its syllable, or the cause that decoding gives it. -/
abbrev SlotSyl := Slot × Except Cause Syl

/-- The place of a slot's performance: SA, SB, VA, VB, MX, TG, then the loads, the stores and EN (R265). -/
def Syl.rank (x : Syl) : Nat :=
  if x.early then 0
  else match x.slot with
  | .sa => 1 | .sb => 2 | .va => 3 | .vb => 4 | .mx => 5 | .tg => 6
  | .ls => if x.store then 9 else 7
  | .wy => if x.store then 10 else 8
  | .en => 11
/-- Inserts a syllable by rank. -/
def insRank (x : Syl) : List Syl → List Syl
  | [] => [x]
  | y :: ys => if x.rank < y.rank then x :: y :: ys else y :: insRank x ys
/-- The syllables in the order of their performance. -/
def byRank : List Syl → List Syl
  | [] => []
  | x :: xs => insRank x (byRank xs)

/-- The performed bits kept from the trap record of a bundle being reissued (R353). -/
def Ctx.perf (c : Ctx) : BitVec 9 := match c.resume with | none => 0 | some r => r.perf
/-- The pending control transfer of a bundle being reissued (R353). -/
def Ctx.pend (c : Ctx) : Option Dword := match c.resume with | none => none | some r => r.pend
/-- The slot's performed bit is set. -/
def bitOf (perf : BitVec 9) (k : Slot) : Bool := perf.getLsbD (k.num - 1)
/-- Sets a slot's performed bit. -/
def withBit (perf : BitVec 9) (k : Slot) : BitVec 9 := perf ||| (1 <<< (k.num - 1))

/-! ### The checks of R117 -/

/-- Step 2 for one slot. -/
def checkSyl (s : State) (x : SlotSyl) : Option Trap :=
  match x.2 with
  | .error c => some { cause := c, slot := x.1.num }
  | .ok y =>
    if y.illegal s then some { cause := .illegalOpcode, slot := x.1.num }
    else if y.vregs.any fun n => n ≥ s.cx.cap then some { cause := .regCap, slot := x.1.num }
    else if !bitOf s.cx.perf x.1 && y.latches.any fun k => (s.cx.b.get k).isNone then
      some { cause := .latchLost, slot := x.1.num }
    else none
/-- The syllables of the slots that decode. -/
def sylsOf : List SlotSyl → List Syl
  | [] => []
  | (_, .ok y) :: r => y :: sylsOf r
  | (_, .error _) :: r => sylsOf r
/-- A slot of the list whose destination an earlier one names (R102). -/
def dupDest : List Syl → List (DFile × Nat) → Option Slot
  | [], _ => none
  | x :: xs, seen =>
    match x.dest with
    | none => dupDest xs seen
    | some d => if seen.contains d then some x.slot else dupDest xs (d :: seen)
/-- Step 3: the bundle rules of R102. -/
def checkBundle (ys : List Syl) : Option Trap :=
  match dupDest ys [] with
  | some k => some { cause := .reservedEncoding, slot := k.num }
  | none =>
    if (ys.any fun y => y.branch) && (ys.any fun y => y.probe) then
      some { cause := .reservedEncoding, slot := Slot.tg.num }
    else none
/-- The first trap that a list of checks raises. -/
def firstTrap {α : Type} (f : α → Option Trap) : List α → Option Trap
  | [] => none
  | x :: xs => match f x with | some t => some t | none => firstTrap f xs
/-- Step 4 for one slot: tile ownership (R66). -/
def checkTile (s : State) (y : Syl) : Option Trap :=
  match y.tile with
  | none => none
  | some z => if s.cx.tiles.getLsbD z then none else some { cause := .access, slot := y.slot.num }
/-- Steps 2 to 6 of R117; steps 5 and 6 only for slots still to perform (R353). -/
def checkIssue (s : State) (xs : List SlotSyl) : Option Trap :=
  let ys := sylsOf xs
  let todo := ys.filter fun y => !bitOf s.cx.perf y.slot
  match firstTrap (checkSyl s) xs with
  | some t => some t
  | none => match checkBundle ys with
    | some t => some t
    | none => match firstTrap (checkTile s) ys with
      | some t => some t
      | none => match firstTrap (fun y => if y.phase s then
          some { cause := .phaseIllegal, slot := y.slot.num } else none) todo with
        | some t => some t
        | none => firstTrap (fun y => y.check s) todo
/-- The first slot still to perform that blocks. -/
def firstWait (s : State) : List Syl → Option (State × Wait)
  | [] => none
  | y :: ys => match y.blocks s with | some w => some w | none => firstWait s ys

/-! ### Performance and the end of the bundle -/

/-- How far a bundle's performance came: the state, performed bits, a taken transfer, what follows the bundle, and a
trap in performance. -/
structure Perf where
  st : State
  bits : BitVec 9
  jump : Option Dword
  posts : List Post
  trap : Option Trap

/-- Performs syllables one after another until one traps. -/
def performAll (e : Env) : List Syl → Perf → Perf
  | [], a => a
  | y :: ys, a =>
    match y.perform e a.st with
    | .error t => { a with trap := some t }
    | .ok r =>
      performAll e ys
        { st := r.st
          bits := withBit a.bits y.slot
          jump := match r.jump with | some j => some j | none => a.jump
          posts := match r.post with | some p => a.posts ++ [p] | none => a.posts
          trap := none }

/-- The words of the bundle at the program counter: of the trap record, or as fetched (R349, R353). -/
def State.bundleWords (s : State) : List Word :=
  match s.cx.resume with
  | some r => r.words
  | none => match s.fetchBundle s.cur.die s.cx.pc.toNat with | .ok ws => ws | .error _ => []
/-- The record of the current bundle with given performed bits and pending transfer. -/
def State.bundleRec (s : State) (bits : BitVec 9) (pend : Option Dword) : Resume :=
  { rpc := s.cx.pc, words := s.bundleWords, perf := bits, pend := pend }

/-- The current context's bundle begins: what the context kept while it waited is used up. -/
def State.lapse (s : State) : State := { s with cx := { s.cx with tmpl := none } }
/-- One cycle of the issue width: ctl.wdog counts down and time passes (R56, log 9). -/
def State.tick (s : State) : State :=
  { s with
    cx := { s.cx with ctl := { s.cx.ctl with wdog := if s.cx.ctl.wdog = 0 then 0 else s.cx.ctl.wdog - 1 } }
    nowCyc := s.nowCyc + 1 }

/-- The state a bundle performs upon: a cycle has passed, and what its context kept while it waited has lapsed. -/
def State.begun (s : State) : State := s.tick.lapse

/-- The state where a release or an acquire orders what the engines of the die wrote, if there is one (R278). -/
def State.under (s : State) : Bool → State
  | false => s
  | true => s.ordered s.cur.die
/-- What a bundle of some syllables performs upon. -/
def State.beginWith (s : State) (ys : List Syl) : State := (s.under (ys.any fun y => y.orders s)).begun

/-- Steps an address register's base (R145). -/
def AReg.step (r : AReg) : AReg := { r with base := r.base + r.stride }
/-- The loop end test of a context (R145): the address registers that ctl.lstep names step, and the loop goes on at
ctl.lbeg or ends. -/
def Ctx.loopTest (c : Ctx) (next : Dword) : Ctx :=
  let c1 := { c with a := c.a.mapIdx fun k (r : AReg) => if c.ctl.lstep.getLsbD k then r.step else r }
  if c.ctl.lcnt.toNat > 1 then { c1 with ctl := { c1.ctl with lcnt := c.ctl.lcnt - 1 }, pc := c.ctl.lbeg }
  else { c1 with ctl := { c1.ctl with lcnt := 0 }, pc := next }
/-- A bundle has performed: where its context lost the width while it waited, every latch is lost, those that it wrote too
(R55, R105, R317). -/
def Ctx.settle (c : Ctx) : Ctx :=
  { c with b := if c.lapsed then Vector.replicate 8 none else c.b, lapsed := false, fills := none }
/-- The program counter after a bundle at `pc` of `n` words: the taken transfer, or the loop end test, or the next
bundle (R96, R102, R145). -/
def Ctx.advance (c : Ctx) (pc : Dword) (n : Nat) (jump : Option Dword) : Ctx :=
  let next := pc + BitVec.ofNat 64 (4 * n)
  match jump with
  | some t => { c.settle with pc := t, resume := none }
  | none =>
    let c0 := { c.settle with resume := none }
    if c.ctl.lend = pc ∧ c.ctl.lcnt ≠ 0 then c0.loopTest next else { c0 with pc := next }

/-- Puts the context to sleep after PHEND: the record of its bundle holds every bit but EN's (R20, R355). -/
def State.sleepPhend (s : State) (pre : State) (bits : BitVec 9) (jump : Option Dword) : State :=
  let r := { pre.bundleRec (bits &&& 0xFF) jump with rpc := pre.cx.pc }
  { s with cx := { s.cx.settle with st := .sleepBoundary, pc := pre.cx.pc, resume := none, sleepRec := some r } }

/-- What follows a bundle (R147, R257, R261, R263, R352). -/
def State.after (s : State) (pre : State) (bits : BitVec 9) (jump : Option Dword) : Post → State
  | .offer => s.modCore s.cur.die s.cur.core fun c => { c with offer := true }
  | .sleep => s.sleepPhend pre bits jump
  | .halt => s.becomeIdle s.cur
  | .software v n =>
    s.takeTrap s.cur
      { cause := .software, slot := Slot.en.num, info := some { t0 := v, t1 := BitVec.ofNat 64 n } }
      pre.cx.pc (s.bundleRec 0 none)
  | .xret act =>
    match s.cx.topRec with
    | none => s
    | some r =>
      let s1 := if r.cause = .engineAsync then
          if act = 2 then s.abortXfer s.cur r.xfer else s.retryXfer s.cur (act = 1) r.xfer
        else s
      { s1 with cx := s1.cx.xret }
/-- What follows a bundle, in order. -/
def State.afterAll (s : State) (pre : State) (bits : BitVec 9) (jump : Option Dword) : List Post → State
  | [] => s
  | p :: ps => (s.after pre bits jump p).afterAll pre bits jump ps

/-- A bundle that blocks: Stalled, or asleep in QPOP, or held at its place. -/
def State.wait (s : State) : Wait → State
  | .stall => { s with cx := { s.cx with st := .stalled } }
  | .fill => { s with cx := { s.cx with st := .stalled } }
  | .hold => s
  | .queue => { s with cx := { s.cx with st := .sleepQueue, resume := none, sleepRec := s.cx.resume } }

/-- The bundle's PHEND or HALT waits for matrix operations that the bundle itself has queued (R203). -/
def Perf.restless (a : Perf) : Bool := (a.posts.contains .sleep || a.posts.contains .halt) && a.st.mxBusy a.st.cur
/-- Ends a bundle whose slots have all performed. Where its PHEND or HALT still waits for matrix operations, its other slots
count as performed and EN issues again (R203, R257, R263). -/
def State.endBundle (pre : State) (n : Nat) (a : Perf) : State :=
  let jump := match a.jump with | some j => some j | none => pre.cx.pend
  if a.restless then { a.st with cx := { a.st.cx with resume := some (pre.bundleRec (a.bits &&& 0xFF) jump) } }
  else if a.posts.contains .sleep then a.st.sleepPhend pre a.bits jump
  else ({ a.st with cx := a.st.cx.advance pre.cx.pc n jump }).afterAll pre a.bits jump a.posts

/-- The bundle of a trap at issue or in performance: it is reissued with the bits kept (R348). -/
def State.trapBundle (pre s : State) (t : Trap) (bits : BitVec 9) (jump : Option Dword) : State :=
  s.takeTrap s.cur t pre.cx.pc (pre.bundleRec bits jump)

/-- Issues the bundle of `n` words at the program counter of the current context: the checks of R117, then
blocking, then performance. -/
def issueBundle (n : Nat) (xs : List SlotSyl) (s : State) : State :=
  match checkIssue s xs with
  | some t => s.trapBundle s.begun t s.cx.perf s.cx.pend
  | none =>
    let todo := (sylsOf xs).filter fun y => !bitOf s.cx.perf y.slot
    match firstWait s todo with
    | some (s1, w) => s1.tick.wait w
    | none =>
      let e : Env := {
        pre := s, swaps := todo.filterMap fun y => y.swap, next := s.cx.pc + BitVec.ofNat 64 (4 * n) }
      let a := performAll e (byRank todo) { st := s.beginWith todo, bits := s.cx.perf, jump := none, posts := [], trap := none }
      match a.trap with
      | some t => s.trapBundle a.st t a.bits (match a.jump with | some j => some j | none => s.cx.pend)
      | none => s.endBundle n a

/-- Issues a bundle of one syllable, two words long, in the current context; no context issues unless it is Running
(R58). -/
def issueOne (x : Syl) (s : State) : Host.Outcome State Fault Refusal :=
  if s.cx.st = .running then .next (issueBundle 2 [(x.slot, .ok x)] s) else .fault .noRunningContext

/-! ### Common syllables -/

/-- A performance that changes the context's registers only. -/
def onCtx (f : Ctx → Ctx → Ctx) (e : Env) (s : State) : Except Trap Eff :=
  .ok { st := { s with cx := f e.pre.cx s.cx } }

/-- A member context in an exchange superstep, for instructions that only compute supersteps admit and that ballast
contexts issue in either (R24, R39). -/
def phaseVector (s : State) : Bool := !s.isBallast && s.exchange
/-- Compute supersteps only, and never a ballast context (R24, R39). -/
def phaseCompute (s : State) : Bool := s.isBallast || s.exchange
/-- Either superstep, but no ballast context (R39). -/
def phaseMember (s : State) : Bool := s.isBallast
/-- Exchange supersteps only, and no ballast context (R24, R39). -/
def phaseExchange (s : State) : Bool := s.isBallast || !s.exchange

/-- A scalar syllable that reads `srcs`, writes `d` and its latch with the value of `f` on the registers before the
bundle, and raises flags (R128, R136). -/
def scalarSyl (u : SUnit) (srcs : List Src) (d : Dst) (f : Ctx → Dword × BitVec 5) : Syl :=
  { slot := u.slot, latches := latchesOf srcs, dest := d.map fun n => (.s, n.val)
    perform := onCtx fun pre c => (c.outS u.latch d (f pre).1).raiseFlags (f pre).2 }

end Sys2Proof.Machine
end

