-- ==== Sys2Proof/Machine/Control.lean ====
section
/-! DEFINITION. Control registers, shape, parameter and address registers, YIELD, hardware loops and branches
(R142 to R153). -/

namespace Sys2Proof.Machine

/-! ### Control registers (R148 to R151) -/

/-- ctl.where of the current context (R150). -/
def State.whereIs (s : State) : Dword :=
  let c := s.cur
  BitVec.ofNat 64 (c.ctx + 4 * c.core + 4096 * (c.core / 96) + 32768 * c.die + 262144 * s.fabricDie c.die +
    1073741824 * (if s.isBallast then 1 else 0))
/-- The value of control register `n` (R148). ctl.cyc counts from the cycle at which the context was placed. -/
def State.ctlRead (s : State) (n : Fin 64) : Dword :=
  let c := s.cx.ctl
  match n.val with
  | 0 => c.wid | 1 => c.warg | 2 => c.wdep | 3 => s.hy.phc | 4 => c.rmp | 5 => c.rmv
  | 6 => c.rnd.setWidth 64 | 7 => c.fflags.setWidth 64 | 8 => c.stkb | 9 => c.stkl | 10 => c.wdog
  | 11 => BitVec.ofNat 64 (s.cycOf s.cur.die s.cur.core) - c.cyc | 12 => s.whereIs
  | 13 => c.lcnt | 14 => c.lbeg | 15 => c.lend | 16 => c.lstep.setWidth 64 | 17 => c.tvec | 18 => c.tcause
  | 19 => c.tpc | 20 => c.tinfo0 | 21 => c.tinfo1 | 22 => c.tinfo2 | 23 => c.tinfo3
  | _ => 0
/-- A write of control register `n`; reserved fields are ignored (R4, R148). -/
def Ctl.write (c : Ctl) (n : Fin 64) (x : Dword) : Ctl :=
  match n.val with
  | 6 => { c with rnd := x.setWidth 2 } | 7 => { c with fflags := x.setWidth 5 }
  | 8 => { c with stkb := (x.setWidth 19).setWidth 64 } | 9 => { c with stkl := (x.setWidth 19).setWidth 64 }
  | 13 => { c with lcnt := x } | 14 => { c with lbeg := x } | 15 => { c with lend := x }
  | 16 => { c with lstep := x.setWidth 8 } | 17 => { c with tvec := x } | 18 => { c with tcause := x }
  | 19 => { c with tpc := x } | 20 => { c with tinfo0 := x } | 21 => { c with tinfo1 := x }
  | 22 => { c with tinfo2 := x } | 23 => { c with tinfo3 := x }
  | _ => c
/-- The registers that CTLW may write (R148). -/
def ctlWritable (n : Fin 64) : Bool := (6 ≤ n.val && n.val ≤ 9) || (13 ≤ n.val && n.val ≤ 23)

/-! ### Shape, parameter and address registers (R152, R153) -/

/-- The bits of a shape register after a write of field index `i` (R152). -/
def shapeWrite (x : BitVec 256) (i : Fin 28) (v : Dword) : BitVec 256 :=
  if i.val < 16 then putSlice x (16 * i.val) (v.setWidth 16)
  else if i.val < 24 then putSlice x (32 * (i.val - 16)) (v.setWidth 32)
  else putSlice x (64 * (i.val - 24)) v
/-- The bits of some fields (lowest bit, width). -/
def bitsOf : List (Nat × Nat) → BitVec 256
  | [] => 0
  | (lo, w) :: r => ((BitVec.allOnes 256 >>> (256 - w)) <<< lo) ||| bitsOf r
/-- The reserved bits of shape register `h`: of mh, lh and wh, or eh, whose two layouts reserve these together (R183, R213,
R225, R235). -/
def shapeReserved (h : Fin 16) : BitVec 256 :=
  if h.val < 4 then
    bitsOf [(14, 2), (29, 3), (45, 3), (56, 8), (92, 4), (108, 4), (124, 4), (140, 4), (224, 32)]
  else if h.val < 12 then bitsOf [(3, 5), (37, 11), (61, 3), (72, 8), (96, 160)]
  else bitsOf [(12, 4), (28, 4), (56, 8), (88, 8), (120, 8), (152, 8), (167, 1), (171, 5), (191, 1)]
/-- The copy of shape register `h` after SHW's write: reserved bits ignore it and read zero (R3, R4). -/
def shapeSet (h : Fin 16) (x : BitVec 256) (i : Fin 28) (v : Dword) : BitVec 256 := shapeWrite x i v &&& ~~~(shapeReserved h)
/-- SHW's write: on the shadow, or, when a syllable of the bundle swaps the register, on the copy that the swap makes
the shadow (R152). -/
def Ctx.shw (c : Ctx) (swaps : List (Fin 16)) (h : Fin 16) (i : Fin 28) (v : Dword) : Ctx :=
  if swaps.contains h then { c with live := c.live.set h (shapeSet h (c.live.get h) i v) }
  else { c with shadow := c.shadow.set h (shapeSet h (c.shadow.get h) i v) }
/-- Writes a part of an address register (R153). -/
def AReg.setPart (r : AReg) (p : AwrPart) (x : Dword) : AReg :=
  match p with
  | .base => { r with base := x }
  | .stride => { r with stride := x }
  | .count => { r with count := x }
/-- MPW and AWR wait, keeping the width, while a repeat of the context runs that reads or steps the register
(R153). A repeat reads the m registers and steps a0 to a3 or its count register (R188). -/
def repeatHolds (s : State) : Option (State × Wait) :=
  match s.myCore.rept with
  | none => none
  | some r => if r.ctx = s.cur.ctx then some (s, .hold) else none

/-! ### Transfers (R142 to R144) -/

/-- A transfer that is taken when `c` holds on the registers before the bundle. -/
def branchSyl (srcs : List Src) (c : Ctx → Bool) (target : Ctx → Dword) : Syl :=
  { slot := .sb, latches := latchesOf srcs, branch := true
    perform := fun e s => .ok {
      st := s
      jump := if c e.pre.cx then some (target e.pre.cx) else none } }
/-- The check of a register target: ALIGN before ACCESS (R108, R117). -/
def targetCheck (a : Src) (s : State) : Option Trap :=
  let t := s.cx.sval a
  if t.toNat % 4 ≠ 0 then some { cause := .align, slot := Slot.sb.num }
  else if t.toNat / 2 ^ 57 ≠ 0 then some { cause := .access, slot := Slot.sb.num }
  else none
/-- The cause of a failed read of an address (R367). -/
def XErr.cause : XErr → Cause | .invalid => .translation | .ecc => .eccUncorrectable
/-- The trap of a LOOP with count 0 whose read of the loop end's header fails (R144). -/
def loopCheck (count : Src) (off : Imm16) (s : State) : Option Trap :=
  if s.cx.sval count ≠ 0 then none
  else
    let t := off.target s.cx.pc
    match s.fetchWord s.cur.die t.toNat with
    | .ok _ => none
    | .error e => some { cause := e.cause, slot := Slot.sb.num, info := some { t0 := t }, keep := true }
/-- A LOOP with count 0 reads the header at the loop end. -/
def State.loopReads (s : State) (count : Src) : Bool := s.cx.sval count = 0
/-- That read waits on a diagnostic packet (R392, R393). -/
def loopBlocks (count : Src) (off : Imm16) (s : State) : Option (State × Wait) :=
  if s.loopReads count && s.dvaHeld s.cur.die (off.target s.cx.pc).toNat 4 .fetch then some (s, .hold) else none
/-- The address after the bundle at the loop end (R144). -/
def State.afterLoopEnd (s : State) (t : Dword) : Dword :=
  match s.fetchWord s.cur.die t.toNat with
  | .ok h => t + BitVec.ofNat 64 (4 * (headerSyls h + 1))
  | .error _ => t

/-- CTLR (R148) -/
def actCtlr (u : SUnit) (d : Dst) (c : Fin 64) : Syl :=
  { slot := u.slot, dest := d.map fun n => (.s, n.val)
    check := fun _ => if c.val < 24 then none else some { cause := .access, slot := u.slot.num }
    perform := fun e s => .ok { st := { s with cx := s.cx.outS u.latch d (e.pre.ctlRead c) } } }
/-- CTLR, alone in its bundle. -/
def execCtlr (u : SUnit) (d : Dst) (c : Fin 64) (s : State) : Host.Outcome State Fault Refusal :=
  issueOne (actCtlr u d c) s

/-- CTLW (R148, R149) -/
def actCtlw (u : SUnit) (a : Src) (c : Fin 64) : Syl :=
  { slot := u.slot, latches := latchesOf [a], dest := some (.ctl, c.val), early := true
    check := fun _ => if ctlWritable c then none else some { cause := .access, slot := u.slot.num }
    perform := onCtx fun pre x => { x with ctl := x.ctl.write c (pre.sval a) } }
/-- CTLW, alone in its bundle. -/
def execCtlw (u : SUnit) (a : Src) (c : Fin 64) (s : State) : Host.Outcome State Fault Refusal :=
  issueOne (actCtlw u a c) s

/-- SHW (R152) -/
def actShw (u : SUnit) (h : Fin 16) (a : Src) (field : Fin 28) (_fmt : Fin 1) : Syl :=
  { slot := u.slot, latches := latchesOf [a], dest := some (.shape, h.val)
    perform := fun e s => .ok { st := { s with cx := s.cx.shw e.swaps h field (e.pre.cx.sval a) } } }
/-- SHW, alone in its bundle. -/
def execShw (u : SUnit) (h : Fin 16) (a : Src) (field : Fin 28) (fmt : Fin 1) (s : State) : Host.Outcome State Fault Refusal :=
  issueOne (actShw u h a field fmt) s

/-- MPW (R153) -/
def actMpw (u : SUnit) (m : Fin 8) (a : Src) : Syl :=
  { slot := u.slot, latches := latchesOf [a], dest := some (.m, m.val), blocks := repeatHolds
    perform := onCtx fun pre c => { c with m := c.m.set m (pre.sval a) } }
/-- MPW, alone in its bundle. -/
def execMpw (u : SUnit) (m : Fin 8) (a : Src) (s : State) : Host.Outcome State Fault Refusal :=
  issueOne (actMpw u m a) s

/-- AWR (R153) -/
def actAwr (u : SUnit) (r : Fin 8) (part : AwrPart) (a : Src) : Syl :=
  { slot := u.slot, latches := latchesOf [a], dest := some (.a, r.val), blocks := repeatHolds
    perform := onCtx fun pre c => { c with a := c.a.set r ((c.a.get r).setPart part (pre.sval a)) } }
/-- AWR, alone in its bundle. -/
def execAwr (u : SUnit) (r : Fin 8) (part : AwrPart) (a : Src) (s : State) : Host.Outcome State Fault Refusal :=
  issueOne (actAwr u r part a) s

/-- YIELD (R147): reloads ctl.wdog and offers the width -/
def actYield : Syl :=
  { slot := .sb
    perform := fun _ s => .ok {
      st := { s with cx := { s.cx with ctl := { s.cx.ctl with wdog := BitVec.ofNat 64 s.cx.budget } } }
      post := some .offer } }
/-- YIELD, alone in its bundle. -/
def execYield (s : State) : Host.Outcome State Fault Refusal :=
  issueOne actYield s

/-- LOOP (R144) -/
def actLoop (count : Src) (off : Imm16) : Syl :=
  { slot := .sb, latches := latchesOf [count], branch := true, check := loopCheck count off
    blocks := loopBlocks count off
    perform := fun e s0 =>
      let t := off.target e.pre.cx.pc
      let n := e.pre.cx.sval count
      let s := if e.pre.loopReads count then s0.dvaScrub s0.cur.die t.toNat 4 false else s0
      .ok {
        st := { s with cx := { s.cx with ctl := { s.cx.ctl with lbeg := e.next, lend := t, lcnt := n } } }
        jump := if n = 0 then some (e.pre.afterLoopEnd t) else none } }
/-- LOOP, alone in its bundle. -/
def execLoop (count : Src) (off : Imm16) (s : State) : Host.Outcome State Fault Refusal :=
  issueOne (actLoop count off) s

/-- BR (R142) -/
def actBr (off : Imm16) : Syl :=
  branchSyl [] (fun _ => true) fun c => off.target c.pc
/-- BR, alone in its bundle. -/
def execBr (off : Imm16) (s : State) : Host.Outcome State Fault Refusal :=
  issueOne (actBr off) s

/-- BZ (R142) -/
def actBz (r : Src) (off : Imm16) : Syl :=
  branchSyl [r] (fun c => c.sval r = 0) fun c => off.target c.pc
/-- BZ, alone in its bundle. -/
def execBz (r : Src) (off : Imm16) (s : State) : Host.Outcome State Fault Refusal :=
  issueOne (actBz r off) s

/-- BNZ (R142) -/
def actBnz (r : Src) (off : Imm16) : Syl :=
  branchSyl [r] (fun c => c.sval r ≠ 0) fun c => off.target c.pc
/-- BNZ, alone in its bundle. -/
def execBnz (r : Src) (off : Imm16) (s : State) : Host.Outcome State Fault Refusal :=
  issueOne (actBnz r off) s

/-- BP (R142) -/
def actBp (p : Fin 16) (test : BpTest) (off : Imm16) : Syl :=
  branchSyl [] (fun c => match test with
    | .any => c.pval p ≠ 0
    | .all => c.pval p = BitVec.allOnes 256
    | .none => c.pval p = 0
    | .lane0 => (c.pval p).getLsbD 0) fun c => off.target c.pc
/-- BP, alone in its bundle. -/
def execBp (p : Fin 16) (test : BpTest) (off : Imm16) (s : State) : Host.Outcome State Fault Refusal :=
  issueOne (actBp p test off) s

/-- JMP (R142, R143) -/
def actJmp (a : Src) (_fmt : Fin 1) : Syl :=
  { branchSyl [a] (fun _ => true) fun c => c.sval a with check := targetCheck a }
/-- JMP, alone in its bundle. -/
def execJmp (a : Src) (fmt : Fin 1) (s : State) : Host.Outcome State Fault Refusal :=
  issueOne (actJmp a fmt) s

/-- CALL (R142): the link goes to the register and to b1 -/
def actCall (d : Fin 48) (off : Imm16) : Syl :=
  { slot := .sb, dest := some (.s, d.val), branch := true
    perform := fun e s => .ok {
      st := { s with cx := s.cx.outS 1 (some d) e.next }
      jump := some (off.target e.pre.cx.pc) } }
/-- CALL, alone in its bundle. -/
def execCall (d : Fin 48) (off : Imm16) (s : State) : Host.Outcome State Fault Refusal :=
  issueOne (actCall d off) s

/-- CALLR (R142, R143) -/
def actCallr (d : Dst) (a : Src) (_fmt : Fin 1) : Syl :=
  { slot := .sb, latches := latchesOf [a], dest := d.map fun n => (.s, n.val), branch := true, check := targetCheck a
    perform := fun e s => .ok {
      st := { s with cx := s.cx.outS 1 d e.next }
      jump := some (e.pre.cx.sval a) } }
/-- CALLR, alone in its bundle. -/
def execCallr (d : Dst) (a : Src) (fmt : Fin 1) (s : State) : Host.Outcome State Fault Refusal :=
  issueOne (actCallr d a fmt) s

/-- RET (R142, R143): JMP, told to the return predictor -/
def actRet (a : Src) (_fmt : Fin 1) : Syl :=
  { branchSyl [a] (fun _ => true) fun c => c.sval a with check := targetCheck a }
/-- RET, alone in its bundle. -/
def execRet (a : Src) (fmt : Fin 1) (s : State) : Host.Outcome State Fault Refusal :=
  issueOne (actRet a fmt) s

/-- NOP_BUNDLE (R98): a bundle of one word; the S bit never changes a result (R99). -/
def execNopBundle (stop : Bool) (s : State) : Host.Outcome State Fault Refusal :=
  let _ := stop
  if s.cx.st = .running then .next (issueBundle 1 [] s) else .fault .noRunningContext

end Sys2Proof.Machine
end

