-- ==== Sys2Proof/Machine/Granule.lean ====
section
/-! DEFINITION. What every access to a scratchpad or vault meets beside its address: carry windows (R28, R29), the
output regions of a replayable node (R253), Trellis frames (R71 to R73), uncorrectable words (R207, R384); and the
fields of tensor identifier entries (R221). -/

namespace Sys2Proof.Machine

/-! ### Carry windows (R28, R29) -/

/-- Whether a window of die `d`, over its destination or over its source, holds granule `g`. -/
def State.inWindow (s : State) (d : Nat) (dst : Bool) (g : Nat) : Bool :=
  (s.die d).xf.windows.any fun w => w.dst = dst && w.ranges.any fun r =>
    r.2 ≠ 0 && r.1 / 16 ≤ g && g ≤ (r.1 + r.2 - 1) / 16
/-- A load of granules traps CARRY_EARLY (R29). -/
def State.loadEarly (s : State) (d : Nat) (w c : Bool) (gs : List Nat) : Bool :=
  gs.any fun g =>
    if c then s.inWindow d true g || s.inWindow d false g else !w && s.inWindow d true g && !s.full g
/-- A store, or a granule instruction that changes a bit, traps CARRY_EARLY (R29). -/
def State.storeEarly (s : State) (d : Nat) (gs : List Nat) : Bool :=
  gs.any fun g => s.inWindow d true g || s.inWindow d false g
/-- Whether a window of die `d` meets the `n` bytes from key `k`, for an engine transfer that names them (R29). -/
def State.windowMeets (s : State) (d k n : Nat) : Bool :=
  n ≠ 0 && (s.die d).xf.windows.any fun w => w.ranges.any fun r =>
    r.2 ≠ 0 && r.1 / 16 ≤ (k + n - 1) / 16 && k / 16 ≤ (r.1 + r.2 - 1) / 16
/-- The same for a transfer whose windows `own` picks: it waits for the windows opened before its own and for no later
one, so that two carry transfers with a common granule do not wait for each other (log 58). -/
def State.windowMeetsOther (s : State) (own : Nat → Bool) (d k n : Nat) : Bool :=
  n ≠ 0 && ((s.die d).xf.windows.takeWhile fun w => !own w.owner).any fun w => w.ranges.any fun r =>
    r.2 ≠ 0 && r.1 / 16 ≤ (k + n - 1) / 16 && k / 16 ≤ (r.1 + r.2 - 1) / 16

/-! ### Replayable nodes (R253) -/

/-- The first of the `n` bytes from key `k` that lies outside an item's regions, as its distance from `k`. -/
def Item.outside (it : Item) (k : Nat) : Nat → Option Nat
  | 0 => none
  | n + 1 =>
    match it.outside k n with
    | some i => some i
    | none => if it.regions.any fun r => r.1 ≤ k + n && k + n < r.1 + r.2 then none else some n
/-- The check of R253 for the `n` bytes at key `k`, which the program names by address `a`. -/
def Ctx.nodeCheck (c : Ctx) (slot : Slot) (k n a : Nat) : Option Trap :=
  match c.item with
  | none => none
  | some it =>
    if it.node.isNone then none
    else match it.outside k n with
      | none => none
      | some i => some { cause := .access, slot := slot.num, info := some { t0 := BitVec.ofNat 64 (a + i) } }

/-! ### Trellis frames (R71 to R73) -/

/-- The key of way `w` of set `t` of the partition in vault `v`. -/
def wayKey (v t w : Nat) : Nat := v * 2048 + t * 8 + w
/-- The number of vaults in the mask. -/
def DieTrellis.homes (t : DieTrellis) : Nat := onesIn 72 t.mask.toNat
/-- The sets of a partition: P / 16 KiB. -/
def DieTrellis.sets (t : DieTrellis) : Nat := t.p * 16
/-- The first vault offset of a partition. -/
def DieTrellis.first (t : DieTrellis) : Nat := 4194304 - t.p * 262144
/-- The vault offset of a way's frame. -/
def DieTrellis.frameOff (t : DieTrellis) (way : Nat) : Nat := t.first + way % 2048 / 8 * 16384 + way % 8 * 2048
/-- The key of a way's frame (R72). -/
def State.frameKey (s : State) (d way : Nat) : Nat := vaultKey d (way / 2048) ((s.die d).tr.frameOff way)
/-- A way that holds nothing. -/
def Way.empty : Way := { st := .invalid, pin := false, seq := 0, block := 0, pending := none, evict := false, again := false }
/-- A way of die `d`. -/
def State.way (s : State) (d w : Nat) : Way := tabGetD (s.die d).tr.ways w Way.empty
/-- The way whose frame holds offset `off` of vault `v`. -/
def State.wayAt (s : State) (d v off : Nat) : Option Nat :=
  let t := (s.die d).tr
  if t.mask.getLsbD v && t.p ≠ 0 && off ≥ t.first then
    some (wayKey v ((off - t.first) / 16384) ((off - t.first) % 16384 / 2048))
  else none
/-- The ways whose frames the `n` bytes from key `k` of a vault touch. -/
def State.waysOf (s : State) (d k n : Nat) : List Nat :=
  if n = 0 || k / 1099511627776 ≠ d * 16 + 2 then []
  else
    let off := k % 1099511627776
    (numsFrom (off / 2048) ((off + n - 1) / 2048 - off / 2048 + 1)).filterMap fun b =>
      s.wayAt d (b * 2048 / 4194304) (b * 2048 % 4194304)
/-- Whether the bytes touch the frame of a fill in progress (R73). -/
def State.fillingAt (s : State) (d k n : Nat) : Bool := (s.waysOf d k n).any fun w => (s.way d w).st = .filling
/-- A way after a store to its block: a clean block is dirty, and a block being written back is written back again
(R73, R219). -/
def Way.stored (y : Way) : Way :=
  if y.st = .clean then { y with st := .dirty } else if y.st = .writing then { y with again := true } else y
/-- A write of frame bytes marks a valid block dirty; one being written back becomes so when the write-back ends (R73). -/
def State.dirtyAt (s : State) (d k n : Nat) : State :=
  (s.waysOf d k n).foldl (fun s w =>
    let y := s.way d w
    if y.st = .clean || y.st = .writing then s.modTr d fun t => { t with ways := tabSet t.ways w y.stored }
    else s) s

/-! ### Tensor identifier entries (R221) -/

/-- The entry of identifier `n` of die `d`. -/
def State.tid (s : State) (d n : Nat) : BitVec 512 := tabGetD (s.die d).tables.tids n 0
/-- VALID. -/
def tidValid (e : BitVec 512) : Bool := e.getLsbD 88
/-- FMT[3:0]: 0 to 7 as R107, 8 for block floating point. -/
def tidFmt (e : BitVec 512) : Nat := fieldAt e 64 4
/-- The block width w. -/
def tidWidth (e : BitVec 512) : Nat := fieldAt e 68 3 + 1
/-- RANK. -/
def tidRank (e : BitVec 512) : Nat := fieldAt e 72 3
/-- BAXIS. -/
def tidAxis (e : BitVec 512) : Nat := fieldAt e 75 3
/-- SPACE. -/
def tidSpace (e : BitVec 512) : Nat := fieldAt e 78 2
/-- LAYID. -/
def tidLay (e : BitVec 512) : Nat := fieldAt e 80 8
/-- LAYVER. -/
def tidVer (e : BitVec 512) : Nat := fieldAt e 96 32
/-- EXT_a. -/
def tidExt (e : BitVec 512) (a : Nat) : Nat := fieldAt e (128 + 20 * a) 20
/-- STR_a. -/
def tidStr (e : BitVec 512) (a : Nat) : Int := sfieldAt e (256 + 40 * a) 40
/-- BASE. -/
def tidBase (e : BitVec 512) : Nat := fieldAt e 0 64
/-- Bytes of an element, or of a block. -/
def tidUnit (e : BitVec 512) : Nat :=
  match tidFmt e with
  | 0 => 1 | 1 => 2 | 2 => 4 | 3 => 8 | 4 => 2 | 5 => 2 | 6 => 4 | 7 => 8
  | _ => 4 * tidWidth e + 1
/-- The companion (R90), where CV is set. -/
def State.tidComp (s : State) (d : Nat) (e : BitVec 512) : Option (BitVec 512) :=
  if e.getLsbD 89 then
    let c := s.tid d (fieldAt e 240 12)
    if tidValid c then some c else none
  else none
/-- The layout check of an entry against an expected id and low version bits. -/
def layStale (e : BitVec 512) (lay ver : Nat) : Bool := tidLay e ≠ lay || tidVer e % 65536 ≠ ver

end Sys2Proof.Machine
end

