-- ==== Sys2Proof/Machine/Flags.lean ====
section
/-! DEFINITION. Floating point and its flags: the four IEEE formats, exact values, the one rounding of R84 with the
flags of R85, arithmetic, compare, minimum and maximum, and conversions (R80 to R86, R137 to R140). -/

namespace Sys2Proof.Machine

/-! ### Formats (R81) -/

/-- Precision p: the bits of a significand, the hidden one included. -/
def prec : FFmt → Nat | .bf16 => 8 | .f16 => 11 | .f32 => 24 | .f64 => 53
/-- The exponent of the least subnormal. -/
def emin : FFmt → Int | .bf16 => -133 | .f16 => -24 | .f32 => -149 | .f64 => -1074
/-- Every finite magnitude lies below 2 to this. -/
def emax : FFmt → Int | .bf16 => 128 | .f16 => 16 | .f32 => 128 | .f64 => 1024
/-- Biased exponent of infinities and NaNs. -/
def expTop : FFmt → Nat | .bf16 => 255 | .f16 => 31 | .f32 => 255 | .f64 => 2047
/-- +∞. -/
def infBits (f : FFmt) : Nat := expTop f * 2 ^ (prec f - 1)
/-- The default NaN (R81). -/
def nanBits (f : FFmt) : Nat := infBits f + 2 ^ (prec f - 2)
/-- The sign bit. -/
def signBit (f : FFmt) (neg : Bool) : Nat := if neg then 2 ^ (f.bits - 1) else 0

/-- The flags of R85. -/
abbrev FFlags := BitVec 5
/-- Inexact. -/
def flagNX : FFlags := 1
/-- Underflow. -/
def flagUF : FFlags := 2
/-- Overflow. -/
def flagOF : FFlags := 4
/-- Division by zero. -/
def flagDZ : FFlags := 8
/-- Invalid operation. -/
def flagNV : FFlags := 16
/-- A flag when `b` holds. -/
def flagIf (b : Bool) (f : FFlags) : FFlags := if b then f else 0

/-- A floating-point datum: a NaN, an infinity, or (−1)^neg × m × 2^e exactly; a zero keeps its sign. -/
inductive FVal
  | nan (signalling : Bool)
  | inf (neg : Bool)
  | fin (neg : Bool) (m : Nat) (e : Int)
  deriving DecidableEq, Repr

/-- The datum that bits encode in a format. -/
def unpack (f : FFmt) (x : Nat) : FVal :=
  let fb := prec f - 1
  let neg := x / 2 ^ (f.bits - 1) % 2 = 1
  let e := x / 2 ^ fb % (expTop f + 1)
  let m := x % 2 ^ fb
  if e = expTop f then if m = 0 then .inf neg else .nan (m / 2 ^ (fb - 1) = 0)
  else if e = 0 then .fin neg m (emin f)
  else .fin neg (m + 2 ^ fb) (emin f + (e - 1 : Nat))
/-- A signalling NaN. -/
def FVal.isSnan : FVal → Bool | .nan true => true | _ => false
/-- A NaN. -/
def FVal.isNan : FVal → Bool | .nan _ => true | _ => false
/-- A zero. -/
def FVal.isZero : FVal → Bool | .fin _ 0 _ => true | _ => false
/-- The sign. -/
def FVal.neg : FVal → Bool | .nan _ => false | .inf n => n | .fin n _ _ => n

/-! ### The one rounding (R84, R85) -/

/-- Whether a magnitude with quotient `q`, remainder `r` of `2^k` rounds up. -/
def roundsUp (mode : RMode) (neg : Bool) (q r k : Nat) : Bool :=
  match mode with
  | .rne => 2 * r > 2 ^ k || (2 * r = 2 ^ k && q % 2 = 1)
  | .rtz => false
  | .rup => r ≠ 0 && !neg
  | .rdn => r ≠ 0 && neg
/-- `m × 2^e` rounded to a multiple of `2^q`: the multiple and whether it is inexact. -/
def roundAt (mode : RMode) (neg : Bool) (m : Nat) (e q : Int) : Nat × Bool :=
  if q ≤ e then (m * 2 ^ (e - q).toNat, false)
  else
    let k := (q - e).toNat
    let quo := m / 2 ^ k
    let r := m % 2 ^ k
    (quo + (if roundsUp mode neg quo r k then 1 else 0), r ≠ 0)
/-- Rounds (−1)^neg × m × 2^e to a format: the bits and the flags NX, UF (tininess after rounding) and OF. -/
def roundTo (f : FFmt) (mode : RMode) (neg : Bool) (m : Nat) (e : Int) : Nat × FFlags :=
  if m = 0 then (signBit f neg, 0)
  else
    let p := prec f
    let top := e + (Nat.log2 m : Int) + 1
    let free := top - p
    let q := if free < emin f then emin f else free
    let r := roundAt mode neg m e q
    if (r.1 : Int) * 2 ^ (q - emin f).toNat ≥ 2 ^ (emax f - emin f).toNat then
      let big := match mode with | .rne => true | .rtz => false | .rup => !neg | .rdn => neg
      (signBit f neg + (if big then infBits f else infBits f - 1), flagOF ||| flagNX)
    else
      let tiny := free < emin f && !((roundAt mode neg m e free).1 = 2 ^ p && top = emin f + p - 1)
      (signBit f neg + (q - emin f).toNat * 2 ^ (p - 1) + r.1,
        flagIf r.2 flagNX ||| flagIf (r.2 && tiny) flagUF)

/-! ### Arithmetic (R82, R137) -/

/-- The sign of an exact zero sum of opposite numbers (IEEE 754). -/
def zeroNeg (mode : RMode) : Bool := match mode with | .rdn => true | _ => false
/-- The signed integer of a finite datum at exponent `e0` at or below its own. -/
def atExp (neg : Bool) (m : Nat) (e e0 : Int) : Int :=
  let x : Int := (m * 2 ^ (e - e0).toNat : Nat)
  if neg then -x else x
/-- Rounds a signed dyadic. -/
def roundInt (f : FFmt) (mode : RMode) (x : Int) (e : Int) (zneg : Bool) : Nat × FFlags :=
  if x = 0 then (signBit f zneg, 0) else roundTo f mode (x < 0) x.natAbs e
/-- A NaN result: the default NaN, with NV where an operand signals or the case is invalid. -/
def nanOut (f : FFmt) (nv : Bool) : Nat × FFlags := (nanBits f, flagIf nv flagNV)

/-- Sum of two data, rounded once. -/
def addVal (f : FFmt) (mode : RMode) (a b : FVal) : Nat × FFlags :=
  match a, b with
  | .nan sa, y => nanOut f (sa || y.isSnan)
  | x, .nan sb => nanOut f (sb || x.isSnan)
  | .inf na, .inf nb => if na = nb then (signBit f na + infBits f, 0) else nanOut f true
  | .inf na, .fin _ _ _ => (signBit f na + infBits f, 0)
  | .fin _ _ _, .inf nb => (signBit f nb + infBits f, 0)
  | .fin na ma ea, .fin nb mb eb =>
    let e0 := if ea ≤ eb then ea else eb
    let z := if ma = 0 && mb = 0 && na = nb then na else zeroNeg mode
    roundInt f mode (atExp na ma ea e0 + atExp nb mb eb e0) e0 z
/-- The negated datum. -/
def FVal.negate : FVal → FVal | .nan s => .nan s | .inf n => .inf !n | .fin n m e => .fin (!n) m e
/-- The exact product of two data, or `none` for 0 × ∞; NaNs pass. -/
def mulVal : FVal → FVal → Option FVal
  | .nan s, y => some (.nan (s || y.isSnan))
  | x, .nan s => some (.nan (s || x.isSnan))
  | .inf a, .inf b => some (.inf (a != b))
  | .inf a, .fin b m _ => if m = 0 then none else some (.inf (a != b))
  | .fin a m _, .inf b => if m = 0 then none else some (.inf (a != b))
  | .fin a m e, .fin b n g => some (.fin (a != b) (m * n) (e + g))
/-- A datum rounded to a format. -/
def roundVal (f : FFmt) (mode : RMode) : FVal → Nat × FFlags
  | .nan s => nanOut f s
  | .inf n => (signBit f n + infBits f, 0)
  | .fin n m e => roundTo f mode n m e

/-- round(a + b). -/
def fAdd (f : FFmt) (mode : RMode) (a b : Nat) : Nat × FFlags := addVal f mode (unpack f a) (unpack f b)
/-- round(a − b). -/
def fSub (f : FFmt) (mode : RMode) (a b : Nat) : Nat × FFlags := addVal f mode (unpack f a) (unpack f b).negate
/-- round(a × b). -/
def fMul (f : FFmt) (mode : RMode) (a b : Nat) : Nat × FFlags :=
  match mulVal (unpack f a) (unpack f b) with
  | none => nanOut f true
  | some v => roundVal f mode v
/-- round(a × b + d), one rounding; the product 0 × ∞ is invalid whatever the addend (R137). -/
def fmaVal (f : FFmt) (mode : RMode) (a b d : FVal) : Nat × FFlags :=
  match mulVal a b with
  | none => nanOut f true
  | some v => addVal f mode v d
/-- round(a × b + d). -/
def fFma (f : FFmt) (mode : RMode) (a b d : Nat) : Nat × FFlags := fmaVal f mode (unpack f a) (unpack f b) (unpack f d)
/-- round(d − a × b): the fused form with the product negated. -/
def fFms (f : FFmt) (mode : RMode) (a b d : Nat) : Nat × FFlags :=
  fmaVal f mode (unpack f a).negate (unpack f b) (unpack f d)
/-- round(a / b). The quotient carries 70 bits or more and a sticky bit, which the one rounding cannot tell from the
exact quotient. -/
def fDiv (f : FFmt) (mode : RMode) (a b : Nat) : Nat × FFlags :=
  match unpack f a, unpack f b with
  | .nan s, y => nanOut f (s || y.isSnan)
  | x, .nan s => nanOut f (s || x.isSnan)
  | .inf _, .inf _ => nanOut f true
  | .inf n, .fin k _ _ => (signBit f (n != k) + infBits f, 0)
  | .fin n _ _, .inf k => (signBit f (n != k), 0)
  | .fin n m e, .fin k d g =>
    if d = 0 then
      if m = 0 then nanOut f true else (signBit f (n != k) + infBits f, flagDZ)
    else
      let sh := 70 + Nat.log2 d
      let q := m * 2 ^ sh / d
      let st := if m * 2 ^ sh % d = 0 then 0 else 1
      roundTo f mode (n != k) (2 * q + st) (e - g - sh - 1)
/-- The integer square root by bits from 2^k down. -/
def isqrtBits (x : Nat) : Nat → Nat → Nat
  | 0, r => if (r + 1) * (r + 1) ≤ x then r + 1 else r
  | k + 1, r => isqrtBits x k (if (r + 2 ^ (k + 1)) * (r + 2 ^ (k + 1)) ≤ x then r + 2 ^ (k + 1) else r)
/-- The integer square root. -/
def isqrt (x : Nat) : Nat := isqrtBits x (Nat.log2 x / 2 + 1) 0
/-- round(√a); √−0 = −0 (R137). -/
def fSqrt (f : FFmt) (mode : RMode) (a : Nat) : Nat × FFlags :=
  match unpack f a with
  | .nan s => nanOut f s
  | .inf n => if n then nanOut f true else (infBits f, 0)
  | .fin n m e =>
    if m = 0 then (signBit f n, 0)
    else if n then nanOut f true
    else
      let odd := e % 2 = 1
      let x := (if odd then 2 * m else m) * 2 ^ 140
      let h := ((if odd then e - 1 else e) - 140) / 2
      let r := isqrt x
      roundTo f mode false (2 * r + (if r * r = x then 0 else 1)) (h - 1)

/-- The value order of two data that are no NaN: the sign of a − b, with −0 below +0 when `zeros` (R83). -/
def cmpVal (zeros : Bool) (a b : FVal) : Int :=
  let key : FVal → Int × Nat × Int := fun v => match v with
    | .nan _ => (0, 0, 0)
    | .inf n => (if n then -2 else 2, 0, 0)
    | .fin _ 0 _ => (0, 0, 0)
    | .fin n m e => (if n then -1 else 1, m, e)
  let ka := key a
  let kb := key b
  if ka.1 ≠ kb.1 then ka.1 - kb.1
  else if ka.1 = 1 ∨ ka.1 = -1 then
    let e0 := if ka.2.2 ≤ kb.2.2 then ka.2.2 else kb.2.2
    ka.1 * (atExp false ka.2.1 ka.2.2 e0 - atExp false kb.2.1 kb.2.2 e0)
  else if ka.1 = 0 ∧ zeros then (if b.neg then 1 else 0) - (if a.neg then 1 else 0)
  else 0
/-- Minimum or maximum under R83. -/
def fMinMax (f : FFmt) (max : Bool) (a b : Nat) : Nat × FFlags :=
  let x := unpack f a
  let y := unpack f b
  let nv := flagIf (x.isSnan || y.isSnan) flagNV
  if x.isNan && y.isNan then (nanBits f, nv)
  else if x.isNan then (b, nv)
  else if y.isNan then (a, nv)
  else if max then (if cmpVal true x y ≥ 0 then a else b, nv)
  else (if cmpVal true x y ≤ 0 then a else b, nv)
/-- The compare of R138. -/
def fCmp (f : FFmt) (c : Cond) (a b : Nat) : Bool × FFlags :=
  let x := unpack f a
  let y := unpack f b
  let un := x.isNan || y.isNan
  let o := cmpVal false x y
  let quiet := flagIf (x.isSnan || y.isSnan) flagNV
  match c with
  | .eq => (!un && o = 0, quiet)
  | .ne => (un || o ≠ 0, quiet)
  | .lt => (!un && o < 0, flagIf un flagNV)
  | .le => (!un && o ≤ 0, flagIf un flagNV)
  | .gt => (!un && o > 0, flagIf un flagNV)
  | .ge => (!un && o ≥ 0, flagIf un flagNV)
  | .un => (un, quiet)
  | .ord => (!un, quiet)
  | .ltu => (false, 0) | .leu => (false, 0) | .gtu => (false, 0) | .geu => (false, 0)
/-- The one-hot class of R140. -/
def fClass (f : FFmt) (a : Nat) : Nat :=
  match unpack f a with
  | .nan s => if s then 256 else 512
  | .inf n => if n then 1 else 128
  | .fin n m _ =>
    if m = 0 then (if n then 8 else 16)
    else if m < 2 ^ (prec f - 1) then (if n then 4 else 32)
    else if n then 2 else 64
/-- The sign bit cleared. -/
def fAbs (f : FFmt) (a : Nat) : Nat := a % 2 ^ (f.bits - 1)
/-- The sign bit inverted. -/
def fNeg (f : FFmt) (a : Nat) : Nat := (a % 2 ^ f.bits) ^^^ 2 ^ (f.bits - 1)

/-! ### Conversions (R86) -/

/-- Between IEEE formats. -/
def cvtFF (dst src : FFmt) (mode : RMode) (a : Nat) : Nat × FFlags := roundVal dst mode (unpack src a)
/-- The integer a datum rounds to. -/
def roundIntVal (mode : RMode) (neg : Bool) (m : Nat) (e : Int) : Int × Bool :=
  let r := roundAt mode neg m e 0
  (if neg then -(r.1 : Int) else r.1, r.2)
/-- From floating point to a signed integer of width `w`, as its bits (R86). -/
def cvtFI (w : Nat) (src : FFmt) (mode : RMode) (a : Nat) : Nat × FFlags :=
  let hi : Int := 2 ^ (w - 1) - 1
  let lo : Int := -(2 ^ (w - 1))
  match unpack src a with
  | .nan _ => (0, flagNV)
  | .inf n => ((toWidth w (if n then lo else hi)).toNat, flagNV)
  | .fin n m e =>
    let r := roundIntVal mode n m e
    if r.1 > hi then ((toWidth w hi).toNat, flagNV)
    else if r.1 < lo then ((toWidth w lo).toNat, flagNV)
    else ((toWidth w r.1).toNat, flagIf r.2 flagNX)
/-- From a signed integer to floating point (R86). -/
def cvtIF (dst : FFmt) (mode : RMode) (x : Int) : Nat × FFlags := roundInt dst mode x 0 false
/-- The signed value of the low `w` bits. -/
def signedOf (w x : Nat) : Int := (BitVec.ofNat w x).toInt

/-! ### Modes and flag sets -/

/-- The mode of ctl.rnd (R84). -/
def modeOf (x : BitVec 2) : RMode := match x.toNat with | 0 => .rne | 1 => .rtz | 2 => .rup | _ => .rdn
/-- The rounding mode of a syllable: its qualifier's, or ctl.rnd's (R84, R109). -/
def Ctx.mode (c : Ctx) (q : Rq) : RMode := if q.rq then q.mode else modeOf c.ctl.rnd
/-- The union of flags. -/
def orFlags (fs : List FFlags) : FFlags := fs.foldl (fun a b => a ||| b) 0

/-! ### Exact sums (R92, R244) -/

/-- A finite sum kept exactly as an integer at the exponent `e`, or an infinity, or a NaN. -/
inductive Acc
  | num (x : Int) (e : Int)
  | inf (neg : Bool)
  | nan
  deriving DecidableEq, Repr
/-- Adds a datum to an exact sum. -/
def Acc.add : Acc → FVal → Acc
  | .nan, _ => .nan
  | _, .nan _ => .nan
  | .inf n, .inf k => if n = k then .inf n else .nan
  | .inf n, .fin _ _ _ => .inf n
  | .num _ _, .inf k => .inf k
  | .num x e, .fin n m g =>
    if e ≤ g then .num (x + atExp n m g e) e else .num (x * 2 ^ (e - g).toNat + atExp n m g g) g
/-- Adds a product; 0 × ∞ makes a NaN. -/
def Acc.addProd (a : Acc) (x y : FVal) : Acc := match mulVal x y with | none => .nan | some v => a.add v
/-- The sum rounded once, RNE; an exact zero sum of −0 terms only is not told apart, so `zneg` gives the sign of a
zero. -/
def Acc.round (f : FFmt) (zneg : Bool) : Acc → Nat
  | .nan => nanBits f
  | .inf n => signBit f n + infBits f
  | .num x e => (roundInt f .rne x e zneg).1

end Sys2Proof.Machine
end

