-- ==== Sys2Proof/Machine/ScalarFp.lean ====
section
/-! DEFINITION. The scalar floating-point instructions of SA and SB (R136 to R140). -/

namespace Sys2Proof.Machine

/-- The low f bits of a source value (R136). -/
def fpIn (f : FFmt) (x : Dword) : Nat := x.toNat % 2 ^ f.bits
/-- A floating result in the low f bits of a 64-bit value, with its flags (R136). -/
def fpOut (r : Nat × FFlags) : Dword × BitVec 5 := (BitVec.ofNat 64 r.1, r.2)
/-- A two-operand syllable under a rounding mode. -/
def fpBin (u : SUnit) (d : Dst) (a b : Src) (f : FFmt) (q : Rq) (op : RMode → Nat → Nat → Nat × FFlags) : Syl :=
  scalarSyl u [a, b] d fun c => fpOut (op (c.mode q) (fpIn f (c.sval a)) (fpIn f (c.sval b)))
/-- The conversion of R139: integer formats are read and written signed, an integer result extended by its sign. -/
def fcvtOp (res src : Fmt) (mode : RMode) (x : Dword) : Dword × BitVec 5 :=
  match res, src with
  | .int _, .int _ => (0, 0)
  | .int w, .flt g => let r := cvtFI w.bits g mode (fpIn g x); ((BitVec.ofNat w.bits r.1).signExtend 64, r.2)
  | .flt f, .int w => fpOut (cvtIF f mode ((x.setWidth w.bits).toInt))
  | .flt f, .flt g => fpOut (cvtFF f g mode (fpIn g x))

/-- FADD (R137) -/
def actFadd (u : SUnit) (d : Dst) (a b : Src) (f : FFmt) (rq : Rq) : Syl :=
  fpBin u d a b f rq (fAdd f)
/-- FADD, alone in its bundle. -/
def execFadd (u : SUnit) (d : Dst) (a b : Src) (f : FFmt) (rq : Rq) (s : State) : Host.Outcome State Fault Refusal :=
  issueOne (actFadd u d a b f rq) s

/-- FSUB (R137) -/
def actFsub (u : SUnit) (d : Dst) (a b : Src) (f : FFmt) (rq : Rq) : Syl :=
  fpBin u d a b f rq (fSub f)
/-- FSUB, alone in its bundle. -/
def execFsub (u : SUnit) (d : Dst) (a b : Src) (f : FFmt) (rq : Rq) (s : State) : Host.Outcome State Fault Refusal :=
  issueOne (actFsub u d a b f rq) s

/-- FMUL (R137) -/
def actFmul (u : SUnit) (d : Dst) (a b : Src) (f : FFmt) (rq : Rq) : Syl :=
  fpBin u d a b f rq (fMul f)
/-- FMUL, alone in its bundle. -/
def execFmul (u : SUnit) (d : Dst) (a b : Src) (f : FFmt) (rq : Rq) (s : State) : Host.Outcome State Fault Refusal :=
  issueOne (actFmul u d a b f rq) s

/-- FFMA (R137): DST is the addend -/
def actFfma (u : SUnit) (d : Dst) (a b : Src) (f : FFmt) (rq : Rq) : Syl :=
  scalarSyl u [a, b] d fun c =>
    fpOut (fFma f (c.mode rq) (fpIn f (c.sval a)) (fpIn f (c.sval b)) (fpIn f (c.s.get (d.getD 0))))
/-- FFMA, alone in its bundle. -/
def execFfma (u : SUnit) (d : Dst) (a b : Src) (f : FFmt) (rq : Rq) (s : State) : Host.Outcome State Fault Refusal :=
  issueOne (actFfma u d a b f rq) s

/-- FMIN (R83, R137) -/
def actFmin (u : SUnit) (d : Dst) (a b : Src) (f : FFmt) : Syl :=
  fpBin u d a b f ⟨false, .rne⟩ fun _ => fMinMax f false
/-- FMIN, alone in its bundle. -/
def execFmin (u : SUnit) (d : Dst) (a b : Src) (f : FFmt) (s : State) : Host.Outcome State Fault Refusal :=
  issueOne (actFmin u d a b f) s

/-- FMAX (R83, R137) -/
def actFmax (u : SUnit) (d : Dst) (a b : Src) (f : FFmt) : Syl :=
  fpBin u d a b f ⟨false, .rne⟩ fun _ => fMinMax f true
/-- FMAX, alone in its bundle. -/
def execFmax (u : SUnit) (d : Dst) (a b : Src) (f : FFmt) (s : State) : Host.Outcome State Fault Refusal :=
  issueOne (actFmax u d a b f) s

/-- FABS (R82, R137) -/
def actFabs (u : SUnit) (d : Dst) (a : Src) (f : FFmt) : Syl :=
  scalarSyl u [a] d fun c => fpOut (fAbs f (fpIn f (c.sval a)), 0)
/-- FABS, alone in its bundle. -/
def execFabs (u : SUnit) (d : Dst) (a : Src) (f : FFmt) (s : State) : Host.Outcome State Fault Refusal :=
  issueOne (actFabs u d a f) s

/-- FNEG (R82, R137) -/
def actFneg (u : SUnit) (d : Dst) (a : Src) (f : FFmt) : Syl :=
  scalarSyl u [a] d fun c => fpOut (fNeg f (fpIn f (c.sval a)), 0)
/-- FNEG, alone in its bundle. -/
def execFneg (u : SUnit) (d : Dst) (a : Src) (f : FFmt) (s : State) : Host.Outcome State Fault Refusal :=
  issueOne (actFneg u d a f) s

/-- FCMP (R138) -/
def actFcmp (u : SUnit) (d : Dst) (a b : Src) (f : FFmt) (cond : Cond) : Syl :=
  scalarSyl u [a, b] d fun c =>
    let r := fCmp f cond (fpIn f (c.sval a)) (fpIn f (c.sval b))
    (boolWord r.1, r.2)
/-- FCMP, alone in its bundle. -/
def execFcmp (u : SUnit) (d : Dst) (a b : Src) (f : FFmt) (cond : Cond) (s : State) : Host.Outcome State Fault Refusal :=
  issueOne (actFcmp u d a b f cond) s

/-- FCVT (R86, R139) -/
def actFcvt (u : SUnit) (d : Dst) (a : Src) (res src : Fmt) (rq : Rq) : Syl :=
  scalarSyl u [a] d fun c => fcvtOp res src (c.mode rq) (c.sval a)
/-- FCVT, alone in its bundle. -/
def execFcvt (u : SUnit) (d : Dst) (a : Src) (res src : Fmt) (rq : Rq) (s : State) : Host.Outcome State Fault Refusal :=
  issueOne (actFcvt u d a res src rq) s

/-- FCLASS (R140) -/
def actFclass (u : SUnit) (d : Dst) (a : Src) (f : FFmt) : Syl :=
  scalarSyl u [a] d fun c => (BitVec.ofNat 64 (fClass f (fpIn f (c.sval a))), 0)
/-- FCLASS, alone in its bundle. -/
def execFclass (u : SUnit) (d : Dst) (a : Src) (f : FFmt) (s : State) : Host.Outcome State Fault Refusal :=
  issueOne (actFclass u d a f) s

/-- FDIV (R137) -/
def actFdiv (d : Dst) (a b : Src) (f : FFmt) (rq : Rq) : Syl :=
  fpBin .sb d a b f rq (fDiv f)
/-- FDIV, alone in its bundle. -/
def execFdiv (d : Dst) (a b : Src) (f : FFmt) (rq : Rq) (s : State) : Host.Outcome State Fault Refusal :=
  issueOne (actFdiv d a b f rq) s

/-- FSQRT (R137) -/
def actFsqrt (d : Dst) (a : Src) (f : FFmt) (rq : Rq) : Syl :=
  scalarSyl .sb [a] d fun c => fpOut (fSqrt f (c.mode rq) (fpIn f (c.sval a)))
/-- FSQRT, alone in its bundle. -/
def execFsqrt (d : Dst) (a : Src) (f : FFmt) (rq : Rq) (s : State) : Host.Outcome State Fault Refusal :=
  issueOne (actFsqrt d a f rq) s

end Sys2Proof.Machine
end

