-- ==== Sys2Proof/Machine/ScalarInt.lean ====
section
/-! DEFINITION. The scalar integer instructions of SA and SB (R128 to R135, R141, R154). -/

namespace Sys2Proof.Machine

/-! ### Widths (R128) -/

/-- ext(x[w−1:0], U) as an exact integer. -/
def readW (w : IntW) (uns : Bool) (x : Dword) : Int :=
  if uns then ((x.setWidth w.bits).toNat : Int) else (x.setWidth w.bits).toInt
/-- ext(res mod 2^w, U) in 64 bits. -/
def writeW (w : IntW) (uns : Bool) (res : Int) : Dword :=
  if uns then (toWidth w.bits res).setWidth 64 else (toWidth w.bits res).signExtend 64
/-- The saturations of R128. -/
def clampW (w : IntW) (s : Sat) (x : Int) : Int :=
  match s with
  | .none => x
  | .sat => min (max x (-(2 ^ (w.bits - 1)))) (2 ^ (w.bits - 1) - 1)
  | .satu => min (max x 0) (2 ^ w.bits - 1)
/-- A two-operand result at width w, on 64-bit values. -/
def intBin (w : IntW) (uns : Bool) (op : Int → Int → Int) (a b : Dword) : Dword :=
  writeW w uns (op (readW w uns a) (readW w uns b))
/-- ADD, SUB and MUL with saturation: SATU reads both operands unsigned and zero-extends (R130). -/
def intSat (w : IntW) (s : Sat) (op : Int → Int → Int) (a b : Dword) : Dword :=
  let uns := s = .satu
  writeW w uns (clampW w s (op (readW w uns a) (readW w uns b)))

/-- floor(a × b / 2^w). -/
def mulHigh (w : IntW) (a b : Int) : Int := a * b / 2 ^ w.bits
/-- Bitwise operations on the two's complement values at width w. -/
def bitsW (w : IntW) (f : BitVec 64 → BitVec 64 → BitVec 64) (a b : Dword) : Dword :=
  ((f a b).setWidth w.bits).signExtend 64
/-- SHL (R131). -/
def shlW (w : IntW) (a n : Dword) : Dword :=
  if n.toNat < w.bits then writeW w false (readW w false a * 2 ^ n.toNat) else 0
/-- SHR (R131). -/
def shrW (w : IntW) (a n : Dword) : Dword :=
  if n.toNat < w.bits then writeW w true (readW w true a / 2 ^ n.toNat) else 0
/-- SRA (R131): at or beyond the width every bit equals the sign bit. -/
def sraW (w : IntW) (a n : Dword) : Dword :=
  writeW w false (readW w false a / 2 ^ (if n.toNat < w.bits then n.toNat else w.bits))
/-- ROT (R131). -/
def rotW (w : IntW) (a n : Dword) : Dword :=
  let x := (readW w true a).toNat
  let k := n.toNat % w.bits
  writeW w true ((x / 2 ^ k + x * 2 ^ (w.bits - k)) % 2 ^ w.bits : Nat)
/-- The number of leading zero bits among `n` bits. -/
def clzN (n x : Nat) : Nat := if x = 0 then n else n - 1 - Nat.log2 x
/-- The number of trailing zero bits among `n` bits. -/
def ctzN : Nat → Nat → Nat
  | 0, _ => 0
  | n + 1, x => if x % 2 = 1 then 0 else 1 + ctzN n (x / 2)
/-- The conditions of R109 on integers: 0 to 5 signed, 6 to 9 unsigned; `un` and `ord` are not integer conditions. -/
def condInt (w : Nat) (c : Cond) (a b : BitVec w) : Bool :=
  match c with
  | .eq => a = b | .ne => a ≠ b
  | .lt => a.toInt < b.toInt | .le => a.toInt ≤ b.toInt | .gt => a.toInt > b.toInt | .ge => a.toInt ≥ b.toInt
  | .ltu => a.toNat < b.toNat | .leu => a.toNat ≤ b.toNat | .gtu => a.toNat > b.toNat | .geu => a.toNat ≥ b.toNat
  | .un => false | .ord => false
/-- BFX (R133). -/
def bfxOp (a b : Dword) : Dword :=
  let len := if fieldAt b 8 6 = 0 then 64 else fieldAt b 8 6
  BitVec.ofNat 64 (a.toNat / 2 ^ fieldAt b 0 6 % 2 ^ len)
/-- BFI (R133): bits pos + i up to 63 take bit i of a. -/
def bfiOp (d a b : Dword) : Dword :=
  let len := if fieldAt b 8 6 = 0 then 64 else fieldAt b 8 6
  let mask : Dword := BitVec.ofNat 64 ((2 ^ len - 1) * 2 ^ fieldAt b 0 6)
  (d &&& ~~~ mask) ||| ((a <<< fieldAt b 0 6) &&& mask)
/-- Division at width w, rounding towards zero; the corners of R135. -/
def divW (w : IntW) (uns : Bool) (a b : Dword) : Dword :=
  let x := readW w uns a
  let y := readW w uns b
  writeW w uns (if y = 0 then -1 else x.tdiv y)
/-- Remainder with the dividend's sign; the corners of R135. -/
def remW (w : IntW) (uns : Bool) (a b : Dword) : Dword :=
  let x := readW w uns a
  let y := readW w uns b
  writeW w uns (if y = 0 then x else x.tmod y)

/-! ### Forms -/

/-- The value of DST before the bundle; NW with DST 0 reads s0 (R128). -/
def Ctx.dstVal (c : Ctx) (d : Dst) : Dword := c.s.get (d.getD 0)
/-- A register form. -/
def regSyl (u : SUnit) (d : Dst) (a b : Src) (f : Dword → Dword → Dword) : Syl :=
  scalarSyl u [a, b] d fun c => (f (c.sval a) (c.sval b), 0)
/-- A one-source form. -/
def oneSyl (u : SUnit) (d : Dst) (a : Src) (f : Dword → Dword) : Syl := scalarSyl u [a] d fun c => (f (c.sval a), 0)
/-- An immediate form: DST is also source A (R108). -/
def immSyl (u : SUnit) (d : Dst) (imm : Dword) (f : Dword → Dword → Dword) : Syl :=
  scalarSyl u [] d fun c => (f (c.dstVal d) imm, 0)

/-! ### The instructions -/

/-- ADD (R129, R130) -/
def actAdd (u : SUnit) (d : Dst) (a b : Src) (w : IntW) (sat : Sat) : Syl :=
  regSyl u d a b (intSat w sat (fun a b => a + b))
/-- ADD, alone in its bundle. -/
def execAdd (u : SUnit) (d : Dst) (a b : Src) (w : IntW) (sat : Sat) (s : State) : Host.Outcome State Fault Refusal :=
  issueOne (actAdd u d a b w sat) s

/-- ADD, immediate form (R108, R129) -/
def actAddImm (u : SUnit) (d : Dst) (imm : Imm16) (w : IntW) : Syl :=
  immSyl u d imm.sx (intBin w false (fun a b => a + b))
/-- ADD, immediate form, alone in its bundle. -/
def execAddImm (u : SUnit) (d : Dst) (imm : Imm16) (w : IntW) (s : State) : Host.Outcome State Fault Refusal :=
  issueOne (actAddImm u d imm w) s

/-- SUB (R129, R130) -/
def actSub (u : SUnit) (d : Dst) (a b : Src) (w : IntW) (sat : Sat) : Syl :=
  regSyl u d a b (intSat w sat (fun a b => a - b))
/-- SUB, alone in its bundle. -/
def execSub (u : SUnit) (d : Dst) (a b : Src) (w : IntW) (sat : Sat) (s : State) : Host.Outcome State Fault Refusal :=
  issueOne (actSub u d a b w sat) s

/-- SUB, immediate form (R108, R129) -/
def actSubImm (u : SUnit) (d : Dst) (imm : Imm16) (w : IntW) : Syl :=
  immSyl u d imm.sx (intBin w false (fun a b => a - b))
/-- SUB, immediate form, alone in its bundle. -/
def execSubImm (u : SUnit) (d : Dst) (imm : Imm16) (w : IntW) (s : State) : Host.Outcome State Fault Refusal :=
  issueOne (actSubImm u d imm w) s

/-- MUL (R129, R130) -/
def actMul (u : SUnit) (d : Dst) (a b : Src) (w : IntW) (sat : Sat) : Syl :=
  regSyl u d a b (intSat w sat (fun a b => a * b))
/-- MUL, alone in its bundle. -/
def execMul (u : SUnit) (d : Dst) (a b : Src) (w : IntW) (sat : Sat) (s : State) : Host.Outcome State Fault Refusal :=
  issueOne (actMul u d a b w sat) s

/-- MUL, immediate form (R108, R129) -/
def actMulImm (u : SUnit) (d : Dst) (imm : Imm16) (w : IntW) : Syl :=
  immSyl u d imm.sx (intBin w false (fun a b => a * b))
/-- MUL, immediate form, alone in its bundle. -/
def execMulImm (u : SUnit) (d : Dst) (imm : Imm16) (w : IntW) (s : State) : Host.Outcome State Fault Refusal :=
  issueOne (actMulImm u d imm w) s

/-- MULH (R129) -/
def actMulh (u : SUnit) (d : Dst) (a b : Src) (w : IntW) : Syl :=
  regSyl u d a b (intBin w false (mulHigh w))
/-- MULH, alone in its bundle. -/
def execMulh (u : SUnit) (d : Dst) (a b : Src) (w : IntW) (s : State) : Host.Outcome State Fault Refusal :=
  issueOne (actMulh u d a b w) s

/-- MULHU (R129) -/
def actMulhu (u : SUnit) (d : Dst) (a b : Src) (w : IntW) : Syl :=
  regSyl u d a b (intBin w true (mulHigh w))
/-- MULHU, alone in its bundle. -/
def execMulhu (u : SUnit) (d : Dst) (a b : Src) (w : IntW) (s : State) : Host.Outcome State Fault Refusal :=
  issueOne (actMulhu u d a b w) s

/-- AND (R129) -/
def actAnd (u : SUnit) (d : Dst) (a b : Src) (w : IntW) : Syl :=
  regSyl u d a b (bitsW w (fun x y => x &&& y))
/-- AND, alone in its bundle. -/
def execAnd (u : SUnit) (d : Dst) (a b : Src) (w : IntW) (s : State) : Host.Outcome State Fault Refusal :=
  issueOne (actAnd u d a b w) s

/-- AND, immediate form, zero-extended (R108, R129) -/
def actAndImm (u : SUnit) (d : Dst) (imm : Imm16) (w : IntW) : Syl :=
  immSyl u d imm.zx (bitsW w (fun x y => x &&& y))
/-- AND, immediate form, zero-extended, alone in its bundle. -/
def execAndImm (u : SUnit) (d : Dst) (imm : Imm16) (w : IntW) (s : State) : Host.Outcome State Fault Refusal :=
  issueOne (actAndImm u d imm w) s

/-- OR (R129) -/
def actOr (u : SUnit) (d : Dst) (a b : Src) (w : IntW) : Syl :=
  regSyl u d a b (bitsW w (fun x y => x ||| y))
/-- OR, alone in its bundle. -/
def execOr (u : SUnit) (d : Dst) (a b : Src) (w : IntW) (s : State) : Host.Outcome State Fault Refusal :=
  issueOne (actOr u d a b w) s

/-- OR, immediate form, zero-extended (R108, R129) -/
def actOrImm (u : SUnit) (d : Dst) (imm : Imm16) (w : IntW) : Syl :=
  immSyl u d imm.zx (bitsW w (fun x y => x ||| y))
/-- OR, immediate form, zero-extended, alone in its bundle. -/
def execOrImm (u : SUnit) (d : Dst) (imm : Imm16) (w : IntW) (s : State) : Host.Outcome State Fault Refusal :=
  issueOne (actOrImm u d imm w) s

/-- XOR (R129) -/
def actXor (u : SUnit) (d : Dst) (a b : Src) (w : IntW) : Syl :=
  regSyl u d a b (bitsW w (fun x y => x ^^^ y))
/-- XOR, alone in its bundle. -/
def execXor (u : SUnit) (d : Dst) (a b : Src) (w : IntW) (s : State) : Host.Outcome State Fault Refusal :=
  issueOne (actXor u d a b w) s

/-- XOR, immediate form, zero-extended (R108, R129) -/
def actXorImm (u : SUnit) (d : Dst) (imm : Imm16) (w : IntW) : Syl :=
  immSyl u d imm.zx (bitsW w (fun x y => x ^^^ y))
/-- XOR, immediate form, zero-extended, alone in its bundle. -/
def execXorImm (u : SUnit) (d : Dst) (imm : Imm16) (w : IntW) (s : State) : Host.Outcome State Fault Refusal :=
  issueOne (actXorImm u d imm w) s

/-- ANDN (R129) -/
def actAndn (u : SUnit) (d : Dst) (a b : Src) (w : IntW) : Syl :=
  regSyl u d a b (bitsW w (fun x y => x &&& ~~~ y))
/-- ANDN, alone in its bundle. -/
def execAndn (u : SUnit) (d : Dst) (a b : Src) (w : IntW) (s : State) : Host.Outcome State Fault Refusal :=
  issueOne (actAndn u d a b w) s

/-- ANDN, immediate form, zero-extended (R108, R129) -/
def actAndnImm (u : SUnit) (d : Dst) (imm : Imm16) (w : IntW) : Syl :=
  immSyl u d imm.zx (bitsW w (fun x y => x &&& ~~~ y))
/-- ANDN, immediate form, zero-extended, alone in its bundle. -/
def execAndnImm (u : SUnit) (d : Dst) (imm : Imm16) (w : IntW) (s : State) : Host.Outcome State Fault Refusal :=
  issueOne (actAndnImm u d imm w) s

/-- SHL (R131) -/
def actShl (u : SUnit) (d : Dst) (a b : Src) (w : IntW) : Syl :=
  regSyl u d a b (shlW w)
/-- SHL, alone in its bundle. -/
def execShl (u : SUnit) (d : Dst) (a b : Src) (w : IntW) (s : State) : Host.Outcome State Fault Refusal :=
  issueOne (actShl u d a b w) s

/-- SHL, immediate form (R108, R131) -/
def actShlImm (u : SUnit) (d : Dst) (imm : Imm16) (w : IntW) : Syl :=
  immSyl u d imm.sx (shlW w)
/-- SHL, immediate form, alone in its bundle. -/
def execShlImm (u : SUnit) (d : Dst) (imm : Imm16) (w : IntW) (s : State) : Host.Outcome State Fault Refusal :=
  issueOne (actShlImm u d imm w) s

/-- SHR (R131) -/
def actShr (u : SUnit) (d : Dst) (a b : Src) (w : IntW) : Syl :=
  regSyl u d a b (shrW w)
/-- SHR, alone in its bundle. -/
def execShr (u : SUnit) (d : Dst) (a b : Src) (w : IntW) (s : State) : Host.Outcome State Fault Refusal :=
  issueOne (actShr u d a b w) s

/-- SHR, immediate form (R108, R131) -/
def actShrImm (u : SUnit) (d : Dst) (imm : Imm16) (w : IntW) : Syl :=
  immSyl u d imm.sx (shrW w)
/-- SHR, immediate form, alone in its bundle. -/
def execShrImm (u : SUnit) (d : Dst) (imm : Imm16) (w : IntW) (s : State) : Host.Outcome State Fault Refusal :=
  issueOne (actShrImm u d imm w) s

/-- SRA (R131) -/
def actSra (u : SUnit) (d : Dst) (a b : Src) (w : IntW) : Syl :=
  regSyl u d a b (sraW w)
/-- SRA, alone in its bundle. -/
def execSra (u : SUnit) (d : Dst) (a b : Src) (w : IntW) (s : State) : Host.Outcome State Fault Refusal :=
  issueOne (actSra u d a b w) s

/-- SRA, immediate form (R108, R131) -/
def actSraImm (u : SUnit) (d : Dst) (imm : Imm16) (w : IntW) : Syl :=
  immSyl u d imm.sx (sraW w)
/-- SRA, immediate form, alone in its bundle. -/
def execSraImm (u : SUnit) (d : Dst) (imm : Imm16) (w : IntW) (s : State) : Host.Outcome State Fault Refusal :=
  issueOne (actSraImm u d imm w) s

/-- ROT (R131) -/
def actRot (u : SUnit) (d : Dst) (a b : Src) (w : IntW) : Syl :=
  regSyl u d a b (rotW w)
/-- ROT, alone in its bundle. -/
def execRot (u : SUnit) (d : Dst) (a b : Src) (w : IntW) (s : State) : Host.Outcome State Fault Refusal :=
  issueOne (actRot u d a b w) s

/-- ROT, immediate form (R108, R131) -/
def actRotImm (u : SUnit) (d : Dst) (imm : Imm16) (w : IntW) : Syl :=
  immSyl u d imm.sx (rotW w)
/-- ROT, immediate form, alone in its bundle. -/
def execRotImm (u : SUnit) (d : Dst) (imm : Imm16) (w : IntW) (s : State) : Host.Outcome State Fault Refusal :=
  issueOne (actRotImm u d imm w) s

/-- MIN (R129) -/
def actMin (u : SUnit) (d : Dst) (a b : Src) (w : IntW) : Syl :=
  regSyl u d a b (intBin w false fun x y => min x y)
/-- MIN, alone in its bundle. -/
def execMin (u : SUnit) (d : Dst) (a b : Src) (w : IntW) (s : State) : Host.Outcome State Fault Refusal :=
  issueOne (actMin u d a b w) s

/-- MIN, immediate form (R108, R129) -/
def actMinImm (u : SUnit) (d : Dst) (imm : Imm16) (w : IntW) : Syl :=
  immSyl u d imm.sx (intBin w false fun x y => min x y)
/-- MIN, immediate form, alone in its bundle. -/
def execMinImm (u : SUnit) (d : Dst) (imm : Imm16) (w : IntW) (s : State) : Host.Outcome State Fault Refusal :=
  issueOne (actMinImm u d imm w) s

/-- MAX (R129) -/
def actMax (u : SUnit) (d : Dst) (a b : Src) (w : IntW) : Syl :=
  regSyl u d a b (intBin w false fun x y => max x y)
/-- MAX, alone in its bundle. -/
def execMax (u : SUnit) (d : Dst) (a b : Src) (w : IntW) (s : State) : Host.Outcome State Fault Refusal :=
  issueOne (actMax u d a b w) s

/-- MAX, immediate form (R108, R129) -/
def actMaxImm (u : SUnit) (d : Dst) (imm : Imm16) (w : IntW) : Syl :=
  immSyl u d imm.sx (intBin w false fun x y => max x y)
/-- MAX, immediate form, alone in its bundle. -/
def execMaxImm (u : SUnit) (d : Dst) (imm : Imm16) (w : IntW) (s : State) : Host.Outcome State Fault Refusal :=
  issueOne (actMaxImm u d imm w) s

/-- MINU (R129) -/
def actMinu (u : SUnit) (d : Dst) (a b : Src) (w : IntW) : Syl :=
  regSyl u d a b (intBin w true fun x y => min x y)
/-- MINU, alone in its bundle. -/
def execMinu (u : SUnit) (d : Dst) (a b : Src) (w : IntW) (s : State) : Host.Outcome State Fault Refusal :=
  issueOne (actMinu u d a b w) s

/-- MINU, immediate form (R108, R129) -/
def actMinuImm (u : SUnit) (d : Dst) (imm : Imm16) (w : IntW) : Syl :=
  immSyl u d imm.zx (intBin w true fun x y => min x y)
/-- MINU, immediate form, alone in its bundle. -/
def execMinuImm (u : SUnit) (d : Dst) (imm : Imm16) (w : IntW) (s : State) : Host.Outcome State Fault Refusal :=
  issueOne (actMinuImm u d imm w) s

/-- MAXU (R129) -/
def actMaxu (u : SUnit) (d : Dst) (a b : Src) (w : IntW) : Syl :=
  regSyl u d a b (intBin w true fun x y => max x y)
/-- MAXU, alone in its bundle. -/
def execMaxu (u : SUnit) (d : Dst) (a b : Src) (w : IntW) (s : State) : Host.Outcome State Fault Refusal :=
  issueOne (actMaxu u d a b w) s

/-- MAXU, immediate form (R108, R129) -/
def actMaxuImm (u : SUnit) (d : Dst) (imm : Imm16) (w : IntW) : Syl :=
  immSyl u d imm.zx (intBin w true fun x y => max x y)
/-- MAXU, immediate form, alone in its bundle. -/
def execMaxuImm (u : SUnit) (d : Dst) (imm : Imm16) (w : IntW) (s : State) : Host.Outcome State Fault Refusal :=
  issueOne (actMaxuImm u d imm w) s

/-- CLZ (R129) -/
def actClz (u : SUnit) (d : Dst) (a : Src) (w : IntW) : Syl :=
  oneSyl u d a fun x => writeW w true (clzN w.bits (readW w true x).toNat)
/-- CLZ, alone in its bundle. -/
def execClz (u : SUnit) (d : Dst) (a : Src) (w : IntW) (s : State) : Host.Outcome State Fault Refusal :=
  issueOne (actClz u d a w) s

/-- CTZ (R129) -/
def actCtz (u : SUnit) (d : Dst) (a : Src) (w : IntW) : Syl :=
  oneSyl u d a fun x => writeW w true (ctzN w.bits (readW w true x).toNat)
/-- CTZ, alone in its bundle. -/
def execCtz (u : SUnit) (d : Dst) (a : Src) (w : IntW) (s : State) : Host.Outcome State Fault Refusal :=
  issueOne (actCtz u d a w) s

/-- POPC (R129) -/
def actPopc (u : SUnit) (d : Dst) (a : Src) (w : IntW) : Syl :=
  oneSyl u d a fun x => writeW w true (onesIn w.bits (readW w true x).toNat)
/-- POPC, alone in its bundle. -/
def execPopc (u : SUnit) (d : Dst) (a : Src) (w : IntW) (s : State) : Host.Outcome State Fault Refusal :=
  issueOne (actPopc u d a w) s

/-- SEXT (R129) -/
def actSext (u : SUnit) (d : Dst) (a : Src) (w : IntW) : Syl :=
  oneSyl u d a fun x => writeW w false (readW w false x)
/-- SEXT, alone in its bundle. -/
def execSext (u : SUnit) (d : Dst) (a : Src) (w : IntW) (s : State) : Host.Outcome State Fault Refusal :=
  issueOne (actSext u d a w) s

/-- ZEXT (R129) -/
def actZext (u : SUnit) (d : Dst) (a : Src) (w : IntW) : Syl :=
  oneSyl u d a fun x => writeW w true (readW w true x)
/-- ZEXT, alone in its bundle. -/
def execZext (u : SUnit) (d : Dst) (a : Src) (w : IntW) (s : State) : Host.Outcome State Fault Refusal :=
  issueOne (actZext u d a w) s

/-- BFX (R133) -/
def actBfx (u : SUnit) (d : Dst) (a b : Src) : Syl :=
  regSyl u d a b bfxOp
/-- BFX, alone in its bundle. -/
def execBfx (u : SUnit) (d : Dst) (a b : Src) (s : State) : Host.Outcome State Fault Refusal :=
  issueOne (actBfx u d a b) s

/-- BFI (R133): DST is also read -/
def actBfi (u : SUnit) (d : Dst) (a b : Src) : Syl :=
  scalarSyl u [a, b] d fun c => (bfiOp (c.dstVal d) (c.sval a) (c.sval b), 0)
/-- BFI, alone in its bundle. -/
def execBfi (u : SUnit) (d : Dst) (a b : Src) (s : State) : Host.Outcome State Fault Refusal :=
  issueOne (actBfi u d a b) s

/-- SEL (R134): bit 0 of DST chooses -/
def actSel (u : SUnit) (d : Dst) (a b : Src) (w : IntW) : Syl :=
  scalarSyl u [a, b] d fun c =>
    (writeW w false (readW w false (if (c.dstVal d).getLsbD 0 then c.sval a else c.sval b)), 0)
/-- SEL, alone in its bundle. -/
def execSel (u : SUnit) (d : Dst) (a b : Src) (w : IntW) (s : State) : Host.Outcome State Fault Refusal :=
  issueOne (actSel u d a b w) s

/-- MOV (R129) -/
def actMov (u : SUnit) (d : Dst) (a : Src) (w : IntW) : Syl :=
  oneSyl u d a fun x => writeW w false (readW w false x)
/-- MOV, alone in its bundle. -/
def execMov (u : SUnit) (d : Dst) (a : Src) (w : IntW) (s : State) : Host.Outcome State Fault Refusal :=
  issueOne (actMov u d a w) s

/-- MOVI (R132) -/
def actMovi (u : SUnit) (d : Dst) (imm : Imm16) (w : IntW) : Syl :=
  scalarSyl u [] d fun _ => (writeW w false (readW w false imm.sx), 0)
/-- MOVI, alone in its bundle. -/
def execMovi (u : SUnit) (d : Dst) (imm : Imm16) (w : IntW) (s : State) : Host.Outcome State Fault Refusal :=
  issueOne (actMovi u d imm w) s

/-- MOVHI (R132): the low half of DST stays -/
def actMovhi (u : SUnit) (d : Dst) (imm : Imm16) : Syl :=
  immSyl u d imm.zx fun x i => (i.setWidth 32 ++ x.setWidth 32 : BitVec 64)
/-- MOVHI, alone in its bundle. -/
def execMovhi (u : SUnit) (d : Dst) (imm : Imm16) (s : State) : Host.Outcome State Fault Refusal :=
  issueOne (actMovhi u d imm) s

/-- CMP (R134) -/
def actCmp (u : SUnit) (d : Dst) (a b : Src) (w : IntW) (cond : Cond) : Syl :=
  regSyl u d a b fun x y => boolWord (condInt w.bits cond (x.setWidth w.bits) (y.setWidth w.bits))
/-- CMP, alone in its bundle. -/
def execCmp (u : SUnit) (d : Dst) (a b : Src) (w : IntW) (cond : Cond) (s : State) : Host.Outcome State Fault Refusal :=
  issueOne (actCmp u d a b w cond) s

/-- SCHK (R141): CHECK_MISMATCH before any slot performs, or nothing -/
def actSchk (u : SUnit) (a b : Src) : Syl :=
  { slot := u.slot, latches := latchesOf [a, b]
    check := fun s =>
      if s.cx.sval a = s.cx.sval b then none
      else some {
        cause := .checkMismatch, slot := u.slot.num, info := some { t0 := s.cx.sval a, t1 := s.cx.sval b } }
    perform := onCtx fun _ c => c }
/-- SCHK, alone in its bundle. -/
def execSchk (u : SUnit) (a b : Src) (s : State) : Host.Outcome State Fault Refusal :=
  issueOne (actSchk u a b) s

/-- WFLD (R154): a field of an identifier under the widths of the context's launch -/
def actWfld (u : SUnit) (d : Dst) (a : Src) (level : Fin 6) : Syl :=
  { slot := u.slot, latches := latchesOf [a], dest := d.map fun n => (.s, n.val)
    perform := fun e s =>
      let x := match e.pre.myLaunch with
        | none => 0
        | some l => l.field level (e.pre.cx.sval a).toNat
      .ok { st := { s with cx := s.cx.outS u.latch d (BitVec.ofNat 64 x) } } }
/-- WFLD, alone in its bundle. -/
def execWfld (u : SUnit) (d : Dst) (a : Src) (level : Fin 6) (s : State) : Host.Outcome State Fault Refusal :=
  issueOne (actWfld u d a level) s

/-- DIV (R135) -/
def actDiv (d : Dst) (a b : Src) (w : IntW) : Syl :=
  regSyl .sb d a b (divW w false)
/-- DIV, alone in its bundle. -/
def execDiv (d : Dst) (a b : Src) (w : IntW) (s : State) : Host.Outcome State Fault Refusal :=
  issueOne (actDiv d a b w) s

/-- DIVU (R135) -/
def actDivu (d : Dst) (a b : Src) (w : IntW) : Syl :=
  regSyl .sb d a b (divW w true)
/-- DIVU, alone in its bundle. -/
def execDivu (d : Dst) (a b : Src) (w : IntW) (s : State) : Host.Outcome State Fault Refusal :=
  issueOne (actDivu d a b w) s

/-- REM (R135) -/
def actRem (d : Dst) (a b : Src) (w : IntW) : Syl :=
  regSyl .sb d a b (remW w false)
/-- REM, alone in its bundle. -/
def execRem (d : Dst) (a b : Src) (w : IntW) (s : State) : Host.Outcome State Fault Refusal :=
  issueOne (actRem d a b w) s

/-- REMU (R135) -/
def actRemu (d : Dst) (a b : Src) (w : IntW) : Syl :=
  regSyl .sb d a b (remW w true)
/-- REMU, alone in its bundle. -/
def execRemu (d : Dst) (a b : Src) (w : IntW) (s : State) : Host.Outcome State Fault Refusal :=
  issueOne (actRemu d a b w) s

end Sys2Proof.Machine
end

