-- ==== Sys2Proof/Machine/Cleat.lean ====
section
/-! DEFINITION. The Cleat: word addresses, atomics, reductions, locks and counting barriers (R240 to R247), and the
slot wheel's side of .sc operations (R245, R283). A reply comes within the step that issues the bundle (log 26). -/

namespace Sys2Proof.Machine

/-! ### Addresses (R240, R241) -/

/-- Group counters of a launch that stand in the overflow area, so that its last page is the scheduler's (R240). -/
def DieSched.pageTaken (x : DieSched) (launch : Nat) : Bool :=
  (x.groups.any fun c => c.launch = launch && c.overflow) ||
    x.ready.any fun r => match r with | .cont _ _ l o => l = launch && o | .task _ => false
/-- The trap of an address whose translation fails (R241). -/
def cleatXErr (e : XErr) (dva : Nat) : Trap :=
  { cause := e.cause, slot := Slot.en.num, info := some { t0 := BitVec.ofNat 64 dva } }
/-- A Cleat trap at issue that names no register. -/
def enTrap (c : Cause) : Trap := { cause := c, slot := Slot.en.num }
/-- A Cleat trap at issue with ctl.tinfo0. -/
def enTrapAt (c : Cause) (x : Nat) : Trap := { cause := c, slot := Slot.en.num, info := some { t0 := BitVec.ofNat 64 x } }
/-- The key of the Cleat word of `n` bytes that an operand value names, for an instruction that is ARED or not and
that reads the word only or not (R240, R241). -/
def State.cleatKeyOf (s : State) (v n : Nat) (ared pure : Bool) : Except Trap Nat :=
  let off := v % 2 ^ 34
  let op := v / 2 ^ 56 % 4
  if off % n ≠ 0 then .error (enTrap .align)
  else if v / 2 ^ 35 % 2 ^ 21 ≠ 0 || v / 2 ^ 59 ≠ 0 || (if ared then op = 3 else v / 2 ^ 56 % 8 ≠ 0) then
    .error (enTrap .access)
  else if v.testBit 34 then
    match s.myLaunch with
    | none => .error (enTrap .access)
    | some l =>
      let size := l.fld 0x30 8
      if off + n > (if s.myDie.sched.pageTaken l.id then size - 65536 else size) then .error (enTrap .access)
      else
        let dva := l.fld 0x28 8 + off
        match s.xlate s.cur.die dva (if pure then .read else .write) with
        | .error e => .error (cleatXErr e dva)
        | .ok _ => .ok (overflowKey dva)
  else if off ≥ 0x800000 || (off ≥ 0x300000 && (off < 0x400000 || !pure)) then .error (enTrap .access)
  else .ok off
/-- A read of a device virtual byte range by the Cleat or the scheduler waits: for the replay of a write that they have parked
there (R370), or on a diagnostic packet (R392, R393). -/
def State.parkedMeets (s : State) (d va n : Nat) : Bool :=
  s.dvaParked d va n ParkOwner.isCleat || s.dvaHeld d va n .read
/-- An operation on an overflow word waits for the replay of the Cleat's own writes to it, and for an entry of the park
buffer (R370). -/
def State.cleatParked (s : State) (k : Except Trap Nat) : Bool :=
  match k with
  | .error _ => false
  | .ok key => key ≥ 1099511627776 && (s.parkedMeets s.cur.die (key - 1099511627776) 8 ||
      !s.parkRoom s.cur.die (s.parkNeed s.cur.die (key - 1099511627776) 8))
/-- A release of the current context waits until every Cleat write that it issued before has performed (R278, R279,
R370). -/
def releaseBlocks (rel : Bool) (own : State → Option (State × Wait)) (s : State) : Option (State × Wait) :=
  if rel && s.myParked then some (s, .stall) else own s

/-! ### The slot wheel (R245, R283) -/

/-- A position of the wheel is reserved for the current core. -/
def State.wheelHas (s : State) : Bool := s.myDie.tables.wheel.any fun e => e.2.toNat = s.cur.core
/-- The current context has been given its position. -/
def State.scGiven (s : State) : Bool := s.myDie.tables.scWait.contains (s.cur.inDie + 4096)
/-- The current context's .sc operation joins those that wait. -/
def State.scJoin (s : State) : State :=
  let n := s.cur.inDie
  s.modTables s.cur.die fun t => { t with scWait := if t.scWait.contains n then t.scWait else t.scWait ++ [n] }
/-- The position given is used. -/
def State.scUse (s : State) : State :=
  let n := s.cur.inDie
  s.modTables s.cur.die fun t => { t with scWait := dropWhere t.scWait fun w => w = n + 4096 }
/-- The waits of an operation at a scope: a parked word, and for a release the context's parked writes, then the wheel
for .sc, then its own. -/
def cleatBlocks (scope : Fin 4) (sc : Bool) (key : State → Except Trap Nat) (own : State → Option (State × Wait))
    (s : State) : Option (State × Wait) :=
  if s.cleatParked (key s) || (scope ≠ 0 && s.myParked) then some (s, .stall)
  else if sc && !s.scGiven then some (s.scJoin, .stall)
  else own s
/-- The check of an operation: refused in a node, its address, and a reserved position for .sc (R241, R245, R254). -/
def cleatCheck (sc : Bool) (key : State → Except Trap Nat) (s : State) : Option Trap :=
  if s.cx.inNode then some (enTrap .access)
  else match key s with
    | .error t => some t
    | .ok _ => if sc && !s.wheelHas then some (enTrap .access) else none

/-! ### Atomics (R243) -/

/-- The operations AADD to ACAS. -/
inductive AtomOp | add | min | max | and | or | xor | swp | cas
  deriving DecidableEq, Repr
/-- The new word, from the word `w`, the operand `b` and DST's value `d` (R243). -/
def AtomOp.new (o : AtomOp) (w b d : Dword) : Dword :=
  match o with
  | .add => w + b
  | .min => if w.sle b then w else b
  | .max => if w.sle b then b else w
  | .and => w &&& b
  | .or => w ||| b
  | .xor => w ^^^ b
  | .swp => b
  | .cas => if w = d then b else w
/-- The word of an atomic: only AOR with operand 0 reads without writing. -/
def atomKey (o : AtomOp) (a : Src) (b : EnB) (s : State) : Except Trap Nat :=
  s.cleatKeyOf (s.cx.sval a).toNat 8 false (o = .or && s.cx.enval b = 0)
/-- A failed read of a Cleat word: at issue for its translation, else in performance (R241). -/
def cleatErr (key : Nat) (e : XErr × Bool) : Trap :=
  if e.2 then enTrap .eccUncorrectable else if key < 1099511627776 then enTrap .eccUncorrectable
  else cleatXErr e.1 (key - 1099511627776)
/-- What the read of a Cleat word does beside its result: an overflow word's is an ordinary read of device memory (R391, R395,
R401). -/
def State.cleatRead (s : State) (key n : Nat) : State :=
  if key < 1099511627776 then s else s.dvaScrub s.cur.die (key - 1099511627776) n true
/-- An atomic (R242, R243). -/
def atomic (o : AtomOp) (d : Dst) (a : Src) (b : EnB) (sc : Bool) (scope : Fin 4) : Syl :=
  { slot := .en, latches := latchesOf [a] ++ b.latches, dest := d.map fun n => (.s, n.val), phase := phaseCompute
    check := cleatCheck sc (atomKey o a b)
    blocks := cleatBlocks scope sc (atomKey o a b) fun _ => none
    orders := fun _ => scope ≠ 0
    perform := fun e s =>
      match atomKey o a b e.pre with
      | .error t => .error t
      | .ok key =>
        match s.cleatGet s.cur.die key 8 with
        | .error x => .error (cleatErr key x)
        | .ok w =>
          let old := BitVec.ofNat 64 w
          let new := o.new old (e.pre.cx.enval b) (e.pre.cx.dstVal d)
          let s0 := s.cleatRead key 8
          let s1 := if new = old then s0 else s0.cleatPut s.cur.die key 8 new.toNat s.cur.inDie
          let s2 := s1.scUse
          .ok { st := { s2 with cx := s2.cx.outS 7 d old }, post := some .offer } }

/-! ### ARED (R244) -/

/-- The word of ARED. -/
def aredKey (v : Nat) (s : State) : Except Trap Nat := s.cleatKeyOf v (if v.testBit 58 then 4 else 8) true false
/-- ARED's new word. -/
def aredNew (v w x : Nat) : Nat :=
  let f : FFmt := if v.testBit 58 then .f32 else .f64
  match v / 2 ^ 56 % 4 with
  | 0 => (fAdd f .rne w (x % 2 ^ f.bits)).1
  | 1 => (fMinMax f false w (x % 2 ^ f.bits)).1
  | _ => (fMinMax f true w (x % 2 ^ f.bits)).1
/-- ARED upon its word; an uncorrectable read leaves the word unchanged (R241, R244). -/
def State.aredDo (s : State) (v x : Nat) : Except Trap State :=
  match aredKey v s with
  | .error t => .error t
  | .ok key =>
    let n := if v.testBit 58 then 4 else 8
    match s.cleatGet s.cur.die key n with
    | .error e => .error (cleatErr key e)
    | .ok w => .ok ((s.cleatRead key n).cleatPut s.cur.die key n (aredNew v w x) s.cur.inDie)
/-- The log of the current context's node is full (R254). -/
def Ctx.logFull (c : Ctx) : Bool := match c.item with | none => false | some it => it.node.isSome && it.log.length ≥ 32
/-- Stages an operation in the current context's node log (R254). -/
def State.stage (s : State) (o : LogOp) : State :=
  { s with cx := { s.cx with item := s.cx.item.map fun it => { it with log := it.log ++ [o] } } }

/-! ### Locks (R246) -/

/-- The record of the lock at a word. -/
def State.lockRec (s : State) (key : Nat) : Option LockRec := s.myDie.tables.locks.find? fun l => l.addr = key
/-- The word of a lock operation. -/
def lockKey (a : Src) (s : State) : Except Trap Nat := s.cleatKeyOf (s.cx.sval a).toNat 8 false false
/-- The locks that the current context holds. -/
def State.myLocks (s : State) : List LockRec := s.myDie.tables.locks.filter fun l => l.owner = s.cur.inDie && !l.dropping
/-- The check of ALOCK: a seventeenth lock traps ACCESS. -/
def alockCheck (a : Src) (sc : Bool) (s : State) : Option Trap :=
  match cleatCheck sc (lockKey a) s with
  | some t => some t
  | none =>
    match lockKey a s with
    | .error t => some t
    | .ok key => if s.myLocks.length ≥ 16 && !(s.myLocks.any fun l => l.addr = key) then some (enTrap .access) else none
/-- ALOCK waits while another context holds the word, in order of arrival. -/
def alockWaits (a : Src) (s : State) : Option (State × Wait) :=
  match lockKey a s with
  | .error _ => none
  | .ok key =>
    match s.lockRec key with
    | some l =>
      if l.owner = s.cur.inDie && !l.dropping then none
      else
        some (s.modTables s.cur.die fun t => { t with
          locks := mapWhere t.locks (fun x => x.addr = key) fun x =>
            { x with waiters := if x.waiters.contains s.cur.inDie then x.waiters else x.waiters ++ [s.cur.inDie] } },
          .stall)
    | none =>
      match s.cleatGet s.cur.die key 8 with
      | .error _ => none
      | .ok w => if w = 0 then none else some (s, .stall)
/-- The status SELF (R267). -/
def statusSelf : Dword := 0x8000000000000003
/-- The status word of a code (R267). -/
def statusWord (k : Nat) : Dword := BitVec.ofNat 64 (0x8000000000000000 + k)
/-- ALOCK takes a free word, or finds the word granted or its own. -/
def State.alockTake (s : State) (key : Nat) : Except Trap (State × Dword) :=
  let n := s.cur.inDie
  match s.lockRec key with
  | some l =>
    if l.granted then
      .ok (s.modTables s.cur.die fun t => { t with
        locks := mapWhere t.locks (fun x => x.addr = key) fun x => { x with granted := false } }, 0)
    else .ok (s, statusSelf)
  | none =>
    match s.cleatGet s.cur.die key 8 with
    | .error e => .error (cleatErr key e)
    | .ok _ =>
      .ok (((s.cleatRead key 8).modTables s.cur.die fun t => { t with
        locks := t.locks ++ [{ addr := key, owner := n, waiters := [], granted := false, dropping := false }] }).cleatPut s.cur.die key 8
          (lockWord n) n, 0)
/-- The check of AUNLK: the word and the Cleat's record must both name the context. -/
def aunlkCheck (a : Src) (sc : Bool) (s : State) : Option Trap :=
  match cleatCheck sc (lockKey a) s with
  | some t => some t
  | none =>
    match lockKey a s with
    | .error t => some t
    | .ok key =>
      match s.cleatGet s.cur.die key 8 with
      | .error _ => none
      | .ok w =>
        if w = lockWord s.cur.inDie && (s.lockRec key).any fun l => l.owner = s.cur.inDie && !l.dropping then none
        else some (enTrapAt .access w)

/-! ### Counting barriers (R247) -/

/-- A barrier at job start. -/
def Barrier.zero : Barrier := { target := 0, count := 0, gen := 0 }
/-- Barrier `n` of a die. -/
def State.barrier (s : State) (d n : Nat) : Barrier := tabGetD (s.die d).tables.barriers n Barrier.zero
/-- The barrier after `a` arrivals with target word `t` (R247). -/
def Barrier.arrive (x : Barrier) (a t : BitVec 32) : Barrier :=
  let target := if t ≠ 0 then t else x.target
  let c := x.count.toNat + a.toNat
  if target = 0 then { x with target := target, count := BitVec.ofNat 32 (Nat.min c 4294967295) }
  else
    { target := target
      gen := x.gen + BitVec.ofNat 32 (c / target.toNat)
      count := BitVec.ofNat 32 (c % target.toNat) }
/-- Arrivals at barrier `n` of a die. -/
def State.barArrive (s : State) (d n : Nat) (a t : BitVec 32) : State :=
  s.modTables d fun x => { x with barriers := tabSet x.barriers n ((s.barrier d n).arrive a t) }
/-- The check of BARC and BARW. -/
def barCheck (a : Src) (s : State) : Option Trap :=
  if s.cx.inNode || (s.cx.sval a).toNat ≥ 4096 then some (enTrap .access) else none


/-- AADD (R242, R243) -/
def actAadd (d : Dst) (a : Src) (b : EnB) (sc : Bool) (scope : Fin 4) : Syl :=
  atomic .add d a b sc scope
/-- AADD, alone in its bundle. -/
def execAadd (d : Dst) (a : Src) (b : EnB) (sc : Bool) (scope : Fin 4) (s : State) : Host.Outcome State Fault Refusal :=
  issueOne (actAadd d a b sc scope) s

/-- AMIN (R242, R243) -/
def actAmin (d : Dst) (a : Src) (b : EnB) (sc : Bool) (scope : Fin 4) : Syl :=
  atomic .min d a b sc scope
/-- AMIN, alone in its bundle. -/
def execAmin (d : Dst) (a : Src) (b : EnB) (sc : Bool) (scope : Fin 4) (s : State) : Host.Outcome State Fault Refusal :=
  issueOne (actAmin d a b sc scope) s

/-- AMAX (R242, R243) -/
def actAmax (d : Dst) (a : Src) (b : EnB) (sc : Bool) (scope : Fin 4) : Syl :=
  atomic .max d a b sc scope
/-- AMAX, alone in its bundle. -/
def execAmax (d : Dst) (a : Src) (b : EnB) (sc : Bool) (scope : Fin 4) (s : State) : Host.Outcome State Fault Refusal :=
  issueOne (actAmax d a b sc scope) s

/-- AAND (R242, R243) -/
def actAand (d : Dst) (a : Src) (b : EnB) (sc : Bool) (scope : Fin 4) : Syl :=
  atomic .and d a b sc scope
/-- AAND, alone in its bundle. -/
def execAand (d : Dst) (a : Src) (b : EnB) (sc : Bool) (scope : Fin 4) (s : State) : Host.Outcome State Fault Refusal :=
  issueOne (actAand d a b sc scope) s

/-- AOR (R242, R243) -/
def actAor (d : Dst) (a : Src) (b : EnB) (sc : Bool) (scope : Fin 4) : Syl :=
  atomic .or d a b sc scope
/-- AOR, alone in its bundle. -/
def execAor (d : Dst) (a : Src) (b : EnB) (sc : Bool) (scope : Fin 4) (s : State) : Host.Outcome State Fault Refusal :=
  issueOne (actAor d a b sc scope) s

/-- AXOR (R242, R243) -/
def actAxor (d : Dst) (a : Src) (b : EnB) (sc : Bool) (scope : Fin 4) : Syl :=
  atomic .xor d a b sc scope
/-- AXOR, alone in its bundle. -/
def execAxor (d : Dst) (a : Src) (b : EnB) (sc : Bool) (scope : Fin 4) (s : State) : Host.Outcome State Fault Refusal :=
  issueOne (actAxor d a b sc scope) s

/-- ASWP (R242, R243) -/
def actAswp (d : Dst) (a : Src) (b : EnB) (sc : Bool) (scope : Fin 4) : Syl :=
  atomic .swp d a b sc scope
/-- ASWP, alone in its bundle. -/
def execAswp (d : Dst) (a : Src) (b : EnB) (sc : Bool) (scope : Fin 4) (s : State) : Host.Outcome State Fault Refusal :=
  issueOne (actAswp d a b sc scope) s

/-- ACAS (R242, R243) -/
def actAcas (d : Dst) (a : Src) (b : EnB) (sc : Bool) (scope : Fin 4) : Syl :=
  atomic .cas d a b sc scope
/-- ACAS, alone in its bundle. -/
def execAcas (d : Dst) (a : Src) (b : EnB) (sc : Bool) (scope : Fin 4) (s : State) : Host.Outcome State Fault Refusal :=
  issueOne (actAcas d a b sc scope) s

/-- ARED (R244): staged in a replayable node (R254) -/
def actAred (a : Src) (b : EnB) (scope : Fin 4) : Syl :=
  { slot := .en, latches := latchesOf [a] ++ b.latches, phase := phaseCompute
    check := fun s =>
      match aredKey (s.cx.sval a).toNat s with
      | .error t => some t
      | .ok _ => if s.cx.logFull then some (enTrapAt .access 32) else none
    blocks := cleatBlocks scope false (fun s => aredKey (s.cx.sval a).toNat s) fun _ => none
    orders := fun s => scope ≠ 0 && !s.cx.inNode
    perform := fun e s =>
      let v := e.pre.cx.sval a
      let x := e.pre.cx.enval b
      if s.cx.inNode then .ok { st := s.stage (.ared v x) }
      else match s.aredDo v.toNat x.toNat with
        | .error t => .error t
        | .ok s1 => .ok { st := s1 } }
/-- ARED, alone in its bundle. -/
def execAred (a : Src) (b : EnB) (scope : Fin 4) (s : State) : Host.Outcome State Fault Refusal :=
  issueOne (actAred a b scope) s

/-- ALOCK (R246) -/
def actAlock (d : Dst) (a : Src) (sc : Bool) (scope : Fin 4) : Syl :=
  { slot := .en, latches := latchesOf [a], dest := d.map fun n => (.s, n.val), phase := phaseCompute
    check := alockCheck a sc
    blocks := cleatBlocks scope sc (lockKey a) (alockWaits a)
    orders := fun _ => scope ≠ 0
    perform := fun e s =>
      match lockKey a e.pre with
      | .error t => .error t
      | .ok key =>
        match s.alockTake key with
        | .error t => .error t
        | .ok r =>
          let s1 := r.1.scUse
          .ok { st := { s1 with cx := s1.cx.outS 7 d r.2 }, post := some .offer } }
/-- ALOCK, alone in its bundle. -/
def execAlock (d : Dst) (a : Src) (sc : Bool) (scope : Fin 4) (s : State) : Host.Outcome State Fault Refusal :=
  issueOne (actAlock d a sc scope) s

/-- AUNLK (R246) -/
def actAunlk (a : Src) (sc : Bool) (scope : Fin 4) : Syl :=
  { slot := .en, latches := latchesOf [a], phase := phaseCompute
    check := aunlkCheck a sc
    blocks := cleatBlocks scope sc (lockKey a) fun _ => none
    orders := fun _ => scope ≠ 0
    perform := fun e s =>
      match lockKey a e.pre with
      | .error t => .error t
      | .ok key =>
        match s.cleatGet s.cur.die key 8, s.lockRec key with
        | .error x, _ => .error (cleatErr key x)
        | .ok _, none => .ok { st := s.scUse }
        | .ok _, some l => .ok { st := ((s.cleatRead key 8).releaseLock s.cur.die l).scUse } }
/-- AUNLK, alone in its bundle. -/
def execAunlk (a : Src) (sc : Bool) (scope : Fin 4) (s : State) : Host.Outcome State Fault Refusal :=
  issueOne (actAunlk a sc scope) s

/-- BARC (R247) -/
def actBarc (d : Dst) (a : Src) (b : EnB) (scope : Fin 4) : Syl :=
  { slot := .en, latches := latchesOf [a] ++ b.latches, dest := d.map fun n => (.s, n.val), phase := phaseCompute
    check := barCheck a
    orders := fun _ => scope ≠ 0
    blocks := releaseBlocks (scope ≠ 0) fun _ => none
    perform := fun e s =>
      let n := (e.pre.cx.sval a).toNat
      let x := e.pre.cx.enval b
      let g := (s.barrier s.cur.die n).gen
      let s1 := s.barArrive s.cur.die n (x.setWidth 32) ((x >>> 32).setWidth 32)
      .ok { st := { s1 with cx := s1.cx.outS 7 d (g.setWidth 64) }, post := some .offer } }
/-- BARC, alone in its bundle. -/
def execBarc (d : Dst) (a : Src) (b : EnB) (scope : Fin 4) (s : State) : Host.Outcome State Fault Refusal :=
  issueOne (actBarc d a b scope) s

/-- BARW (R247): waits until GEN differs from the generation seen -/
def actBarw (d : Dst) (a : Src) (b : EnB) (scope : Fin 4) : Syl :=
  { slot := .en, latches := latchesOf [a] ++ b.latches, dest := d.map fun n => (.s, n.val), phase := phaseCompute
    check := barCheck a
    orders := fun _ => scope ≠ 0
    blocks := releaseBlocks (scope ≠ 0) fun s =>
      if (s.barrier s.cur.die (s.cx.sval a).toNat).gen = (s.cx.enval b).setWidth 32 then some (s, .stall) else none
    perform := fun e s =>
      let g := (s.barrier s.cur.die (e.pre.cx.sval a).toNat).gen
      .ok { st := { s with cx := s.cx.outS 7 d (g.setWidth 64) }, post := some .offer } }
/-- BARW, alone in its bundle. -/
def execBarw (d : Dst) (a : Src) (b : EnB) (scope : Fin 4) (s : State) : Host.Outcome State Fault Refusal :=
  issueOne (actBarw d a b scope) s

end Sys2Proof.Machine
end

