-- ==== Sys2Proof/Machine/Bfp.lean ====
section
/-! DEFINITION. Plawyn block floating point: quantising 32 values, the bytes of a block, and decoding (R87 to R89). -/

namespace Sys2Proof.Machine

/-- The exponent of the mantissa unit of a block: E − 127 − (w − 1) (R87). -/
def bfpUnit (w e : Nat) : Int := (e : Int) - 127 - (w - 1 : Nat)
/-- floor(log2 |x|) of a finite datum that is not zero. -/
def FVal.lead : FVal → Option Int
  | .fin _ m e => if m = 0 then none else some ((Nat.log2 m : Int) + e)
  | _ => none
/-- The largest of some integers. -/
def maxOf : List Int → Option Int
  | [] => none
  | x :: xs => match maxOf xs with | none => some x | some y => some (max x y)
/-- One mantissa: the value quantised, and NX, OF and UF as R89 raises them. -/
def quantOne (w e : Nat) (mode : RMode) : FVal → Int × FFlags
  | .fin n m g =>
    let t := roundIntVal mode n m (g - bfpUnit w e)
    let hi : Int := 2 ^ (w - 1) - 1
    let lo : Int := -(2 ^ (w - 1))
    let c := min (max t.1 lo) hi
    (c, flagIf (t.2 || c ≠ t.1) flagNX ||| flagIf (e = 254 && (t.1 > hi + 1 || t.1 < lo - 1)) flagOF |||
      flagIf (m ≠ 0 && c = 0) flagUF)
  | _ => (0, 0)
/-- Quantises up to 32 values into a block of width `w`: E, the mantissas and the flags (R89). -/
def quantise (w : Nat) (mode : RMode) (xs : List FVal) : Nat × List Int × FFlags :=
  if xs.any fun x => match x with | .fin _ _ _ => false | _ => true then (255, xs.map fun _ => 0, flagNV)
  else
    let e := match maxOf (xs.filterMap FVal.lead) with
      | none => 0
      | some l => (min 254 (max 0 (l + 128))).toNat
    let rs := xs.map (quantOne w e mode)
    (e, rs.map (·.1), orFlags (rs.map (·.2)))
/-- The mantissas packed from the least significant bit upward (R88). -/
def packMants (w : Nat) : List Int → Nat
  | [] => 0
  | m :: ms => (toWidth w m).toNat + 2 ^ w * packMants w ms
/-- The 4w + 1 bytes of a block (R88). -/
def blockBytes (w e : Nat) (ms : List Int) : List Byte := BitVec.ofNat 8 e :: leBytes (4 * w) (packMants w ms)
/-- Element `i` of a block's bytes (R87). -/
def blockElem (w : Nat) (bs : List Byte) (i : Nat) : FVal :=
  match bs with
  | [] => .fin false 0 0
  | e :: r =>
    if e.toNat = 255 then .nan false
    else
      let m := signedOf w (leNat r / 2 ^ (w * i) % 2 ^ w)
      if m = 0 then .fin false 0 0 else .fin (m < 0) m.natAbs (bfpUnit w e.toNat)

end Sys2Proof.Machine
end

