-- ==== Sys2Proof/Machine/Link.lean ====
section
/-! DEFINITION. Leral links as carriers: live ports, the routes of packets by class, and packets leaving the package
(R11, R411 to R416, R419). -/

namespace Sys2Proof.Machine

/-! ### Ports and links (R11, R412) -/

/-- A port's state. -/
def State.portAt (s : State) (d p : Nat) : Port := (s.die d).ports[p]?.getD Port.reset
/-- Changes a port's state. -/
def State.modPort (s : State) (d p : Nat) (f : Port → Port) : State :=
  s.modDie d fun x => { x with ports := x.ports.setIfInBounds p (f (s.portAt d p)) }
/-- Port `p` of die `d` is in the plan as an in-package or a looped port, so that it joins the pair's other die (R11). -/
def State.portOn (s : State) (d p : Nat) : Bool := s.dieAlive d && (s.portMode d p = 1 || s.portMode d p = 2)
/-- A port that carries packets: one in the package with the neighbour's port at its other end, or an off-package port
that is up. -/
def State.portLive (s : State) (d p : Nat) : Bool :=
  if s.portMode d p = 3 then s.dieAlive d && (s.portAt d p).st = 3
  else s.portOn d p && s.portOn (d ^^^ 2 ^ (p / 2)) (p ^^^ 1)

/-! ### Routes (R413, R415, R416) -/

/-- The axis order of a route class (R415). -/
def classOrder (c : Nat) : List Nat :=
  match c with | 0 => [0, 1, 2] | 1 => [1, 2, 0] | 2 => [2, 0, 1] | _ => [0, 2, 1]
/-- The header of a packet to a fabric die in a route class. -/
def headerTo (dst cls : Nat) : LinkHeader :=
  { dst := dst, cls := cls, src := 0, ctx := 0, index := 0, addr := 0, flits := 0, len := 0, face := none
    order := classOrder cls, detours := [] }
/-- The place of a fabric die along an axis (R11). -/
def fabricCoord (f a : Nat) : Nat := f / 16 ^ a % 16
/-- The ports of an axis at a die of the package that bring a packet nearer to a fabric die, P before N: both of a ring of
2, whose edge port is looped, else those of the smaller distance in a ring of 16 (R413, log 12). -/
def State.portsTo (s : State) (d dst a : Nat) : List Nat :=
  let c := fabricCoord (s.fabricDie d) a
  let t := fabricCoord dst a
  let k := (t + 16 - c) % 16
  if k = 0 then []
  else if [2 * a, 2 * a + 1].any fun p => s.portMode d p = 2 then if t / 2 = c / 2 then [2 * a, 2 * a + 1] else []
  else if k < 8 then [2 * a] else if k > 8 then [2 * a + 1] else [2 * a, 2 * a + 1]
/-- The live one of some ports, or of two live ones that with more free link credits, the first on a tie (R413). -/
def State.pickPort (s : State) (d : Nat) (ps : List Nat) : Option Nat :=
  match ps.filter (s.portLive d) with
  | [] => none
  | [p] => some p
  | p :: q :: _ => some (if Config.credits d p s.fresh < Config.credits d q s.fresh then q else p)
/-- The port by which a packet leaves a die, and its header from there on: along the first axis of its order that needs
progress and has a live port making it, else by a detour along the first axis not yet detoured on with a live port, which
goes to the end of its order (R416). -/
def State.hop (s : State) (d : Nat) (h : LinkHeader) : Option (Nat × LinkHeader) :=
  match h.order.findSome? fun a => s.pickPort d (s.portsTo d h.dst a) with
  | some p => some (p, h)
  | none =>
    match (h.order.filter fun a => !h.detours.contains a).findSome? fun a => s.pickPort d [2 * a, 2 * a + 1] with
    | none => none
    | some p =>
      let a := p / 2
      some (p, { h with order := h.order.filter (· ≠ a) ++ [a], detours := a :: h.detours })
/-- The dies and ports that a packet passes from a die of the package up to its destination, or up to the off-package port
by which it leaves, and its header there; `none` where it has no route (R413, R416). -/
def State.route (s : State) : Nat → Nat → LinkHeader → Option (List (Nat × Nat) × LinkHeader)
  | 0, _, _ => none
  | n + 1, d, h =>
    if s.fabricDie d = h.dst then some ([], h)
    else match s.hop d h with
      | none => none
      | some (p, h1) =>
        if s.portMode d p = 3 then some ([(d, p)], h1)
        else (s.route n (d ^^^ 2 ^ (p / 2)) h1).map fun r => ((d, p) :: r.1, r.2)
/-- A die has a live route, in some class, to a fabric die. -/
def State.routesTo (s : State) (d dst : Nat) : Bool :=
  [0, 1, 2, 3].any fun c => (s.route 16 d (headerTo dst c)).isSome
/-- Die `d` has a live route to every live die of the package (R416). -/
def State.routed (s : State) (d : Nat) : Bool :=
  (numsFrom 0 8).all fun e => !s.dieAlive e || s.routesTo d (s.fabricDie e)
/-- Another package is reachable over keyed ports (R420): some live die has a route to its dies. -/
def State.reaches (s : State) (k : Nat × Nat × Nat) : Bool :=
  k = s.pkg || (numsFrom 0 8).any fun d => s.dieAlive d && s.routesTo d (Machine.fabricDie k 0)

/-! ### Packets that leave the package (R411, R415, R419) -/

/-- The flits of some bytes, the last one filled with zeros. -/
def flitsOf (bs : List Byte) : List (BitVec 512) :=
  (numsFrom 0 (ceilDiv bs.length 64)).map fun i => BitVec.ofNat 512 (leNat ((bs.drop (64 * i)).take 64))
/-- The bytes of some flits. -/
def flitBytes (fs : List (BitVec 512)) : List Byte := fs.flatMap fun f => leBytes 64 f.toNat
/-- The packets of some bytes, of up to 4 KiB each (R411). -/
def packetsOf (h : LinkHeader) (bs : List Byte) : List LinkPacket :=
  (numsFrom 0 (ceilDiv bs.length 4096)).map fun i =>
    let part := (bs.drop (4096 * i)).take 4096
    { head := { h with addr := h.addr + 4096 * i, flits := ceilDiv part.length 64, len := part.length }
      data := flitsOf part }
/-- The nonce of a packet: the 32-bit key epoch followed by the 64-bit packet count of its direction (R419). -/
def linkNonce (epoch count : Nat) : BitVec 96 := BitVec.ofNat 32 epoch ++ BitVec.ofNat 64 count
/-- The flits of a packet as an off-package port sends them: the header in clear, the data sealed, the tag (R419). -/
def Port.wire (x : Port) (k : LinkPacket) : List (BitVec 512) :=
  let hd := Config.headerFlit k.head
  let e := Config.gcmSeal x.txKey (linkNonce x.epoch x.sent) hd k.data
  hd :: e.1 ++ [e.2.setWidth 512]
/-- An off-package port sends a packet, which stays in its replay buffer until the far end has taken it. -/
def State.sendAt (s : State) (d p : Nat) (k : LinkPacket) : State :=
  s.modPort d p fun x => { x with out := x.out ++ [(k, x.wire k)], sent := x.sent + 1 }
/-- A packet at a die of the package goes on to another package by the port that its route leaves by. -/
def State.sendOn (s : State) (d : Nat) (k : LinkPacket) : State :=
  match s.route 16 d k.head with
  | some (hops, h) => match hops.getLast? with
    | some (x, p) => if s.portMode x p = 3 then s.sendAt x p { k with head := h } else s
    | none => s
  | none => s
/-- The route class and the requester of an engine's write: RPUT piece `k` takes the class of its path `k` mod P, and every
other transfer class 0 (R232, R415). -/
def State.senderOf (s : State) (o : ParkOwner) : Nat × Nat × Nat × Nat :=
  match o with
  | .rput d ctx place piece =>
    let n := ((s.die d).xf.rputs.find? fun r => r.ctx = ctx && r.place = place).map (·.paths)
    (piece % Nat.max 1 (n.getD 1), d, ctx, place)
  | .copy d ctx handle _ => (0, d, ctx, handle)
  | .face d ctx handle _ => (0, d, ctx, handle)
  | .coll d _ tag index => (0, d, tag, index)
  | .host => (0, 0, 0, 0) | .cleat ctx => (0, 0, ctx, 0) | .sched => (0, 0, 0, 0) | .writeBack _ => (0, 0, 0, 0)
/-- An engine's write to an address of a die of another package leaves in packets (R411, R415). -/
def State.sendAway (s : State) (f a : Nat) (bs : List Byte) (o : ParkOwner) : State :=
  let w := s.senderOf o
  (packetsOf { headerTo f w.1 with src := s.fabricDie w.2.1, ctx := w.2.2.1, index := w.2.2.2, addr := a } bs).foldl
    (fun s k => s.sendOn w.2.1 k) s
/-- The packets in the replay buffer of a port that the plan retires are sent on another port (R416). -/
def State.resendFrom (s : State) (d p : Nat) : State :=
  let ks := (s.portAt d p).out.map (·.1)
  ks.foldl (fun s k => s.sendOn d k) (s.modPort d p fun x => { x with out := [], rx := [] })

end Sys2Proof.Machine
end

