-- ==== Sys2Proof/Machine/Engine.lean ====
section
/-! DEFINITION. What engines do to memory: places, reads and writes with the faults they meet, carry windows opened and
waited for, and the element conversions of copies (R28, R29, R77, R219, R227, R338, R370, R379). -/

namespace Sys2Proof.Machine

/-! ### Places -/

/-- A place `n` bytes further on. -/
def Place.plus (p : Place) (n : Nat) : Place :=
  match p with
  | .spad d c o => .spad d c (o + n) | .wbuf d c o => .wbuf d c (o + n) | .vault d v o => .vault d v (o + n)
  | .dev d a => .dev d (a + n) | .host o => .host (o + n) | .away f a => .away f (a + n)
/-- The memory key of a place that is no device memory. -/
def State.placeKey (s : State) : Place → Option Nat
  | .spad d c o => some (spKey d c o) | .wbuf d c o => some (wbKey d c o) | .vault d v o => some (vaultKey d v o)
  | .host o => some (hostKey (s.host.winBase.toNat + o)) | .dev _ _ => none | .away _ _ => none
/-- The address of a place as a tensor identifier's BASE names it in its space (R221). -/
def Place.progAddr : Place → Nat
  | .spad _ c o => c / 96 * 4294967296 + c % 96 * 524288 + o
  | .wbuf _ c o => c * 4294967296 + o
  | .vault _ v o => v * 4194304 + o
  | .dev _ a => a
  | .host o => o
  | .away _ a => a
/-- The die of a place. -/
def Place.die? : Place → Option Nat
  | .spad d _ _ => some d | .wbuf d _ _ => some d | .vault d _ _ => some d | .dev d _ => some d
  | .host _ => none | .away _ _ => none
/-- A fault of an engine access: REASON 0 translation or 1 uncorrectable, and the device virtual address (R231). -/
structure EngFault where
  reason : Nat
  addr : Nat
  deriving DecidableEq, Repr
/-- The fault of a failed translation or read. -/
def engErr (e : XErr × Nat) : EngFault := { reason := if e.1 = .ecc then 1 else 0, addr := e.2 }
/-- The bytes lie in the host window (R338). -/
def State.inHostWin (s : State) (o n : Nat) : Bool := o + n ≤ s.host.winSize.toNat * 4096
/-- An engine of path class `cls` reads `n` bytes (R274). -/
def State.engGet (s : State) (cls : Nat) (p : Place) (n : Nat) : Except EngFault (List Byte) :=
  match p with
  | .dev d a => match s.dvaGet d a n with | .ok bs => .ok (s.dvaSeen cls d a bs) | .error e => .error (engErr e)
  | .host o =>
    if s.inHostWin o n then .ok (s.bytes (hostKey (s.host.winBase.toNat + o)) n) else .error { reason := 0, addr := o }
  | _ =>
    match s.placeKey p with
    | none => .error { reason := 0, addr := 0 }
    | some k => if s.badRead k n then .error { reason := 1, addr := p.progAddr + s.badOff k n } else .ok (s.seen cls k (s.bytes k n))
/-- An engine's read meets a write of its own that is parked, and waits for the replay (R370). -/
def State.engParked (s : State) (p : Place) (n : Nat) (f : ParkOwner → Bool) : Bool :=
  match p with | .dev d a => s.dvaParked d a n f | _ => false
/-- Writes joined where one ends at the place where the next begins. -/
def joinWrites : List (Place × List Byte) → List (Place × List Byte)
  | [] => []
  | w :: ws =>
    match joinWrites ws with
    | [] => [w]
    | q :: qs => if w.1.plus w.2.length = q.1 then (w.1, w.2 ++ q.2) :: qs else w :: q :: qs
/-- Every die's park buffer takes a list of writes (R370). -/
def State.parkFits (s : State) (ws : List (Place × List Byte)) : Bool :=
  (numsFrom 0 8).all fun d => s.parkRoom d ((ws.map fun w =>
    match w.1 with | .dev e a => if e = d then s.parkNeed d a w.2.length else 0 | _ => 0).foldl (· + ·) 0)
/-- Whether an engine can write `n` bytes. -/
def State.engCan (s : State) (p : Place) (n : Nat) : Except EngFault Unit :=
  match p with
  | .dev d a => match s.dvaCanPut d a n with | .ok _ => .ok () | .error e => .error (engErr e)
  | .host o => if s.inHostWin o n then .ok () else .error { reason := 0, addr := o }
  | _ => .ok ()
/-- An engine writes bytes; granule bits are the transfer's own affair. A Trellis block whose frame it writes becomes
dirty (R219), and what it writes at another package leaves in packets (R411). -/
def State.engPut (s : State) (p : Place) (bs : List Byte) (owner : ParkOwner) : State :=
  match p with
  | .dev d a => s.dvaPut d a bs owner
  | .vault d v o => (s.putBy owner.path d (vaultKey d v o) bs).dirtyAt d (vaultKey d v o) bs.length
  | .away f a => s.sendAway f a bs owner
  | _ => match s.placeKey p with | none => s | some k => s.putBy owner.path (p.die?.getD 8) k bs
/-- Performs or parks a list of writes of one owner. -/
def State.engPutAll (s : State) (ws : List (Place × List Byte)) (owner : ParkOwner) : State :=
  ws.foldl (fun s w => s.engPut w.1 w.2 owner) s
/-- Reads joined where one ends at the place where the next begins. -/
def joinReads : List (Place × Nat) → List (Place × Nat)
  | [] => []
  | r :: rs =>
    match joinReads rs with
    | [] => [r]
    | q :: qs => if r.1.plus r.2 = q.1 then (r.1, r.2 + q.2) :: qs else r :: q :: qs
/-- What an ordinary read of device memory writes back (R395, R401). -/
def State.engScrub (s : State) (p : Place) (n : Nat) : State := match p with | .dev d a => s.dvaScrub d a n true | _ => s
/-- The same for a list of reads. -/
def State.engScrubAll (s : State) (rs : List (Place × Nat)) : State :=
  (joinReads rs).foldl (fun s r => s.engScrub r.1 r.2) s.looked
/-- The granules of a place that carry full/empty bits. -/
def placeGranules (p : Place) (n : Nat) : List Nat :=
  match p with
  | .spad d c o => granulesOf (spKey d c o) n
  | .vault d v o => granulesOf (vaultKey d v o) n
  | _ => []
/-- The byte ranges of a place, as carry-window keys (R28). -/
def State.placeRanges (s : State) (p : Place) (n : Nat) (u : XUse) : List (Nat × Nat) :=
  match p with
  | .dev d a => s.dvaRanges d a n u
  | .host _ => []
  | _ => match s.placeKey p with | none => [] | some k => [(k, n)]
/-- An engine access waits: a carry window of another transfer, opened before its own windows, which `own` picks, covers
a byte (R29), the frame written is being filled (R219), or a diagnostic packet holds its requests (R392, R393). -/
def State.engHeld (s : State) (own : Nat → Bool) (p : Place) (n : Nat) (u : XUse) : Bool :=
  match p.die? with
  | none => false
  | some d =>
    ((s.placeRanges p n u).any fun r => s.windowMeetsOther own d r.1 r.2) ||
      (u = .write && match p with | .vault d v o => s.fillingAt d (vaultKey d v o) n | _ => false) ||
      match p with | .dev d a => s.dvaHeld d a n u | _ => false

/-! ### Opening carry windows (R28) -/

/-- Free windows of a die. -/
def State.freeWindows (s : State) (d : Nat) : Nat := 256 - (s.die d).xf.windows.length
/-- Opens a window at a die. -/
def State.openWindow (s : State) (d owner : Nat) (dst : Bool) (ranges : List (Nat × Nat)) : State :=
  s.modXf d fun x => { x with windows := x.windows ++ [{
    owner := owner, dst := dst, boundary := s.hy.phc.toNat + 2, ranges := ranges }] }
/-- The key of the next carry transfer of a die. -/
def State.nextOwner (s : State) (d : Nat) : Nat := d + 8 * (s.die d).xf.nextKey
/-- Counts a carry transfer's key as used. -/
def State.useOwner (s : State) (d : Nat) : State := s.modXf d fun x => { x with nextKey := x.nextKey + 1 }
/-- Byte ranges joined where one ends where the next begins. -/
def joinRanges : List (Nat × Nat) → List (Nat × Nat)
  | [] => []
  | r :: rs =>
    match joinRanges rs with
    | [] => [r]
    | q :: qs => if r.1 + r.2 = q.1 then (r.1, r.2 + q.2) :: qs else r :: q :: qs

/-! ### Entries as engines read them (R221, R222) -/

/-- The byte offset of an element, or of the block that holds it, from BASE. -/
def elemOff (e : BitVec 512) (xs : List Int) : Int :=
  (xs.mapIdx fun a x => (if tidFmt e = 8 && a = tidAxis e then x / 32 else x) * tidStr e a).foldl (· + ·) 0
/-- The place at an offset from BASE on a die; `host` reads BASE as an offset in the host window (R225). A place at another
package's die is known by its space and its address there. -/
def entPlace (d : Nat) (e : BitVec 512) (host : Bool) (off : Int) : Place :=
  if d ≥ 8 then .away (d - 8) (tidSpace e * 2 ^ 62 + ((fieldAt e 0 57 : Int) + off).toNat)
  else match tidSpace e with
  | 0 =>
    let a := ((fieldAt e 0 64 : Int) + off).toNat
    if host then .host a else .dev d a
  | 1 => .spad d (fieldAt e 32 3 * 96 + fieldAt e 19 7) ((fieldAt e 0 19 : Int) + off).toNat
  | 2 => .vault d (fieldAt e 22 8) ((fieldAt e 0 22 : Int) + off).toNat
  | _ => .wbuf d (fieldAt e 32 10) ((fieldAt e 0 17 : Int) + off).toNat
/-- Coordinates inside an entry's extents. -/
def inExt (e : BitVec 512) (xs : List Int) : Bool := (xs.mapIdx fun a (x : Int) => 0 ≤ x && x < (tidExt e a : Int)).all id

/-! ### Conversion (R227) -/

/-- The integer formats of codes 0 to 3 and the IEEE formats of codes 4 to 7. -/
def intBits (f : Nat) : Nat := 8 * 2 ^ f
/-- The IEEE format of a code. -/
def fltOf : Nat → FFmt | 4 => .bf16 | 5 => .f16 | 6 => .f32 | _ => .f64
/-- An element converted between IEEE and integer formats in RNE. -/
def convElem (sf df x : Nat) : Nat :=
  if sf = df then x
  else if sf < 4 then
    if df < 4 then (toWidth (intBits df) (signedOf (intBits sf) x)).toNat
    else (cvtIF (fltOf df) .rne (signedOf (intBits sf) x)).1
  else if df < 4 then (cvtFI (intBits df) (fltOf sf) .rne x).1
  else (cvtFF (fltOf df) (fltOf sf) .rne x).1

/-! ### Faults that wait for room (R351) -/

/-- Whether a deferred fault of a context can arise now: its queue of 32 has room, or it is Idle. -/
def State.roomFor (s : State) (g : CtxId) : Bool := (s.ctx g).st = .idle || (s.ctx g).held.length < 32

end Sys2Proof.Machine
end

