-- ==== Sys2Proof/Machine/Copy.lean ====
section
/-! DEFINITION. Copies: CPY, CWAIT, CTEST, CCANCEL, the landing of chunks and the faults of copies and remote puts; and
the tensor identifier instructions (R221 to R231, R238). -/

namespace Sys2Proof.Machine

/-! ### The stream of a copy (R225 to R229) -/

/-- The box extent along axis `a`. -/
def ehBox (eh : BitVec 256) (a : Nat) : Nat := fieldAt eh (32 + 32 * a) 24
/-- The interleave factor F. -/
def ehF (eh : BitVec 256) : Nat := if fieldAt eh 160 7 ≤ 1 then 1 else fieldAt eh 160 7
/-- IMODE: 0 none, 1 pack, 2 unpack. -/
def ehMode (eh : BitVec 256) : Nat := fieldAt eh 168 2
/-- Coordinate `a` of the source or destination start. -/
def coordOf (r : BitVec 512) (dst : Bool) (a : Nat) : Int := sfieldAt r ((if dst then 256 else 0) + 32 * a) 32
/-- The number of elements along the stream's axis 0 (R226). -/
def streamExt0 (eh : BitVec 256) : Nat :=
  if ehMode eh = 1 && !eh.getLsbD 170 then ceilDiv (ehBox eh 0) (ehF eh) * ehF eh else ehBox eh 0
/-- A copy moves whole blocks: both ends hold blocks of the same width and axis. -/
def sameFmt (se de : BitVec 512) : Bool :=
  tidFmt se = tidFmt de && (tidFmt se ≠ 8 || (tidWidth se = tidWidth de && tidAxis se = tidAxis de))
/-- The extents of the stream in units: elements, or blocks along the destination's block axis. -/
def streamUnits (de : BitVec 512) (eh : BitVec 256) : List Nat :=
  [streamExt0 eh, ehBox eh 1, ehBox eh 2, ehBox eh 3].mapIdx fun a n =>
    if tidFmt de = 8 && a = tidAxis de then ceilDiv n 32 else n
/-- L: the bytes of the stream (R229). -/
def streamLen (de : BitVec 512) (eh : BitVec 256) : Nat := (streamUnits de eh).foldl (· * ·) 1 * tidUnit de
/-- The least shift s with 512 × 512 × 2^s ≥ L, from `s` upward. -/
def chunkShift (l : Nat) : Nat → Nat → Nat
  | 0, s => s
  | fuel + 1, s => if 262144 * 2 ^ s ≥ l then s else chunkShift l fuel (s + 1)
/-- The chunk size C. -/
def Copy.chunk (c : Copy) : Nat := 512 * 2 ^ c.shift
/-- The number of chunks. -/
def Copy.chunks (c : Copy) : Nat := ceilDiv c.len c.chunk
/-- Box position of unit `u` (R226). -/
def Copy.pos (c : Copy) (u : Nat) : List Nat :=
  let n := streamUnits c.dstEnt c.eh
  let n0 := n[0]?.getD 1
  let n1 := n[1]?.getD 1
  let n2 := n[2]?.getD 1
  let q := [u % n0, u / n0 % n1, u / (n0 * n1) % n2, u / (n0 * n1 * n2)]
  q.mapIdx fun a x => if tidFmt c.dstEnt = 8 && a = tidAxis c.dstEnt then 32 * x else x
/-- Source coordinates of box position `p`. -/
def Copy.srcAt (c : Copy) (p : List Nat) : List Int :=
  let f := ehF c.eh
  let p0 := p[0]?.getD 0
  let unpack := ehMode c.eh = 2
  [coordOf c.coords false 0 + (if unpack then p0 % f else p0 : Nat), coordOf c.coords false 1 + (p[1]?.getD 0 : Nat),
    coordOf c.coords false 2 + (p[2]?.getD 0 : Nat), coordOf c.coords false 3 + (p[3]?.getD 0 : Nat),
    coordOf c.coords false 4 + (if unpack then p0 / f else 0 : Nat)]
/-- Destination coordinates of box position `p`. -/
def Copy.dstAt (c : Copy) (p : List Nat) : List Int :=
  let f := ehF c.eh
  let p0 := p[0]?.getD 0
  let pack := ehMode c.eh = 1
  [coordOf c.coords true 0 + (if pack then p0 % f else p0 : Nat), coordOf c.coords true 1 + (p[1]?.getD 0 : Nat),
    coordOf c.coords true 2 + (p[2]?.getD 0 : Nat), coordOf c.coords true 3 + (p[3]?.getD 0 : Nat),
    coordOf c.coords true 4 + (if pack then p0 / f else 0 : Nat)]
/-- The place of a source element. -/
def Copy.srcPlace (c : Copy) (d : Nat) (xs : List Int) : Place :=
  entPlace d c.srcEnt c.srcHost (elemOff c.srcEnt xs)
/-- The place of a destination unit. -/
def Copy.dstPlace (c : Copy) (xs : List Int) : Place := entPlace c.dstDie c.dstEnt c.dstHost (elemOff c.dstEnt xs)
/-- The box positions of the elements of a unit of a block destination (R227). -/
def Copy.elems (c : Copy) (p : List Nat) : List (List Nat) :=
  let k := tidAxis c.dstEnt
  (List.range 32).map fun i => p.mapIdx fun a x => if a = k then x + i else x
/-- A source element exists: it lies in the box and inside the extents (R226). -/
def Copy.present (c : Copy) (p : List Nat) : Bool := (p[0]?.getD 0) < ehBox c.eh 0 && inExt c.srcEnt (c.srcAt p)
/-- FILL as bits and as an FP32 datum. -/
def Copy.fill (c : Copy) : Nat := fieldAt c.eh 192 64
/-- A fault of a copy: SIDE, the access fault and the coordinates of that side (R231). -/
structure CopyFault where
  side : Nat
  f : EngFault
  xs : List Int
/-- The datum of a source element, for a block destination; outside the box or past the destination's extent 0. -/
def Copy.datum (c : Copy) (s : State) (d : Nat) (p : List Nat) : Except CopyFault FVal :=
  if (p[0]?.getD 0) ≥ ehBox c.eh 0 || !inExt c.dstEnt (c.dstAt p) then .ok (.fin false 0 0)
  else if !c.present p then .ok (unpack .f32 (c.fill % 4294967296))
  else
    let xs := c.srcAt p
    match s.engGet 3 (c.srcPlace d xs) (tidUnit c.srcEnt) with
    | .error f => .error { side := 0, f := f, xs := xs }
    | .ok bs => .ok (unpack (fltOf (tidFmt c.srcEnt)) (leNat bs))
/-- Collects data, or the first fault. -/
def allData {α : Type} : List (Except CopyFault α) → Except CopyFault (List α)
  | [] => .ok []
  | x :: xs =>
    match x with
    | .error f => .error f
    | .ok v => match allData xs with | .error f => .error f | .ok vs => .ok (v :: vs)
/-- Which elements of a block at box position `p` the destination's extent holds; the others are missing (R89). -/
def Copy.holdsElem (c : Copy) (p : List Nat) (i : Nat) : Bool :=
  inExt c.dstEnt ((c.dstAt p).mapIdx fun a x => if a = tidAxis c.dstEnt then x + i else x)
/-- FILL as the 32 data of a block at box position `p`; those past the destination's extent are missing, with mantissa
zero (R89, R226). -/
def Copy.fillBlock (c : Copy) (p : List Nat) : List FVal :=
  (List.range 32).map fun (i : Nat) =>
    if c.holdsElem p i then unpack .f32 (c.fill % 4294967296) else .fin false 0 0
/-- A block's bytes with the mantissas of the missing elements zero (R89). -/
def trimBlock (w : Nat) (keep : Nat → Bool) (bs : List Byte) : List Byte :=
  match bs with
  | [] => []
  | e :: r => e :: leBytes (4 * w) (packMants w ((List.range 32).map fun i =>
      if keep i then signedOf w (leNat r / 2 ^ (w * i) % 2 ^ w) else 0))
/-- The bytes of a unit (R226, R227). A block moves whole, as its first element says: whether a block that lies only
partly inside the source's extent should, the spec does not say (log 42). Elements beyond the destination's extent have
mantissa zero (R89). -/
def Copy.value (c : Copy) (s : State) (d : Nat) (p : List Nat) : Except CopyFault (List Byte) :=
  let xs := c.srcAt p
  let get := fun n => match s.engGet 3 (c.srcPlace d xs) n with
    | .error f => (.error { side := 0, f := f, xs := xs } : Except CopyFault (List Byte))
    | .ok bs => .ok bs
  if tidFmt c.dstEnt = 8 then
    if sameFmt c.srcEnt c.dstEnt then
      if c.present p then
        match get (tidUnit c.srcEnt) with
        | .error f => .error f
        | .ok bs => .ok (if (List.range 32).all (c.holdsElem p) then bs else trimBlock (tidWidth c.dstEnt) (c.holdsElem p) bs)
      else
        let q := quantise (tidWidth c.dstEnt) .rne (c.fillBlock p)
        .ok (blockBytes (tidWidth c.dstEnt) q.1 q.2.1)
    else
      match allData ((c.elems p).map (c.datum s d)) with
      | .error f => .error f
      | .ok vs =>
        let q := quantise (tidWidth c.dstEnt) .rne vs
        .ok (blockBytes (tidWidth c.dstEnt) q.1 q.2.1)
  else if !c.present p then .ok (leBytes (tidUnit c.dstEnt) c.fill)
  else if tidFmt c.srcEnt = 8 then
    match get (tidUnit c.srcEnt) with
    | .error f => .error f
    | .ok bs =>
      let v := blockElem (tidWidth c.srcEnt) bs ((xs[0]?.getD 0) % 32).toNat
      .ok (leBytes (tidUnit c.dstEnt) (roundVal (fltOf (tidFmt c.dstEnt)) .rne v).1)
  else
    match get (tidUnit c.srcEnt) with
    | .error f => .error f
    | .ok bs => .ok (leBytes (tidUnit c.dstEnt) (convElem (tidFmt c.srcEnt) (tidFmt c.dstEnt) (leNat bs)))
/-- The number of units. -/
def Copy.units (c : Copy) : Nat := c.len / tidUnit c.dstEnt
/-- The units of which chunk `q` holds bytes. -/
def Copy.unitsOf (c : Copy) (q : Nat) : List Nat :=
  let u := tidUnit c.dstEnt
  let a := q * c.chunk / u
  let b := Nat.min c.units (ceilDiv ((q + 1) * c.chunk) u)
  numsFrom a (b - a)
/-- The places that a unit reads, with their lengths. -/
def Copy.reads (c : Copy) (d : Nat) (p : List Nat) : List (Place × Nat) :=
  let ps := if tidFmt c.dstEnt = 8 && !sameFmt c.srcEnt c.dstEnt then c.elems p else [p]
  (ps.filter c.present).map fun p => (c.srcPlace d (c.srcAt p), tidUnit c.srcEnt)
/-- The stream bytes of unit `u` that lie in chunk `q`, as their place in the unit: first byte and length. -/
def Copy.span (c : Copy) (q u : Nat) : Nat × Nat :=
  let n := tidUnit c.dstEnt
  let lo := Nat.max (u * n) (q * c.chunk)
  let hi := Nat.min ((u + 1) * n) ((q + 1) * c.chunk)
  (lo - u * n, hi - lo)
/-- Where unit `u` is written, unless it is dropped (R226). -/
def Copy.target (c : Copy) (u : Nat) : Option Place :=
  let xs := c.dstAt (c.pos u)
  if inExt c.dstEnt xs then some (c.dstPlace xs) else none
/-- The keys that the bytes of a unit take in the destination, for overlap and granules: an SRAM key or a device
address. -/
def State.unitKey (s : State) (p : Place) : Nat :=
  match p with | .dev d a => devNodeKey d a | _ => (s.placeKey p).getD 0
/-- The (stream byte, key) pairs of the units from `u` upward, `n` of them. -/
def Copy.cellsFrom (c : Copy) (s : State) (u : Nat) : Nat → List (Nat × Nat)
  | 0 => []
  | n + 1 =>
    (match c.target u with
      | none => []
      | some p => (List.range (tidUnit c.dstEnt)).map fun i => (u * tidUnit c.dstEnt + i, s.unitKey p + i)) ++
    c.cellsFrom s (u + 1) n
/-- Bytes of unit `u` that a later element of a chunk already landed or parked has written (R226): where two written
elements overlap the later remains. -/
def Copy.overwritten (c : Copy) (s : State) (u i : Nat) (p : Place) : Bool :=
  let made := c.landed ++ c.parked
  made.any (fun q => q ≥ u * tidUnit c.dstEnt / c.chunk) &&
    (c.cellsFrom s (u + 1) (c.units - (u + 1))).any fun x =>
      x.2 = s.unitKey p + i && made.contains (x.1 / c.chunk)
/-- Granules of the destination that chunk `q` writes and that wait for no other chunk (R228). -/
def Copy.readyGranules (c : Copy) (s : State) (q : Nat) : List Nat :=
  let all := c.cellsFrom s 0 c.units
  let mine := (c.unitsOf q).flatMap fun u => match c.target u with
    | none => []
    | some p => let r := c.span q u; placeGranules (p.plus r.1) r.2
  mine.filter fun g => all.all fun x => x.2 / 16 ≠ g || x.1 / c.chunk = q || c.landed.contains (x.1 / c.chunk)

/-! ### Issue (R225 to R228, R253) -/

/-- The two ends are compatible under R227. -/
def blockCompat (se de : BitVec 512) (eh : BitVec 256) (r : BitVec 512) : Bool :=
  let sf := tidFmt se
  let df := tidFmt de
  if sf ≠ 8 && df ≠ 8 then true
  else if sf = 8 && df = 8 then
    let k := tidAxis se
    let n : Nat := if k < 4 then ehBox eh k else 1
    sameFmt se de && coordOf r false k % 32 = 0 && coordOf r true k % 32 = 0 &&
      (n % 32 = 0 || (coordOf r false k + n = tidExt se k && coordOf r true k + n = tidExt de k))
  else if df = 8 then
    sf ≥ 4 && tidAxis de = 0 && coordOf r true 0 % 32 = 0 &&
      (ehBox eh 0 % 32 = 0 || coordOf r true 0 + ehBox eh 0 = tidExt de 0)
  else df ≥ 4 && tidAxis se = 0 && coordOf r false 0 % 32 = 0
/-- The interleave rules of R226 that the destination entry takes part in. -/
def ilvCompat (se de : BitVec 512) (eh : BitVec 256) : Bool :=
  (ehMode eh ≠ 1 || tidExt de 0 = ehF eh) && (ehMode eh = 0 || (tidFmt se = tidFmt de && tidFmt de ≠ 8))
/-- What a CPY reads at issue: record address, record, eh register and entries. -/
structure CpyIn where
  key : Option Nat
  rec_ : BitVec 512
  eh : BitVec 256
  se : BitVec 512
  de : BitVec 512
  ddie : Option Nat
  gone : Bool
/-- The operands of a CPY. The entry of a die of another package is not seen: a free value (log 12). `gone` says that the
destination die has been declared lost (R225). -/
def State.cpyIn (s : State) (a : Src) (h : Fin 4) (sw : Bool) : CpyIn :=
  let d := s.cur.die
  let eh := s.cx.shape (ehIdx h) sw
  let k := s.ownKey (s.cx.sval a).toNat 64
  let dd := if eh.getLsbD 188 then s.domainDie (fieldAt eh 176 12) else some d
  let de := match dd with
    | none => 0
    | some x => if x < 8 then s.tid x (fieldAt eh 16 12) else s.freeBits 512
  { key := k, rec_ := BitVec.ofNat 512 ((k.map fun k => s.rd k 64).getD 0), eh := eh
    se := s.tid d (fieldAt eh 0 12), de := de, ddie := dd, gone := eh.getLsbD 188 && dd.any s.dieGone }
/-- DHOST and SHOST: they act on an entry of SPACE 0 alone (R225). -/
def CpyIn.dstHost (x : CpyIn) : Bool := x.eh.getLsbD 189 && tidSpace x.de = 0
/-- The source end lies in the host window. -/
def CpyIn.srcHost (x : CpyIn) : Bool := x.eh.getLsbD 190 && tidSpace x.se = 0
/-- The remote destination entry ends the copy at once: it is invalid, or not block-compatible (R239); a copy to a lost die
ends with LOST set instead (R225, R238). -/
def CpyIn.dead (x : CpyIn) : Bool :=
  x.eh.getLsbD 188 && !x.gone && (!tidValid x.de || !blockCompat x.se x.de x.eh x.rec_)
/-- An entry names the scratchpad or the weight buffer of a core that a live die has retired (R380). -/
def State.entRetired (s : State) (d : Nat) (e : BitVec 512) : Bool :=
  s.dieAlive d && match tidSpace e with
    | 1 => !s.coreAlive d (fieldAt e 32 3 * 96 + fieldAt e 19 7)
    | 3 => !s.coreAlive d (fieldAt e 32 10)
    | _ => false
/-- The copy ends CANCELLED as it is accepted (R239, R380). -/
def State.cpyEnds (s : State) (x : CpyIn) : Bool :=
  x.dead || s.entRetired s.cur.die x.se || s.entRetired (x.ddie.getD s.cur.die) x.de
/-- The destination entry breaks the interleave rules of R226, or, at the issuing die, those of R227. -/
def CpyIn.odd (x : CpyIn) : Bool :=
  if x.eh.getLsbD 188 then !x.gone && tidValid x.de && !ilvCompat x.se x.de x.eh
  else !ilvCompat x.se x.de x.eh || !blockCompat x.se x.de x.eh x.rec_
/-- A copy as it is accepted. One with DREM whose DDIE is the issuing die is a copy into the die's own memory: the spec
names only its form remote (R77, R228, log 59). -/
def State.newCopy (s : State) (x : CpyIn) (handle : Nat) (carry : Option Nat) : Copy :=
  let l := if x.dead then 0 else streamLen x.de x.eh
  { ctx := s.cur.inDie, handle := handle, tpc := s.cx.pc, srcEnt := x.se, dstEnt := x.de
    srcId := fieldAt x.eh 0 12, dstId := fieldAt x.eh 16 12, eh := x.eh, coords := x.rec_
    dstDie := x.ddie.getD s.cur.die, srcHost := x.srcHost, dstHost := x.dstHost
    remote := x.eh.getLsbD 188 && x.ddie ≠ some s.cur.die, len := l, shift := chunkShift l 24 0, landed := [], parked := [], fault := none
    lost := false, skipped := false, cancelled := s.cpyEnds x, ended := s.cpyEnds x, carry := carry
    phase := s.hy.phc.toNat, node := match s.cx.item with | none => false | some it => it.node.isSome }
/-- The written places of a copy, unit by unit. -/
def Copy.targets (c : Copy) : List Place := (List.range c.units).filterMap c.target
/-- Granules that a copy into the issuing die's scratchpads or vaults writes (R228). -/
def Copy.granules (c : Copy) : List Nat := c.targets.flatMap fun p => placeGranules p (tidUnit c.dstEnt)
/-- The first byte a copy into the die's own memory writes outside a node's regions (R253). -/
def Copy.nodeCheck (c : Copy) (s : State) : Option Trap :=
  if c.remote || c.dstHost then none
  else firstTrap (fun (p : Place) =>
    s.cx.nodeCheck .en (s.unitKey p) (tidUnit c.dstEnt) (match p with
      | .spad _ k o => k % 96 * 524288 + o
      | .vault _ v o => v * 4194304 + o
      | .dev _ a => a
      | .wbuf _ _ o => o
      | _ => 0)) c.targets
/-- The issue checks of CPY. -/
def cpyCheck (a : Src) (h : Fin 4) (sw : Bool) (s : State) : Option Trap :=
  let x := s.cpyIn a h sw
  let trap := fun (c : Cause) => some { cause := c, slot := Slot.en.num : Trap }
  match x.key with
  | none => trap .access
  | some k =>
    if s.badRead k 64 then some (enTrapKeep .eccUncorrectable)
    else if ((List.range 4).any fun i => ehBox x.eh i = 0) || fieldAt x.eh 160 7 > 64 || ehMode x.eh = 3 then trap .access
    else if x.ddie.isNone then trap .access
    else if !tidValid x.se || (!x.eh.getLsbD 188 && !tidValid x.de) then trap .tidInvalid
    else if tidSpace x.se = 3 || (ehMode x.eh ≠ 0 && ehF x.eh = 1) ||
        (ehMode x.eh = 2 && tidExt x.se 0 ≠ ehF x.eh) || (ehMode x.eh ≠ 0 && tidFmt x.se = 8) then trap .access
    else if x.odd then trap .access
    else if !x.dead && streamLen x.de x.eh > 4294967296 then trap .access
    else (s.newCopy x 0 none).nodeCheck s
/-- The lowest free handle of the current context among `n` (R225). -/
def freeHandle (used : List Nat) (n : Nat) : Option Nat := (List.range n).find? fun h => !used.contains h
/-- The copy handles that the current context uses. -/
def State.myHandles (s : State) : List Nat :=
  (s.myDie.xf.copies.filter fun c => c.ctx = s.cur.inDie).map (·.handle)
/-- Windows that a carry transfer from the current die to die `t` needs are free (R28); those of another package are not
seen. -/
def State.carryRoom (s : State) (t : Nat) (dst src : Bool) : Bool :=
  let a := if src then 1 else 0
  let b := if dst && t < 8 then 1 else 0
  if t = s.cur.die then s.freeWindows t ≥ a + b else (t ≥ 8 || s.freeWindows t ≥ b) && s.freeWindows s.cur.die ≥ a
/-- A CPY blocks: no free handle, or no free carry window. -/
def cpyBlocks (a : Src) (h : Fin 4) (sw carry : Bool) (s : State) : Option (State × Wait) :=
  let x := s.cpyIn a h sw
  if (freeHandle s.myHandles 16).isNone then some (s, .stall)
  else if carry && !s.cpyEnds x && !s.carryRoom (x.ddie.getD 0) (!x.dstHost) (!x.srcHost) then
    some (s, .stall)
  else none
/-- Opens the windows of a carry copy and sets its destination granules empty (R28). -/
def State.copyWindows (s : State) (d : Nat) (c : Copy) (owner : Nat) : State :=
  let units := List.range c.units
  let dst := c.targets.flatMap fun p => s.placeRanges p (tidUnit c.dstEnt) .write
  let src := units.flatMap fun u => (c.reads d (c.pos u)).flatMap fun r => s.placeRanges r.1 r.2 .read
  let s1 := if c.dstHost || c.dstDie ≥ 8 then s else s.openWindow c.dstDie owner true (joinRanges dst)
  let s2 := if c.srcHost then s1 else s1.openWindow d owner false (joinRanges src)
  s2.setEmpty c.granules
/-- Accepts a CPY: the handle, the copy, its windows, and its destination granules empty where they are the die's
own (R225, R228). -/
def State.cpyAccept (s : State) (pre : State) (a : Src) (h : Fin 4) (carry sw : Bool) : State × Dword :=
  let d := pre.cur.die
  let x := pre.cpyIn a h sw
  match freeHandle pre.myHandles 16 with
  | none => (s, 0)
  | some n =>
    let owner := if carry && !pre.cpyEnds x then some (s.nextOwner d) else none
    let c := pre.newCopy x n owner
    let s0 := if c.dstDie < 8 then s else s.tickFree
    let s1 := s0.modXf d fun y => { y with copies := y.copies ++ [c] }
    let s2 := match owner with
      | some k => (s1.copyWindows d c k).useOwner d
      | none => if c.ended || c.remote || c.dstHost then s1 else s1.setEmpty c.granules
    (s2, BitVec.ofNat 64 n)
/-- CPY may not be issued in this superstep (R24, R25). -/
def cpyPhase (h : Fin 4) (sw carry : Bool) (s : State) : Bool :=
  let eh := s.cx.shape (ehIdx h) sw
  s.isBallast || (!s.exchange && (carry || eh.getLsbD 189 || eh.getLsbD 190 ||
    (eh.getLsbD 188 && s.dieOfFabric (fieldAt eh 176 12) ≠ some s.cur.die)))

/-! ### Completion (R230) -/

/-- The copy of a handle of the current context. -/
def State.myCopy (s : State) (h : Nat) : Option Copy :=
  s.myDie.xf.copies.find? fun c => c.ctx = s.cur.inDie && c.handle = h
/-- The chunks that a mask selects. -/
def Copy.masked (c : Copy) (m : Vec) : List Nat := (List.range c.chunks).filter fun q => q < 512 && m.getLsbD q
/-- The status word (R230). -/
def Copy.status (c : Copy) (m : Vec) : Dword :=
  let sel := c.masked m
  BitVec.ofNat 64 ((sel.filter fun q => c.landed.contains q).length + 65536 * sel.length + 4294967296 * c.chunks +
    2 ^ 48 * c.shift + (if c.lost then 2 ^ 60 else 0) + (if c.skipped then 2 ^ 61 else 0) +
    (if c.cancelled then 2 ^ 62 else 0) + (if c.ended then 2 ^ 63 else 0))
/-- The status of a free handle. -/
def freeStatus : Dword := 0x8000000000000000
/-- CWAIT's and CTEST's result: the status word, and the handle freed where DONE is 1. -/
def State.copyStatus (s : State) (h : Nat) (m : Vec) : State × Dword :=
  match s.myCopy h with
  | none => (s, freeStatus)
  | some c =>
    (if c.ended then s.modXf s.cur.die fun x => { x with
      copies := dropWhere x.copies fun y => y.ctx = s.cur.inDie && y.handle = h } else s, c.status m)
/-- A handle above the limit traps ACCESS. -/
def handleCheck (a : Src) (n : Nat) (s : State) : Option Trap :=
  if (s.cx.sval a).toNat ≥ n then some { cause := .access, slot := Slot.en.num } else none
/-- CWAIT and CTEST. -/
def copyTest (d : Dst) (a b : Src) : Syl :=
  { slot := .en, vregs := vregsOf [b], latches := latchesOf [a, b], dest := d.map fun n => (.s, n.val)
    phase := phaseMember, check := handleCheck a 16
    perform := fun e s =>
      let r := s.copyStatus (e.pre.cx.sval a).toNat (e.pre.cx.vvalInt 64 b)
      .ok { st := { r.1 with cx := r.1.cx.outS 7 d r.2 } } }

/-- CPY (R225 to R229) -/
def actCpy (d : Dst) (a : Src) (eh : Fin 4) (carry : Bool) (sw : Bool) : Syl :=
  { slot := .en, latches := latchesOf [a], dest := d.map fun n => (.s, n.val)
    swap := if sw then some (ehIdx eh) else none, phase := cpyPhase eh sw carry, check := cpyCheck a eh sw
    blocks := cpyBlocks a eh sw carry
    perform := fun e s =>
      let r := s.cpyAccept e.pre a eh carry sw
      let c := r.1.cx.outS 7 d r.2
      .ok { st := { r.1 with cx := if sw then c.swapShape (ehIdx eh) else c } } }
/-- CPY, alone in its bundle. -/
def execCpy (d : Dst) (a : Src) (eh : Fin 4) (carry : Bool) (sw : Bool) (s : State) : Host.Outcome State Fault Refusal :=
  issueOne (actCpy d a eh carry sw) s

/-- CWAIT (R230) -/
def actCwait (d : Dst) (a : Src) (b : Src) : Syl :=
  { copyTest d a b with
    blocks := fun s => match s.myCopy (s.cx.sval a).toNat with
      | none => none
      | some c =>
        if c.ended || (c.masked (s.cx.vvalInt 64 b)).all fun q => c.landed.contains q then none
        else some (s, .stall) }
/-- CWAIT, alone in its bundle. -/
def execCwait (d : Dst) (a : Src) (b : Src) (s : State) : Host.Outcome State Fault Refusal :=
  issueOne (actCwait d a b) s

/-- CTEST (R230) -/
def actCtest (d : Dst) (a : Src) (b : Src) : Syl :=
  copyTest d a b
/-- CTEST, alone in its bundle. -/
def execCtest (d : Dst) (a : Src) (b : Src) (s : State) : Host.Outcome State Fault Refusal :=
  issueOne (actCtest d a b) s

/-- CCANCEL (R230): no further chunk starts -/
def actCcancel (a : Src) : Syl :=
  { slot := .en, latches := latchesOf [a], phase := phaseMember, check := handleCheck a 16
    perform := fun e s => .ok { st := s.abortXfer s.cur (some (.cpy (e.pre.cx.sval a).toNat)) } }
/-- CCANCEL, alone in its bundle. -/
def execCcancel (a : Src) (s : State) : Host.Outcome State Fault Refusal :=
  issueOne (actCcancel a) s

/-! ### Landing and faults (R228, R229, R231, R238) -/

/-- Replaces a copy. -/
def State.setCopy (s : State) (d : Nat) (c : Copy) : State :=
  s.modXf d fun x => { x with copies := mapWhere x.copies (fun y => y.ctx = c.ctx && y.handle = c.handle) fun _ => c }
/-- Chunk `q` has landed: its granules fill, and the copy ends after its last chunk (R77, R228, R229). A cancelled
copy ends once no chunk is in flight. -/
def State.copyLanded (s : State) (d : Nat) (c : Copy) (q : Nat) : State :=
  let c1 := { c with landed := setIns c.landed q, parked := dropWhere c.parked fun x => x = q }
  let c2 := { c1 with ended := c1.landed.length ≥ c1.chunks || (c1.cancelled && c1.parked.isEmpty) }
  let s1 := (s.setFull (c.readyGranules s q)).setCopy d c2
  if c2.ended then s1.closeWindows c2.carry else s1
/-- The windows of a carry transfer. -/
def ownWindows (carry : Option Nat) (k : Nat) : Bool := carry = some k
/-- Whether an access of chunk `q` waits (R29, R219), or a read of it for the replay of a copy's parked bytes (R370). -/
def State.chunkHeld (s : State) (d : Nat) (c : Copy) (q : Nat) : Bool :=
  (c.unitsOf q).any fun u =>
    ((c.reads d (c.pos u)).any fun r =>
      s.engHeld (ownWindows c.carry) r.1 r.2 .read || s.engParked r.1 r.2 ParkOwner.isCopy) ||
      (match c.target u with
        | none => false
        | some p => let r := c.span q u; s.engHeld (ownWindows c.carry) (p.plus r.1) r.2 .write)
/-- The write of a unit's bytes in chunk `q`, or the fault that it meets. -/
def State.unitWrite (s : State) (d : Nat) (c : Copy) (q u : Nat) : Except CopyFault (Option (Place × List Byte)) :=
  let p := c.pos u
  match c.target u with
  | none => .ok none
  | some t =>
    match c.value s d p with
    | .error f => .error f
    | .ok bs =>
      let r := c.span q u
      match s.engCan (t.plus r.1) r.2 with
      | .error f => .error { side := 1, f := f, xs := c.dstAt p }
      | .ok _ => .ok (some (t.plus r.1, (bs.drop r.1).take r.2))
/-- The writes of chunk `q`, or its first fault. -/
def State.chunkWrites (s : State) (d : Nat) (c : Copy) (q : Nat) : Except CopyFault (List (Option (Place × List Byte))) :=
  allData ((c.unitsOf q).map fun u => s.unitWrite d c q u)
/-- The bytes of a write of unit `u` from its byte `i` that no later landed element covers, as single bytes where one
does. -/
def Copy.keep (c : Copy) (s : State) (u : Nat) (w : Place × List Byte) (i0 : Nat) : List (Place × List Byte) :=
  match c.target u with
  | none => []
  | some t =>
    if (List.range w.2.length).any fun i => c.overwritten s u (i0 + i) t then
      ((List.range w.2.length).filter fun i => !c.overwritten s u (i0 + i) t).map fun i =>
        (w.1.plus i, (w.2.drop i).take 1)
    else [w]
/-- The writes of a chunk that remain, joined. -/
def Copy.puts (c : Copy) (s : State) (q : Nat) (ws : List (Option (Place × List Byte))) : List (Place × List Byte) :=
  joinWrites (((c.unitsOf q).zip ws).flatMap fun x => match x.2 with
    | none => []
    | some w => c.keep s x.1 w (c.span q x.1).1)
/-- Chunk `q` may start: it is valid, not landed or in flight, and the copy neither stopped nor ended. -/
def Copy.open_ (c : Copy) (q : Nat) : Bool :=
  q < c.chunks && !c.landed.contains q && !c.parked.contains q && c.fault.isNone && !c.ended && !c.cancelled
/-- COPY_CHUNK_LAND (R229): a chunk lands; to a lost die its pieces are dropped and it counts as landed (R238) -/
def execCopyChunkLand (die ctx handle chunk : Nat) (s : State) : Host.Outcome State Fault Refusal :=
  .next (match (s.die die).xf.copies.find? fun c => c.ctx = ctx && c.handle = handle with
    | none => s
    | some c =>
      if !c.open_ chunk then s
      else if c.remote && s.dieGone c.dstDie then s.copyLanded die { c with lost := true } chunk
      else if s.chunkHeld die c chunk then s
      else match s.chunkWrites die c chunk with
        | .error _ => s
        | .ok ws =>
          let puts := c.puts s chunk ws
          if !s.parkFits puts then s
          else
            let s1 := (s.engScrubAll ((c.unitsOf chunk).flatMap fun u => c.reads die (c.pos u))).engPutAll puts
              (.copy die ctx handle chunk)
            if s1.ownerParked (.copy die ctx handle chunk) then s1.setCopy die { c with parked := setIns c.parked chunk }
            else s1.copyLanded die c chunk)
/-- The information registers of a copy's fault (R231). -/
def Copy.faultInfo (c : Copy) (f : CopyFault) : TInfo :=
  let x := fun a => (BitVec.ofInt 32 (f.xs[a]?.getD 0)).toNat
  { t0 := BitVec.ofNat 64 (c.handle + 256 * f.side + 512 * f.f.reason +
      65536 * (if f.side = 0 then c.srcId else c.dstId))
    t1 := BitVec.ofNat 64 (x 0 + 4294967296 * x 1), t2 := BitVec.ofNat 64 (x 2 + 4294967296 * x 3)
    t3 := BitVec.ofNat 64 f.f.addr }
/-- A copy's fault at chunk `q` (R231). -/
def State.copyFault (s : State) (d : Nat) (c : Copy) (q : Nat) (f : CopyFault) : State :=
  (s.setCopy d { c with fault := some q }).raiseFault (ctxIn d c.ctx)
    { cause := .engineAsync, tpc := c.tpc, info := c.faultInfo f, xfer := some (.cpy c.handle) }
/-- SKIP's effect on a copy beside the counting of the chunk: its granules and its end (R231). -/
def State.copySkip (s : State) (g : CtxId) (h : Nat) : State :=
  match (s.die g.die).xf.copies.find? fun c => c.ctx = g.inDie && c.handle = h with
  | none => s
  | some c => match c.fault with
    | none => s
    | some q => s.copyLanded g.die { c with fault := none, skipped := true } q

/-! ### Tensor identifiers (R223, R224) -/

/-- The first field of a map that breaks a limit of R221, by its byte offset. -/
def mapBad (e : BitVec 512) : Option Nat :=
  let sp := tidSpace e
  let b := tidBase e
  let fm := tidFmt e
  let rank := tidRank e
  let baseOk := match sp with
    | 0 => b < 2 ^ 57
    | 1 => b / 2 ^ 35 = 0 && fieldAt e 26 6 = 0 && fieldAt e 32 3 ≤ 5 && fieldAt e 19 7 ≤ 95
    | 2 => b / 2 ^ 30 = 0 && fieldAt e 22 8 ≤ 71
    | _ => b / 2 ^ 42 = 0 && fieldAt e 17 15 = 0 && fieldAt e 32 10 ≤ 575
  if !baseOk then some 0
  else if fm > 8 || e.getLsbD 71 || (if fm = 8 then fieldAt e 68 3 = 0 else fieldAt e 68 3 ≠ 0) then some 8
  else if rank = 0 || rank > 5 || (if fm = 8 then tidAxis e ≥ rank else tidAxis e ≠ 0) then some 9
  else if e.getLsbD 88 || fieldAt e 90 6 ≠ 0 then some 0x0B
  else if ((List.range 5).any fun a => tidExt e a = 0 || (a ≥ rank && tidExt e a ≠ 1)) || fieldAt e 228 4 ≠ 0 then
    some 0x10
  else if fieldAt e 234 6 ≠ 0 then some 0x1D
  else if fieldAt e 252 4 ≠ 0 then some 0x1E
  else if fieldAt e 507 5 ≠ 0 then some 0x39
  else none
/-- Bytes of the space that BASE names, and BASE's offset in it (R224). -/
def mapSpace (e : BitVec 512) : Nat × Nat :=
  match tidSpace e with
  | 0 => (2 ^ 57, tidBase e) | 1 => (spBytes, fieldAt e 0 19) | 2 => (4194304, fieldAt e 0 22)
  | _ => (131072, fieldAt e 0 17)
/-- The span check of R224. -/
def spanOk (e : BitVec 512) : Bool :=
  let ts := (List.range 5).map fun a =>
    ((if tidFmt e = 8 && a = tidAxis e then ceilDiv (tidExt e a) 32 - 1 else tidExt e a - 1 : Nat) : Int) * tidStr e a
  let lo := ts.foldl (fun x t => x + min 0 t) 0
  let hi := ts.foldl (fun x t => x + max 0 t) 0 + (tidUnit e : Int) - 1
  let (size, base) := mapSpace e
  !((lo :: hi :: ts).any fun t => t.natAbs ≥ 2 ^ 63) && 0 ≤ (base : Int) + lo && (base : Int) + hi < size
/-- The byte offset that TID_RANGE names, where a map breaks R224. -/
def mapFault (e : BitVec 512) : Option Nat :=
  match mapBad e with
  | some o => some o
  | none => if spanOk e then none else some 0x20
/-- Writes an entry with VALID set; its shard record is cleared (R223, R290). -/
def State.tidWrite (s : State) (d n : Nat) (e : BitVec 512) : State :=
  s.modTables d fun t => { t with tids := tabSet t.tids n (e ||| (1 <<< 88)), shards := tabErase t.shards n }
/-- Sets an entry to zero. -/
def State.tidClear (s : State) (d n : Nat) : State :=
  s.modTables d fun t => { t with tids := tabErase t.tids n, shards := tabErase t.shards n }

/-- TIDW (R223, R224) -/
def actTidw (a : Src) (b : EnB) : Syl :=
  { slot := .en, latches := latchesOf [a] ++ b.latches, phase := phaseCompute
    check := fun s =>
      let trap := fun (c : Cause) (i : Option TInfo) => some { cause := c, slot := Slot.en.num, info := i : Trap }
      if (s.cx.sval a).toNat > 4095 then trap .access none
      else match s.ownKey (s.cx.enval b).toNat 64 with
        | none => trap .access none
        | some k =>
          if s.badRead k 64 then some (enTrapKeep .eccUncorrectable)
          else match mapFault (BitVec.ofNat 512 (s.rd k 64)) with
            | none => none
            | some o => trap .tidRange (some { t0 := BitVec.ofNat 64 o })
    perform := fun e s => .ok {
      st := match e.pre.ownKey (e.pre.cx.enval b).toNat 64 with
        | none => s
        | some k => s.tidWrite s.cur.die (e.pre.cx.sval a).toNat (BitVec.ofNat 512 (e.pre.rd k 64)) } }
/-- TIDW, alone in its bundle. -/
def execTidw (a : Src) (b : EnB) (s : State) : Host.Outcome State Fault Refusal :=
  issueOne (actTidw a b) s

/-- TIDR (R223) -/
def actTidr (d : Dst) (a : Src) (k : Fin 8) : Syl :=
  { slot := .en, latches := latchesOf [a], dest := d.map fun n => (.s, n.val), phase := phaseMember
    check := handleCheck a 4096
    perform := fun e s => .ok {
      st := { s with cx := s.cx.outS 7 d (slice (e.pre.tid s.cur.die (e.pre.cx.sval a).toNat) (64 * k.val) 64) } } }
/-- TIDR, alone in its bundle. -/
def execTidr (d : Dst) (a : Src) (k : Fin 8) (s : State) : Host.Outcome State Fault Refusal :=
  issueOne (actTidr d a k) s

/-- TIDINV (R223) -/
def actTidinv (a : Src) : Syl :=
  { slot := .en, latches := latchesOf [a], phase := phaseCompute, check := handleCheck a 4096
    perform := fun e s => .ok { st := s.tidClear s.cur.die (e.pre.cx.sval a).toNat } }
/-- TIDINV, alone in its bundle. -/
def execTidinv (a : Src) (s : State) : Host.Outcome State Fault Refusal :=
  issueOne (actTidinv a) s

end Sys2Proof.Machine
end

