-- ==== Sys2Proof/Machine/Remote.lean ====
section
/-! DEFINITION. Remote puts and flags: RPUT, RFLAG, RFENCE, the landing and acknowledgement of their pieces, and the
faults of transfers (R231 to R234, R238, R307, R308). -/

namespace Sys2Proof.Machine

/-! ### Issue (R232, R233) -/

/-- The place that an 8-byte SRC field names, over `n` bytes (R232). -/
def State.putSrc (s : State) (x n : Nat) : Option Place :=
  let d := s.cur.die
  let low := x % 2 ^ 62
  match x / 2 ^ 62 with
  | 0 => if low + n ≤ 2 ^ 57 then some (.dev d low) else none
  | 1 =>
    let core := low / 524288 % 128
    let off := low % 524288
    if low / 2 ^ 26 ≠ 0 || (core > 95 && core ≠ 127) || off + n > spBytes then none
    else some (.spad d (if core = 127 then s.cur.core else s.cur.core / 96 * 96 + core) off)
  | 2 =>
    let v := low / 4194304
    if low / 2 ^ 30 ≠ 0 || (v > 71 && v ≠ 255) || low % 4194304 + n > 4194304 then none
    else some (.vault d (if v = 255 then ownVault s.cur.core else v) (low % 4194304))
  | _ => none
/-- The place at die `d` that an LS address with its cluster names; a die of another package is away. -/
def lsPlace (d x n : Nat) : Option Place :=
  let core := x / 524288 % 128
  let cl := x / 2 ^ 32
  if x / 2 ^ 26 % 64 ≠ 0 || core > 95 || cl > 5 || x % 524288 + n > spBytes then none
  else some (if d ≥ 8 then .away (d - 8) (2 ^ 62 + x) else .spad d (cl * 96 + core) (x % 524288))
/-- The place at die `d` that a WY address with VAULT 0 to 71 names. -/
def wyPlace (d x n : Nat) : Option Place :=
  if x / 4194304 > 71 || x % 4194304 + n > 4194304 then none
  else some (if d ≥ 8 then .away (d - 8) (2 ^ 63 + x) else .vault d (x / 4194304) (x % 4194304))
/-- The place at die `d` that an 8-byte DST field names, over `n` bytes (R232). -/
def putDst (d x n : Nat) : Option Place :=
  let low := x % 2 ^ 62
  match x / 2 ^ 62 with
  | 0 => if low + n ≤ 2 ^ 57 then some (if d ≥ 8 then .away (d - 8) low else .dev d low) else none
  | 1 => lsPlace d low n
  | 2 => wyPlace d low n
  | _ => none
/-- The put record at the LS address in SRCA. -/
def State.putRec (s : State) (a : Src) : Option (BitVec 256) :=
  (s.ownKey (s.cx.sval a).toNat 32).map fun k => BitVec.ofNat 256 (s.rd k 32)
/-- What a put record names: source, destination, LEN, die and P; `none` where R232 traps ACCESS. -/
def State.putArgs (s : State) (r : BitVec 256) : Option (Place × Place × Nat × Nat × Nat) :=
  let len := fieldAt r 128 32
  let paths := fieldAt r 176 8
  match s.domainDie (fieldAt r 160 16) with
  | none => none
  | some d =>
    match s.putSrc (fieldAt r 0 64) len, putDst d (fieldAt r 64 64) len with
    | some x, some y =>
      if len % 16 ≠ 0 || len < 16 || len > 2 ^ 30 || paths > 4 || fieldAt r 184 72 ≠ 0 then none
      else some (x, y, len, d, if paths = 0 then 4 else paths)
    | _, _ => none
/-- The check of RPUT. -/
def rputCheck (a : Src) (s : State) : Option Trap :=
  let trap := fun (c : Cause) => some { cause := c, slot := Slot.en.num : Trap }
  match s.ownKey (s.cx.sval a).toNat 32 with
  | none => trap .access
  | some k =>
    if s.badRead k 32 then some (enTrapKeep .eccUncorrectable)
    else if (s.putArgs (BitVec.ofNat 256 (s.rd k 32))).isNone then trap .access
    else none
/-- The places of the current context's outstanding RPUTs. -/
def State.myPuts (s : State) : List Nat := (s.myDie.xf.rputs.filter fun r => r.ctx = s.cur.inDie).map (·.place)
/-- The places of its outstanding RFLAGs. -/
def State.myFlags (s : State) : List Nat := (s.myDie.xf.rflags.filter fun r => r.ctx = s.cur.inDie).map (·.place)
/-- Opens the windows of a carry transfer from `src` to `dst` and sets the destination granules empty (R28). -/
def State.putWindows (s : State) (d owner : Nat) (src : Option Place) (dst : Place) (dd len : Nat) : State :=
  let s1 := if dd < 8 then s.openWindow dd owner true (s.placeRanges dst len .write) else s
  let s2 := match src with | none => s1 | some p => s1.openWindow d owner false (s.placeRanges p len .read)
  s2.setEmpty (placeGranules dst len)
/-- The place at its die and the fabric die that a flag word names; `none` where R233 traps ACCESS. -/
def State.flagPlace (s : State) (x : Nat) : Option (Place × Nat) :=
  match s.domainDie (x / 2 ^ 36 % 4096) with
  | none => none
  | some d =>
    let a := x % 2 ^ 32
    let p := if x / 2 ^ 35 % 2 = 0 then lsPlace d (x % 2 ^ 35) 8
      else if x / 2 ^ 32 % 8 ≠ 0 then none else wyPlace d a 8
    if x / 2 ^ 48 ≠ 0 || a % 8 ≠ 0 then none else p.map fun p => (p, d)
/-- A carry qualifier is legal in exchange supersteps only, as is every remote instruction (R24). -/
def remotePhase (s : State) : Bool := phaseExchange s

/-- RPUT (R232) -/
def actRput (a : Src) (carry : Bool) : Syl :=
  { slot := .en, latches := latchesOf [a], phase := remotePhase, check := rputCheck a
    blocks := fun s =>
      match (s.putRec a).bind s.putArgs with
      | none => none
      | some (_, _, _, dd, _) =>
        if s.myPuts.length ≥ 8 || (carry && !s.carryRoom dd true true) then some (s, .stall) else none
    perform := fun e s =>
      match (e.pre.putRec a).bind e.pre.putArgs, freeHandle e.pre.myPuts 8 with
      | some (src, dst, len, dd, paths), some n =>
        let d := s.cur.die
        let owner := if carry then some (s.nextOwner d) else none
        let r : Rput := {
          ctx := s.cur.inDie, place := n, tpc := e.pre.cx.pc, src := src, dst := dst, len := len, die := dd
          paths := paths, landed := [], acked := [], fault := none, stopped := false, carry := owner
          phase := s.hy.phc.toNat, seq := s.myDie.xf.nextKey }
        let s1 := (s.modXf d fun x => { x with rputs := x.rputs ++ [r] }).useOwner d
        .ok { st := match owner with | none => s1 | some k => s1.putWindows d k (some src) dst dd len }
      | _, _ => .ok { st := s } }
/-- RPUT, alone in its bundle. -/
def execRput (a : Src) (carry : Bool) (s : State) : Host.Outcome State Fault Refusal :=
  issueOne (actRput a carry) s

/-- RFLAG (R233) -/
def actRflag (a : Src) (b : EnB) (carry : Bool) (ord : Bool) : Syl :=
  { slot := .en, latches := latchesOf [a] ++ b.latches, phase := remotePhase
    check := fun s =>
      if (s.flagPlace (s.cx.sval a).toNat).isNone then some { cause := .access, slot := Slot.en.num } else none
    blocks := fun s =>
      match s.flagPlace (s.cx.sval a).toNat with
      | none => none
      | some (_, dd) =>
        if s.myFlags.length ≥ 8 || (carry && !s.carryRoom dd true false) then some (s, .stall) else none
    perform := fun e s =>
      match e.pre.flagPlace (e.pre.cx.sval a).toNat, freeHandle e.pre.myFlags 8 with
      | some (dst, dd), some n =>
        let d := s.cur.die
        let owner := if carry then some (s.nextOwner d) else none
        let r : Rflag := {
          ctx := s.cur.inDie, place := n, tpc := e.pre.cx.pc, dst := dst, die := dd, value := e.pre.cx.enval b
          ord := ord, landed := false, carry := owner, phase := s.hy.phc.toNat, seq := s.myDie.xf.nextKey }
        let s1 := (s.modXf d fun x => { x with rflags := x.rflags ++ [r] }).useOwner d
        .ok { st := match owner with | none => s1 | some k => s1.putWindows d k none dst dd 8 }
      | _, _ => .ok { st := s } }
/-- RFLAG, alone in its bundle. -/
def execRflag (a : Src) (b : EnB) (carry : Bool) (ord : Bool) (s : State) : Host.Outcome State Fault Refusal :=
  issueOne (actRflag a b carry ord) s

/-- RFENCE (R234): holds the issue width until the context has no RPUT or RFLAG without .carry left -/
def actRfence : Syl :=
  { slot := .en, phase := remotePhase
    blocks := fun s =>
      let x := s.myDie.xf
      if (x.rputs.any fun r => r.ctx = s.cur.inDie && r.carry.isNone) ||
          x.rflags.any fun r => r.ctx = s.cur.inDie && r.carry.isNone then some (s, .hold)
      else none
    perform := fun _ s => .ok { st := s } }
/-- RFENCE, alone in its bundle. -/
def execRfence (s : State) : Host.Outcome State Fault Refusal :=
  issueOne actRfence s

/-! ### Landing, acknowledgement and faults (R231 to R233, R238, R307, R308) -/

/-- The number of 512-byte pieces. -/
def Rput.pieces (r : Rput) : Nat := ceilDiv r.len 512
/-- Bytes of piece `k`. -/
def Rput.pieceLen (r : Rput) (k : Nat) : Nat := Nat.min 512 (r.len - 512 * k)
/-- Replaces an RPUT. -/
def State.setRput (s : State) (d : Nat) (r : Rput) : State :=
  s.modXf d fun x => { x with rputs := mapWhere x.rputs (fun y => y.ctx = r.ctx && y.place = r.place) fun _ => r }
/-- Ends an RPUT: its place and its windows are freed. -/
def State.endRput (s : State) (d : Nat) (r : Rput) : State :=
  (s.modXf d fun x => { x with rputs := dropWhere x.rputs fun y => y.ctx = r.ctx && y.place = r.place }).closeWindows r.carry
/-- Granules of the destination that piece `k` completes (R77). -/
def Rput.ready (r : Rput) (k : Nat) : List Nat :=
  let base := match placeGranules r.dst 1 with | [] => 0 | g :: _ => g
  let o := match r.dst with | .spad _ _ o => o % 16 | .vault _ _ o => o % 16 | _ => 0
  (placeGranules (r.dst.plus (512 * k)) (r.pieceLen k)).filter fun g =>
    let lo := 16 * (g - base) - o
    let hi := Nat.min r.len (16 * (g - base) + 16 - o)
    (numsFrom (lo / 512) (ceilDiv hi 512 - lo / 512)).all fun q => q = k || r.landed.contains q
/-- Whether piece `k` is parked in a tier controller. -/
def State.pieceParked (s : State) (d : Nat) (r : Rput) (k : Nat) : Bool :=
  s.ownerParked (.rput d r.ctx r.place k)
/-- Piece `k` may be sent. -/
def Rput.open_ (r : Rput) (k : Nat) : Bool := k < r.pieces && !r.landed.contains k && r.fault.isNone && !r.stopped
/-- The fault that piece `k` meets, with its side. -/
def State.pieceFault (s : State) (r : Rput) (k : Nat) : Option (Nat × EngFault) :=
  match s.engGet 3 (r.src.plus (512 * k)) (r.pieceLen k) with
  | .error f => some (0, f)
  | .ok _ => match s.engCan (r.dst.plus (512 * k)) (r.pieceLen k) with
    | .error f => some (1, f)
    | .ok _ => none
/-- A piece of an RPUT lands, or is parked and acknowledged after its replay (R232, R370). -/
def State.landPiece (s : State) (d : Nat) (r : Rput) (k : Nat) : State :=
  let n := r.pieceLen k
  if !r.open_ k then s
  else if s.dieGone r.die then
    let r1 := { r with landed := setIns r.landed k, acked := setIns r.acked k }
    if r1.acked.length ≥ r1.pieces then s.endRput d r1 else s.setRput d r1
  else if s.engHeld (ownWindows r.carry) (r.src.plus (512 * k)) n .read ||
      s.engHeld (ownWindows r.carry) (r.dst.plus (512 * k)) n .write ||
      s.engParked (r.src.plus (512 * k)) n ParkOwner.isRput then s
  else match s.engGet 3 (r.src.plus (512 * k)) n, s.pieceFault r k with
    | .ok bs, none =>
      if !s.parkFits [(r.dst.plus (512 * k), bs)] then s
      else
        ((((s.looked.engScrub (r.src.plus (512 * k)) n).engPut (r.dst.plus (512 * k)) bs (.rput d r.ctx r.place k)).setFull
          (r.ready k))).setRput d { r with landed := setIns r.landed k }
    | _, _ => s
/-- The .ord condition: no RPUT of the context to the same die that it issued earlier is outstanding (R233). -/
def State.ordHolds (s : State) (d : Nat) (f : Rflag) : Bool :=
  f.ord && (s.die d).xf.rputs.any fun r => r.ctx = f.ctx && r.die = f.die && r.seq < f.seq
/-- Ends an RFLAG. -/
def State.endRflag (s : State) (d : Nat) (f : Rflag) : State :=
  (s.modXf d fun x => { x with rflags := dropWhere x.rflags fun y => y.ctx = f.ctx && y.place = f.place }).closeWindows f.carry
/-- An RFLAG lands: the eight bytes and the full bit in one step (R233); .ord orders the earlier RPUTs before it (R278). -/
def State.landFlag (s : State) (d : Nat) (f : Rflag) : State :=
  if f.landed then s
  else if s.dieGone f.die then s.endRflag d f
  else if s.ordHolds d f || s.engHeld (ownWindows f.carry) f.dst 8 .write then s
  else
    (((if f.ord then s.ordered f.die else s).engPut f.dst (leBytes 8 f.value.toNat) (.rput d f.ctx f.place 0)).setFull
      (placeGranules f.dst 8)).modXf d fun x => { x with
      rflags := mapWhere x.rflags (fun y => y.ctx = f.ctx && y.place = f.place) fun y => { y with landed := true } }
/-- REMOTE_PIECE_LAND (R232, R233, R238): a piece of an RPUT, or an RFLAG, lands at its destination -/
def execRemotePieceLand (die ctx : Nat) (kind : RemoteKind) (index piece : Nat) (s : State) :
    Host.Outcome State Fault Refusal :=
  .next (match kind with
    | .rput => match (s.die die).xf.rputs.find? fun r => r.ctx = ctx && r.place = index with
      | none => s
      | some r => s.landPiece die r piece
    | .rflag => match (s.die die).xf.rflags.find? fun r => r.ctx = ctx && r.place = index with
      | none => s
      | some f => s.landFlag die f)
/-- REMOTE_ACK (R232, R307): the acknowledgement of a landed piece or flag returns; after the last the transfer ends -/
def execRemoteAck (die ctx : Nat) (kind : RemoteKind) (index piece : Nat) (s : State) : Host.Outcome State Fault Refusal :=
  .next (match kind with
    | .rput => match (s.die die).xf.rputs.find? fun r => r.ctx = ctx && r.place = index with
      | none => s
      | some r =>
        if !r.landed.contains piece || r.acked.contains piece || s.pieceParked die r piece then s
        else
          let r1 := { r with acked := setIns r.acked piece }
          if r1.acked.length ≥ r1.pieces || (r1.stopped && r1.acked.length = r1.landed.length) then s.endRput die r1
          else s.setRput die r1
    | .rflag => match (s.die die).xf.rflags.find? fun r => r.ctx = ctx && r.place = index with
      | none => s
      | some f => if f.landed then s.endRflag die f else s)
/-- An RPUT's fault at piece `k` (R231). -/
def State.rputFault (s : State) (d : Nat) (r : Rput) (k : Nat) (f : Nat × EngFault) : State :=
  (s.setRput d { r with fault := some k }).raiseFault (ctxIn d r.ctx)
    { cause := .engineAsync, tpc := r.tpc
      info := {
        t0 := BitVec.ofNat 64 (16 + 256 * f.1 + 512 * f.2.reason), t1 := BitVec.ofNat 64 (512 * k)
        t3 := BitVec.ofNat 64 f.2.addr }
      xfer := some (.rput r.place) }
/-- ENGINE_TRANSFER_FAULT (R231): a copy's chunk, or an RPUT's piece, meets a fault; the transfer issues no more -/
def execEngineTransferFault (die ctx : Nat) (kind : Option RemoteKind) (index piece : Nat) (s : State) :
    Host.Outcome State Fault Refusal :=
  .next (if !s.roomFor (ctxIn die ctx) then s
    else match kind with
    | none => match (s.die die).xf.copies.find? fun c => c.ctx = ctx && c.handle = index with
      | none => s
      | some c =>
        if !c.open_ piece || (c.remote && s.dieGone c.dstDie) then s
        else match s.chunkWrites die c piece with
          | .ok _ => s
          | .error f => s.copyFault die c piece f
    | some .rput => match (s.die die).xf.rputs.find? fun r => r.ctx = ctx && r.place = index with
      | none => s
      | some r =>
        if !r.open_ piece || s.dieGone r.die then s
        else match s.pieceFault r piece with
          | none => s
          | some f => s.rputFault die r piece f
    | some .rflag => s)
/-- SKIP's effect on an RPUT: its faulting piece counts as landed (R231). -/
def State.rputSkip (s : State) (g : CtxId) (p : Nat) : State :=
  match (s.die g.die).xf.rputs.find? fun r => r.ctx = g.inDie && r.place = p with
  | none => s
  | some r => match r.fault with
    | none => s
    | some k =>
      let r1 := { r with fault := none, landed := setIns r.landed k, acked := setIns r.acked k }
      let s1 := s.setFull (r.ready k)
      if r1.acked.length ≥ r1.pieces then s1.endRput g.die r1 else s1.setRput g.die r1

end Sys2Proof.Machine
end

