-- ==== Sys2Proof/Machine/Halo.lean ====
section
/-! DEFINITION. The Shroud: HALO, HWAIT, and the landing and acknowledgement of faces (R235 to R238). Faces and margins
are numbered 0 to 5 in the order XN, XP, YN, YP, ZN, ZP. -/

namespace Sys2Proof.Machine

/-! ### Faces (R235, R236) -/

/-- Depth along the axis of face `f`. -/
def Halo.depth (h : Halo) (f : Nat) : Nat := if f / 2 = 0 then h.dx else if f / 2 = 1 then h.dy else h.dz
/-- An edge port joins another package: the plan has it off-package, or it was keyed with another package before it was
retired, so that traffic goes round it (R11, R416). -/
def State.offPackage (s : State) (d p : Nat) : Bool :=
  s.portMode d p = 3 || (s.portMode d p = 0 && !inPackage d p && (s.dieOfFabric (s.portAt d p).peer).isNone)
/-- The die at the other end of face `f`'s link: the pair's other die, which a looped port joins too, or past an
off-package port a die of another package, numbered as by `State.domainDie` (R11). -/
def State.faceDie (s : State) (d f : Nat) : Nat :=
  if s.offPackage d (f ^^^ 1) then 8 + s.fabricNext d (f ^^^ 1) else d ^^^ 2 ^ (f / 2)
/-- A face's far end lies in the phase domain. -/
def State.faceIn (s : State) (x : Nat) : Bool :=
  if x < 8 then (s.die x).job.isSome else s.hy.pkgs.contains (fabricPkg (x - 8))
/-- The tensor axis of a face. -/
def faceAxis (f : Nat) : Nat := f / 2 + 1
/-- The six faces. -/
def allFaces : List Nat := [0, 1, 2, 3, 4, 5]
/-- A set of faces as bits. -/
def faceBits (fs : List Nat) : BitVec 6 := fs.foldl (fun b f => b ||| (1 <<< f)) 0
/-- The coordinates of one axis, first to last; along a block axis one coordinate stands for each block (log 42). -/
def axisCoords (e : BitVec 512) (a lo hi : Nat) : List Int :=
  if tidFmt e = 8 && a = tidAxis e then (numsFrom (lo / 32) (ceilDiv hi 32 - lo / 32)).map fun (b : Nat) => 32 * (b : Int)
  else (numsFrom lo (hi - lo)).map fun (x : Nat) => (x : Int)
/-- All coordinates whose axes run over given lists. -/
def coordProduct : List (List Int) → List (List Int)
  | [] => [[]]
  | xs :: r => let t := coordProduct r; xs.flatMap fun x => t.map fun y => x :: y
/-- The span of axis `a` in face `f`: the slab next to the margin, or the margin itself at the receiver; earlier axes
whole, later axes without their margins. -/
def Halo.span (h : Halo) (f : Nat) (margin : Bool) (a : Nat) : Nat × Nat :=
  let x := tidExt h.entry a
  let p := h.depth f
  if a = 0 then (0, x)
  else if a = faceAxis f then
    match margin, f % 2 with
    | false, 0 => (p, 2 * p) | false, _ => (x - 2 * p, x - p)
    | true, 0 => (0, p) | true, _ => (x - p, x)
  else if a < faceAxis f then (0, x)
  else let q := h.depth (2 * (a - 1)); (q, x - q)
/-- The coordinates of a face, read at the sender or, as margin `f`, written at the receiver. -/
def Halo.coords (h : Halo) (f : Nat) (margin : Bool) : List (List Int) :=
  coordProduct ([0, 1, 2, 3].map fun a => let r := h.span f margin a; axisCoords h.entry a r.1 r.2)
/-- The places of a face at the sender, die `d`. -/
def Halo.srcPlaces (h : Halo) (d f : Nat) : List Place :=
  (h.coords f false).map fun xs => entPlace d h.entry false (elemOff h.entry xs)
/-- The places of the margin opposite face `f` at its receiver, die `r`, by the receiver's own entry. -/
def Halo.dstPlaces (h : Halo) (r f : Nat) (e : BitVec 512) : List Place :=
  (h.coords (f ^^^ 1) true).map fun xs => entPlace r e false (elemOff e xs)
/-- The receiver's entry takes the face: valid, of the same extents and format (R236), and not in a weight buffer, which
copies alone write (R76, log 42). -/
def faceFits (se de : BitVec 512) : Bool :=
  tidValid de && tidSpace de ≠ 3 && tidRank de = tidRank se && fieldAt de 64 8 = fieldAt se 64 8 && tidAxis de = tidAxis se &&
    [0, 1, 2, 3].all fun a => tidExt de a = tidExt se a
/-- Margins and faces of depth 0, which take no part. -/
def Halo.none (h : Halo) : BitVec 6 := faceBits (allFaces.filter fun f => h.depth f = 0)
/-- Face `f` may be read now: both margins of every earlier axis have landed or been marked (R236). -/
def Halo.ready (h : Halo) (f : Nat) : Bool :=
  !h.sent.getLsbD f && allFaces.all fun m =>
    m / 2 ≥ f / 2 || (h.inn ||| h.edge ||| h.abort ||| h.none).getLsbD m
/-- The halo has ended (R237). -/
def Halo.ended (h : Halo) : Bool :=
  h.acked = BitVec.allOnes 6 && (h.inn ||| h.edge ||| h.abort ||| h.none) = BitVec.allOnes 6
/-- The status word (R237). -/
def Halo.status (h : Halo) : Dword :=
  BitVec.ofNat 64 (h.inn.toNat + 2 ^ 6 * h.edge.toNat + 2 ^ 12 * h.abort.toNat + 2 ^ 63)

/-! ### HALO and HWAIT (R235, R237) -/

/-- The handles in use by the current context. -/
def State.myHalos (s : State) : List Nat := (s.myDie.xf.halos.filter fun h => h.ctx = s.cur.inDie).map (·.handle)
/-- The halo of a handle of a context. -/
def State.haloOf (s : State) (d ctx h : Nat) : Option Halo :=
  (s.die d).xf.halos.find? fun x => x.ctx = ctx && x.handle = h
/-- Replaces a halo. -/
def State.setHalo (s : State) (d : Nat) (h : Halo) : State :=
  s.modXf d fun x => { x with halos := mapWhere x.halos (fun y => y.ctx = h.ctx && y.handle = h.handle) fun _ => h }
/-- A halo as its HALO describes it, before the machine's state is taken in. -/
def State.newHalo (s : State) (eh : BitVec 256) (handle : Nat) : Halo :=
  { ctx := s.cur.inDie, handle := handle, tid := fieldAt eh 0 12, entry := s.tid s.cur.die (fieldAt eh 0 12)
    dx := fieldAt eh 16 4, dy := fieldAt eh 20 4, dz := fieldAt eh 24 4, bar := fieldAt eh 32 12
    inn := 0, edge := 0, abort := 0, sent := 0, acked := 0, carry := none, phase := s.hy.phc.toNat }
/-- The check of HALO, in the order of R235. -/
def haloCheck (eh : Fin 4) (sw : Bool) (s : State) : Option Trap :=
  let h := s.newHalo (s.cx.shape (ehIdx eh) sw) 0
  if h.dx > 8 || h.dy > 8 || h.dz > 8 then some (enTrap .reservedEncoding)
  else if !tidValid h.entry then some (enTrap .tidInvalid)
  else if tidRank h.entry ≠ 4 || tidSpace h.entry > 2 ||
      [1, 2, 3].any fun a => tidExt h.entry a < 3 * h.depth (2 * (a - 1)) then some (enTrap .access)
  else none
/-- The faces that die `d` exchanges with living dies of its phase domain. -/
def State.openFaces (s : State) (d : Nat) (h : Halo) : List Nat :=
  allFaces.filter fun f => h.depth f ≠ 0 && s.faceIn (s.faceDie d f) && !s.dieGone (s.faceDie d f)
/-- The faces whose neighbour lies outside the phase domain, and those whose neighbour is lost. -/
def State.edgeFaces (s : State) (d : Nat) (h : Halo) (lost : Bool) : List Nat :=
  allFaces.filter fun f => h.depth f ≠ 0 &&
    if lost then s.faceIn (s.faceDie d f) && s.dieGone (s.faceDie d f) else !s.faceIn (s.faceDie d f)
/-- The faces that open windows with .carry: the receiver's entry takes them, or is not seen. -/
def State.carryFaces (s : State) (d : Nat) (h : Halo) : List Nat :=
  (s.openFaces d h).filter fun f => s.faceDie d f ≥ 8 || faceFits h.entry (s.tid (s.faceDie d f) h.tid)
/-- Room for a halo's windows at every die (R28). -/
def State.haloRoom (s : State) (d : Nat) (h : Halo) : Bool :=
  let fs := s.carryFaces d h
  (numsFrom 0 8).all fun x =>
    s.freeWindows x ≥ (fs.filter fun f => s.faceDie d f = x).length + (if x = d then fs.length else 0)
/-- HALO blocks: no free handle, or no free window. -/
def haloBlocks (eh : Fin 4) (sw carry : Bool) (s : State) : Option (State × Wait) :=
  if (freeHandle s.myHalos 4).isNone ||
      (carry && !s.haloRoom s.cur.die (s.newHalo (s.cx.shape (ehIdx eh) sw) 0)) then some (s, .stall)
  else none
/-- The byte ranges of places of one unit each, joined. -/
def State.unitRanges (s : State) (ps : List Place) (n : Nat) (u : XUse) : List (Nat × Nat) :=
  joinRanges (ps.flatMap fun p => s.placeRanges p n u)
/-- Opens the windows of face `f` and sets the margin's granules empty (R28). -/
def State.faceWindows (d : Nat) (h : Halo) (owner : Nat) (s : State) (f : Nat) : State :=
  let n := tidUnit h.entry
  let r := s.faceDie d f
  let dst := h.dstPlaces r f (s.tid r h.tid)
  let s1 := if r < 8 then s.openWindow r owner true (s.unitRanges dst n .write) else s
  (s1.openWindow d owner false (s.unitRanges (h.srcPlaces d f) n .read)).setEmpty
    (dst.flatMap fun p => placeGranules p n)
/-- Margin `m` of the halo neither takes nor waits for a face any more. -/
def Halo.settled (h : Halo) (m : Nat) : Bool := (h.inn ||| h.edge ||| h.abort ||| h.none).getLsbD m
/-- Margin `m` takes a face, or its drop. -/
def Halo.mark (h : Halo) (m : Nat) (dropped : Bool) : Halo :=
  if dropped then { h with abort := h.abort ||| (1 <<< m) } else { h with inn := h.inn ||| (1 <<< m) }
/-- Takes in the faces that came before the die's own HALO, one for each margin, and leaves the rest for a later HALO. -/
def Halo.takeEarly (h : Halo) : List (Nat × Nat × Bool) → Halo × List (Nat × Nat × Bool)
  | [] => (h, [])
  | e :: es =>
    if e.1 = h.tid && !h.settled e.2.1 then (h.mark e.2.1 e.2.2).takeEarly es
    else let r := h.takeEarly es; (r.1, e :: r.2)
/-- Accepts a HALO. -/
def State.haloAccept (s : State) (eh : BitVec 256) (handle : Nat) (carry : Bool) : State :=
  let d := s.cur.die
  let h0 := s.newHalo eh handle
  let edge := faceBits (s.edgeFaces d h0 false)
  let lost := faceBits (s.edgeFaces d h0 true)
  let off := edge ||| lost ||| h0.none
  let h1 : Halo := { h0 with
    edge := edge, abort := lost, sent := off, acked := off
    carry := if carry then some (s.nextOwner d) else none }
  let r := h1.takeEarly s.myDie.xf.early
  let s1 := (s.modXf d fun x => { x with halos := x.halos ++ [r.1], early := r.2 }).useOwner d
  match r.1.carry with
  | none => s1
  | some k => (s.carryFaces d r.1).foldl (State.faceWindows d r.1 k) s1


/-- HALO (R235) -/
def actHalo (d : Dst) (eh : Fin 4) (carry : Bool) (sw : Bool) : Syl :=
  { slot := .en, dest := d.map fun n => (.s, n.val), swap := if sw then some (ehIdx eh) else none
    phase := phaseExchange, check := haloCheck eh sw, blocks := haloBlocks eh sw carry
    perform := fun e s =>
      match freeHandle e.pre.myHalos 4 with
      | none => .ok { st := s }
      | some n =>
        let s1 := s.haloAccept (e.pre.cx.shape (ehIdx eh) sw) n carry
        let c := s1.cx.outS 7 d (BitVec.ofNat 64 n)
        .ok { st := { s1 with cx := if sw then c.swapShape (ehIdx eh) else c } } }
/-- HALO, alone in its bundle. -/
def execHalo (d : Dst) (eh : Fin 4) (carry : Bool) (sw : Bool) (s : State) : Host.Outcome State Fault Refusal :=
  issueOne (actHalo d eh carry sw) s

/-- HWAIT (R237) -/
def actHwait (d : Dst) (a : Src) : Syl :=
  { slot := .en, latches := latchesOf [a], dest := d.map fun n => (.s, n.val), phase := phaseMember
    check := handleCheck a 4
    blocks := fun s =>
      match s.haloOf s.cur.die s.cur.inDie (s.cx.sval a).toNat with
      | none => none
      | some h => if h.ended then none else some (s, .stall)
    perform := fun e s =>
      match s.haloOf s.cur.die s.cur.inDie (e.pre.cx.sval a).toNat with
      | none => .ok { st := { s with cx := s.cx.outS 7 d freeStatus } }
      | some h =>
        let s1 := s.modXf s.cur.die fun x => { x with
          halos := dropWhere x.halos fun y => y.ctx = h.ctx && y.handle = h.handle }
        .ok { st := { s1 with cx := s1.cx.outS 7 d h.status } } }
/-- HWAIT, alone in its bundle. -/
def execHwait (d : Dst) (a : Src) (s : State) : Host.Outcome State Fault Refusal :=
  issueOne (actHwait d a) s

/-! ### Landing and acknowledgement (R236, R237, R238) -/

/-- Marks margin `m` at die `d`, in its oldest halo of the identifier that still wants it, or for a HALO to come. -/
def State.markMargin (s : State) (d tid m : Nat) (dropped : Bool) : State :=
  match (s.die d).xf.halos.find? fun h => h.tid = tid && !h.settled m with
  | none => s.modXf d fun x => { x with early := x.early ++ [(tid, m, dropped)] }
  | some h => s.setHalo d (h.mark m dropped)
/-- The bytes of a face, or the first fault of its reads. -/
def State.readAll (s : State) (cls n : Nat) : List Place → Except EngFault (List (List Byte))
  | [] => .ok []
  | p :: ps =>
    match s.engGet cls p n with
    | .error f => .error f
    | .ok bs => match s.readAll cls n ps with | .error f => .error f | .ok r => .ok (bs :: r)
/-- The first fault of writes to places. -/
def State.canAll (s : State) (n : Nat) : List Place → Option EngFault
  | [] => none
  | p :: ps => match s.engCan p n with | .error f => some f | .ok _ => s.canAll n ps
/-- A face that faults: the job status takes the address, and the receiver's margin is marked aborted (R237). -/
def State.faceFault (s : State) (d : Nat) (h : Halo) (f at_ : Nat) (x : EngFault) : State :=
  ((s.raiseJob at_ .engfault none (some (BitVec.ofNat 64 x.addr))).setHalo d { h with sent := h.sent ||| (1 <<< f) }).markMargin
    (s.faceDie d f) h.tid (f ^^^ 1) true
/-- A window of a HALO.carry of an identifier. The faces of one exchange do not wait for its windows: those of an axis lie
in the margins of the axes before it (R29, R236, log 58). -/
def State.haloWindows (s : State) (tid k : Nat) : Bool :=
  (numsFrom 0 8).any fun d => (s.die d).xf.halos.any fun h => h.tid = tid && h.carry = some k
/-- The granules that face `f` fills: all that it writes, but, with .carry, none into which another face of the halo has
still to write (R28, R77). -/
def State.faceGranules (s : State) (d : Nat) (h : Halo) (f : Nat) : List Nat :=
  let r := s.faceDie d f
  let gs := fun (g : Nat) => (h.dstPlaces r g (s.tid r h.tid)).flatMap fun p => placeGranules p (tidUnit h.entry)
  if h.carry.isNone then gs f
  else
    let left := ((s.carryFaces d h).filter fun g => g ≠ f && s.faceDie d g = r && !h.sent.getLsbD g).flatMap gs
    (gs f).filter fun g => !left.contains g
/-- Face `f` has landed, with granules to fill: the barrier counts, and both ends mark it (R236). -/
def State.faceLanded (s : State) (d : Nat) (h : Halo) (f : Nat) (gs : List Nat) : State :=
  let r := s.faceDie d f
  (((s.setFull gs).barArrive r h.bar 1 0).setHalo d { h with sent := h.sent ||| (1 <<< f) }).markMargin r h.tid (f ^^^ 1) false
/-- The header of a face's packets (R236, R411). -/
def State.faceHeader (s : State) (d : Nat) (h : Halo) (f : Nat) : LinkHeader :=
  { headerTo (s.faceDie d f - 8) 0 with
    src := s.fabricDie d, ctx := h.ctx, index := h.handle
    face := some { tid := h.tid, bar := h.bar, dx := h.dx, dy := h.dy, dz := h.dz, face := f, entry := h.entry } }
/-- A face leaves for another package by the port that R236 names, or round it where that port is retired. -/
def State.sendFace (s : State) (d : Nat) (h : Halo) (f : Nat) (bs : List Byte) : State :=
  let p := f ^^^ 1
  (packetsOf (s.faceHeader d h f) bs).foldl (fun s k => if s.portLive d p then s.sendAt d p k else s.sendOn d k) s
/-- Face `f` lands at its receiver, is parked on the way (R370), is dropped there, or leaves the package. -/
def State.landFace (s : State) (d : Nat) (h : Halo) (f : Nat) : State :=
  let r := s.faceDie d f
  let e := s.tid r h.tid
  let n := tidUnit h.entry
  let src := h.srcPlaces d f
  let dst := h.dstPlaces r f e
  let sent := { h with sent := h.sent ||| (1 <<< f) }
  let own := s.haloWindows h.tid
  if r < 8 && !faceFits h.entry e then (s.setHalo d sent).markMargin r h.tid (f ^^^ 1) true
  else if (src.any fun p => s.engHeld own p n .read || s.engParked p n ParkOwner.isFace) ||
      (r < 8 && dst.any fun p => s.engHeld own p n .write) then s
  else match s.readAll 5 n src with
    | .error x => s.faceFault d h f d x
    | .ok bs =>
      let s1 := s.engScrubAll (src.map fun p => (p, n))
      if r ≥ 8 then (s1.sendFace d h f bs.flatten).setHalo d sent
      else match s.canAll n dst with
        | some x => s.faceFault d h f r x
        | none =>
          let puts := joinWrites (dst.zip bs)
          if !s.parkFits puts then s
          else
            let s2 := s1.engPutAll puts (.face d h.ctx h.handle f)
            if s2.ownerParked (.face d h.ctx h.handle f) then s2 else s2.faceLanded d h f (s.faceGranules d h f)
/-- A face from another package as a halo of its sender, as its packets tell it. -/
def faceHalo (x : LinkFace) (ctx handle : Nat) : Halo :=
  { ctx := ctx, handle := handle, tid := x.tid, entry := x.entry, dx := x.dx, dy := x.dy, dz := x.dz, bar := x.bar
    inn := 0, edge := 0, abort := 0, sent := 0, acked := 0, carry := none, phase := 0 }
/-- A packet is one of face `f` of a sender's halo. -/
def LinkPacket.ofFace (k : LinkPacket) (src ctx handle f : Nat) : Bool :=
  k.head.src = src && k.head.ctx = ctx && k.head.index = handle && k.head.face.any fun x => x.face = f
/-- The `n` bytes of a face, once all its packets are there. -/
def faceBytes (ks : List LinkPacket) (n : Nat) : Option (List Byte) :=
  (numsFrom 0 (ceilDiv n 4096)).foldlM (fun acc i =>
    (ks.find? fun k => k.head.addr = 4096 * i).map fun k => acc ++ (flitBytes k.data).take k.head.len) []
/-- The packets of a face have served. -/
def State.faceTaken (s : State) (r src ctx handle f : Nat) : State :=
  s.modDie r fun x => { x with inbox := dropWhere x.inbox fun k => k.ofFace src ctx handle f }
/-- A face of a die of another package has landed at die `r`: the barrier counts, and its margin is marked (R236). -/
def State.farLanded (s : State) (r src : Nat) (h : Halo) (f : Nat) (gs : List Nat) : State :=
  (((s.setFull gs).barArrive r h.bar 1 0).markMargin r h.tid (f ^^^ 1) false).faceTaken r src h.ctx h.handle f
/-- A face whose packets have come to die `r` from a die of another package lands, is parked on the way, or is dropped. -/
def State.landFar (s : State) (r src : Nat) (h : Halo) (f : Nat) : State :=
  let e := s.tid r h.tid
  let n := tidUnit h.entry
  let dst := h.dstPlaces r f e
  let drop := fun (s : State) => (s.faceTaken r src h.ctx h.handle f).markMargin r h.tid (f ^^^ 1) true
  let who := ParkOwner.face (8 + src) h.ctx h.handle f
  if !faceFits h.entry e then drop s
  else match faceBytes ((s.die r).inbox.filter fun k => k.ofFace src h.ctx h.handle f) (dst.length * n) with
    | none => s
    | some bs =>
      let puts := joinWrites (dst.zipIdx.map fun p => (p.1, (bs.drop (n * p.2)).take n))
      if s.ownerParked who || (dst.any fun p => s.engHeld (s.haloWindows h.tid) p n .write) || !s.parkFits puts then s
      else match s.canAll n dst with
        | some x => drop (s.raiseJob r .engfault none (some (BitVec.ofNat 64 x.addr)))
        | none =>
          let s1 := s.engPutAll puts who
          if s1.ownerParked who then s1 else s1.farLanded r src h f (dst.flatMap fun p => placeGranules p n)
/-- The die of the package at which packets of a face wait, with the face. -/
def State.faceWaits (s : State) (src ctx handle f : Nat) : Option (Nat × Halo) :=
  (numsFrom 0 8).findSome? fun r =>
    ((s.die r).inbox.find? fun k => k.ofFace src ctx handle f).bind fun k =>
      k.head.face.map fun x => (r, faceHalo x ctx handle)
/-- HALO_FACE_LAND (R236): a face of a halo lands at the neighbour's margin, or is dropped there; a sender in another
package is 8 more than its fabric number, and its face comes in packets -/
def execHaloFaceLand (die ctx handle face : Nat) (s : State) : Host.Outcome State Fault Refusal :=
  .next (if die ≥ 8 then
      match s.faceWaits (die - 8) ctx handle face with
      | none => s
      | some (r, h) => if face < 6 && h.depth face ≠ 0 then s.landFar r (die - 8) h face else s
    else match s.haloOf die ctx handle with
    | none => s
    | some h =>
      if face < 6 && h.depth face ≠ 0 && h.ready face && !s.ownerParked (.face die ctx handle face) then
        s.landFace die h face
      else s)
/-- HALO_FACE_ACK (R237): the acknowledgement of a sent face; the windows close with the last -/
def execHaloFaceAck (die ctx handle face : Nat) (s : State) : Host.Outcome State Fault Refusal :=
  .next (match s.haloOf die ctx handle with
    | none => s
    | some h =>
      if !h.sent.getLsbD face || h.acked.getLsbD face then s
      else
        let h1 := { h with acked := h.acked ||| (1 <<< face) }
        if h1.acked = BitVec.allOnes 6 then (s.setHalo die { h1 with carry := none }).closeWindows h.carry
        else s.setHalo die h1)

end Sys2Proof.Machine
end

