-- ==== Sys2Proof/Machine/Coll.lean ====
section
/-! DEFINITION. Layouts, collectives and re-sharding: LAYSET, COLL, GATHJ, RESHARD, CLWAIT, and the application of
their transfers (R286 to R306). -/

namespace Sys2Proof.Machine

/-! ### Layouts (R286, R287, R288, R302) -/

/-- The layout table entry `n` of a die. -/
def State.layout (s : State) (d n : Nat) : BitVec 256 := tabGetD (s.die d).tables.layouts n 0
/-- Split entry `k` of a layout. -/
def splitOf (l : BitVec 256) (k : Nat) : Nat := fieldAt l (64 + 64 * k) 64
/-- NAX of a layout. -/
def layNax (l : BitVec 256) : Nat := fieldAt l 8 8
/-- A split entry keeps the limits of R286. -/
def splitOk (x : Nat) : Bool :=
  x % 8 ≤ 4 && x / 256 % 4 ≠ 3 && 1 ≤ x / 65536 % 32 && x / 65536 % 32 ≤ 16 && x / 8 % 32 = 0 && x / 1024 % 64 = 0 &&
    x / 2097152 = 0
/-- The offset of the first field of a layout record that breaks R286; VERSION is zero where software writes it. -/
def layBad (l : BitVec 256) (host : Bool) : Option Nat :=
  let nax := layNax l
  let axis := fun k => splitOf l k / 256 % 4
  if fieldAt l 0 8 > 4 then some 0
  else if (if fieldAt l 0 8 = 0 then nax ≠ 0 else nax = 0 || nax > 3) then some 1
  else if fieldAt l 16 16 ≠ 0 then some 2
  else if !host && fieldAt l 32 32 ≠ 0 then some 4
  else ([0, 1, 2].find? fun k =>
    if k ≥ nax then splitOf l k ≠ 0
    else !splitOk (splitOf l k) || (List.range k).any fun j => axis j = axis k).map fun k => 8 + 8 * k
/-- The split entries that name a tensor axis, as fabric axis and count, in ascending order. -/
def splitsOn (l : BitVec 256) (a : Nat) : List (Nat × Nat) :=
  ((List.range (layNax l)).filter fun k => splitOf l k % 8 = a).map fun k =>
    (splitOf l k / 256 % 4, splitOf l k / 65536 % 32)
/-- The coordinate of a die along a fabric axis within the package. -/
def dieCoord (d axis : Nat) : Nat := d / 2 ^ axis % 2
/-- The index s_k of a die for a fabric axis and split count. -/
def State.splitIndex (s : State) (d : Nat) (x : Nat × Nat) : Nat :=
  let low := (s.members.map fun e => dieCoord e x.1).foldl Nat.min (dieCoord d x.1)
  (dieCoord d x.1 - low) % x.2
/-- Shard index and split count along an axis (R287). -/
def State.shardAt (s : State) (d : Nat) : List (Nat × Nat) → Nat × Nat
  | [] => (0, 1)
  | x :: xs => let r := s.shardAt d xs; (s.splitIndex d x + x.2 * r.1, x.2 * r.2)
/-- The extent of a die's shard along an axis of global extent `e` (R287). -/
def State.shardExt (s : State) (d : Nat) (l : BitVec 256) (a e : Nat) : Nat :=
  let r := s.shardAt d (splitsOn l a)
  e / r.2 + (if r.1 < e % r.2 then 1 else 0)
/-- SCALEK of an entry. -/
def tidScale (e : BitVec 512) : Nat := fieldAt e 232 2
/-- A layout splits the axis along which an entry's scales run (R291). -/
def scaleSplit (e : BitVec 512) (l : BitVec 256) : Bool :=
  (tidScale e = 2 && !(splitsOn l 1).isEmpty) || (tidScale e = 3 && !(splitsOn l 0).isEmpty)
/-- The shard version of an identifier (R290). -/
def State.shardVer (s : State) (d n : Nat) : BitVec 32 := tabGetD (s.die d).tables.shards n 0
/-- Replaces LAYID, LAYVER and AUX of an entry. -/
def State.relay (s : State) (d n lay : Nat) (ver : BitVec 32) (aux : BitVec 56) : State :=
  s.modTables d fun t => { t with
    tids := tabSet t.tids n (putSlice (putSlice (putSlice (tabGetD t.tids n 0) 80 (BitVec.ofNat 8 lay)) 96 ver) 456 aux) }
/-- AUX of an entry. -/
def tidAux (e : BitVec 512) : BitVec 56 := BitVec.ofNat 56 (fieldAt e 456 56)

/-! ### Records and transfers (R292, R293, R299, R300) -/

/-- BOUND_l of a record. -/
def recBound (r : BitVec 1024) (l : Nat) : Nat := fieldAt r (256 + 192 * l) 32
/-- PA_l. -/
def recPa (r : BitVec 1024) (l : Nat) : Int := sfieldAt r (288 + 192 * l) 16
/-- PB_l. -/
def recPb (r : BitVec 1024) (l : Nat) : Int := sfieldAt r (304 + 192 * l) 16
/-- SSTR_l. -/
def recSstr (r : BitVec 1024) (l : Nat) : Int := sfieldAt r (320 + 192 * l) 64
/-- DSTR_l. -/
def recDstr (r : BitVec 1024) (l : Nat) : Int := sfieldAt r (384 + 192 * l) 64
/-- NLEV. -/
def recLev (r : BitVec 1024) : Nat := fieldAt r 16 8
/-- OP. -/
def recOp (r : BitVec 1024) : Nat := fieldAt r 0 8
/-- FMT. -/
def recFmt (r : BitVec 1024) : Nat := fieldAt r 8 8
/-- A flag of a record: 0 SEALED, 1 REL, 2 BARON. -/
def recFlag (r : BitVec 1024) (k : Nat) : Bool := r.getLsbD (24 + k)
/-- ELEMS. -/
def recElems (r : BitVec 1024) : Nat := fieldAt r 160 32
/-- The number of iterations of the levels from `l` on. -/
def recIters (r : BitVec 1024) : List Nat → Nat
  | [] => 1
  | l :: ls => recBound r l * recIters r ls
/-- The iteration numbers of transfer `i`, level 0 outermost. -/
def recIter (r : BitVec 1024) (i : Nat) : List Nat → List (Nat × Nat)
  | [] => []
  | l :: ls => (l, i / recIters r ls % recBound r l) :: recIter r i ls
/-- A sum over the levels of an iteration. -/
def levSum (js : List (Nat × Nat)) (f : Nat → Int → Int) : Int := (js.map fun x => f x.1 (x.2 : Int)).foldl (· + ·) 0
/-- A transfer of a collective: its sender's rank and index, the receiver's rank, the destination identifier, the
linear source and destination indices, and the elements. -/
structure Xfer where
  rank : Nat
  index : Nat
  peer : Nat
  dtid : Nat
  src : Int
  dst : Int
  n : Nat
  deriving DecidableEq, Repr
/-- The place of a value in a list, or the list's length. -/
def placeIn (x : Nat) : List Nat → Nat
  | [] => 0
  | y :: ys => if x = y then 0 else placeIn x ys + 1
/-- The operation that a die issued with a tag in a superstep. -/
def State.collOp (s : State) (d phase tag : Nat) : Option Coll :=
  (s.die d).xf.colls.find? fun c => c.phase = phase && c.tag = tag
/-- The schedule of an operation at die `d`. -/
def State.schedOf (s : State) (d : Nat) (c : Coll) : Schedule := tabGetD (s.die d).tables.scheds c.sched { header := 0, steps := [] }
/-- The number of transfers, or of schedule steps, of an operation. -/
def State.collCount (s : State) (d : Nat) (c : Coll) : Nat :=
  match c.kind with
  | .reshard => (s.schedOf d c).steps.length
  | _ => recIters c.record (List.range (recLev c.record))
/-- Transfer `i` of the operation of die `d`; `none` for a step that sends nothing. -/
def State.xferAt (s : State) (d : Nat) (c : Coll) (i : Nat) : Option Xfer :=
  let rank := placeIn d c.group
  match c.kind with
  | .reshard =>
    match (s.schedOf d c).steps[i]? with
    | none => none
    | some t =>
      match s.domainDie t.sdie with
      | none => none
      | some r => some {
          rank := rank, index := i, peer := placeIn r c.group, dtid := ((s.collOp r c.phase c.tag).map (·.dstId)).getD 0
          src := t.sstart, dst := t.dstart, n := t.scount }
  | _ =>
    let js := recIter c.record i (List.range (recLev c.record))
    let p := (if recFlag c.record 1 then (rank : Int) else 0) + levSum js fun l j => recPa c.record l * j + recPb c.record l
    some {
      rank := rank, index := i, peer := (p % (c.group.length : Int)).toNat, dtid := c.dstId
      src := levSum js fun l j => j * recSstr c.record l, dst := levSum js fun l j => j * recDstr c.record l
      n := recElems c.record }
/-- The transfers of every rank that has issued. -/
def State.allXfers (s : State) (c : Coll) : List Xfer :=
  c.group.flatMap fun d => match s.collOp d c.phase c.tag with
    | none => []
    | some o => (List.range (s.collCount d o)).filterMap (s.xferAt d o)
/-- The transfers addressed to a rank. -/
def State.xfersTo (s : State) (c : Coll) (rank : Nat) : List Xfer := (s.allXfers c).filter fun x => x.peer = rank
/-- Elements that move as one: 32 in block floating point. -/
def unitElems (e : BitVec 512) : Nat := if tidFmt e = 8 then 32 else 1
/-- The coordinates of a linear index (R293). -/
def coordsOf (e : BitVec 512) (lam : Nat) : List Nat → List Int
  | [] => []
  | a :: as => (lam % tidExt e a : Nat) :: coordsOf e (lam / tidExt e a) as
/-- The elements of an entry. -/
def tidTotal (e : BitVec 512) : Nat := ([0, 1, 2, 3, 4].map (tidExt e)).foldl (· * ·) 1
/-- The place of a linear index on a die (R222, R293). -/
def lamPlace (d : Nat) (e : BitVec 512) (lam : Nat) : Place :=
  entPlace d e false (elemOff e (coordsOf e lam [0, 1, 2, 3, 4]))
/-- The linear indices of the units of a transfer from a start. -/
def lamsFrom (e : BitVec 512) (start : Int) (n : Nat) : List Nat :=
  (List.range (n / unitElems e)).map fun u => start.toNat + u * unitElems e

/-! ### Starting and aborting (R294, R300, R304) -/

/-- Every rank of the group has issued. -/
def State.collFull (s : State) (c : Coll) : Bool := c.group.all fun d => (s.collOp d c.phase c.tag).isSome
/-- The part of an operation that the ranks compare. -/
def State.collHead (s : State) (d : Nat) (c : Coll) : CollKind × Nat × List Nat :=
  match c.kind with
  | .reshard => (c.kind, (s.schedOf d c).header.toNat, c.group)
  | _ => (c.kind, c.record.toNat % 2 ^ 64, c.group)
/-- A step of the schedule of die `d` names a die outside the group, or expects one that does not send to it: the steps of
the ranks disagree (R300, R304, log 42). -/
def State.stepOdd (s : State) (c : Coll) (d : Nat) : Bool :=
  let inGroup := fun (f : Nat) => match s.domainDie f with | none => false | some r => c.group.contains r
  c.kind = .reshard && ((s.schedOf d c).steps.zipIdx.any fun x =>
    (x.1.sdie ≠ 0xFFFF && !inGroup x.1.sdie) || (x.1.rdie ≠ 0xFFFF && match s.domainDie x.1.rdie with
      | none => true
      | some r => match s.collOp r c.phase c.tag with
        | none => true
        | some o => ((s.schedOf r o).steps[x.2]?.map (·.sdie)) ≠ some (s.fabricOf d)))
/-- The first rank whose record or schedule disagrees with rank 0's. -/
def State.collOdd (s : State) (c : Coll) : Option Nat :=
  match c.group with
  | [] => none
  | d0 :: _ =>
    let head := fun (d : Nat) => (s.collOp d c.phase c.tag).map (s.collHead d)
    c.group.find? fun d => head d ≠ head d0 || ((s.collOp d c.phase c.tag).any fun o => s.stepOdd o d)
/-- Marks a collective aborted at every rank that has issued, unless every rank had reported it complete (R304). -/
def State.abortColl (s : State) (c : Coll) (reason who : Nat) : State :=
  let w := s.fabricOf who
  c.group.foldl (fun s d => s.modXf d fun x => { x with
    colls := mapWhere x.colls (fun o => o.phase = c.phase && o.tag = c.tag && !o.aborted && !o.complete) fun o =>
      { o with aborted := true, reason := reason, who := w } }) s
/-- A die of the group has arrived without issuing. -/
def State.collLate (s : State) (c : Coll) : Option Nat :=
  c.group.find? fun d => s.hy.arrived.getLsbD d && (s.collOp d c.phase c.tag).isNone
/-- A rank of the group whose operation has aborted, with its reason and culprit. -/
def State.collDead (s : State) (c : Coll) : Option (Nat × Nat) :=
  c.group.findSome? fun d => match s.collOp d c.phase c.tag with
    | none => none
    | some o => if o.aborted then some (o.reason, o.who) else none
/-- The checks that a collective meets as a rank joins it. -/
def State.joinColl (s : State) (d : Nat) (c : Coll) : State :=
  match s.collDead c with
  | some r => s.modXf d fun x => { x with
      colls := mapWhere x.colls (fun o => o.phase = c.phase && o.tag = c.tag) fun o =>
        { o with aborted := true, reason := r.1, who := r.2 } }
  | none =>
    match c.group.find? s.dieGone, s.collLate c with
    | some r, _ => s.abortColl c 1 r
    | none, some r => s.abortColl c 2 r
    | none, none =>
      if s.collFull c then match s.collOdd c with | some r => s.abortColl c 5 r | none => s else s

/-! ### Issue (R292 to R299, R303) -/

/-- The handles in use by the current context. -/
def State.myColls (s : State) : List Nat := (s.myDie.xf.colls.filter fun c => c.ctx = s.cur.inDie).map (·.handle)
/-- The first and last byte offsets of an entry's elements from BASE (R224). -/
def entSpan (e : BitVec 512) : Int × Int :=
  let ends := [0, 1, 2, 3, 4].map fun a =>
    ((((if tidFmt e = 8 && a = tidAxis e then ceilDiv (tidExt e a) 32 else tidExt e a) : Nat) : Int) - 1) * tidStr e a
  ((ends.map fun x => min x 0).foldl (· + ·) 0, (ends.map fun x => max x 0).foldl (· + ·) 0 + tidUnit e)
/-- The place and length of an entry's span on a die. -/
def spanPlace (d : Nat) (e : BitVec 512) : Place × Nat :=
  (entPlace d e false (entSpan e).1, ((entSpan e).2 - (entSpan e).1).toNat)
/-- Opens the windows of a carry collective (R303). -/
def State.collWindows (s : State) (d owner : Nat) (se de : BitVec 512) : State :=
  let x := spanPlace d se
  let s1 := s.openWindow d owner false (s.placeRanges x.1 x.2 .read)
  if !tidValid de then s1
  else
    let y := spanPlace d de
    (s1.openWindow d owner true (s.placeRanges y.1 y.2 .write)).setEmpty (placeGranules y.1 y.2)
/-- The version changes of a re-shard at a die (R299). -/
def State.reshardTids (s : State) (d : Nat) (c : Coll) : State :=
  let v : BitVec 32 := BitVec.ofNat 32 (tidVer c.srcEnt + 1)
  (s.relay d c.srcId (tidLay c.srcEnt) v (tidAux c.srcEnt)).relay d c.dstId (fieldAt (s.schedOf d c).header 8 8) v
    (tidAux c.srcEnt)
/-- Accepts a collective. -/
def State.collAccept (s : State) (c : Coll) (carry : Bool) : State :=
  let d := s.cur.die
  let c1 := { c with
    carry := if carry then some (s.nextOwner d) else none, undo := carry && c.kind = .reshard }
  let s1 := (s.modXf d fun x => { x with colls := x.colls ++ [c1], tags := x.tags ++ [c.tag] }).useOwner d
  let s2 := match c1.carry with | none => s1 | some k => s1.collWindows d k c.srcEnt c.dstEnt
  let s3 := if c1.undo then s2.reshardTids d c1 else s2
  s3.joinColl d c1
/-- The record of COLL or GATHJ. -/
def State.collRec (s : State) (a : Src) : BitVec 1024 :=
  BitVec.ofNat 1024 (((s.ownKey (s.cx.sval a).toNat 128).map fun k => s.rd k 128).getD 0)
/-- The address and the length of a record's GMAP (R292, R294). -/
def gmapAt (r : BitVec 1024) : Nat × Nat := (fieldAt r 64 64, 2 * fieldAt r 32 16)
/-- The read of a GMAP waits: for the Traveller's own parked writes (R370), or on a diagnostic packet (R392, R393). -/
def State.gmapWaits (s : State) (r : BitVec 1024) : Bool :=
  s.dvaParked s.cur.die (gmapAt r).1 (gmapAt r).2 ParkOwner.isColl || s.dvaHeld s.cur.die (gmapAt r).1 (gmapAt r).2 .read
/-- What the read of an operation's GMAP does beside its result (R395, R401). -/
def State.gmapScrub (s : State) (c : Coll) : State :=
  if c.kind = .reshard then s else s.dvaScrub s.cur.die (gmapAt c.record).1 (gmapAt c.record).2 true
/-- How COLL, GATHJ and RESHARD block: the read of GMAP waits, an interlock, or there is no free handle or no free carry
window (R28, R54, R392). -/
def collBlocks (carry : Bool) (op : State → Coll) (s : State) : Option (State × Wait) :=
  let c := op s
  if c.kind ≠ .reshard && s.gmapWaits c.record then some (s, .hold)
  else if (freeHandle s.myColls 4).isNone || (carry && s.freeWindows s.cur.die < 2) then some (s, .stall) else none
/-- The syllable of an operation that `op` reads from the state, with its check. -/
def collSyl (d : Fin 48) (a : Src) (b : EnB) (carry : Bool) (check : State → Option Trap) (op : State → Coll) : Syl :=
  { slot := .en, latches := latchesOf [a] ++ b.latches, dest := some (.s, d.val), phase := phaseExchange
    check := check, blocks := collBlocks carry op
    perform := fun e s =>
      match freeHandle e.pre.myColls 4 with
      | none => .ok { st := s }
      | some h =>
        let s1 := (s.gmapScrub (op e.pre)).collAccept { op e.pre with handle := h } carry
        .ok { st := { s1 with cx := s1.cx.outS 7 (some d) (BitVec.ofNat 64 h) } } }
/-- A record keeps the limits of R292. -/
def recOk (r : BitVec 1024) (gath : Bool) : Bool :=
  let n := recLev r
  recOp r ≤ 3 && recFmt r ≤ 8 && !(recFmt r = 8 && recOp r ≠ 0) && 1 ≤ n && n ≤ 4 && fieldAt r 27 5 = 0 &&
    1 ≤ fieldAt r 32 16 && fieldAt r 32 16 ≤ 4096 && fieldAt r 48 16 = 0 && fieldAt r 64 64 % 2 = 0 &&
    fieldAt r 64 64 / 2 ^ 57 = 0 && fieldAt r 128 16 < 4096 && fieldAt r 144 16 < 4096 && fieldAt r 192 16 < 4096 &&
    fieldAt r 208 48 = 0 && ((List.range n).all fun l => recBound r l ≥ 1) &&
    ((List.range 4).all fun l => l < n || fieldAt r (256 + 192 * l) 192 = 0) && !(gath && recOp r ≠ 0)
/-- The source entry suits the record: format, space, element bytes, block rules, and every iteration's range (R293). -/
def recFits (r : BitVec 1024) (e : BitVec 512) : Bool :=
  let ls := List.range (recLev r)
  let el := recElems r
  let lo := (ls.map fun l => min 0 (((recBound r l : Int) - 1) * recSstr r l)).foldl (· + ·) 0
  let hi := (ls.map fun l => max 0 (((recBound r l : Int) - 1) * recSstr r l)).foldl (· + ·) 0
  tidFmt e = recFmt r && tidSpace e ≠ 3 && el / unitElems e * tidUnit e ≤ 1048576 &&
    (recFmt r ≠ 8 || (tidAxis e = 0 && tidExt e 0 % 32 = 0 && el % 32 = 0 &&
      ls.all fun l => recSstr r l % 32 = 0 && recDstr r l % 32 = 0)) &&
    (el = 0 || (lo ≥ 0 && hi + (el : Int) ≤ (tidTotal e : Int)))
/-- The fabric die numbers of GMAP, or the failed read. -/
def State.gmap (s : State) (r : BitVec 1024) : Except (XErr × Nat) (List Nat) :=
  match s.dvaGet s.cur.die (gmapAt r).1 (gmapAt r).2 with
  | .error e => .error e
  | .ok bs => .ok ((List.range (fieldAt r 32 16)).map fun i => leNat ((bs.drop (2 * i)).take 2))
/-- The dies of GMAP, where its entries are distinct, lie in the phase domain, alive or lost, and include the issuing die
(R294, R304). -/
def State.gmapDies (s : State) (fs : List Nat) : Option (List Nat) :=
  let ds := fs.filterMap s.domainDie
  if ds.length = fs.length && fs.Nodup && ds.contains s.cur.die then some ds else none
/-- The check of COLL and GATHJ (R292 to R294, R298, R305); while the read of GMAP waits, what it would show is not yet
checked. -/
def collCheck (a : Src) (b : EnB) (gath : Bool) (s : State) : Option Trap :=
  let x := (s.cx.enval b).toNat
  let tag := if gath then x / 2 ^ 32 % 65536 else x % 65536
  let r := s.collRec a
  let e := s.tid s.cur.die (fieldAt r 128 16)
  if (if gath then x / 2 ^ 48 else x / 2 ^ 16) ≠ 0 then some (enTrap .access)
  else match s.ownKey (s.cx.sval a).toNat 128 with
    | none => some (enTrap .access)
    | some k =>
      if s.badRead k 128 then some (enTrapKeep .eccUncorrectable)
      else if !recOk r gath then some (enTrap .access)
      else if !tidValid e then some (enTrap .tidInvalid)
      else if !recFits r e then some (enTrap .access)
      else if s.gmapWaits r then none
      else match s.gmap r with
        | .error f => some { cause := f.1.cause, slot := Slot.en.num, info := some { t0 := BitVec.ofNat 64 f.2 }, keep := true }
        | .ok fs =>
          let de := s.tid s.cur.die (fieldAt r 144 16)
          if (s.gmapDies fs).isNone || (gath && scaleSplit e (s.layout s.cur.die (tidLay e))) ||
              (gath && tidValid de && scaleSplit e (s.layout s.cur.die (tidLay de))) ||
              s.myDie.xf.tags.contains tag then some (enTrap .access)
          else if recFlag r 0 && recOp r ≠ 0 then some (enTrap .collSealed)
          else
            let v := s.shardVer s.cur.die (fieldAt r 128 16)
            if gath && v.toNat ≠ x % 2 ^ 32 then some (enTrapAt .shardStale v.toNat) else none
/-- The operation of COLL or GATHJ. -/
def collOf (a : Src) (b : EnB) (gath : Bool) (s : State) : Coll :=
  let x := (s.cx.enval b).toNat
  let r := s.collRec a
  let group := match s.gmap r with | .error _ => [] | .ok fs => (s.gmapDies fs).getD []
  { ctx := s.cur.inDie, handle := 0, kind := if gath then .gathj else .coll
    tag := if gath then x / 2 ^ 32 % 65536 else x % 65536, record := r, group := group, sched := 0
    srcId := fieldAt r 128 16, dstId := fieldAt r 144 16, srcEnt := s.tid s.cur.die (fieldAt r 128 16)
    dstEnt := s.tid s.cur.die (fieldAt r 144 16), shard := BitVec.ofNat 32 x, step := 0, applied := [], aborted := false
    reason := 0, who := 0xFFFF, complete := false, ended := false, carry := none, phase := s.hy.phc.toNat, undo := false }
/-- The phase domain in ascending fabric die number, lost dies among them (R294, R304). -/
def State.domainGroup (s : State) : List Nat :=
  if s.hy.pkgs.all (· = s.pkg) then s.members else (numsFrom 0 4096).filterMap s.domainDie
/-- The operation of RESHARD. -/
def reshardOf (a : Src) (b : EnB) (s : State) : Coll :=
  let v := (s.cx.sval a).toNat
  let d := s.cur.die
  { ctx := s.cur.inDie, handle := 0, kind := .reshard, tag := (s.cx.enval b).toNat % 65536, record := 0
    group := s.domainGroup, sched := v / 2 ^ 32 % 16, srcId := v % 4096, dstId := v / 65536 % 4096
    srcEnt := s.tid d (v % 4096), dstEnt := s.tid d (v / 65536 % 4096), shard := 0, step := 0, applied := []
    aborted := false, reason := 0, who := 0xFFFF, complete := false, ended := false, carry := none
    phase := s.hy.phc.toNat, undo := false }
/-- A step's source range or its block numbers break step 4 of R299. -/
def stepBad (e : BitVec 512) (t : SchedStep) : Bool :=
  (t.sdie ≠ 0xFFFF && t.sstart + t.scount > tidTotal e) ||
    (tidFmt e = 8 && (t.sstart % 32 ≠ 0 || t.dstart % 32 ≠ 0 || t.scount % 32 ≠ 0 || t.rcount % 32 ≠ 0))
/-- The check of RESHARD, in the order of R299; a source in a weight buffer, which engines do not read (R76), breaks step 4
(log 42). -/
def reshardCheck (a : Src) (b : EnB) (s : State) : Option Trap :=
  let v := (s.cx.sval a).toNat
  let d := s.cur.die
  let c := reshardOf a b s
  if v / 4096 % 16 ≠ 0 || v / 2 ^ 28 % 16 ≠ 0 || v / 2 ^ 36 ≠ 0 || (s.cx.enval b).toNat / 65536 ≠ 0 then
    some (enTrap .access)
  else if !tidValid c.srcEnt || !tidValid c.dstEnt then some (enTrap .tidInvalid)
  else match tabGet s.myDie.tables.scheds c.sched with
    | none => some (enTrap .access)
    | some k =>
      let h := k.header
      let sl := s.layout d (fieldAt h 0 8)
      let dl := s.layout d (fieldAt h 8 8)
      let exts := fun (e : BitVec 512) (l : BitVec 256) =>
        [0, 1, 2, 3, 4].all fun x => tidExt e x = s.shardExt d l x (fieldAt h (128 + 32 * x) 32)
      if tidLay c.srcEnt ≠ fieldAt h 0 8 || fieldAt sl 32 32 ≠ fieldAt h 32 32 || fieldAt dl 32 32 ≠ fieldAt h 64 32 then
        some (enTrap .layoutStale)
      else if !exts c.srcEnt sl || !exts c.dstEnt dl || tidFmt c.srcEnt ≠ fieldAt h 96 8 ||
          tidFmt c.dstEnt ≠ fieldAt h 96 8 || tidSpace c.srcEnt = 3 || scaleSplit c.srcEnt sl || scaleSplit c.srcEnt dl ||
          (fieldAt h 96 8 = 8 && [c.srcEnt, c.dstEnt].any fun e => tidAxis e ≠ 0 || tidExt e 0 % 32 ≠ 0) then
        some (enTrapAt .access 0xFFFF)
      else match (List.range k.steps.length).find? fun i => (k.steps[i]?).any (stepBad c.srcEnt) with
        | some t => some (enTrapAt .access t)
        | none => if s.myDie.xf.tags.contains c.tag then some (enTrap .access) else none

/-! ### CLWAIT (R301) -/

/-- The operation of a handle of the current context. -/
def State.myColl (s : State) (h : Nat) : Option Coll :=
  if h > 3 then none else s.myDie.xf.colls.find? fun c => c.ctx = s.cur.inDie && c.handle = h
/-- The bytes of a transfer to die `d`, not fully applied, that have been applied: all but those parked, once it has
begun (R370). -/
def State.bytesApplied (s : State) (d : Nat) (c : Coll) (x : Xfer) : Nat :=
  let own := ParkOwner.coll (c.group[x.rank]?.getD 8) c.phase c.tag x.index
  let kept := (s.die d).tiers.parked.filter fun p => p.owner = own
  let n := (lamsFrom c.srcEnt x.dst x.n).length * tidUnit c.srcEnt
  if kept.isEmpty then 0 else n - (kept.map fun p => p.bytes.length).foldl (· + ·) 0
/-- An entry of the report. -/
def State.reportEntry (s : State) (d : Nat) (c : Coll) (x : Xfer) : List Byte :=
  leBytes 16 (x.rank + 2 ^ 16 * x.index + 2 ^ 64 * (s.bytesApplied d c x % 2 ^ 24))
/-- The 4 KiB report of an operation at die `d`. -/
def State.report (s : State) (d : Nat) (c : Coll) : List Byte :=
  let to_ := s.xfersTo c (placeIn d c.group)
  let left := to_.filter fun x => !c.applied.contains (x.rank, x.index)
  let body := leBytes 4 to_.length ++ leBytes 4 (to_.length - left.length) ++ leBytes 2 c.reason ++ leBytes 2 c.who ++
    leBytes 4 (Nat.min 255 left.length) ++ (left.take 255).flatMap (s.reportEntry d c)
  body ++ List.replicate (4096 - body.length) 0
/-- The status ABORTED (R267). -/
def statusAborted : Dword := 0x8000000000000005
/-- CLWAIT's report, where SRCB names an area. -/
def State.putReport (s : State) (d : Nat) (c : Coll) (area : Option Nat) : State :=
  match area with | none => s | some k => s.put k (s.report d c)


/-- LAYSET (R302) -/
def actLayset (d : Fin 48) (a : Src) (f : Fin 3) : Syl :=
  { slot := .en, latches := latchesOf [a], dest := some (.s, d.val), phase := phaseCompute
    check := fun s =>
      let v := (s.cx.sval a).toNat
      if f = 0 then
        if v / 2 ^ 40 ≠ 0 then some (enTrap .access)
        else match s.ownKey (v % 2 ^ 32) 32 with
          | none => some (enTrap .access)
          | some k =>
            if s.badRead k 32 then some (enTrapKeep .eccUncorrectable)
            else if (layBad (BitVec.ofNat 256 (s.rd k 32)) false).isSome then some (enTrap .access)
            else none
      else if v ≥ 4096 then some (enTrap .access)
      else none
    perform := fun e s =>
      let v := (e.pre.cx.sval a).toNat
      let x := s.cur.die
      if f = 0 then
        let r := BitVec.ofNat 256 (((e.pre.ownKey (v % 2 ^ 32) 32).map fun k => e.pre.rd k 32).getD 0)
        let n := v / 2 ^ 32 % 256
        let ver : BitVec 32 := BitVec.ofNat 32 (fieldAt (s.layout x n) 32 32 + 1)
        let s1 := s.modTables x fun t => { t with layouts := tabSet t.layouts n (putSlice r 32 ver) }
        .ok { st := { s1 with cx := s1.cx.outS 7 (some d) 0 } }
      else
        let ver := if f = 1 then s.shardVer x v + 1 else s.shardVer x v
        let s1 := if f = 1 then s.modTables x fun t => { t with shards := tabSet t.shards v ver } else s
        .ok { st := { s1 with cx := s1.cx.outS 7 (some d) (ver.setWidth 64) } } }
/-- LAYSET, alone in its bundle. -/
def execLayset (d : Fin 48) (a : Src) (f : Fin 3) (s : State) : Host.Outcome State Fault Refusal :=
  issueOne (actLayset d a f) s

/-- COLL (R298) -/
def actColl (d : Fin 48) (a : Src) (b : EnB) (carry : Bool) : Syl :=
  collSyl d a b carry (collCheck a b false) (collOf a b false)
/-- COLL, alone in its bundle. -/
def execColl (d : Fin 48) (a : Src) (b : EnB) (carry : Bool) (s : State) : Host.Outcome State Fault Refusal :=
  issueOne (actColl d a b carry) s

/-- CLWAIT (R301) -/
def actClwait (d : Fin 48) (a : Src) (b : EnB) : Syl :=
  { slot := .en, latches := latchesOf [a] ++ b.latches, dest := some (.s, d.val), phase := phaseMember
    check := fun s =>
      let area := (s.cx.enval b).toNat
      if (s.cx.sval a).toNat > 3 || (area ≠ 0 && (s.ownKey area 4096).isNone) then some (enTrap .access) else none
    blocks := fun s =>
      match s.myColl (s.cx.sval a).toNat with
      | none => none
      | some c => if c.ended then none else some (s, .stall)
    perform := fun e s =>
      let area := (e.pre.cx.enval b).toNat
      match s.myColl (e.pre.cx.sval a).toNat with
      | none => .ok { st := { s with cx := s.cx.outS 7 (some d) 0 } }
      | some c =>
        let x := s.cur.die
        let s1 := (s.putReport x c (if area = 0 then none else e.pre.ownKey area 4096)).modXf x fun y => { y with
          colls := mapWhere y.colls (fun o => o.ctx = c.ctx && o.handle = c.handle) fun o => { o with handle := 4 } }
        .ok { st := { s1 with cx := s1.cx.outS 7 (some d) (if c.aborted then statusAborted else 0) } } }
/-- CLWAIT, alone in its bundle. -/
def execClwait (d : Fin 48) (a : Src) (b : EnB) (s : State) : Host.Outcome State Fault Refusal :=
  issueOne (actClwait d a b) s

/-- RESHARD (R299) -/
def actReshard (d : Fin 48) (a : Src) (b : EnB) (carry : Bool) : Syl :=
  collSyl d a b carry (reshardCheck a b) (reshardOf a b)
/-- RESHARD, alone in its bundle. -/
def execReshard (d : Fin 48) (a : Src) (b : EnB) (carry : Bool) (s : State) : Host.Outcome State Fault Refusal :=
  issueOne (actReshard d a b carry) s

/-- GATHJ (R298) -/
def actGathj (d : Fin 48) (a : Src) (b : EnB) (carry : Bool) : Syl :=
  collSyl d a b carry (collCheck a b true) (collOf a b true)
/-- GATHJ, alone in its bundle. -/
def execGathj (d : Fin 48) (a : Src) (b : EnB) (carry : Bool) (s : State) : Host.Outcome State Fault Refusal :=
  issueOne (actGathj d a b carry) s

/-! ### Transfers (R293, R295, R296, R300) -/

/-- The receiver's entry takes a transfer (R293, R300). -/
def xferFits (se de : BitVec 512) (x : Xfer) : Bool :=
  tidValid de && tidSpace de ≠ 3 && fieldAt de 64 8 = fieldAt se 64 8 &&
    (tidFmt se ≠ 8 || (tidAxis de = 0 && tidExt de 0 % 32 = 0)) && x.dst ≥ 0 && x.dst + (x.n : Int) ≤ (tidTotal de : Int)
/-- Distance of a rank from the owner along the chain of R295. -/
def chainAt (n owner rank : Nat) : Nat := (rank + n - owner) % n
/-- Transfer `y` writes the element of `x` at linear index `lam`. -/
def Xfer.covers (y : Xfer) (dtid lam : Nat) : Bool := y.dtid = dtid && y.dst ≤ (lam : Int) && (lam : Int) < y.dst + (y.n : Int)
/-- Two transfers write an element in common. -/
def Xfer.meets (x y : Xfer) : Bool := x.dtid = y.dtid && x.dst < y.dst + (y.n : Int) && y.dst < x.dst + (x.n : Int)
/-- An earlier rank of the chain still owes a contribution to an element of `x` (R295). -/
def chainWaits (to_ : List Xfer) (applied : List (Nat × Nat)) (n : Nat) (x : Xfer) : Bool :=
  to_.any fun y => chainAt n x.peer y.rank < chainAt n x.peer x.rank && x.meets y && !applied.contains (y.rank, y.index)
/-- A combination of OP 1 to 3 (R295). -/
def combine (op fmt a b : Nat) : Nat :=
  if fmt < 4 then
    let w := intBits fmt
    if op = 1 then (a + b) % 2 ^ w
    else if (signedOf w a ≤ signedOf w b) = (op = 2) then b else a
  else if op = 1 then (fAdd (fltOf fmt) .rne a b).1
  else (fMinMax (fltOf fmt) (op = 2) a b).1
/-- The operation is a reduction. -/
def Coll.reduces (c : Coll) : Bool := c.kind = .coll && recOp c.record ≠ 0
/-- Some rank contributes twice to the element at `lam`, whose bytes are then unpredictable (R295). -/
def twiceAt (to_ : List Xfer) (dtid lam : Nat) : Bool :=
  to_.any fun y => y.covers dtid lam && to_.any fun z => z.rank = y.rank && z.index ≠ y.index && z.covers dtid lam
/-- A transfer combines with the prefix of the chain at `lam`: an earlier rank contributes there (R295). -/
def combinesAt (c : Coll) (to_ : List Xfer) (x : Xfer) (lam : Nat) : Bool :=
  c.reduces && !twiceAt to_ x.dtid lam &&
    to_.any fun y => chainAt c.group.length x.peer y.rank < chainAt c.group.length x.peer x.rank && y.covers x.dtid lam
/-- The bytes that a transfer leaves at a destination element, given the contribution, the bytes there now and the
next free value: the contribution, its combination with the prefix of the chain, or an unpredictable value (R295). -/
def xferValue (s : State) (c : Coll) (to_ : List Xfer) (x : Xfer) (lam : Nat) (v old : List Byte) : List Byte :=
  if c.reduces && twiceAt to_ x.dtid lam then leBytes v.length (s.freeBits 64).toNat
  else if combinesAt c to_ x lam then leBytes v.length (combine (recOp c.record) (recFmt c.record) (leNat old) (leNat v))
  else v
/-- The prefixes at the elements of a transfer that combines with them; no byte is read elsewhere. -/
def State.prefixes (s : State) (c : Coll) (to_ : List Xfer) (x : Xfer) (r : Nat) (de : BitVec 512) (n : Nat) :
    List Nat → Except EngFault (List (List Byte))
  | [] => .ok []
  | lam :: ls =>
    match if combinesAt c to_ x lam then s.engGet 6 (lamPlace r de lam) n else .ok [] with
    | .error f => .error f
    | .ok b => match s.prefixes c to_ x r de n ls with | .error f => .error f | .ok bs => .ok (b :: bs)
/-- The granules of a transfer's destination. -/
def Xfer.granules (x : Xfer) (d : Nat) (e : BitVec 512) : List Nat :=
  (lamsFrom e x.dst x.n).flatMap fun k => placeGranules (lamPlace d e k) (tidUnit e)
/-- The granules that become full as `x` is applied: all of them, or, inside a carry window, those that no transfer
still to come writes (R77, R303). -/
def fullGranules (to_ : List Xfer) (rc : Coll) (d : Nat) (e : BitVec 512) (x : Xfer) : List Nat :=
  if rc.carry.isNone then x.granules d e
  else
    let later := (to_.filter fun y => y ≠ x && y.dtid = x.dtid && !rc.applied.contains (y.rank, y.index)).flatMap fun y =>
      y.granules d e
    (x.granules d e).filter fun g => !later.contains g
/-- A dropped transfer: the collective aborts, and a fault's address goes to the job status (R304, R306). -/
def State.dropXfer (s : State) (c : Coll) (r : Nat) (fault : Option (Nat × EngFault)) : State :=
  let s1 := match fault with
    | none => s
    | some f => s.raiseJob f.1 .engfault none (some (BitVec.ofNat 64 f.2.addr))
  s1.abortColl c 4 r
/-- The bytes of a transfer's elements, each with a free value of its own. -/
def State.xferBytes (s : State) (c : Coll) (to_ : List Xfer) (x : Xfer) : List (Nat × List Byte × List Byte) → List (List Byte)
  | [] => []
  | w :: ws => xferValue s c to_ x w.1 w.2.1 w.2.2 :: s.tickFree.xferBytes c to_ x ws
/-- A transfer counts as fully applied at die `r` (R296, R301). -/
def State.xferCounted (s : State) (c : Coll) (r : Nat) (x : Xfer) : State :=
  s.modXf r fun y => { y with
    colls := mapWhere y.colls (fun o => o.phase = c.phase && o.tag = c.tag) fun o =>
      { o with applied := o.applied ++ [(x.rank, x.index)] } }
/-- A transfer has been applied, with granules to fill: it is counted, and the barrier takes its arrival (R296). -/
def State.xferApplied (s : State) (c : Coll) (r : Nat) (x : Xfer) (gs : List Nat) : State :=
  let s1 := (s.setFull gs).xferCounted c r x
  if c.kind ≠ .reshard && recFlag c.record 2 then s1.barArrive r (fieldAt c.record 192 16) 1 0 else s1
/-- Performs the writes of a transfer of die `d` and counts it as applied, unless a write is parked, whose replay does so
(R370). -/
def State.xferPut (s : State) (d : Nat) (c rc : Coll) (r : Nat) (e : BitVec 512) (x : Xfer) (vs olds : List (List Byte)) :
    State :=
  let to_ := s.xfersTo c x.peer
  let lams := lamsFrom e x.dst x.n
  let puts := joinWrites ((lams.map (lamPlace r e)).zip (s.xferBytes c to_ x (lams.zip (vs.zip olds))))
  if !s.parkFits puts then s
  else
    let s0 := s.engPutAll puts (.coll d c.phase c.tag x.index)
    let s1 := { s0 with fresh := s0.fresh + lams.length }
    if s1.ownerParked (.coll d c.phase c.tag x.index) then s1 else s1.xferApplied c r x (fullGranules to_ rc r e x)
/-- Applies a transfer of the operation of die `d` at its destination die `r`, or drops it. -/
def State.applyXfer (s : State) (d : Nat) (c : Coll) (r : Nat) (rc : Coll) (x : Xfer) : State :=
  let de := s.tid r x.dtid
  let n := tidUnit c.srcEnt
  let src := (lamsFrom c.srcEnt x.src x.n).map (lamPlace d c.srcEnt)
  let dst := (lamsFrom c.srcEnt x.dst x.n).map (lamPlace r de)
  let badStep := c.kind = .reshard && match (s.schedOf r rc).steps[x.index]? with
    | none => true
    | some t => t.rdie ≠ s.fabricOf d || t.rcount ≠ x.n
  let own := fun k => ownWindows c.carry k || ownWindows rc.carry k
  let to_ := s.xfersTo c x.peer
  if c.kind = .gathj && c.shard ≠ rc.shard then s.abortColl c 3 d
  else if badStep || !xferFits c.srcEnt de x then s.dropXfer c r none
  else if (src.any fun p => s.engHeld own p n .read || s.engParked p n ParkOwner.isColl) ||
      dst.any fun p => s.engHeld own p n .write || (c.reduces && s.engParked p n ParkOwner.isColl) then s
  else match s.readAll 6 n src with
    | .error f => s.dropXfer c r (some (d, f))
    | .ok vs =>
      match s.canAll n dst, s.prefixes c to_ x r de n (lamsFrom c.srcEnt x.dst x.n) with
      | some f, _ => s.dropXfer c r (some (r, f))
      | none, .error f => s.dropXfer c r (some (r, f))
      | none, .ok olds => (s.engScrubAll (src.map fun p => (p, n))).xferPut d c rc r de x vs olds
/-- The collective runs: every rank has issued and none has ended or aborted. -/
def State.collRuns (s : State) (c : Coll) : Bool :=
  !c.aborted && !c.complete && !c.ended && s.collFull c && (s.collDead c).isNone
/-- The operation of a context's handle. -/
def State.collAt (s : State) (d ctx h : Nat) : Option Coll :=
  (s.die d).xf.colls.find? fun c => c.ctx = ctx && c.handle = h
/-- COLL_TRANSFER_APPLY (R293, R295, R296, R300): the destination die applies a transfer, in the order of the rank
chain for a reduction -/
def execCollTransferApply (die ctx handle index : Nat) (s : State) : Host.Outcome State Fault Refusal :=
  .next (match s.collAt die ctx handle with
    | none => s
    | some c =>
      if !s.collRuns c || index ≥ s.collCount die c || (c.kind = .reshard && c.step ≠ index) then s
      else match s.xferAt die c index with
        | none => s
        | some x =>
          match c.group[x.peer]? with
          | none => s
          | some r =>
            match s.collOp r c.phase c.tag with
            | none => s
            | some rc =>
              if rc.applied.contains (x.rank, x.index) || s.ownerParked (.coll die c.phase c.tag index) || (c.kind = .reshard && rc.step < index) ||
                  (c.kind = .coll && recOp c.record ≠ 0 &&
                    chainWaits (s.xfersTo c x.peer) rc.applied c.group.length x) then s
              else s.applyXfer die c r rc x)
/-- A step's send has been applied and its receive has landed (R300). -/
def State.stepDone (s : State) (d : Nat) (c : Coll) : Bool :=
  let rank := placeIn d c.group
  (match s.xferAt d c c.step with
    | none => true
    | some x => match c.group[x.peer]? with
      | none => true
      | some r => (s.collOp r c.phase c.tag).any fun o => o.applied.contains (rank, c.step)) &&
    match (s.schedOf d c).steps[c.step]? with
    | none => false
    | some t => t.rdie = 0xFFFF || match s.domainDie t.rdie with
      | none => true
      | some r => c.applied.contains (placeIn r c.group, c.step)
/-- RESHARD_STEP (R300): a die finishes a schedule step and begins the next -/
def execReshardStep (die ctx handle : Nat) (s : State) : Host.Outcome State Fault Refusal :=
  .next (match s.collAt die ctx handle with
    | none => s
    | some c =>
      if c.kind = .reshard && s.collRuns c && s.stepDone die c then
        s.modXf die fun x => { x with
          colls := mapWhere x.colls (fun o => o.ctx = ctx && o.handle = handle) fun o => { o with step := o.step + 1 } }
      else s)
/-- Every rank's transfers have been applied and acknowledged (R296). -/
def State.collDone (s : State) (c : Coll) : Bool :=
  s.collFull c && c.group.all fun d => match s.collOp d c.phase c.tag with
    | none => false
    | some o => if o.kind = .reshard then o.step ≥ s.collCount d o
      else (List.range (s.collCount d o)).all fun i => match s.xferAt d o i with
        | none => true
        | some x => match c.group[x.peer]? with
          | none => true
          | some r => (s.collOp r c.phase c.tag).any fun rc => rc.applied.contains (x.rank, x.index)
/-- What ending does at a die: the entries of a completed operation, the granules still empty, and the windows
(R291, R299, R303). -/
def State.endColl (s : State) (d : Nat) (c : Coll) : State :=
  let s1 := if c.aborted || c.undo then s
    else match c.kind with
      | .reshard => s.reshardTids d c
      | .gathj =>
        let e := s.tid d c.dstId
        if tidValid e then s.relay d c.dstId (tidLay e) (BitVec.ofNat 32 (tidVer e)) (tidAux c.srcEnt) else s
      | .coll => s
  let s2 := if c.carry.isSome && tidValid c.dstEnt then
      s1.setFull (placeGranules (spanPlace d c.dstEnt).1 (spanPlace d c.dstEnt).2) else s1
  (s2.modXf d fun x => { x with
    colls := mapWhere x.colls (fun o => o.phase = c.phase && o.tag = c.tag) fun o =>
      { o with ended := true, undo := c.undo && c.aborted } }).closeWindows c.carry
/-- Every rank has reported: the operation is complete at each of them, and no loss aborts it any more (R33, R296). -/
def State.sealColl (s : State) (c : Coll) : State :=
  c.group.foldl (fun s d => s.modXf d fun x => { x with
    colls := mapWhere x.colls (fun o => o.phase = c.phase && o.tag = c.tag && !o.aborted) fun o =>
      { o with complete := true } }) s
/-- COLL_END (R296, R304): a collective ends at a die, complete or aborted -/
def execCollEnd (die ctx handle : Nat) (s : State) : Host.Outcome State Fault Refusal :=
  .next (match s.collAt die ctx handle with
    | none => s
    | some c =>
      if c.ended then s
      else if c.aborted || c.complete then s.endColl die c
      else if s.collDone c then (s.sealColl c).endColl die c
      else s)
/-- What a crossing does to a die's collectives: an aborted carry re-shard's entries are restored, handles of ended
operations freed, and those ended at every rank forgotten (R297, R303). -/
def State.crossColls (s : State) (d : Nat) : State :=
  let undo := (s.die d).xf.colls.filter fun c => c.ended && c.undo
  let s1 := undo.foldl (fun s c =>
    (s.relay d c.srcId (tidLay c.srcEnt) (BitVec.ofNat 32 (tidVer c.srcEnt)) (tidAux c.srcEnt)).relay d c.dstId
      (tidLay c.dstEnt) (BitVec.ofNat 32 (tidVer c.dstEnt)) (tidAux c.dstEnt)) s
  let isOver := fun (c : Coll) => c.ended && c.group.all fun e => match s.collOp e c.phase c.tag with
    | none => true | some o => o.ended
  s1.modXf d fun x => { x with
    tags := []
    colls := mapWhere (dropWhere x.colls isOver) (fun c => c.ended) fun c => { c with handle := 4, undo := false } }

end Sys2Proof.Machine
end

