-- ==== Sys2Proof/Machine/Lifetime.lean ====
section
/-! DEFINITION. The lifetime records: the sail plan record as bytes, the image's counters, the event log and the
history, the counting of time, and the snapshot and flash steps (R377, R435 to R440). -/

namespace Sys2Proof.Machine

/-! ### The lodge cores (R372, R373) -/

/-- A lodge core. -/
def State.lodgeAt (s : State) (d : Nat) : Lodge :=
  s.lodge[d]?.getD { running := false, haltedAt := none, lastHalt := none, acting := none, renewed := 0, again := false }
/-- Changes a lodge core. -/
def State.modLodge (s : State) (d : Nat) (f : Lodge → Lodge) : State :=
  { s with lodge := s.lodge.setIfInBounds d (f (s.lodgeAt d)) }
/-- The lodge core acts as Belvedere: less than 3.5 ms have passed since its last renewal (R373). -/
def State.actsNow (s : State) (d : Nat) : Bool :=
  let l := s.lodgeAt d
  l.running && l.acting.isSome && s.nowUs < l.renewed + 3500
/-- The acting Belvedere. -/
def State.acting (s : State) : Option Nat := (numsFrom 0 8).find? s.actsNow

/-! ### The sail plan record (R377) -/

/-- The 16 bytes of a cluster. -/
def ClusterPlan.bytes (c : ClusterPlan) : List Byte := leBytes 12 c.cores.toNat ++ leBytes 2 c.mhz ++ leBytes 2 c.mv
/-- The number of some 4-bit fields, the first lowest. -/
def nibbles : List Nat → Nat
  | [] => 0
  | x :: xs => x % 16 + 16 * nibbles xs
/-- The 256 bytes of a die section. -/
def DiePlan.bytes (p : DiePlan) : List Byte :=
  leBytes 1 (if p.alive then 1 else 0) ++ leBytes 1 p.lodge ++ leBytes 1 p.copyE.toNat ++
  leBytes 1 ((if p.hbm then 1 else 0) + (if p.cap then 2 else 0)) ++ leBytes 4 (nibbles p.ports.toList) ++
  leBytes 16 p.vaults.toNat ++ leBytes 8 p.spares ++ p.clusters.toList.flatMap ClusterPlan.bytes ++ leBytes 128 0
/-- The 0x840 bytes of a record. -/
def SailPlan.bytes (p : SailPlan) : List Byte :=
  leBytes 8 p.version ++ leBytes 8 p.time ++ leBytes 1 p.cause ++ leBytes 1 p.cdie ++ leBytes 6 p.cunit ++
  leBytes 8 (p.pkg.1 % 8 + 8 * (p.pkg.2.1 % 8) + 64 * (p.pkg.2.2 % 8)) ++ leBytes 32 p.belv ++
  p.dies.toList.flatMap DiePlan.bytes

/-! ### Counters (R436, R438) -/

/-- The 64-bit value at a byte offset of the image. -/
def Lifetime.get (l : Lifetime) (off : Nat) : Nat := (tabGetD l.image (off / 8) 0).toNat
/-- Sets the 64-bit value at a byte offset. -/
def Lifetime.set (l : Lifetime) (off v : Nat) : Lifetime := { l with image := tabSet l.image (off / 8) (BitVec.ofNat 64 v) }
/-- Adds to a counter, which stays at 2^64 − 1 once there (R436). -/
def Lifetime.add (l : Lifetime) (off n : Nat) : Lifetime :=
  if n = 0 then l else l.set off (Nat.min 0xFFFFFFFFFFFFFFFF (l.get off + n))
/-- Changes the lifetime records. -/
def State.modLife (s : State) (f : Lifetime → Lifetime) : State := { s with life := f s.life }
/-- Adds to a counter of die `d`'s section. -/
def State.count (s : State) (d off n : Nat) : State := s.modLife fun l => l.add (0x1000 + 0x1000 * d + off) n
/-- Offset of EVTOTAL. -/
def evTotal : Nat := 0x30
/-- Offset of HISTTOTAL. -/
def histTotal : Nat := 0x38
/-- The offset of event entry `n`. -/
def eventAt (n : Nat) : Nat := 0x9000 + 32 * (n % 4096)
/-- The offset of history entry `n`. -/
def historyAt (n : Nat) : Nat := 0x29000 + 0x850 * (n % 512)

/-- Appends an event entry (R439) and counts it by CLASS: KIND 1, 3 and 4 as lasting, KIND 0 and 5 as transient. -/
def State.logEvent (s : State) (d cls kind unit addr : Nat) : State :=
  let n := s.life.get evTotal
  let k := eventAt n
  let s1 := s.modLife fun l =>
    let l1 := ((((l.set k (s.nowUs / 1000 % 2 ^ 44 + 2 ^ 44 * (l.get 0x10 % 2 ^ 20))).set (k + 8)
      (d + 256 * cls + 65536 * kind + 2 ^ 32 * unit)).set (k + 16) addr).set (k + 24) s.plan.version).add evTotal 1
    if kind = 0 then l1 else { l1 with urgent := l1.urgent ++ [n] }
  if kind = 2 then s1 else s1.count d (0xC00 + 16 * cls + if kind = 0 || kind = 5 then 0 else 8) 1
/-- Counts an event against a unit; whether `n` have come within 24 h, which start the count afresh. -/
def State.strike (s : State) (d cls unit n : Nat) : State × Bool :=
  let mine := fun (a : Against) => decide (a.die = d ∧ a.cls = cls ∧ a.unit = unit)
  let old := match s.against.find? mine with | none => [] | some a => a.times
  let ts := (old.filter fun t => s.nowUs < t + 86400000000) ++ [s.nowUs]
  let full := decide (ts.length ≥ n)
  ({ s with
    against := dropWhere s.against mine ++ if full then [] else [{ die := d, cls := cls, unit := unit, times := ts }] }, full)
/-- Posts a report. -/
def State.post (s : State) (c : PlanChange) (cls : Option Nat) (unit addr : Nat) : State :=
  { s with changes := s.changes ++ [{ change := c, cls := cls, unit := unit, addr := addr }] }
/-- The 64-bit values of some bytes, `fuel` of them. -/
def wordsFrom (bs : List Byte) : Nat → List Nat
  | 0 => []
  | n + 1 => leNat (bs.take 8) :: wordsFrom (bs.drop 8) n
/-- Appends the history entry of the published version (R440). -/
def State.logHistory (s : State) : State :=
  s.modLife fun l =>
    let k := historyAt (l.get histTotal)
    let ws := l.get 0x10 :: 0 :: wordsFrom s.plan.bytes 264
    ((ws.zipIdx.foldl (fun l x => l.set (k + 8 * x.2) x.1) l)).add histTotal 1

/-! ### Time (R438) -/

/-- The bin of a temperature in units of 0.125 °C among 64 bins of `w` units. -/
def tempBin (t : Int) (w : Nat) : Nat := Nat.min 63 (t / w).toNat
/-- Counts `ms` of a die's temperatures and refresh steps, and `sec` of its clusters' voltages and clocks in force. -/
def State.countDie (ms sec : Nat) (s : State) (d : Nat) : State :=
  let t := (s.die d).th
  let s1 := ((((s.count d (8 * tempBin t.max 16) ms).count d (0x200 + 8 * tempBin t.htemp 16) ms).count d
    (0x400 + 8 * tempBin t.ctemp 16) ms).count d (0xDC8 + 8 * t.hstep) ms).count d (0xDE0 + 8 * t.cstep) ms
  match s.plan.dies[d]? with
  | none => s1
  | some p => p.clusters.toList.zipIdx.foldl (fun s x =>
      let k := 0x600 + 0x100 * x.2
      (s.count d (k + 8 * Nat.min 15 ((x.1.mv - 700) / 10)) sec).count d
        (k + 128 + 8 * Nat.min 12 ((s.mhzOf d x.2 - 700) / 25)) sec) s1
/-- Counts `us` of time that passes from now, while some lodge core runs: the package's counters, and the section of each
live die whose lodge core runs or is stood in for by a Belvedere (R388, R436, R438). -/
def State.lifeTick (s : State) (us : Nat) : State :=
  if !s.lodge.toList.any (·.running) then s
  else
    let per := fun (n : Nat) => (s.nowUs + us) / n - s.nowUs / n
    let ms := per 1000
    let s1 := s.modLife fun l =>
      ((l.add 0x18 (per 3600000000)).add (0x100 + 8 * Nat.min 40 (s.power.watts / 100)) ms).add
        (0x300 + 8 * tempBin s.power.inlet 8) ms
    ((numsFrom 0 8).filter fun d => s.dieAlive d && ((s.lodgeAt d).running || s.acting.isSome)).foldl (State.countDie ms (per 1000000)) s1
/-- Counts a die's wait from its arrival to the crossing: bin i holds waits from 2^i to 2^(i+1) µs. -/
def State.countWait (s : State) (d : Nat) : State :=
  s.count d (0xD00 + 8 * Nat.min 23 (Nat.log2 (s.nowUs - (s.die d).arrivedAt))) 1

/-! ### Snapshot (R437) -/

/-- A new snapshot is asked for; READY reads 0 until it is complete (R437). -/
def State.snap (s : State) : State := s.modLife fun l => { l with snapping := true, snapshot := none }
/-- SNAPSHOT_READY (R437): the snapshot is complete, with STAMP and VERSION as of now; held until a Belvedere acts -/
def execSnapshotReady (s : State) : Host.Outcome State Fault Refusal :=
  .next (
    if s.life.snapping && s.acting.isSome then
      s.modLife fun l =>
        { l with snapping := false, snapshot := some ((l.set 0x20 (s.nowUs / 1000)).set 0x28 s.plan.version).image }
    else s)
/-- The length of the image in bytes (R438). -/
def lifeBytes : Nat := 0x29000 + 512 * 0x850
/-- The bytes of an image (R438). -/
def imageBytes (t : Tab (BitVec 64)) : List Byte :=
  (numsFrom 0 (lifeBytes / 8)).flatMap fun k => leBytes 8 (tabGetD t k 0).toNat
/-- The bytes of the snapshot that PLDM file transfer serves over the management port: `n` of them from an offset (R437). -/
def Lifetime.served (l : Lifetime) (off n : Nat) : Option (List Byte) :=
  l.snapshot.map fun t => ((imageBytes t).drop off).take n
/-- LR_DATA at an offset: 0 beyond the image, or while no snapshot is complete (R437). -/
def Lifetime.data (l : Lifetime) : BitVec 64 :=
  match l.snapshot with
  | none => 0
  | some t => if 8 * l.offs < lifeBytes then tabGetD t l.offs 0 else 0
/-- A read of LR_DATA: the 8 bytes at LR_ADDR, and OFFS goes on by 1 (R437). -/
def State.lrRead (s : State) : State :=
  { s with
    host := { s.host with readData := s.life.data }
    life := { s.life with offs := (s.life.offs + 1) % 2097152 } }
/-- LR_DATA_READ (R437) -/
def execLrDataRead (s : State) : Host.Outcome State Fault Refusal := .next s.lrRead

/-! ### Flash (R435, R436, R439) -/

/-- A flash copy as a write leaves it, its digest last. -/
def FlashCopy.of (t : Tab (BitVec 64)) : FlashCopy := { image := t, digest := sha384 (imageBytes t) }
/-- The image of a complete copy: one whose digest is that of its image (R435). -/
def FlashCopy.complete? (c : Option FlashCopy) : Option (Tab (BitVec 64)) :=
  c.bind fun c => if c.digest = sha384 (imageBytes c.image) then some c.image else none
/-- A copy whose digest is its image's is complete. -/
theorem FlashCopy.complete?_some (c : FlashCopy) (h : c.digest = sha384 (imageBytes c.image)) :
    FlashCopy.complete? (some c) = some c.image := if_pos h
/-- A copy just written is complete. -/
@[simp] theorem FlashCopy.complete?_of (t : Tab (BitVec 64)) : FlashCopy.complete? (some (FlashCopy.of t)) = some t :=
  FlashCopy.complete?_some (.of t) rfl
/-- The complete flash copy with the higher SEQ, and whether it is B (R435). -/
def Lifetime.best (l : Lifetime) : Option (Tab (BitVec 64) × Bool) :=
  let seq := fun (t : Tab (BitVec 64)) => (tabGetD t 1 0).toNat
  match FlashCopy.complete? l.copyA, FlashCopy.complete? l.copyB with
  | none, none => none
  | some a, none => some (a, false)
  | none, some b => some (b, true)
  | some a, some b => if seq b > seq a then some (b, true) else some (a, false)
/-- The image with STAMP and VERSION as of now (R438). -/
def State.stamped (s : State) (l : Lifetime) : Lifetime := (l.set 0x20 (s.nowUs / 1000)).set 0x28 s.plan.version
/-- A write of the image to the flash copy whose turn it is (R435). -/
def State.writeFlash (s : State) : State :=
  s.modLife fun l =>
    let l1 := (s.stamped l).add 8 1
    { l1 with
      copyA := if l1.nextB then l1.copyA else some (.of l1.image)
      copyB := if l1.nextB then some (.of l1.image) else l1.copyB
      nextB := !l1.nextB, wroteAt := s.nowUs, urgent := [], owed := false }
/-- LIFETIME_FLASH_WRITE (R435, R436): once an hour, and when it has taken the role, the acting Belvedere writes the image to
the copy whose turn it is -/
def execLifetimeFlashWrite (s : State) : Host.Outcome State Fault Refusal :=
  .next (if s.acting.isSome && (s.life.owed || s.nowUs ≥ s.life.wroteAt + 3600000000) then s.writeFlash else s)
/-- The values of the event entries `ns`, of every history entry and of both totals, put into a copy of the image. -/
def Lifetime.flushed (l : Lifetime) (ns : List Nat) (t : Tab (BitVec 64)) : Tab (BitVec 64) :=
  let ks := [evTotal / 8, histTotal / 8] ++ (ns.flatMap fun n => numsFrom (eventAt n / 8) 4) ++
    ((l.image.filter fun e => e.1 ≥ historyAt 0 / 8).map (·.1))
  ks.foldl (fun t k => tabSet t k (tabGetD l.image k 0)) t
/-- URGENT_EVENT_FLUSH (R439): the acting Belvedere puts the urgent entries and their history into the flash record; where
no copy is complete, it writes one -/
def execUrgentEventFlush (s : State) : Host.Outcome State Fault Refusal :=
  .next (
    if s.acting.isNone || s.life.urgent.isEmpty then s
    else match s.life.best with
      | none => s.writeFlash
      | some (t, isB) => s.modLife fun l =>
          let u := FlashCopy.of (l.flushed l.urgent t)
          { l with copyA := if isB then l.copyA else some u, copyB := if isB then some u else l.copyB, urgent := [] })
/-- What power-on loads: the best copy, POWERON counted; or zeros with FLAGS.LOST (R435). -/
def Lifetime.powerOn (l : Lifetime) (us : Nat) : Lifetime :=
  let fresh : Lifetime := { l with
    image := [], urgent := [], snapshot := none, snapping := false, offs := 0, wroteAt := us, owed := false }
  match l.best with
  | none => ((fresh.set 0 0x4C520880).set 0x40 1).add 0x10 1
  | some (t, isB) => { fresh with image := t, nextB := !isB }.add 0x10 1

/-- The machine without power: all but host memory, the flash and the fuses as after a cold reset (R5, R435). -/
def State.powerDown (s : State) : State :=
  { State.reset with
    mem := s.mem.filter fun c => c.1 ≥ hostKey 0
    boot := { State.reset.boot with slotA := s.boot.slotA, slotB := s.boot.slotB, minSvn := s.boot.minSvn }
    life := { State.reset.life with copyA := s.life.copyA, copyB := s.life.copyB, nextB := s.life.nextB }
    outside := s.outside, fresh := s.fresh, agenda := s.agenda }
/-- POWER_LOSS (R435): every volatile record is lost, and with a loss during a write the flash copy whose turn it is -/
def execPowerLoss (s : State) : Host.Outcome State Fault Refusal :=
  .next (s.powerDown.modLife fun l => { l with
    copyA := if s.outside.writing && !l.nextB then none else l.copyA
    copyB := if s.outside.writing && l.nextB then none else l.copyB })

end Sys2Proof.Machine
end

