-- ==== Sys2Proof/Machine/Trellis.lean ====
section
/-! DEFINITION. The Trellis: the TG instructions and the fills and write-backs they start (R71 to R73, R216 to R219,
R442). -/

namespace Sys2Proof.Machine

/-! ### Blocks, ways and recency (R72, R216) -/

/-- A block number from a device virtual address. -/
def blockOf (va : Dword) : Nat := va.toNat / 2048
/-- The vaults of a mask in ascending order. -/
def maskVaults (m : BitVec 72) : List Nat := (List.range 72).filter fun v => m.getLsbD v
/-- The home vault of a block. -/
def DieTrellis.home (t : DieTrellis) (b : Nat) : Nat := (maskVaults t.mask)[b % t.homes]?.getD 0
/-- The set of a block, as the number `wayKey ÷ 8`. -/
def DieTrellis.setOf (t : DieTrellis) (b : Nat) : Nat := t.home b * 256 + b / t.homes % t.sets
/-- The keys of the ways of a set. -/
def setWays (k : Nat) : List Nat := numsFrom (8 * k) 8
/-- The way that holds a block; none in a retired vault (R380). -/
def State.findWay (s : State) (d b : Nat) : Option Nat :=
  let t := (s.die d).tr
  if !s.vaultAlive d (t.home b) then none
  else (setWays (t.setOf b)).find? fun w => (s.way d w).st ≠ .invalid && (s.way d w).block = b
/-- The WY address of a way's frame. -/
def State.frameAddr (s : State) (d w : Nat) : Nat := w / 2048 * 4194304 + (s.die d).tr.frameOff w
/-- Replaces a way. -/
def State.setWay (s : State) (d w : Nat) (y : Way) : State := s.modTr d fun t => { t with ways := tabSet t.ways w y }
/-- Makes a way the most recently used of its set. -/
def State.touchWay (s : State) (d w : Nat) : State :=
  s.modTr d fun t => { t with
    recency := tabSet t.recency (w / 8) (w :: dropWhere (tabGetD t.recency (w / 8) []) fun x => x = w) }
/-- The granules of a way's frame. -/
def State.frameGranules (s : State) (d w : Nat) : List Nat := granulesOf (s.frameKey d w) 2048
/-- A way becomes INVALID: unpinned, out of the order of recency, its granules full where `full` holds. -/
def State.dropWay (s : State) (d w : Nat) (full : Bool) : State :=
  let s1 := s.modTr d fun t => { t with
    ways := tabErase t.ways w
    recency := tabSet t.recency (w / 8) (dropWhere (tabGetD t.recency (w / 8) []) fun x => x = w) }
  if full then s1.setFull (s1.frameGranules d w) else s1
/-- The way that a miss takes: an INVALID way, the least recently used unpinned CLEAN way, then the least recently
used unpinned DIRTY way (R216). -/
def State.victim (s : State) (d k : Nat) : Option Nat :=
  let order := (tabGetD (s.die d).tr.recency k []).reverse
  match (setWays k).find? fun w => (s.way d w).st = .invalid with
  | some w => some w
  | none => match order.find? fun w => (s.way d w).st = .clean && !(s.way d w).pin with
    | some w => some w
    | none => order.find? fun w => (s.way d w).st = .dirty && !(s.way d w).pin
/-- Entries free in the die's queue of 64 fills and write-backs (R217). -/
def State.fillRoom (s : State) (d : Nat) : Nat := 64 - (s.die d).tr.jobs.length

/-! ### PROBE and FILL (R217) -/

/-- A ticket word (R217). -/
def ticket (frame seq : Nat) (joined noway : Bool) : Dword :=
  BitVec.ofNat 64 (frame + 4294967296 * seq + (if joined then 2 ^ 61 else 0) + (if noway then 2 ^ 62 else 0) + 2 ^ 63)
/-- A write-back of the way is queued or running. -/
def State.wbQueued (s : State) (d w : Nat) : Bool := (s.die d).tr.jobs.any fun j => j.way = w && j.wb
/-- The queue entries that a PROBE or FILL of a block needs. -/
def State.fillNeeds (s : State) (d b : Nat) : Nat :=
  match s.findWay d b with
  | some w =>
    let y := s.way d w
    if y.st = .failed then (if y.pending.isSome && !s.wbQueued d w then 2 else 1) else 0
  | none =>
    if !s.vaultAlive d ((s.die d).tr.home b) then 0
    else match s.victim d ((s.die d).tr.setOf b) with
      | none => 0
      | some w => if (s.way d w).st = .dirty then 2 else 1
/-- Queues a job of a way. -/
def State.pushJob (s : State) (d w : Nat) (wb : Bool) (b : Nat) (tpc : Dword) : State :=
  s.modTr d fun t => { t with
    jobs := t.jobs ++ [{
      way := w, wb := wb, block := b, ctx := s.cur.inDie, tpc := tpc, landed := 0, parked := false
      node := s.cx.inNode }] }
/-- Starts a fill of block `b` into way `w`: the next sequence number of the partition, the granules empty, the way
most recently used, and the fill queued behind a pending write-back, which an EVICT may have started already (R216,
R217, R442). -/
def State.startFill (s : State) (d w b : Nat) (tpc : Dword) : State :=
  let y := s.way d w
  let v := w / 2048
  let seq := tabGetD (s.die d).tr.counters v 0 + 1
  let old := if y.st = .failed then y.pending else if y.st = .dirty then some y.block else none
  let s1 := (s.modTr d fun t => { t with counters := tabSet t.counters v seq }).setWay d w
    { st := .filling, pin := y.st = .failed && y.pin, seq := seq, block := b, pending := old, evict := false, again := false }
  let s2 := (s1.touchWay d w).setEmpty (s1.frameGranules d w)
  let s3 := match old with
    | none => s2
    | some o => if s2.wbQueued d w then s2 else s2.pushJob d w true o tpc
  s3.pushJob d w false b tpc
/-- PROBE's and FILL's action on a block: the state, the result and whether it missed. -/
def State.probe (s : State) (d b : Nat) (tpc : Dword) : State × Dword × Bool :=
  match s.findWay d b with
  | some w =>
    let y := s.way d w
    match y.st with
    | .filling => (s, ticket (s.frameAddr d w) y.seq.toNat true false, true)
    | .failed =>
      let s1 := s.startFill d w b tpc
      (s1, ticket (s.frameAddr d w) (s1.way d w).seq.toNat false false, true)
    | _ => (s.touchWay d w, BitVec.ofNat 64 (s.frameAddr d w), false)
  | none =>
    let miss := (s, ticket 0 0 false true, true)
    if !s.vaultAlive d ((s.die d).tr.home b) then miss
    else match s.victim d ((s.die d).tr.setOf b) with
      | none => miss
      | some w =>
        let s1 := s.startFill d w b tpc
        (s1, ticket (s.frameAddr d w) (s1.way d w).seq.toNat false false, true)

/-! ### The other TG instructions (R218) -/

/-- The address check: bits [63:57] zero, and a Trellis to act on (R71, R74). -/
def tgCheck (a : Src) (s : State) : Option Trap :=
  let t := s.myDie.tr
  if (s.cx.sval a).toNat / 2 ^ 57 ≠ 0 || t.p = 0 || t.mask = 0 then some { cause := .access, slot := Slot.tg.num }
  else none
/-- What an EVICT, WBACK, UNPIN or TGINV does to the way it finds, and the queue entries that takes. `ends` marks those that
wait until a pending write-back of a FAILED way, once it is queued again, has ended (R442). -/
structure TgAct where
  waits : Way → Bool
  ends : Bool
  needs : Way → Nat
  act : Nat → Nat → Way → Dword → State → State
/-- A TG syllable without a result. -/
def tgSyl (a : Src) (x : TgAct) : Syl :=
  { slot := .tg, latches := latchesOf [a], phase := phaseCompute, check := tgCheck a
    blocks := fun s =>
      let d := s.cur.die
      match s.findWay d (blockOf (s.cx.sval a)) with
      | none => none
      | some w =>
        let y := s.way d w
        if x.waits y || (x.ends && y.st = .failed && y.pending.isSome && s.wbQueued d w) || x.needs y > s.fillRoom d then
          some (s, .stall)
        else none
    perform := fun e s =>
      let d := s.cur.die
      match s.findWay d (blockOf (e.pre.cx.sval a)) with
      | none => .ok { st := s }
      | some w => .ok { st := x.act d w (s.way d w) e.pre.cx.pc s } }
/-- FILLING or WRITING. -/
def Way.busy (y : Way) : Bool := y.st = .filling || y.st = .writing
/-- One queue entry where a write-back starts. -/
def Way.wbNeed (y : Way) : Nat := if y.st = .dirty || (y.st = .failed && y.pending.isSome) then 1 else 0
/-- Starts the write-back of a way; `evict` ends it INVALID. -/
def State.startWb (s : State) (d w : Nat) (y : Way) (evict : Bool) (tpc : Dword) : State :=
  match y.pending with
  | some o => (s.setWay d w { y with evict := evict }).pushJob d w true o tpc
  | none =>
    (s.setWay d w { y with st := .writing, evict := evict, pin := y.pin && !evict }).pushJob d w true y.block tpc
/-- TGSTAT's word (R218). -/
def State.tgStatus (s : State) (d b : Nat) : Dword :=
  match s.findWay d b with
  | none => 0
  | some w =>
    let y := s.way d w
    let st := match y.st with
      | .invalid => 0 | .filling => 1 | .clean => 2 | .dirty => 3 | .writing => 4 | .failed => 5
    BitVec.ofNat 64 (st + (if y.pin then 8 else 0) + 16 * (w % 8) + 65536 * y.seq.toNat + 4294967296 * s.frameAddr d w)
/-- PIN's result and effect (R218). -/
def State.pinWay (s : State) (d b : Nat) : State × Dword :=
  match s.findWay d b with
  | none => (s, 0)
  | some w =>
    let y := s.way d w
    if y.st = .failed then (s, 0)
    else if !y.pin && ((setWays (w / 8)).filter fun x => (s.way d x).pin).length ≥ 7 then (s, 2)
    else ((s.setWay d w { y with pin := true }).touchWay d w, 1)
/-- A TG syllable with a result in an s register and b6. -/
def tgResult (d : Fin 48) (a : Src) (f : State → Nat → Nat → Dword → State × Dword) : Syl :=
  { slot := .tg, latches := latchesOf [a], dest := some (.s, d.val), phase := phaseCompute, check := tgCheck a
    perform := fun e s =>
      let r := f s s.cur.die (blockOf (e.pre.cx.sval a)) e.pre.cx.pc
      .ok { st := { r.1 with cx := r.1.cx.outS 6 (some d) r.2 } } }

/-- PROBE (R217) -/
def actProbe (d : Fin 48) (a : Src) (off : POff) : Syl :=
  { tgResult d a (fun s die b pc => let r := s.probe die b pc; (r.1, r.2.1)) with
    probe := true
    blocks := fun s =>
      if s.fillNeeds s.cur.die (blockOf (s.cx.sval a)) > s.fillRoom s.cur.die then some (s, .stall) else none
    perform := fun e s =>
      let r := s.probe s.cur.die (blockOf (e.pre.cx.sval a)) e.pre.cx.pc
      .ok {
        st := { r.1 with cx := r.1.cx.outS 6 (some d) r.2.1 }
        jump := if r.2.2 then some (off.target e.pre.cx.pc) else none } }
/-- PROBE, alone in its bundle. -/
def execProbe (d : Fin 48) (a : Src) (off : POff) (s : State) : Host.Outcome State Fault Refusal :=
  issueOne (actProbe d a off) s

/-- FILL (R217, R218) -/
def actFill (d : Fin 48) (a : Src) : Syl :=
  tgResult d a fun s die b pc =>
    if s.fillNeeds die b > s.fillRoom die then (s, ticket 0 0 false true)
    else let r := s.probe die b pc; (r.1, r.2.1)
/-- FILL, alone in its bundle. -/
def execFill (d : Fin 48) (a : Src) (s : State) : Host.Outcome State Fault Refusal :=
  issueOne (actFill d a) s

/-- EVICT (R218, R442) -/
def actEvict (a : Src) : Syl :=
  tgSyl a {
    waits := Way.busy, ends := true, needs := Way.wbNeed
    act := fun d w y pc s => match y.st with
      | .clean => s.dropWay d w false
      | .dirty => s.startWb d w y true pc
      | .failed => if y.pending.isSome then s.startWb d w { y with pin := false } true pc else s.dropWay d w true
      | _ => s }
/-- EVICT, alone in its bundle. -/
def execEvict (a : Src) (s : State) : Host.Outcome State Fault Refusal :=
  issueOne (actEvict a) s

/-- WBACK (R218) -/
def actWback (a : Src) : Syl :=
  tgSyl a {
    waits := Way.busy, ends := false, needs := fun y => if y.st = .dirty then 1 else 0
    act := fun d w y pc s => if y.st = .dirty then s.startWb d w y false pc else s }
/-- WBACK, alone in its bundle. -/
def execWback (a : Src) (s : State) : Host.Outcome State Fault Refusal :=
  issueOne (actWback a) s

/-- PIN (R218) -/
def actPin (d : Fin 48) (a : Src) : Syl :=
  tgResult d a fun s die b _ => s.pinWay die b
/-- PIN, alone in its bundle. -/
def execPin (d : Fin 48) (a : Src) (s : State) : Host.Outcome State Fault Refusal :=
  issueOne (actPin d a) s

/-- UNPIN (R218) -/
def actUnpin (a : Src) : Syl :=
  tgSyl a { waits := Way.busy, ends := false, needs := fun _ => 0, act := fun d w y _ s => s.setWay d w { y with pin := false } }
/-- UNPIN, alone in its bundle. -/
def execUnpin (a : Src) (s : State) : Host.Outcome State Fault Refusal :=
  issueOne (actUnpin a) s

/-- TGINV (R218, R442): it sets every granule of the frame full, that of a CLEAN or DIRTY block also, as R218's row says
and R77 does not (DEDUCED, log 32) -/
def actTginv (a : Src) : Syl :=
  tgSyl a {
    waits := fun y => y.st = .writing || (y.st = .filling && y.pending.isSome)
    ends := true
    needs := fun y => if y.st = .failed && y.pending.isSome then 1 else 0
    act := fun d w y pc s =>
      if y.st = .failed && y.pending.isSome then s.startWb d w { y with pin := false } true pc
      else (s.modTr d fun t => { t with jobs := dropWhere t.jobs fun j => j.way = w && !j.wb }).dropWay d w true }
/-- TGINV, alone in its bundle. -/
def execTginv (a : Src) (s : State) : Host.Outcome State Fault Refusal :=
  issueOne (actTginv a) s

/-- TGSTAT (R218) -/
def actTgstat (d : Fin 48) (a : Src) : Syl :=
  tgResult d a fun s die b _ => (s, s.tgStatus die b)
/-- TGSTAT, alone in its bundle. -/
def execTgstat (d : Fin 48) (a : Src) (s : State) : Host.Outcome State Fault Refusal :=
  issueOne (actTgstat d a) s

/-! ### Fills and write-backs (R73, R219, R442) -/

/-- The context of a job, and whether a fault of it can be taken now (R351). -/
def State.jobCanFault (s : State) (d : Nat) (j : FillJob) : Bool :=
  let c := s.ctx (ctxIn d j.ctx)
  c.st = .idle || c.held.length < 32
/-- A fault of a job: deferred to its context with the block's address (R219). -/
def State.jobFault (s : State) (d : Nat) (j : FillJob) (c : Cause) : State :=
  s.raiseFault (ctxIn d j.ctx)
    { cause := c, tpc := j.tpc, info := { t0 := BitVec.ofNat 64 (j.block * 2048) }, xfer := none, node := j.node }
/-- Removes a way's fill job or write-back job: it has at most one of each. -/
def State.endJob (s : State) (d w : Nat) (wb : Bool) : State :=
  s.modTr d fun t => { t with jobs := dropWhere t.jobs fun j => j.way = w && j.wb = wb }
/-- The fill job of a way, when it may read device memory: no write-back of the way is pending and none of the same
block has yet to perform (R219, R370, R442). -/
def State.fillJob (s : State) (d w : Nat) : Option FillJob :=
  let js := (s.die d).tr.jobs
  let y := s.way d w
  if y.st ≠ .filling || y.pending.isSome then none
  else match js.find? fun j => j.way = w && !j.wb with
    | none => none
    | some j =>
      if (js.any fun k => k.wb && k.block = j.block) || s.dvaParked d (j.block * 2048) 2048 ParkOwner.isWb then none
      else some j
/-- A carry window covers the device bytes of a block or the bytes of the frame (R28, R29), or a diagnostic packet holds
the block's requests (R392, R393). -/
def State.blockHeld (s : State) (d w va n : Nat) (u : XUse) : Bool :=
  (s.dvaRanges d va n u).any (fun r => s.windowMeets d r.1 r.2) || s.windowMeets d (s.frameKey d w) 2048 ||
    s.dvaHeld d va n u
/-- TRELLIS_FILL_GRANULE (R73): granule `granule` of a fill lands and is set full; each line of four is one request
(R401) -/
def execTrellisFillGranule (die way granule : Nat) (s : State) : Host.Outcome State Fault Refusal :=
  .next (match s.fillJob die way with
    | none => s
    | some j =>
      let va := j.block * 2048 + 16 * granule
      if granule ≥ 128 || j.landed / 2 ^ granule % 2 = 1 || s.blockHeld die way va 16 .read then s
      else match s.dvaGet die va 16 with
        | .error _ => s
        | .ok bs =>
          let k := s.frameKey die way + 16 * granule
          ((((s.looked.dvaScrub die va 16 (granule % 4 = 0)).putBy 2 die k (s.dvaSeen 2 die va bs)).setFull [k / 16]).modTr die fun t => { t with
            jobs := mapWhere t.jobs (fun x => x.way = way && !x.wb) fun x =>
              { x with landed := x.landed + 2 ^ granule } }))
/-- The cause of the first granule not landed that cannot be read. -/
def State.fillCause (s : State) (d : Nat) (j : FillJob) : Option Cause :=
  ((List.range 128).filter fun g => j.landed / 2 ^ g % 2 = 0).findSome? fun g =>
    match s.dvaGet d (j.block * 2048 + 16 * g) 16 with
    | .ok _ => none
    | .error e => some e.1.cause
/-- TRELLIS_FILL_END (R219): the way becomes CLEAN when every granule has landed, FAILED when one cannot be read -/
def execTrellisFillEnd (die way : Nat) (s : State) : Host.Outcome State Fault Refusal :=
  .next (match s.fillJob die way with
    | none => s
    | some j =>
      let y := s.way die way
      if j.landed = 2 ^ 128 - 1 then (s.setWay die way { y with st := .clean }).endJob die way false
      else match s.fillCause die j with
        | none => s
        | some c =>
          if s.jobCanFault die j then
            ((s.setWay die way { y with st := .failed }).endJob die way false).jobFault die j c
          else s)
/-- A write-back has performed: the fill behind it may start, or the way becomes CLEAN, or INVALID for an EVICT. A
block stored to meanwhile becomes DIRTY (log 32). -/
def State.wbDone (s : State) (d w : Nat) : State :=
  let y := s.way d w
  let s1 := s.endJob d w true
  if y.pending.isSome then
    if y.evict then s1.dropWay d w true else s1.setWay d w { y with pending := none }
  else if y.st = .writing then
    if y.again then s1.setWay d w { y with st := .dirty, evict := false, again := false }
    else if y.evict then s1.dropWay d w false
    else s1.setWay d w { y with st := .clean }
  else s1
/-- A write-back has faulted (R219, R442). -/
def State.wbFault (s : State) (d w : Nat) (j : FillJob) (c : Cause) : State :=
  let y := s.way d w
  let s1 := s.endJob d w true
  let s2 := if y.pending.isSome then (s1.endJob d w false).setWay d w { y with st := .failed, evict := false }
    else s1.setWay d w { y with st := .dirty, evict := false, again := false }
  s2.jobFault d j c
/-- TRELLIS_WRITEBACK_END (R219, R370, R442): the write-back of a way performs or faults; a write to a page under swap
waits for room in the park buffer, is parked, and the way waits for its replay -/
def execTrellisWritebackEnd (die way : Nat) (s : State) : Host.Outcome State Fault Refusal :=
  .next (match (s.die die).tr.jobs.find? fun j => j.way = way && j.wb with
    | none => s
    | some j =>
      let va := j.block * 2048
      if j.parked || s.blockHeld die way va 2048 .write then s
      else if s.badRead (s.frameKey die way) 2048 then
        if s.jobCanFault die j then s.wbFault die way j .eccUncorrectable else s
      else match s.dvaCanPut die va 2048 with
        | .error e => if s.jobCanFault die j then s.wbFault die way j e.1.cause else s
        | .ok _ =>
          let need := s.parkNeed die va 2048
          if !s.parkRoom die need then s
          else
            let s1 := s.dvaPut die va (s.bytes (s.frameKey die way) 2048) (.writeBack way)
            if need ≠ 0 then
              s1.modTr die fun t => { t with
                jobs := mapWhere t.jobs (fun x => x.way = way && x.wb) fun x => { x with parked := true } }
            else s1.wbDone die way)

end Sys2Proof.Machine
end

