-- ==== Sys2Proof/Machine/Dram.lean ====
section
/-! DEFINITION. The base die and the tier controller: reads and writes of lines, diagnostic packets and their replies,
row repair, hotness and moves between tiers (R391 to R409); a walk of the translation unit (R366 to R368). -/

namespace Sys2Proof.Machine

/-! ### Lines (R391, R395, R396) -/

/-- The first 32-byte word of line `line` of a tier. -/
def lineWord (d : Nat) (capacity : Bool) (line : Nat) : Nat := bdaKey d (if capacity then 1 else 0) (64 * line) / 32
/-- The line lies in its tier (R391). -/
def lineOk (capacity : Bool) (line : Nat) : Bool := line < if capacity then 2147483648 else 1073741824
/-- The byte mask of a word as a mask of its bits. -/
def bitMask : Nat → Nat → Nat
  | 0, _ => 0
  | n + 1, m => (if m % 2 = 1 then 255 else 0) + 256 * bitMask n (m / 2)
/-- Replaces the masked bits of a number. -/
def maskIn (bits x y : Nat) : Nat := x ^^^ ((x ^^^ y) &&& bits)
/-- A masked write of one word: its merge read's status, and the state after (R396). -/
def State.maskWrite (s : State) (w m x : Nat) : State × Nat :=
  if m = 0 then (s, 0)
  else if m = 4294967295 then (s.writeWord w x, 0)
  else
    let r := s.readWord w
    let bits := bitMask 32 m
    if r.1 ≤ 1 then (s.writeWord w (maskIn bits r.2 x), r.1)
    else
      let y := maskIn bits r.2 x
      ((s.wr (32 * w) 32 y).setCode w (freshCode y ||| 0x8000), r.1)
/-- A WRITE of a line: the statuses of both merge reads, and the state after. -/
def State.lineWrite (s : State) (w : Nat) (mask : BitVec 64) (data : BitVec 512) : State × Nat × Nat :=
  let a := s.maskWrite w (mask.toNat % 4294967296) (data.toNat % 2 ^ 256)
  let b := a.1.maskWrite (w + 1) (mask.toNat / 4294967296) (data.toNat / 2 ^ 256)
  (b.1, a.2, b.2)
/-- Writes back a word that reads corrected (R395). -/
def State.scrubWord (s : State) (w : Nat) : State :=
  match tabGet s.codes w with
  | none => s
  | some _ => let r := s.readWord w; if r.1 = 1 then s.writeWord w r.2 else s
/-- A READ of a line: status and corrected data of both words, and the state after the write-back (R395). -/
def State.lineRead (s : State) (w : Nat) : State × (Nat × Nat) × (Nat × Nat) :=
  ((s.scrubWord w).scrubWord (w + 1), s.readWord w, s.readWord (w + 1))

/-! ### Diagnostic packets (R405 to R409) -/

/-- CMD of a packet. -/
def DiagPkt.cmd (p : DiagPkt) : Nat := p.hdr.toNat % 16
/-- TIER of a packet. -/
def DiagPkt.cap (p : DiagPkt) : Bool := p.hdr.getLsbD 7
/-- The reply of R407. -/
def DiagPkt.answer (p : DiagPkt) (st0 st1 check data : Nat) : BitVec 768 :=
  BitVec.ofNat 768 (p.hdr.toNat % 256 + 256 * (p.addr / 256 % 16) + 4096 * st0 + 16384 * st1 + 2 ^ 63 +
    2 ^ 64 * p.addr + 2 ^ 128 * check + 2 ^ 256 * data)
/-- Packet `k` of a die, if the base die may perform it now: it has no reply yet, and neither does any earlier packet
to its line lack one (R393). -/
def State.diagAt (s : State) (d k cmd : Nat) : Option DiagPkt :=
  let l := (s.die d).tiers.diag
  match l[k]? with
  | none => none
  | some p =>
    if p.cmd ≠ cmd || p.reply.isSome ||
        (l.take k).any (fun q => q.reply.isNone && q.addr = p.addr && q.cap = p.cap) then none
    else some p
/-- Gives packet `k` its reply; what waited for its line goes on (R393). -/
def State.setReply (s : State) (d k : Nat) (r : BitVec 768) : State :=
  (s.modTiers d fun t => { t with
    diag := t.diag.zipIdx.map fun x => if x.2 = k then { x.1 with reply := some r } else x.1 }).finishDrops d
/-- The first word of a packet's line. -/
def DiagPkt.word (p : DiagPkt) (d : Nat) : Nat := lineWord d p.cap (p.addr / 64)

/-- The base die may perform an ordinary request to a line: it lies in its tier, and no diagnostic packet sent earlier holds it
back (R391 to R393). -/
def State.lineFree (s : State) (d : Nat) (tier : Bool) (line : Nat) : Bool :=
  lineOk tier line && !s.bdaHeld d (if tier then 1 else 0) (64 * line) 64

/-- DRAM_READ (R395): the base die reads a line and writes back corrected words; packet `pkt` takes the reply -/
def execDramRead (die : Nat) (tier : Bool) (line : Nat) (pkt : Option Nat) (s : State) :
    Host.Outcome State Fault Refusal :=
  .next (match pkt with
    | none => if s.lineFree die tier line then (s.lineRead (lineWord die tier line)).1 else s
    | some k => match s.diagAt die k 0 with
      | none => s
      | some p =>
        let r := s.lineRead (p.word die)
        r.1.setReply die k (p.answer r.2.1.1 r.2.2.1 0 (r.2.1.2 + 2 ^ 256 * r.2.2.2)))
/-- DRAM_WRITE (R396): the base die writes a line under its byte mask; packet `pkt` gives mask and bytes of its own -/
def execDramWrite (die : Nat) (tier : Bool) (line : Nat) (mask : BitVec 64) (data : BitVec 512) (pkt : Option Nat)
    (s : State) : Host.Outcome State Fault Refusal :=
  .next (match pkt with
    | none => if s.lineFree die tier line then (s.lineWrite (lineWord die tier line) mask data).1 else s
    | some k => match s.diagAt die k 1 with
      | none => s
      | some p =>
        let r := s.lineWrite (p.word die) p.mask p.data
        r.1.setReply die k (p.answer r.2.1 r.2.2 0 0))
/-- BD_RAWRD (R405): the stored bytes, codes and statuses of a line, with nothing corrected -/
def execBdRawrd (die pkt : Nat) (s : State) : Host.Outcome State Fault Refusal :=
  .next (match s.diagAt die pkt 2 with
    | none => s
    | some p =>
      let w := p.word die
      s.setReply die pkt (p.answer (s.readWord w).1 (s.readWord (w + 1)).1
        ((s.codeAt w).toNat + 65536 * (s.codeAt (w + 1)).toNat) (s.rd (32 * w) 64)))
/-- BD_RAWWR (R405): all 64 bytes and both codes exactly as given -/
def execBdRawwr (die pkt : Nat) (s : State) : Host.Outcome State Fault Refusal :=
  .next (match s.diagAt die pkt 3 with
    | none => s
    | some p =>
      let w := p.word die
      let s1 := s.wr (32 * w) 64 p.data.toNat
      ((s1.setCode w (p.check.setWidth 16)).setCode (w + 1) ((p.check >>> 16).setWidth 16)).setReply die pkt
        (p.answer 0 0 0 0))
/-- BD_REPLY_ARRIVE (R392, R393, R408): a reply reaches the die, in the order of its line, behind the replies that wait, and
its tag is free; one of a context that has become Idle is discarded -/
def execBdReplyArrive (die pkt : Nat) (s : State) : Host.Outcome State Fault Refusal :=
  .next (
    let l := (s.die die).tiers.diag
    match l[pkt]? with
    | none => s
    | some p =>
      if p.reply.isNone || p.arrived ||
          (l.take pkt).any (fun q => !q.arrived && q.addr = p.addr && q.cap = p.cap) then s
      else (s.modTiers die fun t => { t with
        diag := (t.diag.take pkt ++ t.diag.drop (pkt + 1)) ++ if p.orphan then [] else [{ p with arrived := true }]
        }).finishDrops die)

/-! ### Row repair (R397) -/

/-- The bank that a DRAM event names: 0 to 2^32 − 1, by tier. -/
def bankKey (capacity : Bool) (unit : Nat) : Nat := 2 * unit + if capacity then 1 else 0
/-- Spare rows in use in a bank. -/
def State.rowsUsed (s : State) (d : Nat) (capacity : Bool) (unit : Nat) : Nat :=
  tabGetD (s.die d).tiers.spareRows (bankKey capacity unit) 0
/-- The words of an address's row whose code is listed: every other word of the row reads clean. -/
def State.rowWords (s : State) (d : Nat) (capacity : Bool) (addr : Nat) : List Nat :=
  let base := bdaKey d (if capacity then 1 else 0) 0
  (s.codes.map (·.1)).filter fun w =>
    base ≤ 32 * w && lineOk capacity ((32 * w - base) / 64) &&
      Config.dramRow capacity (32 * w - base) = Config.dramRow capacity addr
/-- A word copied into a spare row: corrected where it can be, else poisoned (R397). -/
def State.copyWord (s : State) (w : Nat) : State :=
  let r := s.readWord w
  if r.1 = 1 then s.writeWord w r.2
  else if r.1 = 0 then s
  else s.setCode w (freshCode (s.rd (32 * w) 32) ||| 0x8000)
/-- A lasting event repairs the row into a spare row of its bank: every word keeps its place, and each that reads
uncorrectable is written poisoned (R397). -/
def State.repairRow (s : State) (d : Nat) (capacity : Bool) (unit addr : Nat) : State :=
  let s1 := (s.rowWords d capacity addr).foldl State.copyWord s
  (s1.modTiers d fun t => { t with
    spareRows := tabSet t.spareRows (bankKey capacity unit) (s.rowsUsed d capacity unit + 1) }).count d 0xE08 1

/-! ### Hotness and moves (R401, R402) -/

/-- HOTNESS_EPOCH (R401): every counter is halved, once (TC_CTL.EPOCH + 1) ms have passed since the last halving -/
def execHotnessEpoch (die : Nat) (s : State) : Host.Outcome State Fault Refusal :=
  .next (
    let t := (s.die die).tiers
    if s.nowUs < t.halvedAt + t.period then s else s.modTiers die fun t => { t.halve with halvedAt := t.halvedAt + t.period })
/-- The hotness counter of a member of a group. -/
def DieTiers.heatOf (t : DieTiers) (g j : Nat) : Nat := tabGetD t.hot (g * 4 + j) 0
/-- The capacity member of a group that qualifies to move, the hotter one, or the lower-numbered of two equals. -/
def DieTiers.candidate (t : DieTiers) (g : Nat) : Option Nat :=
  let r := tabGetD t.remap g Remap.reset
  ([0, 1, 2].filter fun j => j ≠ r.fast && t.heatOf g j ≥ t.heatOf g r.fast + t.thresh).foldl (fun b j =>
    match b with
    | none => some j
    | some k => if t.heatOf g j > t.heatOf g k then some j else some k) none
/-- TIER_MOVE_START (R401, R402, R431): a move of a group is queued; writes to it park from now on -/
def execTierMoveStart (die group : Nat) (s : State) : Host.Outcome State Fault Refusal :=
  .next (
    let x := s.die die
    let t := x.tiers
    let r := tabGetD t.remap group Remap.reset
    match t.candidate group with
    | none => s
    | some m =>
      if group ≥ 1048576 || !(tabGetD t.cache (group % 8192) []).contains group || r.pin ||
        s.moving die group || !t.en || t.moves.length ≥ t.maxmov || x.th.hot then s
      else s.modTiers die fun t => { t with moves := t.moves ++ [{ group := group, member := m }] })
/-- The cells of a page from key `k`. -/
def pageCells (m : List Host.Cell) (k : Nat) : List Host.Cell := m.filter fun c => k ≤ c.1 && c.1 < k + 65536
/-- The listed codes of a page from key `k`. -/
def pageCodes (t : Tab (BitVec 16)) (k : Nat) : Tab (BitVec 16) := t.filter fun c => k ≤ 32 * c.1 && 32 * c.1 < k + 65536
/-- A word before it moves: corrected where it can be, else with its stored bytes and POISON = 1 (R402 step 3). -/
def State.moveWord (s : State) (w : Nat) : State :=
  let r := s.readWord w
  if r.1 ≤ 1 then s.writeWord w r.2 else s.setCode w (freshCode (s.rd (32 * w) 32) ||| 0x8000)
/-- Exchanges the pages at two keys, words and codes. -/
def State.swapPages (s : State) (a b : Nat) : State :=
  let s0 := ((pageCodes s.codes a ++ pageCodes s.codes b).map (·.1)).foldl State.moveWord s
  let ca := pageCells s0.mem a
  let cb := pageCells s0.mem b
  let ka := pageCodes s0.codes a
  let kb := pageCodes s0.codes b
  let m0 := (ca ++ cb).foldl (fun m c => memSet m c.1 0) s0.mem
  let m1 := ca.foldl (fun m c => memSet m (c.1 - a + b) c.2) m0
  let t0 := (ka ++ kb).foldl (fun t c => tabErase t c.1) s0.codes
  let t1 := ka.foldl (fun t c => tabSet t (c.1 - a / 32 + b / 32) c.2) t0
  { s0 with
    mem := cb.foldl (fun m c => memSet m (c.1 - b + a) c.2) m1
    unseen := dropCells a 65536 (dropCells b 65536 s0.unseen)
    codes := kb.foldl (fun t c => tabSet t (c.1 - b / 32 + a / 32) c.2) t1 }
/-- Moves member `m` of a group into the fast slot, and the fast member into its slot (R399, R402 steps 2 to 4). -/
def State.exchangeSlots (s : State) (d g m : Nat) : State :=
  let r := s.remapOf d g
  if m = r.fast then s
  else
    let k := memberSlot r g m 0
    let s1 := s.swapPages (bdaKey d 0 (g * 65536)) (bdaKey d k.1 k.2)
    s1.modTiers d fun t => { t with
      remap := tabSet t.remap g { r with fast := m, slot0 := if r.slot0 = m then r.fast else r.slot0 } }
/-- What the owner of replayed writes of die `d` does once none of its writes is parked any more (R370): a write-back ends,
a chunk, face or transfer lands. An RPUT's piece waits with its acknowledgement; no other owner waits to be told. -/
def State.ownerDone (d : Nat) (s : State) (o : ParkOwner) : State :=
  if s.ownerParked o then s
  else match o with
    | .host => s
    | .cleat _ => s
    | .sched => s
    | .rput _ _ _ _ => s
    | .writeBack w => if (s.die d).tr.jobs.any fun j => j.way = w && j.wb && j.parked then s.wbDone d w else s
    | .copy e ctx h q => match (s.die e).xf.copies.find? fun c => c.ctx = ctx && c.handle = h with
      | none => s
      | some c => if c.parked.contains q then s.copyLanded e c q else s
    | .face e ctx h f => if e ≥ 8 then
        match s.faceWaits (e - 8) ctx h f with
        | none => s
        | some (r, x) => s.farLanded r (e - 8) x f []
      else match s.haloOf e ctx h with
      | none => s
      | some x => if x.sent.getLsbD f then s else s.faceLanded e x f []
    | .coll e phase tag i => match s.collOp e phase tag with
      | none => s
      | some c => match s.xferAt e c i with
        | none => s
        | some x => match c.group[x.peer]? with
          | none => s
          | some r => match s.collOp r phase tag with
            | none => s
            | some rc =>
              if rc.applied.contains (x.rank, x.index) then s
              else if rc.ended then s.xferCounted c r x
              else s.xferApplied c r x []
/-- Replays the parked writes of a group in their order of arrival, and what waits on them goes on (R370, R402). -/
def State.replayParked (s : State) (d g : Nat) : State :=
  let mine := (s.die d).tiers.parked.filter fun p => dpaGroup p.dpa = g
  let s1 := s.modTiers d fun t => { t with parked := dropWhere t.parked fun p => dpaGroup p.dpa = g }
  let s2 := mine.foldl (fun s p => s.devPutBy p.owner.path d p.dpa p.bytes) s1
  ((mine.map (·.owner)).eraseDups.foldl (State.ownerDone d) s2).finishDrops d
/-- The exchange of a move waits: a packet sent earlier to a line of one of its two pages has not performed, or packets hold a
port that it needs (R392, R393, R402). -/
def State.exchangeHeld (s : State) (d g m : Nat) : Bool :=
  let k := memberSlot (s.remapOf d g) g m 0
  s.bdaHeld d 0 (g * 65536) 65536 || s.bdaHeld d k.1 k.2 65536
/-- A move of a group ends, where one is in progress: the exchange completes, the remap entry changes and the parked
writes are replayed (R402). -/
def State.endMove (s : State) (d g : Nat) : State :=
  match (s.die d).tiers.moves.find? fun m => m.group = g with
  | none => s
  | some m =>
    if s.exchangeHeld d g m.member then s else
    let s1 := s.exchangeSlots d g m.member
    let s2 := s1.modTiers d fun t => { t with moves := dropWhere t.moves fun x => x.group = g, swaps := t.swaps + 1 }
    (s2.count d 0xDC0 1).replayParked d g
/-- TIER_MOVE_END (R402): the exchange completes, the remap entry changes and parked writes are replayed -/
def execTierMoveEnd (die group : Nat) (s : State) : Host.Outcome State Fault Refusal := .next (s.endMove die group)
/-- A host access of a register waits until every earlier BAR4 write of the host is performed: the moves that hold one back
end first (R339, R370, log 51). -/
def State.settleHost (s : State) : State :=
  (numsFrom 0 8).foldl (fun s d =>
    ((((s.die d).tiers.parked.filter fun p => p.owner = .host).map fun p => dpaGroup p.dpa).eraseDups).foldl
      (fun s g => s.endMove d g) s) s

/-! ### A walk (R366, R368) -/

/-- The set of the shared TLB that an entry stands in, of 1,024: by its page's number (the model's choice, log 63). -/
def TlbEntry.set (e : TlbEntry) : Nat := e.base / 2 ^ e.bits % 1024
/-- Caches a translation: 8,192 entries in 8 ways, the oldest of its set replaced (R368; which one, the spec does not say). -/
def tlbInsert (e : TlbEntry) (l : List TlbEntry) : List TlbEntry :=
  let mine := l.filter fun x => x.set = e.set
  e :: if mine.length < 8 then l else match mine.getLast? with | none => l | some y => l.erase y
/-- TRANSLATION_WALK (R366, R367): the translation unit walks the page tables for an address; a page that it finds
is cached, an invalid entry or an entry read uncorrectable is not (R368) -/
def execTranslationWalk (die dva : Nat) (write fetch : Bool) (s : State) : Host.Outcome State Fault Refusal :=
  let _ := (write, fetch)
  .next (
    if dva ≥ 2 ^ 57 || (s.walkReads die dva).any fun a => s.dpaHeld die a 8 then s
    else match s.walk die dva with
      | .error _ => s.walked die dva
      | .ok e =>
        if (s.die die).xl.tlb.any fun x => dva / 2 ^ x.bits = x.base / 2 ^ x.bits then s
        else (s.walked die dva).modDie die fun x => { x with xl := { x.xl with tlb := tlbInsert e x.xl.tlb } })

end Sys2Proof.Machine
end

