-- ==== Sys2Proof/Machine/Plan.lean ====
section
/-! DEFINITION. The sail plan and the lodge cores: changes of the plan and their publication, what a retirement does,
lost dies and lost contexts, straggler policies, the lease, classification of errors, SRAM lines, lodge reloads and
re-plans (R32, R33, R37, R238, R372 to R389, R420). -/

namespace Sys2Proof.Machine

/-! ### Changes of the plan (R377, R378) -/

/-- The die of a change. -/
def PlanChange.die : PlanChange → Nat
  | .coreOff d _ => d | .vaultOff d _ => d | .copyEngineOff d _ => d | .portMode d _ _ => d | .lodge d _ => d
  | .memOff d _ => d | .dieLost d => d | .spares d => d | .volt d _ _ => d | .clock d _ _ => d | .clusterOff d _ => d
/-- CUNIT: the byte offset of the changed field in the die section. -/
def PlanChange.cunit : PlanChange → Nat
  | .coreOff _ c => 0x20 + 16 * (c / 96) | .vaultOff _ _ => 0x08 | .copyEngineOff _ _ => 0x02
  | .portMode _ _ _ => 0x04 | .lodge _ _ => 0x01 | .memOff _ _ => 0x03 | .dieLost _ => 0x00 | .spares _ => 0x18
  | .volt _ k _ => 0x2E + 16 * k | .clock _ k _ => 0x2C + 16 * k | .clusterOff _ k => 0x20 + 16 * k
/-- CAUSE, where the spec gives one: 1 retirement, 2 re-plan, 3 die lost, 4 port mode. -/
def PlanChange.cause : PlanChange → Option Nat
  | .coreOff _ _ => some 1 | .vaultOff _ _ => some 1 | .copyEngineOff _ _ => some 1
  | .portMode _ _ m => some (if m = 0 then 1 else 4) | .lodge _ st => if st = 2 then some 1 else none
  | .memOff _ _ => some 1 | .dieLost _ => some 3 | .spares _ => some 1 | .volt _ _ _ => some 2 | .clock _ _ _ => some 2
  | .clusterOff _ _ => some 1
/-- Changes a cluster of a die section. -/
def DiePlan.modCluster (p : DiePlan) (k : Nat) (f : ClusterPlan → ClusterPlan) : DiePlan :=
  { p with clusters := p.clusters.setIfInBounds k (f (p.clusters[k]?.getD ClusterPlan.reset)) }
/-- What a change does to its die section. -/
def PlanChange.apply (c : PlanChange) (p : DiePlan) : DiePlan :=
  match c with
  | .coreOff _ n => p.modCluster (n / 96) fun k => { k with cores := k.cores &&& ~~~(1#96 <<< (n % 96)) }
  | .vaultOff _ v => { p with vaults := p.vaults &&& ~~~(1#72 <<< v) }
  | .copyEngineOff _ e => { p with copyE := p.copyE &&& ~~~(1#4 <<< e) }
  | .portMode _ n m => { p with ports := p.ports.setIfInBounds n m }
  | .lodge _ st => { p with lodge := st }
  | .memOff _ cap => if cap then { p with cap := false } else { p with hbm := false }
  | .dieLost _ => { p with alive := false }
  | .spares _ => { p with spares := p.spares + 1 }
  | .volt _ k mv => p.modCluster k fun x => { x with mv := mv }
  | .clock _ k mhz => p.modCluster k fun x => { x with mhz := mhz }
  | .clusterOff _ k => p.modCluster k fun x => { x with cores := 0 }
/-- KIND of the event that a change's report brings (R439). -/
def PlanChange.kind : PlanChange → Nat
  | .dieLost _ => 4 | .lodge _ st => if st = 0 then 5 else 2 | .spares _ => 1 | _ => 2
/-- The deadline of a new version for a context in its state (R37). A frozen context has executed PHEND or sleeps in QPOP
(log 60). -/
def RunState.deadline (st : RunState) (n : Nat) : Option Nat :=
  match st with
  | .ready => some n | .running => some n | .stalled => some n
  | .sleepQueue => some (n + 1) | .sleepBoundary => some (n + 1) | .frozen => some (n + 1)
  | .idle => none | .suspended => none
/-- The earlier of two deadlines. -/
def earlier : Option Nat → Option Nat → Option Nat
  | none, b => b
  | some a, none => some a
  | some a, some b => some (Nat.min a b)
/-- A version reaches a member context: ctl.rmp and its deadline, the earlier of two unmet ones (R37, R38). -/
def Ctx.newVersion (v : BitVec 64) (n : Nat) (c : Ctx) : Ctx :=
  if c.ballast.isSome then c
  else { c with
    ctl := { c.ctl with rmp := v }
    deadline := earlier (c.st.deadline n) (if c.ctl.rmv < c.ctl.rmp then c.deadline else none) }
/-- The live dies. -/
def State.liveDies (s : State) : List Nat := (numsFrom 0 8).filter s.dieAlive
/-- Writes the plan's record into its slot of the sail plan page of every live die (R378, R379). -/
def State.writeRecord (s : State) : State :=
  s.liveDies.foldl (fun s d => s.devPutRaw d (sailPage + 4096 * (s.plan.version % 16)) s.plan.bytes) s
/-- Publishes the plan as it stands: records, ctl.rmp and deadlines, the event and the history, vector 2 (R378,
R440). -/
def State.publish (s : State) (kind : Nat) (r : Report) : State :=
  let s1 := s.writeRecord
  let v : BitVec 64 := BitVec.ofNat 64 s.plan.version
  let gs := s1.placed.filter fun g => s1.dieAlive g.die
  let s2 := s1.modAll gs (Ctx.newVersion v (s.hy.phc.toNat + 1))
  let s3 := match r.cls with | none => s2 | some cls => s2.logEvent r.change.die cls kind r.unit r.addr
  s3.logHistory.sendVec 2
/-- The next version of the plan, with a change of one die section. -/
def State.nextPlan (s : State) (c : PlanChange) : SailPlan :=
  { s.plan with
    version := s.plan.version + 1, time := s.nowUs / 1000
    cause := c.cause.getD (Config.freeValue s.fresh % 256), cdie := c.die, cunit := c.cunit
    belv := s.acting.getD s.belv.1
    dies := s.plan.dies.setIfInBounds c.die (c.apply (s.planDie c.die)) }
/-- Makes a change and publishes it, where it changes something of a live die. -/
def State.planStep (s : State) (r : Report) : State :=
  ({ s with plan := s.nextPlan r.change }.tickFree).publish r.change.kind r
/-- A change that changes something of a live die. -/
def State.changes? (s : State) (c : PlanChange) : Bool :=
  s.dieAlive c.die && c.apply (s.planDie c.die) ≠ s.planDie c.die

/-! ### Lost dies (R33, R238, R304) -/

/-- The transfers of a living die that name the lost die `d` end (R238). A face to or from it counts as aborted unless it
had landed and been acknowledged. -/
def State.loseFrom (d : Nat) (s : State) (x : Nat) : State :=
  let cs := (s.die x).xf.copies.filter fun c => c.remote && c.dstDie = d && !c.ended
  let s1 := cs.foldl (fun s c => (s.setCopy x { c with
    lost := true, ended := true, fault := none, parked := [], landed := List.range c.chunks }).closeWindows c.carry) s
  let s2 := ((s1.die x).xf.rputs.filter fun r => r.die = d).foldl (fun s r => s.endRput x r) s1
  let s3 := ((s2.die x).xf.rflags.filter fun r => r.die = d).foldl (fun s r => s.endRflag x r) s2
  let s4 := (s3.die x).xf.halos.foldl (fun s h =>
    let b := faceBits (allFaces.filter fun f => h.depth f ≠ 0 && s.faceDie x f = d)
    let h1 : Halo := { h with abort := h.abort ||| (b &&& ~~~(h.inn &&& h.acked)), sent := h.sent ||| b, acked := h.acked ||| b }
    if h1.acked = BitVec.allOnes 6 then (s.setHalo x { h1 with carry := none }).closeWindows h.carry
    else s.setHalo x h1) s3
  ((s4.die x).xf.colls.filter fun c => c.group.contains d && !c.ended && !c.aborted).foldl (fun s c => s.abortColl c 1 d) s4
/-- What follows once die `d` has left the plan: its contexts are frozen, its own transfers stop, those that name it
end; the windows of its transfers at other dies and what it issued of collectives, which the reports of the other ranks
list, stay until the crossing (R33, R238, R301). -/
def State.afterLoss (s : State) (d : Nat) : State :=
  let s1 := s.modAll (s.placedOn d) fun c => { c with st := .frozen }
  let s2 := s1.modXf d fun x => { x with
    copies := [], rputs := [], rflags := [], halos := [], early := [], windows := []
    colls := x.colls.map fun c =>
      if c.complete then { c with ended := true }
      else { c with aborted := true, ended := true, reason := 1, who := s.fabricOf d } }
  let s3 := s2.liveDies.foldl (State.loseFrom d) s2
  if d = 0 && (s.die 0).job.isSome then s3.faultJob else s3
/-- Declares a die lost, in a version of its own. Its event has the CLASS of the error that the loss follows from, or a
free value where none does, as for a late die: R439 has no CLASS for it (log 2). -/
def State.loseOne (s : State) (d : Nat) (cls : Option Nat) (unit addr : Nat) : State :=
  let r : Report := { change := .dieLost d, cls := some (cls.getD (Config.freeValue s.fresh % 16)), unit := unit, addr := addr }
  if s.changes? r.change then ((if cls.isNone then s.tickFree else s).planStep r).afterLoss d else s
/-- The dies that are left with no live route to some live die are lost in turn, `first` before the others (R380, R416,
log 50). -/
def State.dropStranded (first : Nat) (cls : Option Nat) (unit : Nat) : Nat → State → State
  | 0, s => s
  | n + 1, s =>
    match (first :: numsFrom 0 8).find? fun d => s.dieAlive d && !s.routed d with
    | none => s
    | some d => (s.loseOne d cls unit 0).dropStranded first cls unit n
/-- Declares a die lost, and then the dies that it leaves with no route. -/
def State.loseDie (s : State) (d : Nat) (cls : Option Nat) (unit addr : Nat) : State :=
  (s.loseOne d cls unit addr).dropStranded d cls unit 8

/-! ### What a retirement does (R380, R381) -/

/-- A context is lost (R381). -/
def State.loseContext (s : State) (g : CtxId) : State :=
  let c := s.ctx g
  if c.st = .idle then s
  else if c.inNode then s.rollback g true
  else if (c.st = .sleepQueue || c.st = .sleepBoundary || c.st = .frozen) && c.item.isNone then s.becomeIdle g
  else s.faultJob
/-- An entry names the scratchpad or the weight buffer of a die core. -/
def entCore (e : BitVec 512) (core : Nat) : Bool :=
  (tidSpace e = 1 && fieldAt e 32 3 * 96 + fieldAt e 19 7 = core) || (tidSpace e = 3 && fieldAt e 32 10 = core)
/-- Copies that name memory of a retired core end CANCELLED. -/
def State.cancelCopies (s : State) (d core : Nat) : State :=
  s.liveDies.foldl (fun s x =>
    let cs := (s.die x).xf.copies.filter fun c => !c.ended &&
      ((x = d && !c.srcHost && entCore c.srcEnt core) || (c.dstDie = d && !c.dstHost && entCore c.dstEnt core))
    cs.foldl (fun s c => (s.setCopy x { c with cancelled := true, ended := true, fault := none, parked := [] }).closeWindows
      c.carry) s) s
/-- A retired core: its matrix operations end, its contexts are lost, its copies cancelled, its tiles gone. -/
def State.dropCore (d : Nat) (s : State) (core : Nat) : State :=
  let s0 := s.modCore d core fun c => { c with queue := [], rept := none }
  let s1 := [0, 1, 2, 3].foldl (fun s k => s.loseContext ⟨d, core, k⟩) s0
  (s1.cancelCopies d core).modCore d core fun c => { Core.reset with regionTop := c.regionTop, ballasts := c.ballasts }
/-- The lodge core writes back a DIRTY block of a retired vault; a failure faults the job. -/
def State.rescueWay (d : Nat) (s : State) (w : Nat) : State :=
  let y := s.way d w
  if s.badRead (s.frameKey d w) 2048 then s.faultJob
  else match s.dvaCanPut d (y.block * 2048) 2048 with
    | .error _ => s.faultJob
    | .ok _ => (s.dvaPut d (y.block * 2048) (s.bytes (s.frameKey d w) 2048) (.writeBack w)).setWay d w {
        y with st := if y.st = .dirty then .clean else y.st, again := false }
/-- The DIRTY ways of a vault, which the lodge core writes back as the vault retires (R380). -/
def State.rescued (s : State) (d v : Nat) : List Nat :=
  ((s.die d).tr.ways.map (·.1)).filter fun w =>
    w / 2048 = v && ((s.way d w).st = .dirty || ((s.way d w).st = .writing && (s.way d w).again))
/-- The write-backs of a retiring vault wait for room in the park buffer (R370), or on a diagnostic packet (R392, R393). -/
def State.rescueWaits (s : State) (d v : Nat) : Bool :=
  let ws := (s.rescued d v).map fun w => (s.way d w).block * 2048
  !s.parkRoom d ((ws.map fun a => s.parkNeed d a 2048).foldl (· + ·) 0) || ws.any fun a => s.dvaHeld d a 2048 .write
/-- What a change does must wait. -/
def State.changeWaits (s : State) : PlanChange → Bool
  | .vaultOff d v => s.rescueWaits d v
  | .coreOff _ _ => false | .copyEngineOff _ _ => false | .portMode _ _ _ => false | .lodge _ _ => false | .memOff _ _ => false
  | .dieLost _ => false | .spares _ => false | .volt _ _ _ => false | .clock _ _ _ => false | .clusterOff _ _ => false
/-- What a published change does to the machine (R380, R389). -/
def State.planEffect (s : State) (r : Report) (old : DiePlan) : State :=
  match r.change with
  | .coreOff d c => s.dropCore d c
  | .clusterOff d k =>
    ((numsFrom (96 * k) 96).filter fun c => ((old.clusters[k]?.map fun x => x.cores.getLsbD (c % 96)).getD false)).foldl
      (State.dropCore d) s
  | .vaultOff d v => (s.rescued d v).foldl (State.rescueWay d) s
  | .copyEngineOff d _ => if (s.planDie d).copyE = 0 then s.loseDie d r.cls r.unit 0 else s
  | .portMode d p m =>
    if m = 0 then ((s.modPort d p fun x => { x with st := 4 }).resendFrom d p).dropStranded d r.cls p 8 else s
  | .lodge d st => if st = 2 then s.loseDie d r.cls r.unit r.addr else s
  | .memOff d _ => s.loseDie d r.cls r.unit r.addr
  | .dieLost d => (s.afterLoss d).dropStranded d r.cls r.unit 8
  | .clock d k _ =>
    if s.clocks.any (fun x => x.1 = d && x.2.1 = k) || (s.die d).job.isNone then s
    else { s with clocks := s.clocks ++ [(d, k, (old.clusters[k]?.map (·.mhz)).getD 1000)] }
  | .spares _ => s
  | .volt _ _ _ => s
/-- SAILPLAN_PUBLISH (R378, R380): the acting Belvedere takes the oldest report, publishes its change as the next
version, and the change takes effect; it waits while the write-backs that the change makes have no room -/
def execSailplanPublish (s : State) : Host.Outcome State Fault Refusal :=
  .next (
    if s.acting.isNone then s
    else match s.changes with
      | [] => s
      | r :: rs =>
        let s1 := { s with changes := rs }
        if s.changeWaits r.change then s
        else if s.changes? r.change then (s1.planStep r).planEffect r (s.planDie r.change.die) else s1)

/-! ### Straggler policy (R32) -/

/-- The dies of the domain that have not arrived. -/
def State.lateDies (s : State) : List Nat := s.domain.filter fun d => !s.hy.arrived.getLsbD d
/-- The lodge cores apply the job's policy to one expiry (R32). -/
def State.applyPolicy (s : State) : State :=
  let s1 := { s with hy := { s.hy with expiries := 0 } }
  if s.hy.extend && !s.hy.extended then { s1 with hy := { s1.hy with extended := true, timer := some 0 } }
  else s1.lateDies.foldl (fun s d => s.loseDie d none 0 0) s1

/-! ### The lease (R373 to R376) -/

/-- A mailbox. -/
def State.mailAt (s : State) (d : Nat) : Mailbox := s.mail[d]?.getD { holder := 0xFF, term := 0, stamp := 0 }
/-- The lease at a mailbox is live (R373). -/
def State.leaseLive (s : State) (d : Nat) : Bool := (s.mailAt d).holder ≠ 0xFF && s.nowUs < (s.mailAt d).stamp + 4000
/-- The latest stamp, the highest term and its holder. -/
def State.lastLease (s : State) : Nat × Nat × Nat :=
  (numsFrom 0 8).foldl (fun r d =>
    let m := s.mailAt d
    (Nat.max r.1 m.stamp, if m.term ≥ r.2.1 then (m.term, m.holder) else r.2)) (0, 0, 0xFF)
/-- The time at which lodge core `c` may claim, and after a claim that failed, claim again (R374). -/
def State.claimAt (s : State) (c : Nat) : Nat :=
  let l := s.lastLease
  let h := l.2.2
  l.1 + 4000 + if (s.lodgeAt c).again then 0 else 250 * (if h = 0xFF then c + 1 else (c + 8 - h) % 8)
/-- Lodge core `c` writes a lease of term `t` into the mailboxes `hit`, where its compare-and-swap succeeds. -/
def State.putLease (s : State) (c t : Nat) (hit : BitVec 8) : State :=
  { s with mail := s.mail.mapIdx fun d m => if hit.getLsbD d then { holder := c, term := t, stamp := s.nowUs } else m }
/-- The mailboxes of a set, as a count. -/
def mailCount (b : BitVec 8) : Nat := ((numsFrom 0 8).filter b.getLsbD).length
/-- Lodge core `c` takes the role in term `t`; it owes a write of the lifetime records (R376, R436). -/
def State.takeRole (s : State) (c t : Nat) : State :=
  (({ s with belv := (c, t), unmanaged := false }).modLodge c fun l =>
    { l with acting := some t, renewed := s.nowUs, again := false }).modLife fun l => { l with owed := true }
/-- LEASE_CLAIM (R374, R376): a lodge core that finds no live lease at 5 mailboxes compare-and-swaps each; with 5 or more
successes it is Belvedere, and as its first act applies a straggler policy still owed; with fewer it leaves the mailboxes as
they stand. A mailbox that cannot be written, or whose word another claim has changed since it was read, is outside
`outside.mail`. -/
def execLeaseClaim (die : Nat) (s : State) : Host.Outcome State Fault Refusal :=
  .next (
    let hit := s.outside.mail
    let dead := ((numsFrom 0 8).filter fun d => !s.leaseLive d).length
    if die ≥ 8 || !(s.lodgeAt die).running || !s.dieAlive die || dead < 5 || s.nowUs < s.claimAt die then s
    else
      let t := (s.lastLease.2.1 + 1) % 2 ^ 56
      let s1 := s.putLease die t hit
      if mailCount hit < 5 then s1.modLodge die fun l => { l with again := true }
      else
        let s2 := (s1.takeRole die t).writeRecord
        if s2.hy.expiries > 0 then s2.applyPolicy else s2)
/-- The mailboxes of `can` that hold the lease of lodge core `c` in term `t`. -/
def State.heldMail (s : State) (c t : Nat) (can : BitVec 8) : BitVec 8 :=
  (numsFrom 0 8).foldl (fun b d =>
    if can.getLsbD d && (s.mailAt d).holder = c && (s.mailAt d).term = t then b ||| (1 <<< d) else b) 0
/-- LEASE_RENEW (R373): a millisecond after its last renewal the Belvedere restamps, among the mailboxes that can be
written, those that hold its lease -/
def execLeaseRenew (die : Nat) (s : State) : Host.Outcome State Fault Refusal :=
  .next (match (s.lodgeAt die).acting with
    | none => s
    | some t =>
      if !s.actsNow die || s.nowUs < (s.lodgeAt die).renewed + 1000 then s
      else
        let held := s.heldMail die t s.outside.mail
        let s1 := s.putLease die t held
        if mailCount held ≥ 5 then s1.modLodge die fun l => { l with renewed := s.nowUs } else s1)
/-- BELVEDERE_LAPSE (R373): 3.5 ms after its last renewal a Belvedere stops acting -/
def execBelvedereLapse (die : Nat) (s : State) : Host.Outcome State Fault Refusal :=
  .next (
    if (s.lodgeAt die).acting.isSome && s.nowUs ≥ (s.lodgeAt die).renewed + 3500 then
      s.modLodge die fun l => { l with acting := none }
    else s)
/-- The time at which a lodge core stops to act as Belvedere: when it halts, or 3.5 ms after its last renewal (R373). -/
def Lodge.actsUntil (l : Lodge) : Nat :=
  match l.lastHalt with
  | none => l.renewed + 3500
  | some t => if t ≥ l.renewed then Nat.min t (l.renewed + 3500) else l.renewed + 3500
/-- PACKAGE_UNMANAGED (R375): fewer than 5 mailboxes can be written and 100 ms have passed since a Belvedere acted;
every job is faulted -/
def execPackageUnmanaged (s : State) : Host.Outcome State Fault Refusal :=
  .next (
    let last := (s.lodge.toList.map Lodge.actsUntil).foldl Nat.max 0
    if mailCount s.outside.mail ≥ 5 || s.acting.isSome || s.nowUs < last + 100000 then s
    else { s.faultJob with unmanaged := true })

/-! ### Classification (R382 to R384, R397) -/

/-- The key of an SRAM byte by CLASS 0 to 3 and its unit (R439). -/
def sramKey (d cls unit addr : Nat) : Nat :=
  if cls = 0 then spKey d unit addr else if cls = 1 then vaultKey d unit addr
  else if cls = 2 then wbKey d unit addr else cleatKey d addr
/-- CLASS, unit and address of an SRAM key. -/
def sramUnit (k : Nat) : Nat × Nat × Nat :=
  let r := k / 1099511627776 % 16
  let o := k % 1099511627776
  if r = 0 then (0, o / 524288, o % 524288) else if r = 2 then (1, o / 4194304, o % 4194304)
  else if r = 1 then (2, o / 131072, o % 131072) else (3, 0, o)
/-- A line moves to a spare: SPARES increments in a version whose event is the lasting error (R384, R440). -/
def State.spareUsed (s : State) (d cls unit addr : Nat) : State := (s.count d 0xE10 1).post (.spares d) (some cls) unit addr
/-- Moves a 128-byte line to a spare with its current bytes, or retires its core or vault when none is left (R384).
Lines of weight buffers and the Cleat always find one (log 50). -/
def State.moveLine (s : State) (d line : Nat) : State :=
  let u := sramUnit (128 * line)
  let key := if u.1 = 1 then 1000 + u.2.1 else u.2.1
  let used := tabGetD (s.die d).spareLines key 0
  if (u.1 = 0 && used ≥ 32) || (u.1 = 1 && used ≥ 256) then
    (s.logEvent d u.1 1 u.2.1 u.2.2).post (if u.1 = 0 then .coreOff d u.2.1 else .vaultOff d u.2.1) (some u.1) u.2.1 0
  else
    let s1 := if u.1 ≤ 1 then s.modDie d fun x => { x with spareLines := tabSet x.spareLines key (used + 1) } else s
    s1.spareUsed d u.1 u.2.1 u.2.2
/-- An SRAM error: corrected, found good on the second read, or uncorrectable twice (R382, R384). -/
def State.sramError (s : State) (d cls unit addr : Nat) (corrected lasting : Bool) : State :=
  let k := sramKey d cls unit addr
  if corrected then
    let r := s.strike d (100 + cls) (k / 128) 16
    if r.2 then r.1.moveLine d (k / 128) else r.1.logEvent d cls 0 unit addr
  else if lasting then
    { s with bad := setIns s.bad (k / 8) }.modDie d fun x => { x with suspects := setIns x.suspects (k / 128) }
  else s.logEvent d cls 0 unit addr
/-- A DRAM error: corrected, found good on the second read, or uncorrectable twice; without a spare row the stack or the
tier is retired (R397). -/
def State.dramError (s : State) (d : Nat) (cap : Bool) (unit addr : Nat) (corrected lasting : Bool) : State :=
  let cls := if cap then 13 else 12
  let r := if corrected then s.strike d (100 + cls) (Config.dramRow cap addr) 16 else (s, lasting)
  if !r.2 then r.1.logEvent d cls 0 unit addr
  else if r.1.rowsUsed d cap unit < 4 then (r.1.repairRow d cap unit addr).logEvent d cls 3 unit addr
  else r.1.post (.memOff d cap) (some cls) unit addr
/-- ERROR_RETRY_CLASSIFY (R382, R383): a detected error is logged as transient, or as lasting with its unit retired or its
line moved; events of R383 count against a core when a replay succeeds on another one (`State.replayDone`) -/
def execErrorRetryClassify (die cls unit addr : Nat) (corrected lasting : Bool) (s : State) :
    Host.Outcome State Fault Refusal :=
  .next (
    let log := fun (c : PlanChange) =>
      if lasting then (s.logEvent die cls 1 unit addr).post c (some cls) unit 0 else s.logEvent die cls 0 unit addr
    if die ≥ 8 || !s.dieAlive die then s
    else if cls ≤ 3 then s.sramError die cls unit addr corrected lasting
    else if cls ≤ 5 then s.logEvent die cls (if lasting then 1 else 0) unit addr
    else if cls = 6 then
      if lasting then (log (.coreOff die unit)).loseContext ⟨die, unit, addr % 4⟩ else log (.coreOff die unit)
    else if cls = 7 then log (.coreOff die unit)
    else if cls = 8 then
      if lasting then
        (s.spareUsed die cls unit addr).modSched die fun x => { x with rebuilding := true }
      else s.logEvent die cls 0 unit addr
    else if cls = 9 then log (.lodge die 2)
    else if cls ≤ 11 then log (.portMode die unit 0)
    else if cls ≤ 13 then s.dramError die (cls = 13) unit addr corrected lasting
    else if cls = 14 then s.logEvent die cls (if lasting then 1 else 0) unit addr
    else s)
/-- SRAM_LINE_RETEST (R384): a suspect line, all of whose failing words have been written whole again, is cleared or
moved to a spare -/
def execSramLineRetest (die line : Nat) (clean : Bool) (s : State) : Host.Outcome State Fault Refusal :=
  .next (
    if !(s.die die).suspects.contains line || (numsFrom (16 * line) 16).any fun w => s.bad.contains w then s
    else
      let u := sramUnit (128 * line)
      let s1 := s.modDie die fun x => { x with suspects := setDel x.suspects line }
      if clean then s1.logEvent die u.1 0 u.2.1 u.2.2 else s1.moveLine die line)
/-! ### Lodge cores (R388, R420) -/

/-- The 64 signed bytes of an image's header (R420). -/
def FlashSlot.head (f : FlashSlot) : List Byte :=
  leBytes 4 f.magic.toNat ++ leBytes 4 f.svn.toNat ++ leBytes 8 f.bodyLen ++ leBytes 48 f.digest.toNat
/-- An image passes the boot ROM's checks (R420). -/
def FlashSlot.ok (f : FlashSlot) (minSvn : BitVec 8) : Bool :=
  f.magic = 0x08800001 && f.bodyLen = f.body.length && f.bodyLen ≤ 67108864 &&
    Config.edVerify f.head f.edsig && Config.mlVerify f.head f.mlsig && sha384 f.body = f.digest &&
    f.svn.toNat ≤ 255 && minSvn.toNat ≤ f.svn.toNat
/-- The slot that a lodge core boots from: A, else B (`true`), else none (R420); `errA` and `errB` say that its read of a
slot failed twice. -/
def Boot.pick (b : Boot) (errA errB : Bool) : Option Bool :=
  let good := fun (err : Bool) (f : Option FlashSlot) => match f with | none => false | some x => !err && x.ok b.minSvn
  if good errA b.slotA then some false else if good errB b.slotB then some true else none
/-- LODGE_HALT (R388): a lodge core halts; a second halt within 24 h retires it -/
def execLodgeHalt (die : Nat) (s : State) : Host.Outcome State Fault Refusal :=
  .next (
    let l := s.lodgeAt die
    if !l.running then s
    else
      let again := match l.lastHalt with | none => false | some t => s.nowUs < t + 86400000000
      let s1 := s.modLodge die fun l =>
        { l with running := false, acting := none, haltedAt := some s.nowUs, lastHalt := some s.nowUs }
      if again then (s1.logEvent die 9 1 0 0).post (.lodge die 2) (some 9) 0 0 else s1)
/-- LODGE_RELOAD_TIMEOUT (R388): 20 ms after the halt without completion, LODGE = 1 is to be published -/
def execLodgeReloadTimeout (die : Nat) (s : State) : Host.Outcome State Fault Refusal :=
  .next (match (s.lodgeAt die).haltedAt with
    | none => s
    | some t =>
      if s.nowUs < t + 20000 || (s.planDie die).lodge ≠ 0 || s.changes.any (fun r => r.change = .lodge die 1) then s
      else s.post (.lodge die 1) none 0 0)
/-- LODGE_RELOAD_COMPLETE (R388, R417, R420): the acting Belvedere's reload of a halted lodge core runs an image from slot A
or B, or retires the lodge core; one that took 20 ms or more is published, as a reload and then its end, and the die's
ports are brought up again -/
def execLodgeReloadComplete (die : Nat) (s : State) : Host.Outcome State Fault Refusal :=
  .next (match (s.lodgeAt die).haltedAt with
    | none => s
    | some t =>
      if s.acting.isNone || (s.planDie die).lodge = 2 then s
      else
        let pick := s.boot.pick (s.outside.errA.getLsbD die) (s.outside.errB.getLsbD die)
        let s1 := { s with boot := { s.boot with
          fallback := s.boot.fallback || pick ≠ some false, dieSlots := s.boot.dieSlots.setIfInBounds die pick } }
        match pick with
        | none => s1.post (.lodge die 2) (some 9) 0 0
        | some _ =>
          let s2 := (s1.modLodge die fun l => { l with running := true, haltedAt := none }).modDie die fun x => { x with
            ports := x.ports.map fun p => { p with stale := true } }
          let told := (s.planDie die).lodge = 1 || s.changes.any fun r => r.change = .lodge die 1
          if told then s2.post (.lodge die 0) (some 9) 0 0
          else if s.nowUs ≥ t + 20000 then (s2.post (.lodge die 1) none 0 0).post (.lodge die 0) (some 9) 0 0
          else s2.logEvent die 9 5 0 0)

/-! ### Re-plan (R389) -/

/-- The slack of cluster `k` of a die at a voltage and a clock, as its monitors report it now. -/
def State.slack (s : State) (d k mv mhz : Nat) : Int := Config.slack d k mv mhz s.fresh
/-- The first of `fuel` voltages from `mv` up in 5 mV steps, not above 850 mV, that leaves 80 ps of slack. -/
def State.leastVolt (s : State) (d k mhz : Nat) : Nat → Nat → Option Nat
  | 0, _ => none
  | fuel + 1, mv =>
    if mv > 850 then none else if s.slack d k mv mhz ≥ 80 then some mv else s.leastVolt d k mhz fuel (mv + 5)
/-- The clock and voltage of a cluster that leave 80 ps of slack, from a clock downward in 25 MHz steps to 700 MHz. -/
def State.replanDown (s : State) (d k : Nat) : Nat → Nat → Option (Nat × Nat)
  | 0, _ => none
  | fuel + 1, mhz =>
    if mhz < 700 then none
    else match s.leastVolt d k mhz 31 700 with
      | some v => some (mhz, v)
      | none => s.replanDown d k fuel (mhz - 25)
/-- The clock and voltage that a re-plan gives a cluster; `none` retires it. -/
def State.replan (s : State) (d k : Nat) (c : ClusterPlan) : Option (Nat × Nat) :=
  match s.leastVolt d k c.mhz 31 c.mv with
  | some v => some (c.mhz, v)
  | none => s.replanDown d k 13 (c.mhz - 25)
/-- A cluster is due for a re-plan: none since power-on, the last one 24 h ago, or its slack below 60 ps or 20 ps below what
the last one left (R389). -/
def State.replanDue (s : State) (d k : Nat) (c : ClusterPlan) : Bool :=
  match tabGet s.replans (6 * d + k) with
  | none => true
  | some (t, p) => let x := s.slack d k c.mv c.mhz; s.nowUs ≥ t + 86400000000 || x < 60 || x + 20 ≤ p
/-- CLUSTER_REPLAN (R389): where it is due, the lodge cores raise a cluster's voltage, else lower its clock, else retire
it -/
def execClusterReplan (die cluster : Nat) (s : State) : Host.Outcome State Fault Refusal :=
  .next (
    if die ≥ 8 || cluster ≥ 6 || !s.dieAlive die then s
    else match (s.planDie die).clusters[cluster]? with
      | none => s
      | some c =>
        if !s.replanDue die cluster c then s.tickFree
        else match s.replan die cluster c with
        | none => s.tickFree.post (.clusterOff die cluster) (some 15) cluster 0
        | some (mhz, mv) =>
          let s1 := { s.tickFree with replans := tabSet s.replans (6 * die + cluster) (s.nowUs, s.slack die cluster mv mhz) }
          let s2 := if mhz < c.mhz then s1.post (.clock die cluster mhz) none 0 0 else s1
          if mv ≠ c.mv then s2.post (.volt die cluster mv) none 0 0 else s2)

end Sys2Proof.Machine
end

