-- ==== Sys2Proof/Machine/Tasks.lean ====
section
/-! DEFINITION. Work, queues and tasks: launch levels, group counters and bindings, delivery and retirement of items,
task records and the scheduler, replayable nodes, and TSPAWN, TDEC, TDONE, QPOP, QPUSH and QSTAT (R45 to R53, R60 to
R64, R248 to R255, R343 to R346, R386). -/

namespace Sys2Proof.Machine

/-! ### Task records (R60, R61) -/

/-- The Cleat key of byte `off` of task record `t` (R60, R240). -/
def taskKey (d t off : Nat) : Nat := cleatKey d (0x400000 + 64 * t + off)
/-- A field of a task record. -/
def State.taskFld (s : State) (d t off n : Nat) : Nat := s.rd (taskKey d t off) n
/-- Writes a field of a task record. -/
def State.taskPut (s : State) (d t off n v : Nat) : State := s.wr (taskKey d t off) n v
/-- STATE of a task record: 0 FREE, 1 ARMED, 2 READY, 3 ISSUED, 4 FAULTED. -/
def State.taskState (s : State) (d t : Nat) : Nat := s.taskFld d t 1 1
/-- The index that names no task. -/
def noTask : Nat := 0xFFFFFFFF
/-- Appends an entry to the ready queue. -/
def State.readyPush (s : State) (d : Nat) (r : ReadyItem) : State := s.modSched d fun x => { x with ready := x.ready ++ [r] }
/-- Decrements a task (R61). -/
def State.taskDec (s : State) (d t : Nat) : State :=
  if t = noTask then s
  else if t ≥ 65536 || s.taskState d t ≠ 1 then s.raiseJob d .taskstray (some (BitVec.ofNat 64 t)) none
  else
    let c := s.taskFld d t 4 4 - 1
    let s1 := s.taskPut d t 4 4 c
    if c = 0 then (s1.taskPut d t 1 1 2).readyPush d (.task t) else s1
/-- A task completes: PARENT is decremented and the record is FREE (R61). -/
def State.taskComplete (s : State) (d t : Nat) : State := (s.taskDec d (s.taskFld d t 8 4)).taskPut d t 1 1 0
/-- The FREE row of R61, for a record taken with count `c`. -/
def State.taskArm (s : State) (d t c : Nat) : State :=
  let s1 := (s.taskPut d t 4 4 c).taskPut d t 1 1 (if c = 0 then 2 else 1)
  if c = 0 then s1.readyPush d (.task t) else s1
/-- A task faults: the job status is told (R61). -/
def State.taskFault (s : State) (d t : Nat) : State :=
  (s.taskPut d t 1 1 4).raiseJob d .taskfault (some (BitVec.ofNat 64 t)) none
/-- The lowest FREE record from `t` up, among `fuel` (R249, R254). -/
def State.freeTask (s : State) (d t : Nat) : Nat → Option Nat
  | 0 => none
  | fuel + 1 =>
    if s.taskState d t = 0 && !(s.die d).sched.reserved.contains t then some t else s.freeTask d (t + 1) fuel

/-! ### Queues (R52, R53, R343 to R346) -/

/-- A queue's descriptor. -/
def State.queueAt (s : State) (d q : Nat) : Queue := tabGetD (s.die d).sched.queues q Queue.reset
/-- Changes a queue's descriptor. -/
def State.modQueue (s : State) (d q : Nat) (f : Queue → Queue) : State :=
  s.modSched d fun x => { x with queues := tabSet x.queues q (f (tabGetD x.queues q Queue.reset)) }
/-- Records between HEAD and TAIL. -/
def Queue.count (q : Queue) : Nat := (q.tail - q.head).toNat
/-- The room of R343; a queue without a ring has none. -/
def Queue.room (q : Queue) : Nat := if q.log2n = 0 then 0 else 2 ^ q.log2n - q.count
/-- The device virtual address of record `i`. -/
def Queue.slotVa (q : Queue) (i : Nat) : Nat := q.rbase.toNat + 64 * (i % 2 ^ q.log2n)
/-- PRIO of a launch. -/
def Launch.prio (l : Launch) : Nat := l.fld 0x15 1 % 8
/-- DEPTH of a launch. -/
def Launch.depth (l : Launch) : Nat := l.fld 0x15 1 / 16
/-- The queues of a launch. -/
def Launch.queues (l : Launch) : List Nat := numsFrom (l.fld 0x68 2) (l.fld 0x6A 2)
/-- The live launch that holds a queue. -/
def State.holder (s : State) (d q : Nat) : Option Launch :=
  (s.die d).sched.launches.find? fun l => l.fld 0x68 2 ≤ q && q < l.fld 0x68 2 + l.fld 0x6A 2
/-- A queue holds nothing to deliver: no record, or only records that an ended launch left before it (R42). -/
def State.queueEmpty (s : State) (d q : Nat) : Bool :=
  ((s.queueAt d q).count = 0 || (s.queueAt d q).stuck) && !((s.die d).sched.replays.any fun r => r.queue = q)
/-- The effective priority of a queue (R53). -/
def State.eprio (s : State) (d q : Nat) : Nat :=
  let base := match s.holder d q with | none => 0 | some l => l.prio
  if base = 0 then 0 else Nat.min 7 (base + (s.queueAt d q).aged)
/-- A context asleep in QPOP becomes Ready to retry it (R59). -/
def Ctx.wakePop (c : Ctx) : Ctx :=
  if c.st = .sleepQueue then { c with st := .ready, resume := c.sleepRec, sleepRec := none } else c
/-- Wakes the contexts of a launch that sleep on its queues: in compute supersteps, or always for ballast, or at a
crossing into compute (R20, R39, R59). -/
def State.wakeLaunch (s : State) (d : Nat) (l : Launch) (cross : Bool) : State :=
  if cross || l.prio = 0 || !s.exchange then s.modAll (l.ctxs.map (ctxIn d)) Ctx.wakePop else s
/-- Wakes the holder of a queue. -/
def State.wakeQueue (s : State) (d q : Nat) : State :=
  match s.holder d q with | none => s | some l => s.wakeLaunch d l false
/-- Appends a record to a queue with room (R252, R344). -/
def State.qAppend (s : State) (d q : Nat) (bs : List Byte) (owner : ParkOwner) : State :=
  let x := s.queueAt d q
  let s1 := s.dvaPut d (x.slotVa x.tail.toNat) bs owner
  let s2 := s1.modQueue d q fun y => { y with
    tail := y.tail + 1, since := if s.queueEmpty d q then s.nowCyc else y.since, aged := if s.queueEmpty d q then 0 else y.aged }
  s2.wakeQueue d q
/-- The park buffer takes the record that an append to a queue would write (R370), and no diagnostic packet holds the write
(R392, R393). -/
def State.pushRoom (s : State) (d q : Nat) : Bool :=
  let x := s.queueAt d q
  s.parkRoom d (s.parkNeed d (x.slotVa x.tail.toNat) 64) && !s.dvaHeld d (x.slotVa x.tail.toNat) 64 .write
/-- HEAD advances past a record (R343, R346). -/
def State.qAdvance (s : State) (d q : Nat) : State :=
  let s1 := s.modQueue d q fun y => { y with head := y.head + 1 }
  let y := s1.queueAt d q
  let s2 := if y.note = 1 && y.head = y.tail then s1.sendNote y.vec else s1
  if y.head = y.tail then s2 else s2.wakeQueue d q
/-- A queue that a template or an instruction of the die's job may name (R248); `push` for one to append to (R343). -/
def State.queueOk (s : State) (d q : Nat) (push : Bool) : Bool :=
  q < 1024 && (s.queueAt d q).held && (!push || ((s.queueAt d q).log2n ≠ 0 && (s.queueAt d q).prod))

/-! ### Levels, bindings and counters (R45 to R49) -/

/-- The levels of a launch: level, log2 of its group's size, binding kind and continuation template (R41, R45). -/
def Launch.levels (l : Launch) : List (Nat × Nat × Nat × Nat) :=
  (numsFrom 0 6).filterMap fun i =>
    if l.width i = 0 then none
    else some (i, l.total - l.sumTo (i + 1), l.fld 0x0E 2 / 4 ^ i % 4, l.fld (0x38 + 8 * i) 8)
/-- The place of a context for a binding kind: its cluster, its core or itself (R47). -/
def CtxId.placeOf (g : CtxId) (kind : Nat) : Nat := if kind = 1 then g.core / 96 else if kind = 2 then g.core else g.inDie
/-- The binding of a group. -/
def DieSched.bound (x : DieSched) (launch level group : Nat) : Option Binding :=
  x.binds.find? fun b => b.launch = launch && b.level = level && b.group = group
/-- The first identifier after a group of the launch that holds `w` and is bound to a place without `g` (R47, R51). -/
def DieSched.boundPast (x : DieSched) (l : Launch) (g : CtxId) (w : Nat) : Option Nat :=
  l.levels.findSome? fun v =>
    match x.bound l.id v.1 (w / 2 ^ v.2.1) with
    | none => none
    | some b => if b.place = g.placeOf b.kind then none else some ((w / 2 ^ v.2.1 + 1) * 2 ^ v.2.1)
/-- Counters in use: of the system area, or of a launch's overflow page. -/
def DieSched.counters (x : DieSched) (ovf : Option Nat) : Nat :=
  let ofPage := fun (l : Nat) (o : Bool) => match ovf with | none => !o | some k => o && l = k
  (x.groups.filter fun c => ofPage c.launch c.overflow).length +
    (x.ready.filter fun r => match r with | .cont _ _ l o => ofPage l o | .task _ => false).length
/-- Counters that the last page of a launch's overflow area has room for (R49, R240). -/
def Launch.pageRoom (l : Launch) : Nat := if l.fld 0x30 8 ≥ 65536 then 4096 else 0
/-- The groups that identifier `w` would open: level and group. -/
def DieSched.opens (x : DieSched) (l : Launch) (w : Nat) : List (Nat × Nat) :=
  l.levels.filterMap fun v =>
    if v.2.2.2 = 0 || (x.groups.any fun c => c.launch = l.id && c.level = v.1 && c.group = w / 2 ^ v.2.1) then none
    else some (v.1, w / 2 ^ v.2.1)
/-- Whether there is room for the counters that `w` needs (R49). -/
def DieSched.counterRoom (x : DieSched) (l : Launch) (w : Nat) : Bool :=
  let n := (x.opens l w).length
  n = 0 || n ≤ (Config.counterRoom - x.counters none) + (l.pageRoom - x.counters (some l.id))
/-- Opens a group's counter. -/
def DieSched.openGroup (l : Launch) (x : DieSched) (v : Nat × Nat) : DieSched :=
  { x with
    groups := x.groups ++ [{
      launch := l.id, level := v.1, group := v.2, retired := 0, overflow := x.counters none ≥ Config.counterRoom }] }
/-- Binds the groups of identifier `w` to the place of `g` (R47). -/
def DieSched.bindAll (x : DieSched) (l : Launch) (g : CtxId) (w : Nat) : DieSched :=
  l.levels.foldl (fun x v =>
    if v.2.2.1 = 0 || (x.bound l.id v.1 (w / 2 ^ v.2.1)).isSome then x
    else { x with
      binds := x.binds ++ [{
        launch := l.id, level := v.1, group := w / 2 ^ v.2.1, kind := v.2.2.1, place := g.placeOf v.2.2.1
        retired := 0 }] }) x

/-! ### Continuations (R49) -/

/-- Pushes a continuation, or keeps it at the ready queue's tail. -/
def State.pushCont (s : State) (d tmpl first launch : Nat) (ovf : Bool) : State :=
  if s.parkedMeets d tmpl 64 then s.readyPush d (.cont tmpl first launch ovf)
  else match s.dvaGet d tmpl 64 with
  | .error _ => s.raiseJob d .taskfault (some 0xFFFFFFFE) (some (BitVec.ofNat 64 tmpl))
  | .ok bs =>
    let q := leNat ((bs.drop 0x1E).take 2)
    let s := s.dvaScrub d tmpl 64 true
    if !s.queueOk d q true then s.raiseJob d .taskfault (some 0xFFFFFFFF) (some (BitVec.ofNat 64 q))
    else if (s.queueAt d q).room = 0 || !s.pushRoom d q then s.readyPush d (.cont tmpl first launch ovf)
    else s.qAppend d q (leBytes 8 first ++ leBytes 8 1 ++ (bs.drop 16).take 16 ++ List.replicate 32 0) .sched
/-- One item of a group retires at one level: its counter and its binding (R47, R49). -/
def State.retireLevel (l : Launch) (w d : Nat) (s : State) (v : Nat × Nat × Nat × Nat) : State :=
  let grp := w / 2 ^ v.2.1
  let x := (s.die d).sched
  let ctr := fun (c : GroupCtr) => c.launch = l.id && c.level = v.1 && c.group = grp
  let bnd := fun (b : Binding) => b.launch = l.id && b.level = v.1 && b.group = grp
  let s1 := match x.binds.find? bnd with
    | none => s
    | some b =>
      if b.retired + 1 ≥ 2 ^ v.2.1 then
        (s.modSched d fun y => { y with binds := dropWhere y.binds bnd }).wakeLaunch d l false
      else s.modSched d fun y => { y with binds := mapWhere y.binds bnd fun b => { b with retired := b.retired + 1 } }
  match x.groups.find? ctr with
  | none => s1
  | some c =>
    if c.retired + 1 ≥ 2 ^ v.2.1 then
      (s1.modSched d fun y => { y with groups := dropWhere y.groups ctr }).pushCont d v.2.2.2 (grp * 2 ^ v.2.1) l.id
        c.overflow
    else s1.modSched d fun y => { y with groups := mapWhere y.groups ctr fun c => { c with retired := c.retired + 1 } }

/-! ### Retirement (R48, R51, R62, R254) -/

/-- The open record that an item came from. -/
def DieSched.recOf (x : DieSched) (q i : Nat) : Option OpenRec := x.recs.find? fun r => r.queue = q && r.index.toNat = i
/-- One identifier of a record retires (R51, R62). -/
def State.retireRec (s : State) (d q i : Nat) : State :=
  match (s.die d).sched.recOf q i with
  | none => s
  | some r =>
    let mine := fun (y : OpenRec) => y.queue = q && y.index.toNat = i
    let last := r.retired + 1 ≥ r.widn
    let s1 := s.modSched d fun x => { x with
      recs := if last then dropWhere x.recs mine else mapWhere x.recs mine fun y => { y with retired := y.retired + 1 } }
    match r.task with
    | some t => if last then s1.taskComplete d t else s1
    | none => if r.peritem || last then s1.taskDec d r.parent.toNat else s1
/-- Performs one staged operation (R254). -/
def State.logOp (s : State) (o : LogOp) : State :=
  let d := s.cur.die
  match o with
  | .ared v x => match s.aredDo v.toNat x.toNat with | .ok s1 => s1 | .error _ => s
  | .tdec t => s.taskDec d t
  | .qpush q r => if (s.queueAt d q).room = 0 then s else s.qAppend d q (leBytes 64 r.toNat) (.cleat s.cur.inDie)
  | .arm t c =>
    (s.modSched d fun x => { x with reserved := dropWhere x.reserved fun y => y = t }).taskArm d t c.toNat
/-- A staged operation cannot perform yet: a push finds no room, an overflow word or a ring waits on a swap, or a release
waits for the context's parked writes (R254, R278, R279, R370). -/
def State.logStuck (s : State) (o : LogOp) : Bool :=
  match o with
  | .ared v _ => s.cleatParked (aredKey v.toNat s)
  | .qpush q _ => s.myParked || (s.queueAt s.cur.die q).room = 0 || !s.pushRoom s.cur.die q
  | .tdec _ => s.myParked
  | .arm _ _ => s.myParked
/-- Performs staged operations in order, up to the first that cannot perform yet; what is left (R254). -/
def State.runLog (s : State) : List LogOp → State × List LogOp
  | [] => (s, [])
  | o :: r => if s.logStuck o then (s, o :: r) else (s.logOp o).runLog r
/-- Performs the current context's node log as far as it goes. -/
def State.performLog (s : State) : State :=
  match s.cx.item with
  | none => s
  | some it =>
    let r := s.runLog it.log
    { r.1 with cx := { r.1.cx with item := some { it with log := r.2 } } }
/-- The current context's node log holds operations. -/
def State.logLeft (s : State) : Bool := match s.cx.item with | none => false | some it => !it.log.isEmpty
/-- A staged reduction whose word cannot be read: the retiring instruction meets its trap (R241, R254, log 43). -/
def State.logBad (s : State) : Option Trap :=
  match s.cx.item with
  | none => none
  | some it => it.log.findSome? fun o => match o with
    | .ared v x => (match s.aredDo v.toNat x.toNat with | .error t => some t | .ok _ => none)
    | .tdec _ => none
    | .qpush _ _ => none
    | .arm _ _ => none
/-- A retiring bundle waits: for room for its staged pushes, with the operations before them performed, and for the
context's parked writes, which the retirement releases (R48, R254, R279, R370). -/
def State.retireBlocks (s : State) : Option (State × Wait) :=
  if s.cx.item.isNone then none
  else
    let s1 := s.performLog
    if s1.logLeft || s1.myParked then some (s1, .stall) else none
/-- A node that failed elsewhere has succeeded here: each core of another number on which it failed takes one event, and with
the second within 24 h, of either CLASS, is retired (R383). -/
def State.replayDone (s : State) (failed : List (Nat × Nat)) : State :=
  let d := s.cur.die
  (failed.filter fun x => x.1 ≠ s.cur.core).foldl (fun s x =>
    let r := s.strike d 4 x.1 2
    if r.2 then (r.1.logEvent d x.2 1 x.1 0).post (.coreOff d x.1) (some x.2) x.1 0 else r.1.logEvent d x.2 0 x.1 0) s
/-- Retires the item that the current context holds: its node log, its groups from the innermost level outward, its
record (R48, R255). -/
def State.retire (s : State) : State :=
  match s.cx.item with
  | none => s
  | some it =>
    let d := s.cur.die
    let s1 := (s.performLog.replayDone it.failed).nodeEnds s.cur
    let s2 := { s1 with cx := { s1.cx with item := none } }
    let s3 := match s2.myLaunch with
      | none => s2
      | some l => l.levels.reverse.foldl (State.retireLevel l it.wid.toNat d) s2
    s3.retireRec d it.queue it.index

/-! ### Delivery (R51, R52) -/

/-- The fields of a work record, where its range and DEPTH keep their limits (R50, R51). -/
def recordOk (l : Launch) (q : Nat) (i : BitVec 32) (task : Option Nat) (bs : List Byte) : Option OpenRec :=
  let fld := fun (o n : Nat) => leNat ((bs.drop o).take n)
  if fld 8 8 < 1 || fld 0 8 + fld 8 8 > 2 ^ l.total || fld 0x1C 1 > l.depth then none
  else some {
    queue := q, index := i, widlo := fld 0 8, widn := fld 8 8, arg := BitVec.ofNat 64 (fld 0x10 8)
    parent := BitVec.ofNat 32 (fld 0x18 4), depth := fld 0x1C 1, peritem := (fld 0x1D 1).testBit 0, task := task
    next := fld 0 8, extra := [], retired := 0 }
/-- The record at a queue's HEAD is in delivery. -/
def State.headRec (s : State) (d q : Nat) : Option OpenRec :=
  (s.die d).sched.recs.find? fun r =>
    r.queue = q && r.index = (s.queueAt d q).head && r.next - r.widlo + r.extra.length < r.widn
/-- The record at HEAD as it reads now, while its delivery has not begun; `none` where it breaks R50 or cannot be read
(R51, R345). -/
def State.peekRec (s : State) (l : Launch) (d q : Nat) : Option OpenRec :=
  let x := s.queueAt d q
  let i := x.head.toNat
  let task := ((s.die d).sched.links.find? fun k => k.1 = q && k.2.1 = i).map fun k => k.2.2
  match s.dvaGet d (x.slotVa i) 64 with | .error _ => none | .ok bs => recordOk l q x.head task bs
/-- The record that a queue delivers from: in delivery, or at HEAD. -/
def State.frontRec (s : State) (l : Launch) (d q : Nat) : Option OpenRec :=
  let x := s.queueAt d q
  if x.count = 0 || x.log2n = 0 || x.stuck then none
  else match s.headRec d q with | some r => some r | none => s.peekRec l d q
/-- The record at HEAD of a queue that delivers is about to be read, and its bytes wait: on the replay of what the Cleat or
the scheduler has parked there, or on a diagnostic packet (R309, R370, R393). -/
def State.headParked (s : State) (d q : Nat) : Bool :=
  let x := s.queueAt d q
  x.count ≠ 0 && x.log2n ≠ 0 && !x.stuck && (s.headRec d q).isNone && s.parkedMeets d (x.slotVa x.head.toNat) 64
/-- Skips the records at HEAD that break R50 or cannot be read (R51), as far as they can be read now. -/
def State.skipBad (l : Launch) (d : Nat) (s : State) (q : Nat) : Nat → State
  | 0 => s
  | fuel + 1 =>
    let x := s.queueAt d q
    if x.count = 0 || x.log2n = 0 || x.stuck || s.headParked d q || (s.frontRec l d q).isSome then s
    else
      let i := x.head.toNat
      let s0 := s.dvaScrub d (x.slotVa i) 64 true
      let s1 := s0.modSched d fun y => { y with links := dropWhere y.links fun k => k.1 = q && k.2.1 = i }
      ((s1.raiseJob d .widrange (some (BitVec.ofNat 64 q)) (some (BitVec.ofNat 64 i))).qAdvance d q).skipBad l d q fuel
/-- The lowest identifier of a record from `w` on that `g` may take (R51). -/
def DieSched.lowest (x : DieSched) (l : Launch) (g : CtxId) (r : OpenRec) (w : Nat) : Nat → Option Nat
  | 0 => none
  | fuel + 1 =>
    if w ≥ r.widlo + r.widn then none
    else if r.extra.contains w then x.lowest l g r (w + 1) fuel
    else match x.boundPast l g w with
      | some n => x.lowest l g r n fuel
      | none => some w
/-- What a QPOP takes: an item to be replayed, or an identifier of the record at HEAD; or the wait for that record's bytes. -/
inductive Pick
  | wait
  | replay (r : Replay)
  | fresh (r : OpenRec) (w : Nat)
  deriving DecidableEq, Repr
/-- What the current context may take from a queue: the replay list is served before the ring (R386). -/
def State.pickFrom (s : State) (l : Launch) (q : Nat) : Option Pick :=
  let d := s.cur.die
  let x := (s.die d).sched
  match x.replays.find? fun r => r.queue = q && (x.boundPast l s.cur r.wid.toNat).isNone with
  | some r => some (.replay r)
  | none =>
    if s.headParked d q then some .wait
    else match s.frontRec l d q with
    | none => none
    | some r => (x.lowest l s.cur r r.next (r.extra.length + x.binds.length + 2)).map fun w => .fresh r w
/-- The queues of a launch in the order of the round robin of the current context (R52). -/
def State.popOrder (s : State) (l : Launch) : List Nat :=
  (l.queues.filter fun q => q > s.cx.lastQ) ++ l.queues.filter fun q => q ≤ s.cx.lastQ
/-- Inserts a queue by its effective priority, after those of the same. -/
def insQueue (x : Nat × Nat) : List (Nat × Nat) → List (Nat × Nat)
  | [] => [x]
  | y :: ys => if y.2 < x.2 then x :: y :: ys else y :: insQueue x ys
/-- The queues of a launch with their effective priorities, highest first, in the order of the round robin among equals
(R52). -/
def State.popQueues (s : State) (l : Launch) : List (Nat × Nat) :=
  ((s.popOrder l).map fun q => (q, s.eprio s.cur.die q)).foldl (fun qs x => insQueue x qs) []
/-- What QPOP takes now, from the first queue that has something for the current context: the queue, its effective
priority and the item, with the broken records before it skipped (R51, R52). -/
def State.pickIn (s : State) (l : Launch) : List (Nat × Nat) → State × Option (Nat × Nat × Pick)
  | [] => (s, none)
  | q :: qs =>
    let s1 := s.skipBad l s.cur.die q.1 ((s.queueAt s.cur.die q.1).count + 1)
    match s1.pickFrom l q.1 with
    | some p => (s1, some (q.1, q.2, p))
    | none => s1.pickIn l qs
/-- What QPOP takes now. -/
def State.pick (s : State) (l : Launch) : State × Option (Nat × Nat × Pick) := s.pickIn l (s.popQueues l)
/-- A record after identifier `w` is delivered. -/
def OpenRec.deliver (r : OpenRec) (w : Nat) : OpenRec :=
  if w ≠ r.next then { r with extra := setIns r.extra w }
  else
    let next := (numsFrom (w + 1) (r.extra.length + 1)).find? fun x => !r.extra.contains x
    let n := next.getD (w + 1)
    { r with next := n, extra := r.extra.filter fun x => x > n }
/-- What delivery gives the current context (R51, R53, R56). -/
def Ctx.receive (c : Ctx) (q e : Nat) (it : Item) (arg : Dword) (depth : Nat) : Ctx :=
  { c with
    item := some it, prio := e, lastQ := q
    ctl := { c.ctl with wid := it.wid, warg := arg, wdep := BitVec.ofNat 64 depth, wdog := BitVec.ofNat 64 c.budget } }
/-- Keeps a record in delivery, from its first identifier on. -/
def DieSched.keepRec (x : DieSched) (r : OpenRec) : DieSched :=
  let same := fun (z : OpenRec) => z.queue = r.queue && z.index = r.index
  if x.recs.any same then { x with recs := mapWhere x.recs same fun _ => r }
  else { x with
    recs := x.recs ++ [r], links := dropWhere x.links fun k => k.1 = r.queue && k.2.1 = r.index.toNat }
/-- Delivers an item to the current context. -/
def State.deliver (s : State) (l : Launch) (k : Nat × Nat × Pick) (it : Item) : State :=
  let d := s.cur.die
  let s0 := s.modQueue d k.1 fun y => { y with aged := 0, since := s.nowCyc }
  match k.2.2 with
  | .wait => s
  | .replay r =>
    let s1 := s0.modSched d fun x => { x with replays := x.replays.erase r }
    { s1 with cx := s1.cx.receive k.1 k.2.1 { it with
        queue := k.1, index := r.index, wid := r.wid, replays := r.count, failed := r.failed } r.arg r.depth }
  | .fresh r w =>
    let r1 := r.deliver w
    let x := s.queueAt d k.1
    let s1 := (if (s.headRec d k.1).isNone then s0.dvaScrub d (x.slotVa x.head.toNat) 64 true else s0).modSched d fun x =>
      let y := x.keepRec r1
      (((y.opens l w).foldl (DieSched.openGroup l) y).bindAll l s.cur w)
    let s2 := if r1.next - r1.widlo + r1.extra.length ≥ r1.widn then s1.qAdvance d k.1 else s1
    { s2 with cx := s2.cx.receive k.1 k.2.1 { it with queue := k.1, index := r.index.toNat, wid := BitVec.ofNat 64 w, replays := 0 } r.arg r.depth }

/-! ### Node records (R253) -/

/-- The range of memory keys that region `k` of a node record names, if it is used; the error is the offset of a
field outside its limits. -/
def State.nodeRegion (s : State) (r : BitVec 512) (k : Nat) : Except Nat (Option (Nat × Nat)) :=
  let base := fieldAt r (128 * k) 64
  let len := fieldAt r (128 * k + 64) 32
  let low := base % 2 ^ 62
  let core := low / 524288 % 128
  let v := low / 4194304 % 256
  let d := s.cur.die
  let bad := low % 16 ≠ 0 || match base / 2 ^ 62 with
    | 0 => low / 2 ^ 57 ≠ 0
    | 1 => low / 2 ^ 26 ≠ 0 || (core > 95 && core ≠ 127)
    | 2 => low / 2 ^ 30 ≠ 0 || (v > 71 && v ≠ 255)
    | _ => true
  if len ≠ 0 && bad then .error (16 * k)
  else if len % 16 ≠ 0 then .error (16 * k + 8)
  else if fieldAt r (128 * k + 96) 32 ≠ 0 then .error (16 * k + 12)
  else if len = 0 then .ok none
  else match base / 2 ^ 62 with
    | 0 => .ok (some (devNodeKey d low, len))
    | 1 => .ok (some (spKey d (if core = 127 then s.cur.core else s.cur.core / 96 * 96 + core) (low % 524288), len))
    | _ => .ok (some (vaultKey d (if v = 255 then ownVault s.cur.core else v) (low % 4194304), len))
/-- The regions of a node record. -/
def State.nodeRegions (s : State) (r : BitVec 512) : List Nat → Except Nat (List (Nat × Nat))
  | [] => .ok []
  | k :: ks =>
    match s.nodeRegion r k, s.nodeRegions r ks with
    | .error o, _ => .error o
    | .ok _, .error o => .error o
    | .ok none, .ok rs => .ok rs
    | .ok (some x), .ok rs => .ok (x :: rs)
/-- The 64 bytes of a template, record or node record at an LS address (R248). -/
def State.own64 (s : State) (a : Nat) : Except Trap (BitVec 512) :=
  match s.ownKey a 64 with
  | none => .error (enTrap .access)
  | some k => if s.badRead k 64 then .error (enTrapKeep .eccUncorrectable) else .ok (BitVec.ofNat 512 (s.rd k 64))
/-- The check of QPOP's node record (R251). -/
def qpopCheck (a : Src) (s : State) : Option Trap :=
  let v := (s.cx.sval a).toNat
  if v = 0 then none
  else match s.own64 v with
    | .error t => some t
    | .ok r => match s.nodeRegions r [0, 1, 2, 3] with
      | .error o => some (enTrapAt .access o)
      | .ok _ => none
/-- The item that QPOP's operand describes, before its queue and identifier are known (R251). -/
def State.newItem (s : State) (a : Src) : Item :=
  let v := (s.cx.sval a).toNat
  let none_ : Item := { queue := 0, index := 0, wid := 0, node := none, regions := [], log := [], replays := 0, pc := s.cx.pc, failed := [] }
  if v = 0 then none_
  else match s.own64 v with
    | .error _ => none_
    | .ok r => match s.nodeRegions r [0, 1, 2, 3] with
      | .error _ => none_
      | .ok rs => { none_ with node := some (s.cx.sval a), regions := rs }
/-- How QPOP blocks: on a table rebuild, on its node log and its release, on parked records, on empty queues, or on
counter space (R49, R59, R254, R370, R387). -/
def qpopBlocks (s : State) : Option (State × Wait) :=
  match s.myLaunch with
  | none => some (s, .queue)
  | some l =>
    if s.myDie.sched.rebuilding then some (s, .stall)
    else match s.retireBlocks with
      | some w => some w
      | none =>
        let r := s.retire.pick l
        match r.2 with
        | none => some (r.1, .queue)
        | some (_, _, .wait) => some (r.1, .stall)
        | some (_, _, .replay _) => none
        | some (_, _, .fresh _ w) => if r.1.myDie.sched.counterRoom l w then none else some (r.1, .stall)
/-- The 64 bytes of a template or record that the current context's bundle read as it issued (R309). -/
def State.recAt (s : State) (a : Nat) : Except Trap (BitVec 512) :=
  match s.cx.tmpl with
  | some r => .ok r
  | none => s.own64 a
/-- A table rebuild, the release's parked writes, or another cause holds the instruction, which keeps the template or
record at the address it has read, if any (R279, R309, R387). -/
def cleatHolds (a : State → Option Nat) (held : State → Bool) (s : State) : Option (State × Wait) :=
  if s.myDie.sched.rebuilding || held s then
    some (match (a s).map s.recAt with
      | some (.ok r) => { s with cx := { s.cx with tmpl := some r } }
      | some (.error _) => s
      | none => s, .stall)
  else none
/-- A release that no node stages waits for the context's parked writes (R254, R279). -/
def State.releaseHeld (s : State) : Bool := !s.cx.inNode && s.myParked

/-! ### TSPAWN's template (R249) -/

/-- The fields marked – of each KIND, as offset and bytes (R60). -/
def zeroFields : Nat → List (Nat × Nat)
  | 0 => [(0x0C, 4), (0x10, 8), (0x18, 8)]
  | 1 => [(0x02, 2), (0x0C, 4), (0x28, 8), (0x30, 8), (0x38, 1), (0x39, 1)]
  | 2 => [(0x02, 2), (0x28, 8), (0x30, 8), (0x38, 1), (0x39, 1)]
  | 3 => [(0x02, 2), (0x0C, 4), (0x28, 8), (0x30, 8), (0x38, 1), (0x39, 1)]
  | _ => [(0x02, 2), (0x0C, 4), (0x10, 8), (0x18, 8), (0x20, 8), (0x28, 8), (0x30, 8), (0x38, 1), (0x39, 1)]
/-- An 8-aligned device virtual address (R60). -/
def wordVa (x : Nat) : Bool := x % 8 = 0 && x / 2 ^ 57 = 0
/-- KIND of a template or a task record: bits [3:0] of its byte (R60). -/
def taskKind (r : BitVec 512) : Nat := fieldAt r 0 4
/-- The field at an offset of a template breaks R249. Of BOUND a SWITCH has N, bits [4:0] (R60); the bits above, like
bits [7:4] of the byte of KIND, are no field and are ignored (DEDUCED, log 44). -/
def State.tmplBad (s : State) (r : BitVec 512) (o : Nat) : Bool :=
  let k := taskKind r
  ((zeroFields k).any fun z => z.1 = o && fieldAt r (8 * z.1) (8 * z.2) ≠ 0) ||
    (match o with
    | 0 => k > 4
    | 2 => k = 0 && !s.queueOk s.cur.die (fieldAt r 16 16) true
    | 8 => let p := fieldAt r 64 32; p ≥ 65536 && p ≠ noTask
    | 0x0C => k = 2 && fieldAt r 96 32 = 0
    | 0x10 => (k = 1 || k = 2 || k = 3) && !wordVa (fieldAt r 128 64)
    | 0x18 => k = 3 && (fieldAt r 192 5 = 0 || fieldAt r 192 5 > 16)
    | 0x20 => k = 3 && !wordVa (fieldAt r 256 64)
    | _ => false)
/-- The check of TSPAWN: its template, its count, and room in a node's log when a record would be taken (R249, R254). -/
def tspawnCheck (a : Src) (b : EnB) (s : State) : Option Trap :=
  match s.recAt (s.cx.sval a).toNat with
  | .error t => some t
  | .ok r =>
    match [0, 2, 8, 0x0C, 0x10, 0x18, 0x20, 0x28, 0x30, 0x38, 0x39].find? (s.tmplBad r) with
    | some o => some (enTrapAt .access o)
    | none =>
      if (s.cx.enval b).toNat / 2 ^ 32 ≠ 0 then some (enTrap .access)
      else if s.cx.logFull && !(taskKind r = 0 && s.cx.ctl.wdep.toNat + 1 > (s.myLaunch.map Launch.depth).getD 0) &&
        (s.freeTask s.cur.die 0 65536).isSome then some (enTrapAt .access 32)
      else none
/-- TSPAWN in the Cleat: the state and the index or status (R249, R254). -/
def State.spawn (s : State) (r : BitVec 512) (c : Nat) : State × Dword :=
  let d := s.cur.die
  let work := taskKind r = 0
  let dep := s.cx.ctl.wdep.toNat + 1
  if work && dep > (s.myLaunch.map Launch.depth).getD 0 then (s, statusWord 2)
  else match s.freeTask d 0 65536 with
    | none => (s, statusWord 1)
    | some t =>
      let s1 := ((s.wr (taskKey d t 0) 64 r.toNat).taskPut d t 1 1 0).taskPut d t 4 4 c
      let s2 := if work then s1.taskPut d t 0x38 1 dep else s1
      if s.cx.inNode then
        ((s2.modSched d fun x => { x with reserved := x.reserved ++ [t] }).stage (.arm t (BitVec.ofNat 32 c)),
          BitVec.ofNat 64 t)
      else (s2.taskArm d t c, BitVec.ofNat 64 t)

/-! ### The scheduler (R61, R53) -/

/-- Serves a READY WORK task (R61, R62). -/
def State.serveWork (s : State) (d t : Nat) : State :=
  let q := s.taskFld d t 2 2
  let x := s.queueAt d q
  if x.log2n = 0 || !x.held then s.taskFault d t
  else if x.room = 0 then s.readyPush d (.task t)
  else
    let bs := s.bytes (taskKey d t 0x20) 24 ++ leBytes 4 noTask ++ s.bytes (taskKey d t 0x38) 2 ++ List.replicate 34 0
    ((s.taskPut d t 1 1 3).modSched d fun y => { y with links := y.links ++ [(q, x.tail.toNat, t)] }).qAppend d q bs .sched
/-- Serves a READY task (R61). A LOOP is ARMED with its count again before BODY is decremented, so that a LOOP whose
BODY is its own index decrements the count it has just been given (DEDUCED, log 44). -/
def State.serveTask (s : State) (d t : Nat) : State :=
  let rdv := fun (va n : Nat) => match s.dvaGet d va n with | .ok bs => some (leNat bs) | .error _ => none
  if s.taskState d t ≠ 2 then s
  else match s.taskFld d t 0 1 % 16 with
    | 0 => s.serveWork d t
    | 4 => s.taskComplete d t
    | k =>
      let va := s.taskFld d t 0x10 8
      match rdv va 8 with
      | none => s.taskFault d t
      | some w =>
        let s := s.dvaScrub d va 8 true
        let bound := s.taskFld d t 0x18 8
        if k = 3 then
          let ea := s.taskFld d t 0x20 8 + 4 * Nat.min w (bound % 32 - 1)
          match rdv ea 4 with
          | none => s.taskFault d t
          | some e => ((s.dvaScrub d ea 4 true).taskDec d e).taskComplete d t
        else if w < bound then
          if k = 1 then (s.taskDec d (s.taskFld d t 0x20 4)).taskComplete d t
          else ((s.taskPut d t 4 4 (s.taskFld d t 0x0C 4)).taskPut d t 1 1 1).taskDec d (s.taskFld d t 0x20 4)
        else (s.taskDec d (s.taskFld d t 0x24 4)).taskComplete d t
/-- Serving an entry of the ready queue waits on a swap: for the replay of what the Cleat or the scheduler wrote where it
reads, or for an entry of the park buffer (R370). -/
def State.serveHeld (s : State) (d : Nat) (r : ReadyItem) : Bool :=
  match r with
  | .cont tmpl _ _ _ => s.parkedMeets d tmpl 64 ||
    (match s.dvaGet d tmpl 64 with | .error _ => false | .ok bs => !s.pushRoom d (leNat ((bs.drop 0x1E).take 2)))
  | .task t =>
    match s.taskFld d t 0 1 % 16 with
    | 0 => !s.pushRoom d (s.taskFld d t 2 2)
    | 4 => false
    | k => s.parkedMeets d (s.taskFld d t 0x10 8) 8 || (k = 3 && s.parkedMeets d (s.taskFld d t 0x20 8) 64)
/-- TASK_SERVE (R61, R49): the scheduler serves the oldest entry of the ready queue -/
def execTaskServe (die : Nat) (s : State) : Host.Outcome State Fault Refusal :=
  .next (match (s.die die).sched.ready with
    | [] => s
    | r :: rs =>
      if s.serveHeld die r then s else
      let s1 := s.modSched die fun x => { x with ready := rs }
      match r with
      | .task t => s1.serveTask die t
      | .cont tmpl first l o => s1.pushCont die tmpl first l o)
/-- QUEUE_AGEING (R53): a queue that waited 2^20 cycles for a pop rises one level -/
def execQueueAgeing (die queue : Nat) (s : State) : Host.Outcome State Fault Refusal :=
  .next (
    let x := s.queueAt die queue
    let base := match s.holder die queue with | none => 0 | some l => l.prio
    if s.queueEmpty die queue || base = 0 || base + x.aged ≥ 7 || s.nowCyc < x.since + 1048576 * (x.aged + 1) then s
    else s.modQueue die queue fun y => { y with aged := y.aged + 1 })


/-- TSPAWN (R249) -/
def actTspawn (d : Dst) (a : Src) (b : EnB) : Syl :=
  { slot := .en, latches := latchesOf [a] ++ b.latches, dest := d.map fun n => (.s, n.val), phase := phaseCompute
    check := tspawnCheck a b
    blocks := cleatHolds (fun s => some (s.cx.sval a).toNat) State.releaseHeld
    orders := fun s => !s.cx.inNode
    perform := fun e s =>
      match e.pre.recAt (e.pre.cx.sval a).toNat with
      | .error t => .error t
      | .ok r =>
        let x := s.spawn r ((e.pre.cx.enval b).toNat % 2 ^ 32)
        .ok { st := { x.1 with cx := x.1.cx.outS 7 d x.2 }, post := some .offer } }
/-- TSPAWN, alone in its bundle. -/
def execTspawn (d : Dst) (a : Src) (b : EnB) (s : State) : Host.Outcome State Fault Refusal :=
  issueOne (actTspawn d a b) s

/-- TDEC (R250): staged in a replayable node (R254) -/
def actTdec (a : Src) : Syl :=
  { slot := .en, latches := latchesOf [a], phase := phaseCompute
    check := fun s =>
      let t := (s.cx.sval a).toNat % 2 ^ 32
      if t = noTask then none
      else if t ≥ 65536 then some (enTrap .access)
      else if s.cx.logFull then some (enTrapAt .access 32)
      else none
    blocks := cleatHolds (fun _ => none) State.releaseHeld
    orders := fun s => !s.cx.inNode
    perform := fun e s =>
      let t := (e.pre.cx.sval a).toNat % 2 ^ 32
      .ok { st := if t = noTask then s else if s.cx.inNode then s.stage (.tdec t) else s.taskDec s.cur.die t } }
/-- TDEC, alone in its bundle. -/
def execTdec (a : Src) (s : State) : Host.Outcome State Fault Refusal :=
  issueOne (actTdec a) s

/-- TDONE (R255) -/
def actTdone : Syl :=
  { slot := .en, phase := phaseCompute, check := State.logBad, blocks := State.retireBlocks, orders := fun _ => true
    perform := fun _ s => .ok { st := s.retire } }
/-- TDONE, alone in its bundle. -/
def execTdone (s : State) : Host.Outcome State Fault Refusal :=
  issueOne actTdone s

/-- QPOP (R251) -/
def actQpop (d : Dst) (a : Src) : Syl :=
  { slot := .en, latches := latchesOf [a], dest := d.map fun n => (.s, n.val), phase := phaseVector
    check := fun s => match qpopCheck a s with | some t => some t | none => s.logBad
    blocks := qpopBlocks
    orders := fun _ => true
    perform := fun e s =>
      match s.myLaunch with
      | none => .ok { st := s }
      | some l =>
        let r := s.retire.pick l
        match r.2 with
        | none => .ok { st := r.1 }
        | some k =>
          let s2 := r.1.deliver l k (e.pre.newItem a)
          .ok { st := { s2 with cx := s2.cx.outS 7 d s2.cx.ctl.wid }, post := some .offer } }
/-- QPOP, alone in its bundle. -/
def execQpop (d : Dst) (a : Src) (s : State) : Host.Outcome State Fault Refusal :=
  issueOne (actQpop d a) s

/-- QPUSH (R252): staged in a replayable node (R254) -/
def actQpush (d : Dst) (a : Src) (b : EnB) : Syl :=
  { slot := .en, latches := latchesOf [a] ++ b.latches, dest := d.map fun n => (.s, n.val), phase := phaseCompute
    check := fun s =>
      if !s.queueOk s.cur.die (s.cx.sval a).toNat true then some (enTrap .access)
      else match s.recAt (s.cx.enval b).toNat with
        | .error t => some t
        | .ok _ => if s.cx.logFull then some (enTrapAt .access 32) else none
    orders := fun s => !s.cx.inNode
    blocks := cleatHolds (fun s => some (s.cx.enval b).toNat) fun s =>
      !s.cx.inNode && (s.myParked || !s.pushRoom s.cur.die (s.cx.sval a).toNat)
    perform := fun e s =>
      let q := (e.pre.cx.sval a).toNat
      match e.pre.recAt (e.pre.cx.enval b).toNat with
      | .error t => .error t
      | .ok r =>
        let x : State × Dword :=
          if s.cx.inNode then (s.stage (.qpush q r), 0)
          else if (s.queueAt s.cur.die q).room = 0 then (s, statusWord 4)
          else (s.qAppend s.cur.die q (leBytes 64 r.toNat) (.cleat s.cur.inDie), 0)
        .ok { st := { x.1 with cx := x.1.cx.outS 7 d x.2 }, post := some .offer } }
/-- QPUSH, alone in its bundle. -/
def execQpush (d : Dst) (a : Src) (b : EnB) (s : State) : Host.Outcome State Fault Refusal :=
  issueOne (actQpush d a b) s

/-- The status word of a queue (R252). -/
def State.qstat (s : State) (d q : Nat) : Dword :=
  let base := match s.holder d q with | none => 0 | some l => l.prio
  let sleeps : Bool := match s.holder d q with
    | none => false
    | some l => l.ctxs.any fun n => (s.ctx (ctxIn d n)).st = .sleepQueue
  BitVec.ofNat 64 ((s.queueAt d q).count + 2 ^ 32 * base + 2 ^ 35 * s.eprio d q + (if sleeps then 2 ^ 38 else 0))

/-- QSTAT (R252) -/
def actQstat (d : Dst) (a : Src) : Syl :=
  { slot := .en, latches := latchesOf [a], dest := d.map fun n => (.s, n.val), phase := phaseCompute
    check := fun s =>
      if s.cx.inNode || !s.queueOk s.cur.die (s.cx.sval a).toNat false then some (enTrap .access) else none
    blocks := cleatHolds (fun _ => none) fun _ => false
    perform := fun e s => .ok {
      st := { s with cx := s.cx.outS 7 d (s.qstat s.cur.die (e.pre.cx.sval a).toNat) }
      post := some .offer } }
/-- QSTAT, alone in its bundle. -/
def execQstat (d : Dst) (a : Src) (s : State) : Host.Outcome State Fault Refusal :=
  issueOne (actQstat d a) s

end Sys2Proof.Machine
end

