-- ==== Sys2Proof/Machine/Phase.lean ====
section
/-! DEFINITION. The Halyard: arrival of a die, the crossing of a boundary, the straggler timer and HY_CTL (R16 to R40,
R294). -/

namespace Sys2Proof.Machine

/-! ### Arrival (R21, R38, R294) -/

/-- The next boundary. -/
def State.nextBoundary (s : State) : Nat := s.hy.phc.toNat + 1
/-- A context does not hold back arrival: it is no member, or idle in the sense of R21. -/
def Ctx.rests (c : Ctx) : Bool :=
  c.ballast.isSome ||
    match c.st with
    | .ready => false | .running => false | .stalled => false
    | .idle => true | .sleepQueue => true | .sleepBoundary => true | .frozen => true | .suspended => true
/-- A transfer gates boundary `n`: it was issued without .carry, or is due by then (R21, R27). -/
def gates (carry : Option Nat) (phase n : Nat) : Bool := carry.isNone || phase + 2 ≤ n
/-- A transfer that die `d` issued still gates boundary `n`, or one due there has not landed at `d` (R21, R30). -/
def State.owes (s : State) (d n : Nat) : Bool :=
  let x := (s.die d).xf
  (x.copies.any fun c => !c.ended && gates c.carry c.phase n) || (x.rputs.any fun r => gates r.carry r.phase n) ||
    (x.rflags.any fun r => gates r.carry r.phase n) || (x.halos.any fun h => !h.ended && gates h.carry h.phase n) ||
    (x.colls.any fun c => !c.ended && gates c.carry c.phase n) ||
    x.windows.any fun w => w.dst && w.boundary ≤ n && s.dieAlive (w.owner % 8)
/-- The job of the domain has made a launch on some die: none crosses before, so that ctl.phc is 0 at the first (R16). -/
def State.hasLaunched (s : State) : Bool := s.members.any fun d => (s.die d).launched
/-- Every condition of R21 but the deadlines holds at a die. -/
def State.mayArrive (s : State) (d : Nat) : Bool :=
  (s.die d).job.isSome && s.dieAlive d && s.hasLaunched && !s.hy.frozen && ((s.placedOn d).all fun g => (s.ctx g).rests) &&
    !s.owes d s.nextBoundary
/-- The contexts of a die whose deadline is the next boundary, unmet (R38). -/
def State.overdue (s : State) (d : Nat) : List CtxId :=
  (s.placedOn d).filter fun g =>
    let c := s.ctx g
    (c.st = .sleepQueue || c.st = .sleepBoundary) && c.ctl.rmv < c.ctl.rmp &&
      match c.deadline with | none => false | some n => n ≤ s.nextBoundary
/-- A context is suspended; one that slept in QPOP will issue it again (R38, R59). -/
def Ctx.suspend (c : Ctx) : Ctx :=
  { c with
    st := .suspended, deadline := none
    resume := if c.st = .sleepQueue then c.sleepRec else c.resume
    sleepRec := if c.st = .sleepQueue then none else c.sleepRec }
/-- Suspends a context: the job status and vector 2 tell it (R38, R336, R379). -/
def State.suspendCtx (s : State) (g : CtxId) : State :=
  ((s.modCtx g Ctx.suspend).raiseJob g.die .suspended (some (BitVec.ofNat 64 g.inDie)) none).sendVec 2
/-- Collectives of this superstep that die `d` belongs to and did not issue abort (R294). -/
def State.abortMissing (s : State) (d : Nat) : State :=
  let cs := s.liveDies.flatMap fun x => (s.die x).xf.colls.filter fun c =>
    c.phase = s.hy.phc.toNat && c.group.contains d && (s.collOp d c.phase c.tag).isNone && !c.aborted && !c.ended
  cs.foldl (fun s c => s.abortColl c 2 d) s
/-- A die has arrived: the straggler timer starts with the first (R31). -/
def State.arrive (s : State) (d : Nat) : State :=
  let s1 := { s with hy := { s.hy with
    timer := if s.hy.arrived = 0 then some 0 else s.hy.timer, arrived := s.hy.arrived ||| (1 <<< d) } }
  (s1.modDie d fun x => { x with arrivedAt := s.nowUs }).abortMissing d
/-- DIE_ARRIVE (R21): a die that meets the conditions suspends the contexts whose deadline is unmet, and arrives -/
def execDieArrive (die : Nat) (s : State) : Host.Outcome State Fault Refusal :=
  .next (
    if die ≥ 8 || s.hy.arrived.getLsbD die || !s.mayArrive die then s
    else ((s.overdue die).foldl State.suspendCtx s).arrive die)

/-! ### Crossing (R17, R22, R33, R35, R59) -/

/-- A context leaves the bundle of its PHEND: it goes on at the bundle after it, or at its pending target (R20, R353). -/
def Ctx.leavePhend (c : Ctx) : Ctx :=
  match c.sleepRec with
  | none => c
  | some r => { c.advance r.rpc r.words.length r.pend with sleepRec := none }
/-- What the crossing does to a context; `mark` at a marked boundary (R35, R56, R59). -/
def Ctx.cross (mark : Bool) (c : Ctx) : Ctx :=
  if c.ballast.isSome then c
  else match c.st with
    | .sleepBoundary =>
      let c1 := c.leavePhend
      { c1 with st := if mark then .frozen else .ready, woken := true, ctl := { c1.ctl with wdog := BitVec.ofNat 64 c.budget } }
    | .sleepQueue =>
      let r : Resume := c.sleepRec.getD { rpc := c.pc, words := [], perf := 0, pend := none }
      if mark then { c with st := .frozen, sleepRec := some r } else c
    | .suspended => c.leavePhend
    | _ => c
/-- The full/empty granules of a window's destination. -/
def Window.granules (w : Window) : List Nat :=
  if w.dst then w.ranges.flatMap fun r => if hasGranule r.1 then granulesOf r.1 r.2 else [] else []
/-- The windows of lost dies' transfers at die `d` close, their granules full (R238). -/
def State.closeLost (s : State) (d : Nat) : State :=
  let lost := fun (w : Window) => !s.dieAlive (w.owner % 8)
  (s.setFull (((s.die d).xf.windows.filter lost).flatMap Window.granules)).modXf d fun x => { x with
    windows := dropWhere x.windows lost }
/-- What the crossing does to a die's transfers: handles of ended copies and collectives are freed (R230, R297), and the
closed carry destinations of the superstep before are forgotten, but for those with a granule still empty (R36, R77). -/
def State.crossDie (s : State) (d : Nat) : State :=
  ((((s.countWait d).closeLost d).crossColls d).modXf d fun x => { x with
    copies := dropWhere x.copies (·.ended), early := [], former := x.former.filter fun w =>
      s.hy.phc.toNat ≤ w.boundary || w.granules.any fun g => !s.full g })
/-- The launches of a die with a record waiting wake as a compute superstep begins (R20, R59, R344). -/
def State.wakeAll (s : State) (d : Nat) : State :=
  ((s.die d).sched.launches.filter fun l => l.queues.any fun q => !s.queueEmpty d q).foldl (fun s l =>
    s.wakeLaunch d l true) s
/-- Every carry transfer of the domain has landed (R35). -/
def State.carriesLanded (s : State) : Bool :=
  s.domain.all fun d => (s.die d).xf.windows.all fun w => !s.dieAlive (w.owner % 8)
/-- The next boundary is the marked one. -/
def State.marked (s : State) : Bool := s.hy.preen && s.hy.target.toNat = s.nextBoundary
/-- Every die of the domain has arrived and still meets the conditions, and no Cleat write, which the crossing would order,
is parked (R20, R22, R370). -/
def State.canCross (s : State) : Bool :=
  !s.domain.isEmpty && s.hy.pkgs.all (· = s.pkg) && (!s.marked || s.carriesLanded) &&
    s.domain.all fun d =>
      s.hy.arrived.getLsbD d && s.mayArrive d && (s.overdue d).isEmpty && !s.parkedBy d ParkOwner.isCleat
/-- The crossing. -/
def State.cross (s : State) : State :=
  let mark := s.marked
  let s1 := { s with
    clocks := []
    unseen := s.unseen.filter fun u => !s.domain.contains u.die
    hy := { s.hy with
      phc := s.hy.phc + 1, arrived := 0, timer := none, extended := false, expiries := 0
      preen := s.hy.preen && !mark, frozen := mark } }
  let s2 := (s.members.filter s.dieGone).foldl State.crossColls (s.domain.foldl State.crossDie s1)
  let s3 := s2.modAll (s2.placed.filter fun g => s.domain.contains g.die) (Ctx.cross mark)
  let s4 := if s3.exchange then s3 else s.domain.foldl State.wakeAll s3
  if mark then s4.sendVec 1 else s4
/-- DOMAIN_CROSS (R22): every die has arrived; the counter goes on by one and members may issue, or freeze at a marked
boundary; past the last count the job is faulted instead (R17) -/
def execDomainCross (s : State) : Host.Outcome State Fault Refusal :=
  .next (
    if !s.canCross then s
    else if s.hy.phc = BitVec.allOnes 64 then s.faultJob
    else s.cross)

/-! ### Straggler timer (R31, R32) -/

/-- STRAGGLER_TIMEOUT (R31): the timer reaches the time-out; STRAG, vector 1, and the policy as soon as a Belvedere
acts (R32, R376) -/
def execStragglerTimeout (s : State) : Host.Outcome State Fault Refusal :=
  .next (match s.hy.timer with
    | none => s
    | some t =>
      if t < s.hy.tmo then s
      else
        let s1 := if s.hy.strag then s else s.sendVec 1
        let s2 := { s1 with hy := { s1.hy with strag := true, timer := none, expiries := s1.hy.expiries + 1 } }
        let s3 := s2.lateDies.foldl (fun s d => s.count d 0xE00 1) s2
        if s3.acting.isSome then s3.applyPolicy else s3)

/-! ### HY_CTL (R34, R40) -/

/-- A write of HY_CTL: the time-out kept within 1 to 10,000,000 µs, the policy, and PREEN, which a target not above
HY_PHC turns into PREMISS (R34, R40). -/
def State.setHyCtl (s : State) (v : Dword) : State :=
  let t := v.toNat % 16777216
  let miss := v.getLsbD 25 && s.hy.target ≤ s.hy.phc
  let s1 := { s with hy := { s.hy with
    tmo := if t = 0 then 1 else Nat.min t 10000000, extend := v.getLsbD 24
    preen := v.getLsbD 25 && !miss, premiss := s.hy.premiss || miss } }
  if miss && !s.hy.premiss then s1.sendVec 1 else s1
/-- HY_CTL_WRITE (R34, R40) -/
def execHyCtlWrite (v : Dword) (s : State) : Host.Outcome State Fault Refusal := .next (s.settleHost.setHyCtl v)

end Sys2Proof.Machine
end

