-- ==== Sys2Proof/Machine/Secure.lean ====
section
/-! DEFINITION. Leral links, boot and attestation: flits and packets, port bring-up and keys, power-good, firmware
activation and the SPDM responder (R411 to R423). -/

namespace Sys2Proof.Machine

/-! ### Flits and packets (R411, R412, R419) -/

/-- The port is up and in the plan. -/
def State.portUp (s : State) (d p : Nat) : Bool :=
  d < 8 && p < 6 && s.dieAlive d && s.portMode d p ≠ 0 && (s.portAt d p).st = 3
/-- Counts flits re-sent, up to 0xFFFF. -/
def Port.resend (n : Nat) (x : Port) : Port := { x with resends := Nat.min 0xFFFF (x.resends + n) }
/-- A second failure is lasting: it is logged and the port's retirement reported (R382, R411, R419). -/
def State.portFails (s : State) (d p cls : Nat) : State :=
  (s.logEvent d cls 1 p 0).post (.portMode d p 0) (some cls) p 0
/-- LINK_FLIT_RECEIVE (R411): the next flit of the sequence joins those received; one whose CRC fails is re-sent once, and
holds back the flits behind it; its second failure retires the port -/
def execLinkFlitReceive (die port seq : Nat) (flit : Flit) (s : State) : Host.Outcome State Fault Refusal :=
  .next (
    let x := s.portAt die port
    if !s.portUp die port || seq ≠ x.seq then s
    else if Config.flitCrc seq flit.data = flit.crc then
      s.modPort die port fun x => { x with seq := x.seq + 1, badFlit := false, rx := x.rx ++ [flit.data] }
    else if x.badFlit then s.portFails die port 10
    else (s.modPort die port fun x => { x.resend 1 with badFlit := true }).logEvent die 10 0 port 0)
/-- The place that a packet's target address names at a die of the package, in the form of RPUT's DST field (R232). -/
def packetPlace (d a n : Nat) : Option Place := putDst d a n
/-- A packet at its destination: a face waits for the Shroud, another request writes its bytes as an engine does; one to a
lost die counts as acknowledged without landing (R236, R238, R411). -/
def State.packetIn (s : State) (d : Nat) (k : LinkPacket) : State :=
  if !s.dieAlive d then s
  else if k.head.face.isSome then s.modDie d fun x => { x with inbox := x.inbox ++ [k] }
  else match packetPlace d k.head.addr k.head.len with
    | none => s
    | some p => match s.engCan p k.head.len with
      | .error _ => s
      | .ok _ =>
        (s.engPut p ((flitBytes k.data).take k.head.len) (.rput (8 + k.head.src) k.head.ctx k.head.index 0)).setFull
          (placeGranules p k.head.len)
/-- A packet that a die has taken in goes to its destination in the package, or on to another package (R413, R414). -/
def State.forward (s : State) (d : Nat) (k : LinkPacket) : State :=
  match s.dieOfFabric k.head.dst with
  | some e => if (s.route 16 d k.head).isSome then s.packetIn e k else s
  | none => s.sendOn d k
/-- How many flits the packet at the front of some flits has, and whether they are all there: its header, its data flits and
on an off-package port its tag (R411, R419). -/
def frontPacket (fs : List (BitVec 512)) (tagged : Bool) : Option (LinkHeader × Nat) :=
  match fs with
  | [] => none
  | f :: r =>
    let h := Config.readHeader f
    let n := Nat.min 64 h.flits + if tagged then 1 else 0
    if r.length < n then none else some (h, n + 1)
/-- The data of a packet received on a port, with its tag checked on an off-package port; `none` where the tag fails. -/
def Port.opened (x : Port) (tagged : Bool) (n : Nat) : Option (List (BitVec 512)) :=
  let fs := x.rx.take n
  if tagged then
    Config.gcmOpen x.rxKey (linkNonce x.epoch x.received) (fs.headD 0) (fs.tail.dropLast) ((fs.getLastD 0).setWidth 128)
  else some fs.tail
/-- LINK_PACKET_RECEIVE (R411 to R416, R419), inward: the packet that a port has received whole is authenticated and
decrypted, and goes on; one whose tag fails is discarded and re-sent once, and its second failure retires the port. With
`out`, the far end takes the oldest packet of an off-package port's replay buffer, or finds its tag failing. -/
def execLinkPacketReceive (die port : Nat) (out tagOk : Bool) (s : State) : Host.Outcome State Fault Refusal :=
  .next (
    let x := s.portAt die port
    let tagged := decide (s.portMode die port = 3)
    let again := fun (s : State) (n : Nat) (f : Port → Port) =>
      (s.modPort die port fun x => (f x).resend n).logEvent die 11 0 port 0
    if !s.portUp die port then s
    else if out then
      match x.out with
      | [] => s
      | k :: ks =>
        if tagOk then s.modPort die port fun x => { x with out := ks, badOut := false }
        else if x.badOut then s.portFails die port 11
        else again s k.2.length fun x => { x with badOut := true }
    else match frontPacket x.rx tagged with
      | none => s
      | some (h, n) =>
        let s1 := s.modPort die port fun x => { x with rx := x.rx.drop n }
        match x.opened tagged n with
        | some data =>
          (s1.modPort die port fun x => { x with received := x.received + 1, badTag := false }).forward die
            { head := h, data := data }
        | none =>
          if x.badTag then s1.portFails die port 11 else again s1 n fun x => { x with badTag := true })

/-! ### Bring-up and keys (R417 to R419) -/

/-- The fabric die number that a port in a mode expects at its far end. -/
def State.expectedPeer (s : State) (d p mode : Nat) : Nat :=
  if mode = 3 then s.fabricNext d p else s.fabricDie (d ^^^ 2 ^ (p / 2))
/-- The mode in which a port is brought up: the plan's, or for a retired port whose far end is replaced, the one that
its place and its peer give. -/
def State.bringMode (s : State) (d p peer : Nat) : Nat :=
  let m := s.portMode d p
  if m ≠ 0 then m else if inPackage d p then 1 else if peer = s.expectedPeer d p 2 then 2 else 3
/-- What a keying agrees on: the transcript's hash and the two keys, that from the lower fabric die to the higher one
first (R418). -/
structure HopKeys where
  hash : BitVec 384
  keys : BitVec 256 × BitVec 256
  deriving DecidableEq, Repr
/-- The keying of die `own` with the far end's messages: both public keys, the encapsulation by the end of the lower fabric
die number, the hash of the transcript, and the keys of the two directions from both secrets, salted with it (R418). The
own private values are drawn as free values. -/
def hopKeys (own peer n : Nat) (k : Keying) : HopKeys :=
  let low := decide (own < peer)
  let mine := Config.xPublic n ++ Config.kemKey n
  let theirs := k.x25519 ++ k.kemKey
  let wrap := Config.kemWrap n k.kemKey
  let cipher := if low then wrap.1 else k.kemCipher
  let secret := if low then wrap.2 else Config.kemOpen n k.kemCipher
  let hash := sha384 ((if low then mine ++ theirs else theirs ++ mine) ++ cipher)
  { hash := hash, keys := Config.hkdf hash (Config.xSecret n k.x25519 ++ secret) }
/-- Both signatures of the far end over the transcript's hash, and both its chains, are good (R418, R421). -/
def HopKeys.verified (h : HopKeys) (k : Keying) : Bool :=
  Config.hopVerify false k.edChain (leBytes 48 h.hash.toNat) k.edSig &&
    Config.hopVerify true k.mlChain (leBytes 48 h.hash.toNat) k.mlSig
/-- New keys of a port, with its packet counts at zero. -/
def Port.keyed (own peer us : Nat) (h : HopKeys) (x : Port) : Port :=
  { x with
    txKey := if own < peer then h.keys.1 else h.keys.2, rxKey := if own < peer then h.keys.2 else h.keys.1
    sent := 0, received := 0, keyedAt := us }
/-- A port may be brought up: it is down, retired, or its die's lodge core was reloaded since (R417). -/
def State.mayBringUp (s : State) (d p : Nat) : Bool :=
  d < 8 && p < 6 && s.dieAlive d && ((s.portAt d p).st = 0 || s.portMode d p = 0 || (s.portAt d p).stale)
/-- PORT_BRINGUP (R417, R418): training, identity and, off-package, keying; a wrong peer leaves the port down and has
it retired, a failed verification leaves it down and is logged as lasting -/
def execPortBringup (die port peer : Nat) (far : FarEnd) (s : State) : Host.Outcome State Fault Refusal :=
  .next (
    if !s.mayBringUp die port then s
    else
      let m := s.bringMode die port peer
      let own := s.fabricDie die
      let h := hopKeys own peer s.fresh far.keying
      let down := s.modPort die port fun x => { x with st := if s.portMode die port = 0 then 4 else 0, stale := false }
      if peer ≠ s.expectedPeer die port m then
        if s.portMode die port = 0 then down else down.post (.portMode die port 0) none port 0
      else if m = 3 && !h.verified far.keying then down.tickFree.logEvent die 11 1 port 0
      else
        let s1 := s.tickFree.modPort die port fun x =>
          let y := { x with st := 3, peer := peer, epoch := 0, ident := far.ident, stale := false, keyedAt := s.nowUs }
          if m = 3 then y.keyed own peer s.nowUs h else y
        if s.portMode die port = 0 then s1.post (.portMode die port m) none port 0 else s1)
/-- A key is due for replacement: 2^32 packets in a direction or 24 hours (R419). -/
def State.keyDue (s : State) (x : Port) : Bool :=
  x.sent ≥ 4294967296 || x.received ≥ 4294967296 || s.nowUs ≥ x.keyedAt + 86400000000
/-- REKEY (R418, R419): the next key epoch with new keys of both directions; a failed verification leaves the port down and
is logged as lasting -/
def execRekey (die port : Nat) (k : Keying) (s : State) : Host.Outcome State Fault Refusal :=
  .next (
    let x := s.portAt die port
    let own := s.fabricDie die
    let h := hopKeys own x.peer s.fresh k
    if !s.portUp die port || s.portMode die port ≠ 3 || !s.keyDue x then s
    else if h.verified k then
      s.tickFree.modPort die port fun x => { x.keyed own x.peer s.nowUs h with epoch := x.epoch + 1 }
    else (s.tickFree.modPort die port fun x => { x with st := 0 }).logEvent die 11 1 port 0)

/-! ### Boot (R420, R421, R435) -/

/-- An image slot of the flash: A, or with `true` B. -/
def Boot.slot? (b : Boot) (isB : Bool) : Option FlashSlot := if isB then b.slotB else b.slotA
/-- The slot that the Belvedere runs from, `true` for B: that of the last one while none acts (R420). -/
def State.runSlot (s : State) : Option Bool := s.boot.dieSlots[s.acting.getD s.belv.1]?.getD none
/-- The image that the Belvedere runs. -/
def State.runImage (s : State) : Option FlashSlot := s.runSlot.bind s.boot.slot?
/-- Its security version number. -/
def State.runSvn (s : State) : BitVec 8 := (s.runImage.map fun f => f.svn.setWidth 8).getD 0
/-- Every in-package and looped port of a die comes up. -/
def State.portsUp (s : State) (d : Nat) : State :=
  s.modDie d fun x => { x with ports := x.ports.mapIdx fun i y =>
    let m := s.portMode d i
    if m = 1 || m = 2 then { y with st := 3, peer := s.expectedPeer d i m, keyedAt := s.nowUs } else y }
/-- Lodge core `c` is elected in term 1, with every mailbox its own (R374). -/
def State.elect (s : State) (c : Nat) : State :=
  ({ s.putLease c 1 (BitVec.allOnes 8) with belv := (c, 1) }).modLodge c fun l => { l with acting := some 1, renewed := s.nowUs }
/-- What the boot ROMs find at power-good: each lodge core's slot, from A or B, or none. -/
def Boot.picks (b : Boot) (errA errB : BitVec 8) : Vector (Option Bool) 8 :=
  Vector.ofFn fun d => b.pick (errA.getLsbD d.val) (errB.getLsbD d.val)
/-- POWER_GOOD (R374, R420): each lodge core verifies and starts its image from slot A or B, or stays halted; the first that
may claim is elected Belvedere, version 1 is published, the in-package and looped ports come up, and READY is set; with no
good image none starts -/
def execPowerGood (s : State) : Host.Outcome State Fault Refusal :=
  .next (
    let picks := s.boot.picks s.outside.errA s.outside.errB
    let boot := { s.boot with fallback := picks.toList.any (· ≠ some false), dieSlots := picks }
    if s.boot.ready || s.lodge.toList.any (·.running) then s
    else match (numsFrom 0 8).find? fun d => (picks[d]?.getD none).isSome with
      | none => { s with boot := boot }
      | some c =>
        if s.nowUs < s.claimAt c then s
        else
          let up : State := { s with
            boot := { boot with ready := true }
            lodge := s.lodge.mapIdx fun d l => { l with
              running := (picks[d]?.getD none).isSome
              haltedAt := if (picks[d]?.getD none).isSome then none else some s.nowUs } }
          let s1 := (up.modLife fun l => l.powerOn s.nowUs).elect c
          let s2 := s1.liveDies.foldl State.portsUp s1
          (s2.writeRecord.logHistory).sendVec 2)
/-- PLDM_ACTIVATE (R420): the fused minimum rises to the SVN of the activated image -/
def execPldmActivate (slot : Bool) (s : State) : Host.Outcome State Fault Refusal :=
  .next (match s.boot.slot? slot with
    | none => s
    | some f =>
      if f.ok s.boot.minSvn then { s with boot := { s.boot with minSvn := f.svn.setWidth 8 } } else s)

/-! ### Attestation (R421 to R423) -/

/-- Sets the responder's answer. -/
def State.answer (s : State) (a : SpdmAnswer) : State := { s with spdm := { s.spdm with answer := a } }
/-- The responder answers once the package has booted, and requests in order; out of order it answers an error. -/
def State.respond (s : State) (inOrder : Bool) (f : State → State) : State :=
  if !s.boot.ready then s else if inOrder then f s else s.answer .error
/-- The DIGEST of the image that the Belvedere runs. -/
def State.aliasDigest (s : State) : BitVec 384 := (s.runImage.map (·.digest)).getD 0
/-- The Ed25519 signature of the alias key of the running image. -/
def State.edSign (s : State) (bs : List Byte) : List Byte := Config.edSign s.aliasDigest s.runSvn.toNat bs
/-- The ML-DSA-65 signature of the alias key of the running image. -/
def State.mlSign (s : State) (bs : List Byte) : List Byte := Config.mlSign s.aliasDigest s.runSvn.toNat bs
/-- The certificate chain of an algorithm: the identity certificate, and that of the alias key of the running image, which
the identity key signs (R421). -/
def State.chain (s : State) (ml : Bool) : List Byte :=
  Config.identityCert ml ++ Config.aliasCert ml s.aliasDigest s.runSvn.toNat
/-- GET_VERSION (R422): versions 1.2 and 1.3; a connection begins anew -/
def execGetVersion (s : State) : Host.Outcome State Fault Refusal :=
  .next (s.respond true fun s => { s with
    spdm := { version := true, capable := false, negotiated := false, answer := .versions [(1, 2), (1, 3)] } })
/-- GET_CAPABILITIES (R422) -/
def execGetCapabilities (s : State) : Host.Outcome State Fault Refusal :=
  .next (s.respond s.spdm.version fun s => { s with spdm := { s.spdm with capable := true, answer := .capabilities } })
/-- NEGOTIATE_ALGORITHMS (R422): EdDSA Ed25519 and SHA-384 -/
def execNegotiateAlgorithms (s : State) : Host.Outcome State Fault Refusal :=
  .next (s.respond s.spdm.capable fun s => { s with spdm := { s.spdm with negotiated := true, answer := .algorithms } })
/-- GET_DIGESTS (R422): the digest of the Ed25519 chain in slot 0 -/
def execGetDigests (s : State) : Host.Outcome State Fault Refusal :=
  .next (s.respond s.spdm.negotiated fun s => s.answer (.digests [sha384 (s.chain false)]))
/-- GET_CERTIFICATE (R422): slot 0 holds the Ed25519 chain -/
def execGetCertificate (slot : Nat) (s : State) : Host.Outcome State Fault Refusal :=
  .next (s.respond s.spdm.negotiated fun s =>
    s.answer (if slot = 0 then .certificate (s.chain false) else .error))
/-- CHALLENGE (R422): the digest of the chain and the nonce, signed by the Ed25519 alias key -/
def execChallenge (nonce : BitVec 256) (s : State) : Host.Outcome State Fault Refusal :=
  .next (s.respond s.spdm.negotiated fun s =>
    let h := sha384 (s.chain false)
    s.answer (.challengeAuth h nonce (s.edSign (leBytes 48 h.toNat ++ leBytes 32 nonce.toNat))))

/-- The DIGEST of the image that a die's lodge core runs; a free value where it runs none. -/
def State.runDigest (s : State) (d : Nat) : BitVec 384 :=
  match ((s.boot.dieSlots[d]?.getD none).bind s.boot.slot?) with
  | some f => f.digest
  | none => s.freeBits 384
/-- PEER and MODE of every off-package port, by die and port, of a lost die too. -/
def State.offPorts (s : State) : List Byte :=
  (numsFrom 0 8).flatMap fun d => (numsFrom 0 6).flatMap fun p =>
    if s.portMode d p = 3 then leBytes 1 d ++ leBytes 1 p ++ leBytes 2 (s.portAt d p).peer ++ leBytes 1 3 else []
/-- The open job's identifier, with its DIAG flag and the PRIV flag of each live launch. -/
def State.jobBlock (s : State) : List Byte :=
  match (numsFrom 0 8).find? fun d => (s.die d).job.isSome with
  | none => leBytes 8 0 ++ leBytes 1 0
  | some d =>
    leBytes 8 (((s.die d).job.getD 0).toNat) ++ leBytes 1 (if (s.die d).diag then 1 else 0) ++
      (numsFrom 0 8).flatMap fun x => (s.die x).sched.launches.flatMap fun l => leBytes 1 (if l.priv then 1 else 0)
/-- A measurement block, taken at the moment of the request (R423). -/
def State.measure (s : State) (i : Nat) : List Byte :=
  if i = 1 then leBytes 48 (sha384 Config.bootRom).toNat
  else if i = 2 then (numsFrom 0 8).flatMap fun d => leBytes 48 (s.runDigest d).toNat
  else if i = 3 then leBytes 1 s.runSvn.toNat ++ leBytes 1 s.boot.minSvn.toNat
  else if i = 4 then leBytes 8 s.plan.version ++ leBytes 48 (sha384 s.plan.bytes).toNat
  else if i = 5 then
    leBytes 1 s.pkg.1 ++ leBytes 1 s.pkg.2.1 ++ leBytes 1 s.pkg.2.2 ++ s.offPorts
  else s.jobBlock
/-- Every measurement block with its index. -/
def State.blocks (s : State) : List (Nat × List Byte) := (numsFrom 1 6).map fun i => (i, s.measure i)
/-- The bytes of some blocks and a nonce, as they are signed. -/
def signedBytes (bs : List (Nat × List Byte)) (nonce : BitVec 256) : List Byte :=
  (bs.flatMap fun b => leBytes 1 b.1 ++ b.2) ++ leBytes 32 nonce.toNat
/-- GET_MEASUREMENTS (R422, R423): one block, or every block for index 0xFF, signed by the Ed25519 alias key -/
def execGetMeasurements (index : Nat) (nonce : BitVec 256) (s : State) : Host.Outcome State Fault Refusal :=
  .next (s.respond s.spdm.negotiated fun s =>
    let bs := if index = 0xFF then s.blocks else s.blocks.filter fun b => b.1 = index
    if bs.isEmpty then s.answer .error
    else (s.answer (.measurements bs nonce (s.edSign (signedBytes bs nonce)))).tickFree)
/-- DUALREPORT (R422, R423): every block with the nonce, signed by both alias keys -/
def execDualreport (nonce : BitVec 256) (s : State) : Host.Outcome State Fault Refusal :=
  .next (s.respond true fun s =>
    let bs := s.blocks
    let m := signedBytes bs nonce
    (s.answer (.report bs nonce (s.edSign m) (s.mlSign m))).tickFree)
/-- DUALCERT (R422): the ML-DSA-65 certificate chain -/
def execDualcert (s : State) : Host.Outcome State Fault Refusal :=
  .next (s.respond true fun s => s.answer (.certificate (s.chain true)))

end Sys2Proof.Machine
end

