-- ==== Sys2Proof/Machine/Thermal.lean ====
section
/-! DEFINITION. Thermal limits, refresh steps, memory hot, steady power and the ballast duty (R424 to R434). -/

namespace Sys2Proof.Machine

/-! ### Samples (R426 to R431) -/

/-- The bits of TH_EVENT. -/
inductive HeatBit | warn | throt | unthrot | step | hot
  deriving DecidableEq, Repr
/-- Their positions. -/
def HeatBit.pos : HeatBit → Nat
  | .warn => 0 | .throt => 1 | .unthrot => 2 | .step => 3 | .hot => 4
/-- Changes a die's sensors. -/
def State.modTh (s : State) (d : Nat) (f : Thermal → Thermal) : State := s.modDie d fun x => { x with th := f x.th }
/-- Sets a bit of TH_EVENT; vector 3 when it was clear (R428). -/
def State.heatEvent (s : State) (d : Nat) (b : HeatBit) : State :=
  if (s.die d).th.event.getLsbD b.pos then s
  else (s.modTh d fun t => { t with event := t.event ||| (1 <<< b.pos) }).sendVec 3
/-- The refresh step at a temperature, from the step before it (R429). -/
def refreshStep (old : Nat) (t : Int) : Nat :=
  if t ≥ 760 || (old = 2 && t ≥ 736) then 2 else if t ≥ 680 || (old ≥ 1 && t ≥ 656) then 1 else 0
/-- Memory hot: entered at 105 °C of either, left when both are below 103 °C (R431). -/
def memoryHot (old : Bool) (h c : Int) : Bool := h ≥ 840 || c ≥ 840 || (old && (h ≥ 824 || c ≥ 824))
/-- The warn or throttle state at a temperature, from the state before it (R427). -/
def heatState (t : Thermal) (m : Int) : Nat :=
  if m ≥ t.throt || (t.st = 2 && m ≥ (t.throt : Int) - 16) then 2
  else if m ≥ t.warn || (t.st ≥ 1 && m ≥ (t.warn : Int) - 16) then 1 else 0
/-- The sensors after a sample. -/
def Thermal.sample (t : Thermal) (temps : List Int) (h c : Int) : Thermal :=
  let v : Vector Int 32 := Vector.ofFn fun i => temps[i.val]?.getD 0
  let m := v.toList.foldl (fun a b => if a ≥ b then a else b) (v.toList.headD 0)
  let hot := memoryHot t.hot h c
  { t with
    temps := v, valid := true, htemp := h, ctemp := c, hot := hot, max := m, st := heatState t m
    hstep := if hot then 2 else refreshStep t.hstep h
    cstep := if hot then 2 else refreshStep t.cstep c }
/-- The 34 readings that PLDM numeric sensors give of a die over the management port: its junction sensors, the stack and the
capacity tier, in units of 0.125 °C (R426, R428). -/
def Thermal.sensors (t : Thermal) : List Int := t.temps.toList ++ [t.htemp, t.ctemp]
/-- The trip point is reached (R427). -/
def Thermal.trips (t : Thermal) : Bool := t.valid && t.max ≥ t.trip
/-- A change that heat calls for is published at once where a Belvedere acts, or else reported. -/
def State.heatChange (s : State) (c : PlanChange) (cls : Option Nat) : State :=
  let r : Report := { change := c, cls := cls, unit := 0, addr := 0 }
  if s.acting.isNone then s.post c cls 0 0
  else if s.changes? c then (s.planStep r).planEffect r (s.planDie c.die) else s
/-- A die past a limit: a trip stops its cluster clocks and loses it (R427); a stack or a tier at 110 °C is retired, which
loses its die (R431). -/
def State.heatLoss (s0 : State) (d : Nat) : State :=
  let s := s0.modTh d fun t => { t with stopped := t.stopped || t.trips }
  let t := (s.die d).th
  let s1 := if t.htemp ≥ 880 then s.heatChange (.memOff d false) (some 12) else s
  let s2 := if t.ctemp ≥ 880 then s1.heatChange (.memOff d true) (some 13) else s1
  if t.trips then
    if s2.acting.isSome then s2.loseDie d none 0 0 else s2.post (.dieLost d) none 0 0
  else s2
/-- THERMAL_SAMPLE (R427): MAX and the state follow the sample; entering or leaving a state tells the host; a trip or
a stack at 110 °C loses the die (R431) -/
def execThermalSample (die : Nat) (temps : List Int) (htemp ctemp : Int) (s : State) : Host.Outcome State Fault Refusal :=
  .next (
    if die ≥ 8 || !s.dieAlive die then s
    else
      let t := (s.die die).th
      let u := t.sample temps htemp ctemp
      let tell := fun (s : State) (x : Bool × HeatBit) => if x.1 then s.heatEvent die x.2 else s
      let s1 := [(decide (t.st = 0 ∧ u.st ≥ 1), HeatBit.warn), (decide (t.st < 2 ∧ u.st = 2), .throt),
        (decide (t.st = 2 ∧ u.st < 2), .unthrot), (decide (t.hstep ≠ u.hstep ∨ t.cstep ≠ u.cstep), .step),
        (!t.hot && u.hot, .hot)].foldl tell (s.modTh die fun _ => { u with event := t.event })
      let s2 := if t.st < 2 && u.st = 2 then s1.count die 0xDF8 1 else s1
      if u.trips || htemp ≥ 880 || ctemp ≥ 880 then s2.heatLoss die else s2)

/-! ### TH_LIMITS (R427) -/

/-- A field written above its reset value stores the reset value. -/
def lowerOnly (v reset : Nat) : Nat := Nat.min v reset
/-- A write of TH_LIMITS, which is ignored where WARN ≤ THROT ≤ TRIP would not hold; a sample already at the new trip
point trips the die. -/
def State.setLimits (s : State) (d : Nat) (v : Dword) : State :=
  let w := lowerOnly (v.toNat % 65536) 864
  let h := lowerOnly (v.toNat / 65536 % 65536) 896
  let p := lowerOnly (v.toNat / 4294967296 % 65536) 960
  if w ≤ h && h ≤ p then
    let s1 := s.modTh d fun t => { t with warn := w, throt := h, trip := p }
    if s.dieAlive d && (s1.die d).th.trips then s1.heatLoss d else s1
  else s
/-- TH_LIMITS_WRITE (R427): limits can only be lowered, and keep their order -/
def execThLimitsWrite (die : Nat) (v : Dword) (s : State) : Host.Outcome State Fault Refusal := .next (s.settleHost.setLimits die v)

/-! ### Steady power (R432 to R434) -/

/-- Some live die is in throttle. -/
def State.throttled (s : State) : Bool := s.liveDies.any fun d => (s.die d).th.st = 2
/-- The duty after a millisecond of `p` watts at set point `set` (R433). -/
def nextDuty (duty set p : Nat) : Nat :=
  (min 1024 (max 0 ((duty : Int) + ((set : Int) - (p : Int)).tdiv 2))).toNat
/-- POWER_TICK (R432, R433): the average of the last millisecond, and the duty that follows from it -/
def execPowerTick (watts : Nat) (s : State) : Host.Outcome State Fault Refusal :=
  .next (
    let p := s.power
    { s with power := { p with
        watts := watts
        duty := if !p.en then 0 else if s.throttled then p.duty else nextDuty p.duty p.set watts } })
/-- A write of PW_CTL: SET is kept within 2,400 to 3,600 W; with EN = 0 the duty is 0 (R432, R433). -/
def State.setPower (s : State) (v : Dword) : State :=
  let x := v.toNat / 65536 % 65536
  let en := v.getLsbD 0
  { s with power := { s.power with
      en := en, set := Nat.max 2400 (Nat.min 3600 x), duty := if en then s.power.duty else 0 } }
/-- PW_CTL_WRITE (R432): EN and the set point -/
def execPwCtlWrite (v : Dword) (s : State) : Host.Outcome State Fault Refusal := .next (s.settleHost.setPower v)
/-- Cycles up to the next edge of a die's ballast window: its closing while it is open, else the next window. -/
def State.toEdge (s : State) (d : Nat) : Nat :=
  if s.dutyOpen d then s.dutyOf d - s.nowCyc % 1024 else 1024 - s.nowCyc % 1024
/-- BALLAST_DUTY_WINDOW (R434): cycles pass up to the next edge of the window in whose first D cycles ballast contexts may
be Ready; that they may is `State.dutyOpen`, which the selector tests. The window is counted on the 1 GHz clock (log 9) -/
def execBallastDutyWindow (die : Nat) (s : State) : Host.Outcome State Fault Refusal :=
  .next { s with nowCyc := s.nowCyc + s.toEdge die, lag := s.lagAfter (s.toEdge die) }

end Sys2Proof.Machine
end

