-- ==== Sys2Proof/Machine/HostReg.lean ====
section
/-! DEFINITION. The host port's registers and windows: reads and writes of BAR0 under their access codes, the tail pages
of BAR2, MSI-X masking, translation invalidation, and the BAR4 window on device memory (R3, R4, R40, R333 to R347). -/

namespace Sys2Proof.Machine

/-! ### Reads -/

/-- A number of register fields: each value at its lowest bit. -/
def fields : List (Nat × Nat) → Dword
  | [] => 0
  | (lo, v) :: r => (BitVec.ofNat 64 v <<< lo) ||| fields r
/-- A bit as a number. -/
def bit (b : Bool) : Nat := if b then 1 else 0
/-- A signed temperature as 16 bits. -/
def temp16 (t : Int) : Nat := (BitVec.ofInt 16 t).toNat
/-- The fields of a queue's descriptor (R343). -/
def Queue.desc (q : Queue) : BitVec 256 :=
  BitVec.ofNat 256 (q.rbase.toNat + 2 ^ 64 * q.log2n + 2 ^ 69 * bit q.prod + 2 ^ 70 * bit q.held + 2 ^ 80 * q.vec +
    2 ^ 91 * q.note + 2 ^ 128 * q.head.toNat + 2 ^ 160 * q.tail.toNat)
/-- A port's register (R412). -/
def State.portReg (s : State) (d p : Nat) : Dword :=
  let x := s.portAt d p
  let m := s.portMode d p
  fields [(0, m), (2, if m = 0 then 4 else x.st), (8, x.peer), (32, x.resends), (48, x.epoch % 256)]
/-- A register of a die's block, by its 8-byte offset (R334, R343, R347, R369, R403, R412, R426 to R428). -/
def State.dieReg (s : State) (d o : Nat) : Dword :=
  let x := s.die d
  let t := x.th
  if 0x100000 ≤ o ∧ o < 0x108000 then
    BitVec.ofNat 64 (fieldAt (tabGetD x.sched.queues ((o - 0x100000) / 32) Queue.reset).desc (8 * (o % 32)) 64)
  else if 0x300 ≤ o ∧ o < 0x330 then s.portReg d ((o - 0x300) / 8)
  else if 0x400 ≤ o ∧ o < 0x500 then
    fields [(0, temp16 (t.temps[(o - 0x400) / 8]?.getD 0)), (16, bit t.valid)]
  else if o = 0x008 then x.js.status.setWidth 64
  else if o = 0x010 then x.js.info0
  else if o = 0x018 then x.js.info1
  else if o = 0x108 then fields [(0, bit (x.tiers.parked.any (·.stale)))]
  else if o = 0x200 then
    fields [(0, bit x.tiers.en), (8, x.tiers.thresh), (16, x.tiers.epoch), (20, x.tiers.maxmov)]
  else if o = 0x208 then fields [(0, x.tiers.moves.length), (5, x.tiers.parked.length)]
  else if o = 0x210 then x.tiers.swaps
  else if o = 0x500 then
    fields [(0, temp16 t.htemp), (16, temp16 t.ctemp), (32, t.hstep), (34, t.cstep), (36, bit t.hot)]
  else if o = 0x508 then fields [(0, temp16 t.max), (16, t.st)]
  else if o = 0x510 then fields [(0, t.warn), (16, t.throt), (32, t.trip)]
  else if o = 0x518 then t.event.setWidth 64
  else 0
/-- HY_STATUS (R40). -/
def State.hyStatus (s : State) : Dword :=
  let late := s.lateDies.map s.fabricDie
  fields [
    (0, bit (s.hy.arrived ≠ 0)), (1, bit s.hy.strag), (2, bit s.hy.extended), (3, bit s.hy.premiss),
    (4, bit s.hy.frozen), (16, late.foldl Nat.min (late.headD 0)), (32, late.length)]
/-- PW_STATUS (R432). -/
def State.pwStatus (s : State) : Dword :=
  let p := s.power
  fields [
    (0, p.watts % 65536), (16, p.duty), (27, bit (50 * (p.set - p.watts) ≤ p.set && 50 * (p.watts - p.set) ≤ p.set)),
    (28, bit (p.duty = 1024 && 50 * p.watts < 49 * p.set)), (29, bit (p.duty = 0 && 50 * p.watts > 51 * p.set)),
    (30, bit s.throttled)]
/-- A mailbox's 8 bytes: the lease word, or a word of reports, whose form the spec does not give. -/
def State.mailReg (s : State) (d o : Nat) : Dword :=
  let m := s.mailAt d
  if o = 0 then fields [(0, m.holder), (8, m.term)]
  else if s.changes.any fun r => r.change.die = d then BitVec.ofNat 64 (Config.freeValue (s.fresh + o)) else 0
/-- A register of the package block, by its 8-byte offset (R335 to R340, R379, R420, R425, R432, R437). -/
def State.pkgReg (s : State) (o : Nat) : Dword :=
  if 0x100 ≤ o ∧ o < 0x200 then s.host.winmap[(o - 0x100) / 8]?.getD 0
  else if 0x2100 ≤ o ∧ o < 0x2940 then BitVec.ofNat 64 (leNat ((s.plan.bytes.drop (o - 0x2100)).take 8))
  else if 0x3000 ≤ o ∧ o < 0xB000 then s.mailReg ((o - 0x3000) / 4096) (o % 4096)
  else if 0x80000 ≤ o ∧ o < 0x88000 then
    let e := tabGetD s.host.msix ((o - 0x80000) / 16) MsixEntry.reset
    if o % 16 = 0 then e.addr else fields [(0, e.data.toNat), (32, bit e.masked)]
  else if 0x88000 ≤ o ∧ o < 0x88100 then
    fields ((numsFrom 0 64).map fun i =>
      (i, bit (tabGetD s.host.msix (8 * (o - 0x88000) + i) MsixEntry.reset).pending))
  else if o = 0x0000 then
    fields [(0, 0x0880), (16, Config.rev.toNat), (24, (s.liveDies.map fun d => 2 ^ d).foldl (· + ·) 0)]
  else if o = 0x0010 then s.host.err.setWidth 64
  else if o = 0x0018 then s.host.winaddr
  else if o = 0x0020 then
    fields [
      (0, bit s.boot.ready), (1, bit (s.runSlot.getD false)), (2, bit s.boot.fallback), (8, s.runSvn.toNat),
      (16, s.boot.minSvn.toNat)]
  else if o = 0x0200 then s.host.winBase
  else if o = 0x0208 then s.host.winSize <<< 12
  else if o = 0x0800 then s.host.cmdBase
  else if o = 0x0808 then fields [(0, s.host.cmdLog2n), (4, bit s.host.cmdEn)]
  else if o = 0x0810 then s.host.cmdTail.setWidth 64
  else if o = 0x0818 then s.host.cmdHead.setWidth 64
  else if o = 0x1000 then s.hy.phc
  else if o = 0x1008 then fields [(0, s.hy.tmo), (24, bit s.hy.extend), (25, bit s.hy.preen)]
  else if o = 0x1010 then s.hy.target
  else if o = 0x1018 then s.hyStatus
  else if o = 0x2000 then BitVec.ofNat 64 s.plan.version
  else if o = 0x2008 then fields [(0, s.belv.1), (8, s.belv.2)]
  else if o = 0xB000 then fields [(0, temp16 s.power.inlet), (16, temp16 s.power.outlet)]
  else if o = 0xB008 then fields [(0, bit s.power.en), (16, s.power.set)]
  else if o = 0xB010 then s.pwStatus
  else if o = 0xC008 then fields [(0, bit s.life.snapshot.isSome), (1, bit ((s.boot.ready || s.boot.fallback) && s.acting.isNone))]
  else if o = 0xC010 then fields [(3, s.life.offs)]
  else if o = 0xC018 then s.life.data
  else 0
/-- A tail page's 8 bytes (R344). -/
def State.tailReg (s : State) (d q o : Nat) : Dword :=
  let x := s.queueAt d q
  if o = 0 then x.tail.setWidth 64
  else if o = 8 then (if x.room = 0 then 0x8000000000000004 else BitVec.ofNat 64 x.room)
  else if o = 0x10 then x.head.setWidth 64
  else 0
/-- First byte of BAR2 among the offsets of the register events, which follow on from BAR0 (log 51). -/
def bar2 : Nat := 0x8000000
/-- A register of configuration space: the vendor's identifier with the Device ID, and the Resizable BAR capability and
control words of BAR4, whose size field holds log2 of its MiB (R333, R334; their offsets are the model's, log 51). -/
def State.cfgReg (s : State) (o : Nat) : Dword :=
  if o = 0 then fields [(0, Config.vendor.toNat), (16, 0x0880)]
  else if o = 8 then fields [(0, 0xFFC000), (32, 4), (37, 1), (40, s.host.bar4Log - 20)]
  else 0
/-- The 8 bytes of a register at an 8-byte offset of BAR0, of BAR2 from `bar2` upward, or of configuration space after
BAR2; reserved offsets read zero. -/
def State.reg (s : State) (off : Nat) : Dword :=
  if off < 0x4000000 then s.dieReg (off / 0x800000) (off % 0x800000)
  else if off < bar2 then s.pkgReg (off - 0x4000000)
  else if off < bar2 + 0x2000000 then s.tailReg ((off - bar2) / 0x400000) ((off - bar2) / 4096 % 1024) (off % 4096)
  else s.cfgReg (off - (bar2 + 0x2000000))

/-! ### Writes of registers with a row of their own -/

/-- Changes the host port's registers. -/
def State.modHost (s : State) (f : HostPort → HostPort) : State := { s with host := f s.host }
/-- A write of CMD_TAIL: ignored, with CMDFAULT, where more records than the ring holds would wait (R340). -/
def State.setCmdTail (s : State) (v : Dword) : State :=
  let t : BitVec 32 := v.setWidth 32
  if (t - s.host.cmdHead).toNat > 2 ^ s.host.ringLog2n then s.modHost fun h => { h with err := h.err ||| 4 }
  else s.modHost fun h => { h with cmdTail := t }
/-- CMD_TAIL_WRITE (R340) -/
def execCmdTailWrite (v : Dword) (s : State) : Host.Outcome State Fault Refusal := .next (s.settleHost.setCmdTail v)
/-- A write of CMD_CTL: as EN goes from 0 to 1, BASE and LOG2N take effect and HEAD and TAIL become 0, unless LOG2N is
outside 6 to 12 (R340). -/
def State.setCmdCtl (s : State) (v : Dword) : State :=
  let n := v.toNat % 16
  let rises := v.getLsbD 4 && !s.host.cmdEn
  let ok := decide (6 ≤ n ∧ n ≤ 12)
  s.modHost fun h =>
    let h1 := { h with cmdLog2n := n, cmdEn := v.getLsbD 4 && (h.cmdEn || ok) }
    if rises && ok then { h1 with ringBase := h.cmdBase, ringLog2n := n, cmdHead := 0, cmdTail := 0 } else h1
/-- CMD_CTL_WRITE (R340) -/
def execCmdCtlWrite (v : Dword) (s : State) : Host.Outcome State Fault Refusal := .next (s.settleHost.setCmdCtl v)
/-- A write of QTAIL: refused for a queue without a ring, a device-fed one or one without the room, else the records
are published and the holder's sleepers wake (R344). -/
def State.setQtail (s : State) (d q : Nat) (v : Dword) : State :=
  let x := s.queueAt d q
  let t : BitVec 32 := v.setWidth 32
  let n := (t - x.tail).toNat
  if v.toNat ≥ 4294967296 || d ≥ 8 || q ≥ 1024 then s
  else if x.log2n = 0 || x.prod || n > x.room then (if x.note = 2 then s.sendNote x.vec else s)
  else if n = 0 then s
  else
    let fresh := s.queueEmpty d q
    (s.modQueue d q fun y => { y with
      tail := t, since := if fresh then s.nowCyc else y.since, aged := if fresh then 0 else y.aged }).wakeQueue d q
/-- A QTAIL write arrives; it is held while the die's scheduler tables are rebuilt (R387). -/
def State.qtailWrite (s : State) (d q : Nat) (v : Dword) : State :=
  if (s.die d).sched.rebuilding then s.modSched d fun x => { x with tails := x.tails ++ [(q, v)] } else s.setQtail d q v
/-- SCHED_TABLE_REBUILD (R387): the scheduler's tables are rebuilt from the mirror, or the job is faulted; the QTAIL writes
held meanwhile take effect -/
def execSchedTableRebuild (die : Nat) (mirrorOk : Bool) (s : State) : Host.Outcome State Fault Refusal :=
  .next (
    if !(s.die die).sched.rebuilding then s
    else
      let s1 := s.modSched die fun x => { x with rebuilding := false, tails := [] }
      let s2 := if mirrorOk then s1 else s1.faultJob
      (s.die die).sched.tails.foldl (fun s t => s.setQtail die t.1 t.2) s2)
/-- QTAIL (R344): the host publishes records of a queue -/
def execQtail (die queue : Nat) (v : Dword) (s : State) : Host.Outcome State Fault Refusal :=
  .next (s.settleHost.qtailWrite die queue v)
/-- The parked writes whose translation `f` picks hold an invalidated entry: XL_STATUS reads BUSY until they have performed
(R369, R371). -/
def DieTiers.staleWhere (t : DieTiers) (f : Nat × Nat → Bool) : DieTiers :=
  { t with parked := mapWhere t.parked (fun p => f p.page) fun p => { p with stale := true } }
/-- Every cached translation of a die is dropped (R369). -/
def State.invAll (s : State) (d : Nat) : State :=
  s.modDie d fun x => { x with xl := { x.xl with tlb := [] }, tiers := x.tiers.staleWhere fun _ => true }
/-- XL_INV_ALL (R369): every cached translation of the die is invalidated -/
def execXlInvAll (die : Nat) (s : State) : Host.Outcome State Fault Refusal := .next (s.settleHost.invAll die)
/-- Every cached translation that covers a byte of a 64 KiB page is dropped (R369). -/
def State.invPage (s : State) (d page : Nat) : State :=
  s.modDie d fun x => { x with
    xl := { x.xl with tlb := dropWhere x.xl.tlb fun e => page * 65536 / 2 ^ e.bits = e.base / 2 ^ e.bits }
    tiers := x.tiers.staleWhere fun p => page * 65536 / 2 ^ p.2 = p.1 / 2 ^ p.2 }
/-- XL_INV_PAGE (R369): the cached translations that cover the page are invalidated -/
def execXlInvPage (die page : Nat) (s : State) : Host.Outcome State Fault Refusal := .next (s.settleHost.invPage die page)
/-- A write of TC_CTL (R403). -/
def State.setTcCtl (s : State) (d : Nat) (v : Dword) : State :=
  let t := v.toNat / 256 % 256
  let m := v.toNat / 1048576 % 32
  s.modTiers d fun x => { x with
    en := v.getLsbD 0, thresh := if t = 0 then 1 else t, epoch := v.toNat / 65536 % 16
    maxmov := if m = 0 then 1 else Nat.min 16 m }
/-- SNAP (R437): a write of 1 to LR_CTL.SNAP -/
def execSnap (s : State) : Host.Outcome State Fault Refusal := .next s.settleHost.snap
/-- TC_CTL_WRITE (R403) -/
def execTcCtlWrite (die : Nat) (v : Dword) (s : State) : Host.Outcome State Fault Refusal := .next (s.settleHost.setTcCtl die v)
/-- Changes an MSI-X table entry. -/
def State.modMsix (s : State) (v : Nat) (f : MsixEntry → MsixEntry) : State :=
  s.modHost fun h => { h with msix := tabSet h.msix v (f (tabGetD h.msix v MsixEntry.reset)) }
/-- A vector is unmasked; a pending message is sent (R336). -/
def State.unmask (s : State) (v : Nat) : State :=
  let e := tabGetD s.host.msix v MsixEntry.reset
  let s1 := s.modMsix v fun e => { e with masked := false, pending := false }
  if e.pending && v < 2048 then s1.sendVec v else s1
/-- MSIX_UNMASK (R336) -/
def execMsixUnmask (vec : Nat) (s : State) : Host.Outcome State Fault Refusal :=
  .next (if vec < 2048 then s.settleHost.unmask vec else s)

/-! ### Register writes (R3, R4, R334) -/

/-- A write as it reaches 8 bytes: the value and the bits written. -/
structure RegWrite where
  v : Dword
  m : Dword
  deriving DecidableEq, Repr

/-- What a write makes of RW bits that hold `old`; bits it does not reach keep their value. -/
def RegWrite.rw (w : RegWrite) (old : Dword) : Dword := (old &&& ~~~w.m) ||| (w.v &&& w.m)
/-- The bits written as 1 (W1C, WO). -/
def RegWrite.ones (w : RegWrite) : Dword := w.v &&& w.m
/-- A write to a die's block. -/
def State.setDieReg (s : State) (d o : Nat) (w : RegWrite) : State :=
  let new := w.rw (s.dieReg d o)
  if o = 0x008 then
    s.modDie d fun x => { x with js := { x.js with status := x.js.status &&& ~~~(w.ones.setWidth 8) } }
  else if o = 0x100 then
    if w.ones.getLsbD 0 then s.invAll d else s.invPage d (w.ones.toNat / 65536 % 2 ^ 41)
  else if o = 0x200 then s.setTcCtl d new
  else if o = 0x510 then s.setLimits d new
  else if o = 0x518 then s.modTh d fun t => { t with event := t.event &&& ~~~(w.ones.setWidth 5) }
  else s
/-- A write to an MSI-X table entry (R336). -/
def State.setMsix (s : State) (o : Nat) (w : RegWrite) : State :=
  let v := (o - 0x80000) / 16
  let new := w.rw (s.pkgReg o)
  if o % 16 = 0 then s.modMsix v fun e => { e with addr := new }
  else
    let s1 := s.modMsix v fun e => { e with data := new.setWidth 32 }
    if new.getLsbD 32 then s1.modMsix v fun e => { e with masked := true } else s1.unmask v
/-- A write to the package block. -/
def State.setPkgReg (s : State) (o : Nat) (w : RegWrite) : State :=
  let new := w.rw (s.pkgReg o)
  if 0x100 ≤ o ∧ o < 0x200 then
    s.modHost fun h => { h with winmap := h.winmap.setIfInBounds ((o - 0x100) / 8) (new &&& 0x01FFFFFFFE00000F) }
  else if 0x80000 ≤ o ∧ o < 0x88000 then s.setMsix o w
  else if o = 0x0010 then s.modHost fun h => { h with err := h.err &&& ~~~(w.ones.setWidth 3) }
  else if o = 0x0200 then s.modHost fun h => { h with winBase := new &&& 0xFFFFFFFFFFFFF000 }
  else if o = 0x0208 then s.modHost fun h => { h with winSize := (new >>> 12) &&& 0xFFFFFFFFF }
  else if o = 0x0800 then s.modHost fun h => { h with cmdBase := new &&& 0xFFFFFFFFFFFFF000 }
  else if o = 0x0808 then s.setCmdCtl new
  else if o = 0x0810 then s.setCmdTail new
  else if o = 0x1008 then s.setHyCtl new
  else if o = 0x1010 then { s with hy := { s.hy with target := new } }
  else if o = 0x1018 then
    { s with hy := { s.hy with
        strag := s.hy.strag && !w.ones.getLsbD 1, premiss := s.hy.premiss && !w.ones.getLsbD 3 } }
  else if o = 0xB008 then s.setPower new
  else if o = 0xC000 then (if w.ones.getLsbD 0 then s.snap else s)
  else if o = 0xC010 then s.modLife fun l => { l with offs := new.toNat / 8 % 2097152 }
  else s
/-- A write of configuration space: the size field of the Resizable BAR control register resizes BAR4 where the size is one
of 1 to 512 GiB (R333, R334, log 51). -/
def State.setCfgReg (s : State) (o : Nat) (w : RegWrite) : State :=
  let n := fieldAt (w.rw (s.cfgReg o)) 40 6
  if o = 8 ∧ 10 ≤ n ∧ n ≤ 19 then s.modHost fun h => { h with bar4Log := n + 20 } else s
/-- A write of 8 bytes, or of the half that `m` names, at an 8-byte offset. A write of QTAIL's upper half alone is one of
the page's other offsets, and ignored (R344). -/
def State.setReg (s : State) (off : Nat) (w : RegWrite) : State :=
  if off < 0x4000000 then s.setDieReg (off / 0x800000) (off % 0x800000) w
  else if off < bar2 then s.setPkgReg (off - 0x4000000) w
  else if off < bar2 + 0x2000000 then
    if off % 4096 = 0 && w.m.getLsbD 0 then s.qtailWrite ((off - bar2) / 0x400000) ((off - bar2) / 4096 % 1024) w.ones else s
  else s.setCfgReg (off - (bar2 + 0x2000000)) w
/-- An access that R334 does not carry out: REGSIZE. -/
def State.regsize (s : State) : State := s.modHost fun h => { h with err := h.err ||| 1 }
/-- REGISTER_WRITE (R3, R4, R334): a host write of a register acts under its access codes -/
def execRegisterWrite (off : Nat) (wide : Bool) (v : Dword) (s : State) : Host.Outcome State Fault Refusal :=
  .next (
    if off % (if wide then 8 else 4) ≠ 0 then s.regsize
    else if wide then s.settleHost.setReg off { v := v, m := BitVec.allOnes 64 }
    else if off % 8 = 0 then s.settleHost.setReg off { v := v, m := 0xFFFFFFFF }
    else s.settleHost.setReg (off - 4) { v := v <<< 32, m := 0xFFFFFFFF00000000 })
/-- REGSIZE_ACCESS (R334): an access that is not 4 or 8 bytes and aligned reads zero or is ignored, and sets REGSIZE;
any other read returns the register -/
def execRegsizeAccess (off size : Nat) (write : Bool) (s : State) : Host.Outcome State Fault Refusal :=
  .next (
    if !(size = 4 || size = 8) || off % size ≠ 0 then
      if write then s.regsize else s.regsize.modHost fun h => { h with readData := 0 }
    else if write then s
    else
      let v := s.reg (off / 8 * 8)
      let s1 := if off / 8 * 8 = 0x400C018 then s.lrRead else s
      s1.modHost fun h => { h with readData := if size = 8 then v else (v >>> (8 * (off % 8))) &&& 0xFFFFFFFF })

/-! ### BAR4 (R337, R339) -/

/-- The piece of a BAR4 access at an offset: its die, its device virtual and its device physical address, where it reaches
device memory. -/
def State.winDpa (s : State) (off : Nat) (write : Bool) : Option (Nat × Nat × Nat) :=
  let seg := 2 ^ (s.host.bar4Log - 5)
  let m := s.host.winmap[off / seg]?.getD 0
  let d := m.toNat / 2 % 8
  let base := m.toNat / 33554432 * 33554432
  if !m.getLsbD 0 || base % seg ≠ 0 || !s.dieAlive d || (s.die d).job.isNone then none
  else match s.xlate d (base + off % seg) (if write then .write else .read) with
    | .error _ => none
    | .ok dpa => if write && dpa ≥ sailPage then none else some (d, base + off % seg, dpa)
/-- An access that fails: WINFAULT, and the first one's offset (R337). -/
def State.winFault (s : State) (off : Nat) : State :=
  s.modHost fun h => { h with err := h.err ||| 2, winaddr := if h.err.getLsbD 1 then h.winaddr else BitVec.ofNat 64 off }
/-- One piece of a BAR4 access, within a page: the bytes read, and the state after. A write that finds the park buffer full,
and a read of bytes the host has parked, wait until the group's move has ended (R370). -/
def State.winPiece (s : State) (off n : Nat) (data : Option (List Byte)) : State × List Byte :=
  match s.winDpa off data.isSome with
  | none => (s.winFault off, List.replicate n 0xFF)
  | some (d, va, dpa) => match data with
    | some bs =>
      let full := s.moving d (dpaGroup dpa) && !s.parkRoom d (linesOf dpa n)
      let s1 := (if full then s.endMove d (dpaGroup dpa) else s).walked d va
      ((s1.devPut d dpa (s1.pageOf d va) bs .host).heat d dpa (linesOf dpa n), [])
    | none =>
      let s0 := (if s.parkedOver d dpa n (fun o => o = .host) then s.endMove d (dpaGroup dpa) else s).walked d va
      let s1 := (s0.dramScrub (s0.dpaCell d dpa) n).heat d dpa (linesOf dpa n)
      (s1, (s0.devGet d dpa n).getD (s0.bytes (s0.dpaCell d dpa) n))
/-- A piece of a BAR4 access waits on a diagnostic packet (R392, R393). -/
def State.winHeld (s : State) (off n : Nat) (write : Bool) : Bool :=
  match s.winDpa off write with
  | none => false
  | some (d, va, _) => s.dvaHeld d va n (if write then .write else .read)
/-- HOST_WINDOW_ACCESS (R337, R339): a BAR4 access, once no packet of its lines stands in its way (R393), reaches a die's
device memory through WINMAP and translation, or
reads all ones or is dropped with WINFAULT; `readData` shows the first 8 bytes read -/
def execHostWindowAccess (off len : Nat) (data : Option (List Byte)) (s : State) : Host.Outcome State Fault Refusal :=
  .next (
    let n := match data with | some bs => bs.length | none => len
    let runs := pageRuns off n (n / 65536 + 2)
    if off + n > 2 ^ s.host.bar4Log || (runs.any fun p => s.winHeld p.1 p.2 data.isSome) then s
    else
      let r := runs.foldl (fun (a : State × List Byte) p =>
        let x := a.1.winPiece p.1 p.2 (data.map fun bs => (bs.drop (p.1 - off)).take p.2)
        (x.1, a.2 ++ x.2)) (s, [])
      if data.isSome then r.1
      else r.1.modHost fun h => { h with readData := BitVec.ofNat 64 (leNat (r.2.take 8)) })

end Sys2Proof.Machine
end

