-- ==== Sys2Proof/Machine/Image.lean ====
section
/-! DEFINITION. The image of a switched-out die: its bytes, its codes and digest, its two copies in device memory, and
the state read back from it (R356 to R363). -/

namespace Sys2Proof.Machine

/-! ### Bytes of an image -/

/-- The bytes of an image that are not zero, by offset. -/
abbrev Img := List Host.Cell
/-- LENGTH: the bytes under the check array (R359). -/
def imgLength : Nat := 0x29980000
/-- Puts a little-endian value of `n` bytes at an offset. -/
def Img.val (m : Img) (off n x : Nat) : Img := memPut m off (leBytes n x)
/-- Puts some values. -/
def Img.vals (m : Img) (l : List (Nat × Nat × Nat)) : Img := l.foldl (fun m x => Img.val m x.1 x.2.1 x.2.2) m
/-- Puts the bytes of a memory from a key upward. -/
def Img.region (m : Img) (off : Nat) (s : State) (key n : Nat) : Img :=
  (s.mem.filter fun c => key ≤ c.1 && c.1 < key + n).foldl (fun m c => memSet m (c.1 - key + off) c.2) m
/-- Puts the full/empty bits of the granules from `g` upward, `n` bytes of them. -/
def Img.granules (m : Img) (off : Nat) (s : State) (g n : Nat) : Img :=
  (numsFrom 0 n).foldl (fun m i =>
    memSet m (off + i) (BitVec.ofNat 8 (((numsFrom 0 8).map fun j =>
      if s.full (g + 8 * i + j) then 2 ^ j else 0).foldl (· + ·) 0))) m
/-- The value of `n` bytes at an offset. -/
def Img.nat (m : Img) (off n : Nat) : Nat := memNat m off n

/-! ### Tables (R358) -/

/-- The table area below the die's memories. -/
def Img.tables (m : Img) (x : Die) : Img :=
  let t := x.tables
  let m1 := Img.vals m (t.layouts.map fun e => (0x1000 + 32 * e.1, 32, e.2.toNat))
  let m2 := Img.vals m1 (t.shards.map fun e => (0x3000 + 4 * e.1, 4, e.2.toNat))
  let m3 := Img.vals m2 ((numsFrom 0 1024).map fun p =>
    (0x7000 + 2 * p, 2, match tabGet t.wheel p with | none => 0xFFFF | some c => c.toNat))
  let m4 := Img.vals m3 [(0x7800, 8, x.tr.p), (0x7808, 16, x.tr.mask.toNat)]
  let m5 := Img.vals m4 (x.sched.queues.map fun e => (0x8000 + 32 * e.1, 32,
    let q := e.2
    q.rbase.toNat + 2 ^ 64 * q.log2n + (if q.prod then 2 ^ 69 else 0) + (if q.held then 2 ^ 70 else 0) + 2 ^ 80 * q.vec +
      2 ^ 91 * q.note + 2 ^ 128 * q.head.toNat + 2 ^ 160 * q.tail.toNat))
  let m6 := Img.vals m5 (x.sched.launches.zipIdx.map fun e => (0x10000 + 128 * e.2, 128, e.1.header.toNat))
  let m7 := t.scheds.foldl (fun m e =>
    Img.vals (Img.val m (0x20000 + 8192 * e.1) 64 e.2.header.toNat) (e.2.steps.zipIdx.flatMap fun y =>
      let o := 0x20040 + 8192 * e.1 + 32 * y.2
      [(o, 2, y.1.sdie), (o + 2, 2, y.1.rdie), (o + 4, 4, y.1.scount), (o + 8, 8, y.1.sstart), (o + 16, 8, y.1.dstart),
        (o + 24, 4, y.1.rcount)])) m6
  Img.vals m7 (t.tids.map fun e => (0x40000 + 64 * e.1, 64, e.2.toNat))
/-- A queue's descriptor in an image. -/
def Img.queue (m : Img) (q : Nat) (old : Queue) : Queue :=
  let f := fun lo w => Img.nat m (0x8000 + 32 * q) 32 / 2 ^ lo % 2 ^ w
  { old with
    rbase := BitVec.ofNat 64 (f 0 64), log2n := f 64 5, prod := f 69 1 = 1, held := f 70 1 = 1, vec := f 80 11
    note := f 91 2, head := BitVec.ofNat 32 (f 128 32), tail := BitVec.ofNat 32 (f 160 32) }
/-- A table of nonzero values read back. -/
def Img.tab (m : Img) (off n count : Nat) (w : Nat) : Tab (BitVec w) :=
  (numsFrom 0 count).filterMap fun k =>
    let v := Img.nat m (off + n * k) n
    if v = 0 then none else some (k, BitVec.ofNat w v)
/-- A re-shard schedule read back. -/
def Img.sched (m : Img) (k : Nat) : Option (Nat × Schedule) :=
  let b := 0x20000 + 8192 * k
  let n := Img.nat m (b + 2) 2
  if n = 0 then none
  else some (k, { header := BitVec.ofNat 512 (Img.nat m b 64), steps := (numsFrom 0 n).map fun i =>
    let o := b + 0x40 + 32 * i
    { sdie := Img.nat m o 2, rdie := Img.nat m (o + 2) 2, scount := Img.nat m (o + 4) 4
      sstart := Img.nat m (o + 8) 8, dstart := Img.nat m (o + 16) 8, rcount := Img.nat m (o + 24) 4 } })
/-- The tables read back, beside what the image does not state. -/
def Img.loadTables (m : Img) (t : DieTables) : DieTables :=
  { t with
    layouts := Img.tab m 0x1000 32 256 256, shards := Img.tab m 0x3000 4 4096 32
    wheel := (numsFrom 0 1024).filterMap fun p =>
      let v := Img.nat m (0x7000 + 2 * p) 2
      if v = 0xFFFF then none else some (p, BitVec.ofNat 16 v)
    scheds := (numsFrom 0 16).filterMap (Img.sched m), tids := Img.tab m 0x40000 64 4096 512 }

/-! ### Cores (R358) -/

/-- MODE of a tile. -/
def modeCode : TileMode → Nat
  | .fp32 => 0 | .int32 => 1 | .fp64 => 2
/-- The mode of a code. -/
def codeMode (n : Nat) : TileMode := if n = 1 then .int32 else if n = 2 then .fp64 else .fp32
/-- A tile at an offset. -/
def Img.tile (m : Img) (o : Nat) (t : Tile) : Img :=
  let m1 := Img.vals m (t.rows.toList.zipIdx.map fun r => (o + 128 * r.2, 128, r.1.toNat))
  let m2 := Img.vals m1 (t.cs.toList.zipIdx.map fun r => (o + 0x1000 + 16 * r.2, 8, r.1.toNat))
  let m3 := Img.vals m2 (t.ms.toList.zipIdx.map fun r => (o + 0x1008 + 16 * r.2, 8, r.1.toNat))
  let m4 := Img.val m3 (o + 0x1200) 8 (modeCode t.mode + if t.poison then 4 else 0)
  match t.outl with
  | none => m4
  | some l => Img.vals m4 [(o + 0x1208, 8, 127 * 524288 + l.offset), (o + 0x1210, 8, l.count)]
/-- A tile read back. -/
def Img.loadTile (m : Img) (o : Nat) : Tile :=
  let n := Img.nat m (o + 0x1210) 8
  { rows := Vector.ofFn fun i => BitVec.ofNat 1024 (Img.nat m (o + 128 * i.val) 128)
    cs := Vector.ofFn fun i => BitVec.ofNat 64 (Img.nat m (o + 0x1000 + 16 * i.val) 8)
    ms := Vector.ofFn fun i => BitVec.ofNat 64 (Img.nat m (o + 0x1008 + 16 * i.val) 8)
    mode := codeMode (Img.nat m (o + 0x1200) 1 % 4), poison := Img.nat m (o + 0x1200) 1 / 4 % 2 = 1
    outl := if n = 0 then none else some { offset := Img.nat m (o + 0x1208) 8 % 524288, count := n } }
/-- Offset of a core block. -/
def coreBlock (c : Nat) : Nat := 0x12AC0000 + c * 0xA3000
/-- The registers of a core that its block holds. -/
def Img.core (m : Img) (c : Nat) (x : Core) : Img :=
  let b := coreBlock c
  let m1 := x.tiles.toList.zipIdx.foldl (fun m t => Img.tile m (b + 0x81000 + 0x1300 * t.2) t.1) m
  let m2 := Img.vals m1 (x.ucode.map fun e => (b + 0x8A800 + 8 * e.1, 8, e.2.toNat))
  Img.vals m2 (x.routines.map fun e => (b + 0x92800 + 4 * (e.1 - 64), 4, e.2.1 + 4096 * e.2.2))
/-- A core read back. -/
def Img.loadCore (m : Img) (c : Nat) (x : Core) : Core :=
  let b := coreBlock c
  { x with
    tiles := Vector.ofFn fun k => Img.loadTile m (b + 0x81000 + 0x1300 * k.val)
    ucode := Img.tab m (b + 0x8A800) 8 4096 64
    routines := (numsFrom 64 192).filterMap fun n =>
      let v := Img.nat m (b + 0x92800 + 4 * (n - 64)) 4
      if v / 4096 % 8192 = 0 then none else some (n, (v % 4096, v / 4096 % 8192)) }

/-! ### Contexts (R360, R361) -/

/-- The code of a vector register cap. -/
def capCode (n : Nat) : Nat := if n = 48 then 3 else if n = 32 then 2 else if n = 24 then 1 else 0
/-- The cap of a code. -/
def codeCap (n : Nat) : Nat := if n = 3 then 48 else if n = 2 then 32 else if n = 1 then 24 else 16
/-- STATE [2:0] of a context: a frozen one that slept in QPOP is recorded as asleep there, any other as Ready. -/
def Ctx.stateCode (c : Ctx) : Nat :=
  match c.st with
  | .idle => 0
  | .sleepQueue => 2 | .sleepBoundary => 3 | .suspended => 4
  | .frozen => if c.sleepRec.isSome then 2 else 1
  | .ready => 1 | .running => 1 | .stalled => 1
/-- The state that a code restores. -/
def codeState (n : Nat) : RunState :=
  if n = 0 then .idle else if n = 2 then .sleepQueue else if n = 3 then .sleepBoundary
  else if n = 4 then .suspended else .ready
/-- The control registers 0 to 23 of a context, as CTLR reads them. -/
def State.ctlList (s : State) (g : CtxId) : List Dword :=
  let s1 := s.focus g
  (List.finRange 64).take 24 |>.map s1.ctlRead
/-- STATE of a trap record (R361). -/
def TrapRec.word (r : TrapRec) : Nat :=
  r.bundle.perf.toNat + 512 * r.slot + (if r.bundle.pend.isSome then 8192 else 0) + (if r.defer then 16384 else 0) + 32768 +
    65536 * match r.xfer with
      | none => 0
      | some (.cpy h) => h
      | some (.rput p) => p + 16
/-- A trap record at an offset. Where the bundle's words could not be fetched, the record holds words of a number that the spec
does not give, and XRET fetches them (log 22). -/
def Img.trap (m : Img) (o fresh : Nat) (r : Option TrapRec) : Img :=
  match r with
  | none => m
  | some r =>
    let m1 := Img.vals m [(o, 8, r.bundle.rpc.toNat), (o + 8, 8, r.word), (o + 0x10, 8, (r.bundle.pend.getD 0).toNat)]
    let m2 := match r.saved with
      | none => m1
      | some v => Img.vals m1 ([v.tcause, v.tpc, v.tinfo0, v.tinfo1, v.tinfo2, v.tinfo3].zipIdx.map fun y =>
        (o + 0x18 + 8 * y.2, 8, y.1.toNat))
    let ws := if r.bundle.words.isEmpty then
        (numsFrom 1 (1 + Config.freeValue fresh % 10)).map fun i => Config.freeValue (fresh + i) % 4294967296
      else r.bundle.words.map (·.toNat)
    Img.val (Img.vals m2 (ws.zipIdx.map fun y => (o + 0x50 + 4 * y.2, 4, y.1))) (o + 0x78) 8 ws.length
/-- A trap record read back, beside its cause and the latches, which are not saved. -/
def Img.loadTrap (m : Img) (o : Nat) (old : Option TrapRec) : Option TrapRec :=
  let w := Img.nat m (o + 8) 8
  if w / 32768 % 2 = 0 then none
  else
    let f := fun k => BitVec.ofNat 64 (Img.nat m (o + 0x18 + 8 * k) 8)
    old.map fun r =>
      { r with
        bundle := {
          rpc := BitVec.ofNat 64 (Img.nat m o 8)
          words := if r.bundle.words.isEmpty then [] else
            (numsFrom 0 (Img.nat m (o + 0x78) 8 % 16)).map fun i => BitVec.ofNat 32 (Img.nat m (o + 0x50 + 4 * i) 4)
          perf := BitVec.ofNat 9 w
          pend := if w / 8192 % 2 = 1 then some (BitVec.ofNat 64 (Img.nat m (o + 0x10) 8)) else none }
        slot := w / 512 % 16, defer := w / 16384 % 2 = 1
        saved := r.saved.map fun _ =>
          { tcause := f 0, tpc := f 1, tinfo0 := f 2, tinfo1 := f 3, tinfo2 := f 4, tinfo3 := f 5 }
        aside := Vector.replicate 8 none }
/-- The place of a launch among the live ones, in order of acceptance. -/
def launchSlot (ls : List Launch) (id : Nat) : Nat := ls.findIdx fun l => l.id = id
/-- A context image at an offset. -/
def Img.ctx (m : Img) (o : Nat) (s : State) (g : CtxId) : Img :=
  let c := s.ctx g
  let at_ := fun (base n : Nat) (l : List Nat) => l.zipIdx.map fun y => (base + n * y.2, n, y.1)
  let m1 := Img.vals m [
    (o, 8, c.stateCode + 8 * c.level + 32 * capCode c.cap + 256 * launchSlot (s.die g.die).sched.launches c.launch +
      (if c.sailPend then 65536 else 0) + (if c.item.isSome then 131072 else 0)),
    (o + 8, 8, c.pc.toNat),
    (o + 0x10, 8, match c.item with | none => 0 | some i => i.index % 4294967296 + 4294967296 * i.queue),
    (o + 0x18, 8, match c.item with | none => 0 | some i => (i.node.getD 0).toNat)]
  let m2 := Img.vals m1 (at_ (o + 0x40) 8 (c.s.toList.map (·.toNat)) ++ at_ (o + 0x1C0) 8 ((s.ctlList g).map (·.toNat)) ++
    at_ (o + 0x280) 8 (c.a.toList.flatMap fun r => [r.base.toNat, r.stride.toNat, r.count.toNat]) ++
    at_ (o + 0x340) 8 (c.m.toList.map (·.toNat)) ++ at_ (o + 0x380) 32 (c.p.toList.map (·.toNat)) ++
    at_ (o + 0x580) 32 (c.live.toList.map (·.toNat)) ++ at_ (o + 0x780) 32 (c.shadow.toList.map (·.toNat)))
  let m3 := Img.trap (Img.trap m2 (o + 0x980) s.fresh c.rec1) (o + 0xA00) (s.fresh + 11) c.rec2
  Img.vals m3 (at_ (o + 0xB00) 256 ((c.v.toList.take c.cap).map (·.toNat)))
/-- The control registers of an image; ctl.rmp is the current version and ctl.wdog the budget (R363). -/
def Img.loadCtl (m : Img) (o version now budget : Nat) : Ctl :=
  let f := fun k => BitVec.ofNat 64 (Img.nat m (o + 0x1C0 + 8 * k) 8)
  { wid := f 0, warg := f 1, wdep := f 2, rmp := BitVec.ofNat 64 version, rmv := f 5
    rnd := BitVec.ofNat 2 (f 6).toNat, fflags := BitVec.ofNat 5 (f 7).toNat, stkb := f 8, stkl := f 9
    wdog := BitVec.ofNat 64 budget, cyc := BitVec.ofNat 64 now - f 11
    lcnt := f 13, lbeg := f 14, lend := f 15, lstep := BitVec.ofNat 8 (f 16).toNat, tvec := f 17, tcause := f 18
    tpc := f 19, tinfo0 := f 20, tinfo1 := f 21, tinfo2 := f 22, tinfo3 := f 23 }
/-- A context read back, beside what the image does not state. -/
def Img.loadCtx (m : Img) (o version now n : Nat) (c : Ctx) : Ctx :=
  let w := Img.nat m o 8
  let dw := fun base k => BitVec.ofNat 64 (Img.nat m (o + base + 8 * k) 8)
  let st := codeState (w % 8)
  let ctl := Img.loadCtl m o version now c.budget
  { c with
    st := st, level := w / 8 % 4, cap := codeCap (w / 32 % 4), sailPend := w / 65536 % 2 = 1
    pc := dw 8 0, s := Vector.ofFn fun i => dw 0x40 i.val
    v := Vector.ofFn fun i =>
      if i.val < codeCap (w / 32 % 4) then BitVec.ofNat 2048 (Img.nat m (o + 0xB00 + 256 * i.val) 256) else 0
    p := (Vector.ofFn fun i => BitVec.ofNat 256 (Img.nat m (o + 0x380 + 32 * i.val) 32)).set 0 (BitVec.allOnes 256)
    b := Vector.replicate 8 none
    a := Vector.ofFn fun i => ⟨dw 0x280 (3 * i.val), dw 0x280 (3 * i.val + 1), dw 0x280 (3 * i.val + 2)⟩
    m := Vector.ofFn fun i => dw 0x340 i.val
    live := Vector.ofFn fun i => BitVec.ofNat 256 (Img.nat m (o + 0x580 + 32 * i.val) 32)
    shadow := Vector.ofFn fun i => BitVec.ofNat 256 (Img.nat m (o + 0x780 + 32 * i.val) 32)
    ctl := ctl, rec1 := Img.loadTrap m (o + 0x980) c.rec1, rec2 := Img.loadTrap m (o + 0xA00) c.rec2
    item := if w / 131072 % 2 = 0 then none else c.item.map fun i =>
      { i with
        index := Img.nat m (o + 0x10) 4, queue := Img.nat m (o + 0x14) 2 % 1024
        node := if dw 0x18 0 = 0 then none else some (dw 0x18 0) }
    deadline := if ctl.rmv < ctl.rmp then st.deadline (n + 1) else none }

/-! ### The whole image (R358, R359, R362) -/

/-- Nothing stands in the Cleat's system area: no barrier, group counter, lock record or node log, and no queue, replay,
ready entry or binding to mirror (R240, R387). -/
def State.systemEmpty (s : State) (d : Nat) : Bool :=
  let x := s.die d
  let y := x.sched
  x.tables.barriers.isEmpty && x.tables.locks.isEmpty && y.groups.isEmpty && y.reserved.isEmpty && y.replays.isEmpty &&
    y.ready.isEmpty && y.binds.isEmpty && y.queues.all (fun q => q.2.head = 0 && q.2.tail = 0) &&
    (s.placedOn d).all fun g => match (s.ctx g).item with | none => true | some it => it.log.isEmpty
/-- The Cleat's system area in an image: zeros where it holds nothing, else bytes that the spec does not state: the tables
that they mirror stand in the model's own state (R240, R358, R387, log 56). -/
def Img.system (m : Img) (s : State) (d : Nat) : Img :=
  if s.systemEmpty d then m
  else (numsFrom 0 1048576).foldl (fun m i => memSet m (0x380000 + i) (Config.systemByte s.fresh i)) m
/-- The image of a die before its digest: header, tables, Cleat, vaults and core blocks. -/
def State.image (s : State) (d : Nat) (job : Dword) (r : Root) : Img :=
  let x := s.die d
  let h : Img := Img.vals [] [
    (0, 8, 1), (8, 8, job.toNat), (0x10, 8, s.hy.phc.toNat), (0x18, 8, s.plan.version),
    (0x20, 8, d + 65536 * s.fabricDie d), (0x28, 8, imgLength),
    (0x30, 8, s.hy.tmo + (if s.hy.extend then 16777216 else 0) + if s.hy.preen then 33554432 else 0),
    (0x40, 8, r.troot), (0x48, 8, r.imga), (0x50, 8, r.imgb), (0x58, 8, r.own.toNat)]
  let m1 := Img.system (Img.region (Img.tables h x) 0x80000 s (cleatKey d 0) 8388608) s d
  let m2 := Img.granules (Img.region m1 0x880000 s (vaultKey d 0 0) 301989888) 0x12880000 s (vaultKey d 0 0 / 16) 2359296
  let m3 := (numsFrom 0 576).foldl (fun m c =>
    let b := coreBlock c
    Img.granules (Img.region (Img.region m b s (spKey d c 0) (s.spLimit d c)) (b + 0x60000) s (wbKey d c 0) 131072)
      (b + 0x80000) s (spKey d c 0 / 16) 3072) m2
  let m4 := x.cores.foldl (fun m e => Img.core m e.1 e.2) m3
  ((s.placedOn d).filter fun g => (s.ctx g).ballast.isNone).foldl (fun m g =>
    Img.ctx m (coreBlock g.core + 0x93000 + 16384 * g.ctx) s g) m4
/-- DIGEST of an image, read with DIGEST and COPY as zero. -/
def Img.digest (m : Img) : BitVec 384 := sha384 (memBytes (Img.vals m [(0x38, 8, 0), (0x60, 48, 0)]) 0 imgLength)
/-- The columns of the line code: 1,024 of them, each other and no power of two, as extended Hamming has them (R362). The
columns that the spec does not give are free; where a choice of them made no such code, the lowest that do stand for them. -/
def lineColumns : List Nat :=
  let l := (numsFrom 0 1024).map fun i => (Config.lineColumn i).toNat
  if decide l.Nodup && l.all fun c => !isPow2 c then l else (eccCols 3 1035).take 1024
/-- The code of a line: 11 bits of syndrome and the parity of all, bits [15:12] zero (R362). -/
def lineCode (x : Nat) : BitVec 16 :=
  let syn := eccSyn lineColumns x % 2048
  BitVec.ofNat 16 (syn + 2048 * ((onesIn 1024 x + onesIn 11 syn) % 2))
/-- A line after correction by its code: one bit in error is mended, and `none` where two are (R362). -/
def lineFix (x : Nat) (code : BitVec 16) : Option Nat :=
  let s := (code.toNat % 2048) ^^^ (eccSyn lineColumns x % 2048)
  let p := (onesIn 1024 x + onesIn 12 code.toNat) % 2
  if p = 0 then if s = 0 then some x else none
  else if isPow2 s then some x
  else (indexIn lineColumns s).map fun i => x ^^^ 2 ^ i
/-- The lines below the check array that hold a byte other than zero. -/
def Img.lines (m : Img) : List Nat := ((m.filter fun c => c.1 < imgLength).map fun c => c.1 / 128).eraseDups
/-- The image with its check array; a line of zeros has the code zero, as in every linear code. -/
def Img.coded (m : Img) : Img :=
  Img.vals m ((Img.lines m).map fun k => (imgLength + 2 * k, 2, (lineCode (Img.nat m (128 * k) 128)).toNat))
/-- A copy of the image: COPY, DIGEST and codes. -/
def Img.copy (m : Img) (b : Nat) : Img := Img.coded (Img.vals m [(0x38, 8, b), (0x60, 48, (Img.digest m).toNat)])
/-- The image after single-bit lines are corrected; `none` where a line is uncorrectable. -/
def Img.corrected (m : Img) : Option Img :=
  let ks := (Img.lines m ++ (m.filter fun c => c.1 ≥ imgLength).map fun c => (c.1 - imgLength) / 2).eraseDups
  ks.foldlM (fun m k =>
    (lineFix (Img.nat m (128 * k) 128) (BitVec.ofNat 16 (Img.nat m (imgLength + 2 * k) 2))).map
      fun x => Img.val m (128 * k) 128 x) m
/-- An image that may be loaded: corrected, with a digest that matches. -/
def Img.good (m : Img) : Option Img :=
  match Img.corrected m with
  | none => none
  | some x => if BitVec.ofNat 384 (Img.nat x 0x60 48) = Img.digest x then some x else none

/-! ### Copies in device memory (R356, R357, R363) -/

/-- Pages of an image area. -/
def imgPages : Nat := 0x2C00
/-- Writes an image to an area: every byte of the area, with fresh codes. -/
def State.putImage (s : State) (d base : Nat) (m : Img) : State :=
  let keys := (numsFrom 0 imgPages).map fun i => s.dpaCell d (base + 65536 * i)
  let clear := keys.foldl (fun (s : State) k => { s with
    mem := (pageCells s.mem k).foldl (fun m c => memSet m c.1 0) s.mem
    codes := (pageCodes s.codes k).foldl (fun t c => tabErase t c.1) s.codes }) s
  { clear with mem := m.foldl (fun t c => memSet t (s.dpaCell d (base + c.1)) c.2) clear.mem }
/-- Reads an image from an area; `none` where DRAM reads uncorrectable. -/
def State.getImage (s : State) (d base : Nat) : Option Img :=
  (numsFrom 0 imgPages).foldlM (fun m i =>
    let k := s.dpaCell d (base + 65536 * i)
    if (pageCodes s.codes k).any fun c => (s.readWord c.1).1 ≥ 2 then none
    else
      let s1 := (pageCodes s.codes k).foldl (fun s c => if (s.readWord c.1).1 = 1 then s.writeWord c.1 (s.readWord c.1).2 else s) s
      some ((pageCells s1.mem k).foldl (fun m c => memSet m (65536 * i + (c.1 - k)) c.2) m)) []

/-! ### SRAM of a die (R77, R342) -/

/-- The key lies in an SRAM of a die. -/
def sramOf (d k : Nat) : Bool := d * 16 * 1099511627776 ≤ k && k < (d * 16 + 4) * 1099511627776
/-- The scrub of a die's SRAM: every byte zero, every granule full, every code fresh. -/
def State.scrub (s : State) (d : Nat) : State :=
  { s with
    mem := (s.mem.filter fun c => sramOf d c.1).foldl (fun m c => memSet m c.1 0) s.mem
    empty := s.empty.filter fun g => !sramOf d (16 * g)
    bad := s.bad.filter fun w => !sramOf d (8 * w) }
/-- Reads a region of an image back into memory. -/
def State.loadRegion (s : State) (key n : Nat) (m : Img) (off : Nat) : State :=
  { s with mem := (m.filter fun c => off ≤ c.1 && c.1 < off + n).foldl (fun t c => memSet t (key + (c.1 - off)) c.2) s.mem }
/-- Reads full/empty bits back. -/
def State.loadGranules (s : State) (g n : Nat) (m : Img) (off : Nat) : State :=
  s.setEmpty ((numsFrom 0 (8 * n)).filterMap fun i =>
    if (memGet m (off + i / 8)).getLsbD (i % 8) then none else some (g + i))
/-- PIN bits set for a root are cleared, but for the groups of `keep` and the sail plan's (R399). -/
def State.unpin (s : State) (d : Nat) (keep : List Nat) : State :=
  s.modTiers d fun t => { t with
    remap := t.remap.map fun e => if e.1 = 0xFFFFF || keep.contains e.1 then e else (e.1, { e.2 with pin := false }) }
/-- The groups of an image area. -/
def imgGroups (base : Nat) : List Nat := (numsFrom 0 imgPages).map fun i => dpaGroup (base + 65536 * i)
/-- The groups of the image areas of a root. -/
def Root.groups (r : Root) : List Nat := imgGroups r.imga ++ imgGroups r.imgb
/-- `last` is the root set last on a die: the groups of every other root are unpinned, unless its directory entry is there
(R399). -/
def State.lastRoot (s : State) (d : Nat) (last : Option Root) : State :=
  let roots := last.toList ++ (s.die d).xl.dir.map (·.root)
  (s.unpin d (roots.flatMap Root.groups)).modDie d fun x => { x with xl := { x.xl with last := last } }
/-- The state of a die read back from an image (R363). -/
def State.loadImage (s : State) (d : Nat) (m : Img) (e : DirEntry) : State :=
  let s1 := s.scrub d
  let s2 := (s1.loadRegion (cleatKey d 0) 8388608 m 0x80000).loadRegion (vaultKey d 0 0) 301989888 m 0x880000
  let s3 := (numsFrom 0 576).foldl (fun s c =>
    let b := coreBlock c
    ((s.loadRegion (spKey d c 0) 393216 m b).loadRegion (wbKey d c 0) 131072 m (b + 0x60000)).loadGranules
      (spKey d c 0 / 16) 3072 m (b + 0x80000)) (s2.loadGranules (vaultKey d 0 0 / 16) 2359296 m 0x12880000)
  let v := e.saved
  let s4 := s3.modDie d fun x => { x with
    cores := v.cores.map fun c => (c.1, { Img.loadCore m c.1 c.2 with
      queue := [], rept := none, running := none, offer := false, ballasts := 0 })
    tables := Img.loadTables m v.tables
    sched := { v.sched with
      queues := v.sched.queues.map fun q => (q.1, Img.queue m q.1 q.2)
      launches := v.sched.launches.zipIdx.map fun l =>
        { l.1 with header := BitVec.ofNat 1024 (Img.nat m (0x10000 + 128 * l.2) 128) } }
    tr := { v.tr with p := Img.nat m 0x7800 8, mask := BitVec.ofNat 72 (Img.nat m 0x7808 16), ways := [], jobs := [] }
    job := some e.job, diag := v.diag, launched := v.launched, xf := { x.xf with former := v.former }, xl := { x.xl with
      root := some e.root, tlb := [], dir := x.xl.dir.drop 1 } }
  v.ctxs.foldl (fun s c =>
    let g := ctxIn d c.1
    s.setCtx g (Img.loadCtx m (coreBlock g.core + 0x93000 + 16384 * g.ctx) s.plan.version (s.cycOf g.die g.core) e.phc c.2))
    (s4.lastRoot d (some e.root))
/-- What a die keeps of its state beside the image. -/
def State.saved (s : State) (d : Nat) : Saved :=
  let x := s.die d
  { cores := x.cores, tables := x.tables, sched := x.sched, tr := x.tr, former := x.xf.former, launched := x.launched
    ctxs := ((s.placedOn d).filter fun g => (s.ctx g).ballast.isNone).map fun g => (g.inDie, s.ctx g)
    plan := s.planDie d, diag := x.diag, pkgs := s.hy.pkgs }
/-- The plan lacks a core, vault, link, stack or tier that a saved image holds state for (R363). -/
def State.lacks (s : State) (d : Nat) (v : Saved) : Bool :=
  let p := s.planDie d
  !s.dieAlive d || v.ctxs.any (fun c => !s.coreAlive d (c.1 / 4)) || v.cores.any (fun c => !s.coreAlive d c.1) ||
    v.plan.vaults &&& ~~~p.vaults ≠ 0 || (v.plan.hbm && !p.hbm) || (v.plan.cap && !p.cap) ||
    (numsFrom 0 6).any fun i => v.plan.ports[i]?.getD 0 ≠ 0 && p.ports[i]?.getD 0 = 0

end Sys2Proof.Machine
end

