-- ==== Sys2Proof/Machine/HostCmd.lean ====
section
/-! DEFINITION. The command ring: the record at CMD_HEAD, its checks and status, and the fourteen commands (R41 to R44,
R340 to R342, R356 to R365). -/

namespace Sys2Proof.Machine

/-! ### Command records (R341) -/

/-- A command record: its fields and its host bus address. -/
structure Cmd where
  opc : Nat
  mask : Nat
  flags : Nat
  args : Nat
  addr : Nat
  deriving DecidableEq, Repr

/-- `n` bytes of ARGS at an offset of the record. -/
def Cmd.arg (c : Cmd) (off n : Nat) : Nat := c.args / 2 ^ (8 * (off - 0x10)) % 2 ^ (8 * n)
/-- PRIV. -/
def Cmd.priv (c : Cmd) : Bool := c.flags / 2 % 2 = 1
/-- The named dies. -/
def Cmd.dies (c : Cmd) : List Nat := (numsFrom 0 8).filter fun d => c.mask / 2 ^ d % 2 = 1
/-- The record at CMD_HEAD, where one waits. -/
def State.nextCmd (s : State) : Option Cmd :=
  let h := s.host
  if !h.cmdEn || !s.boot.ready || h.cmdHead = h.cmdTail then none
  else
    let a := h.ringBase.toNat + 64 * (h.cmdHead.toNat % 2 ^ h.ringLog2n)
    let f := fun off n => s.rd (hostKey (a + off)) n
    some { opc := f 0 2, mask := f 2 1, flags := f 3 1, args := f 0x10 48, addr := a }
/-- How a command fails: CODE and DETAIL. -/
structure CmdFail where
  code : Nat
  detail : Nat
  deriving DecidableEq, Repr
/-- What a command does on the dies it names, or how it fails. -/
abbrev CmdOp := State → Cmd → Except CmdFail State
/-- REFUSED with an offset. -/
def refuse (off : Nat) : CmdFail := { code := 4, detail := off }
/-- BUSY with a die. -/
def busy (d : Nat) : CmdFail := { code := 2, detail := d }
/-- Fails where the test holds. -/
def failIf (c : Bool) (f : CmdFail) : Except CmdFail Unit := if c then .error f else .ok ()
/-- The command completes: STATUS, HEAD, and vector 0 with NOTIFY. -/
def State.complete (s : State) (c : Cmd) (f : CmdFail) : State :=
  let s1 := (s.wr (hostKey (c.addr + 8)) 8 (f.code + 65536 * (f.detail % 65536) + 2 ^ 63)).modHost fun h =>
    { h with cmdHead := h.cmdHead + 1 }
  if c.flags % 2 = 1 then s1.sendVec 0 else s1
/-- The checks that every command makes first: reserved flags, PRIV, the sail plan, and an open job (R341). -/
def State.cmdCheck (s : State) (c : Cmd) (job : Bool) : Except CmdFail Unit := do
  failIf (c.flags / 4 ≠ 0 || (c.priv && c.opc ≠ 0x0B) || c.dies.any fun d => !s.dieAlive d) { code := 1, detail := 0 }
  failIf (job && c.dies.any fun d => (s.die d).job.isNone) { code := 3, detail := 0 }
/-- The command at CMD_HEAD executes where its OPC is `opc`, or completes BADCMD where its OPC is unknown. -/
def runCmd (opc : Nat) (mine : Cmd → Bool) (job : Bool) (op : CmdOp) (s : State) : State :=
  match s.nextCmd with
  | none => s
  | some c =>
    if c.opc = 0 || c.opc > 0x0D then s.complete c { code := 1, detail := 0 }
    else if c.opc ≠ opc || !mine c then s
    else match (do s.cmdCheck c job; op s c : Except CmdFail State) with
      | .error f => s.complete c f
      | .ok s1 => s1.complete c { code := 0, detail := 0 }
/-- Every command of an OPC. -/
def anyCmd (_ : Cmd) : Bool := true
/-- `n` bytes of host memory at a bus address: a DMA read. It fails where one of the 64-bit words it touches is listed in
`bad`, the outside world's to say (R341, log 53). -/
def State.dma (s : State) (a n : Nat) : Except CmdFail (List Byte) := do
  let k := hostKey a
  failIf (n ≠ 0 && (numsFrom (k / 8) ((k + n - 1) / 8 - k / 8 + 1)).any fun w => s.bad.contains w) { code := 6, detail := 0 }
  .ok (s.bytes k n)
/-- A little-endian value of host memory, by a DMA read. -/
def State.dmaNat (s : State) (a n : Nat) : Except CmdFail Nat := (s.dma a n).map leNat
/-- Some records of `n` bytes from a bus address, with their numbers, by a DMA read. -/
def State.dmaRecs (s : State) (a n count : Nat) : Except CmdFail (List (Nat × Nat)) :=
  (numsFrom 0 count).mapM fun k => (s.dmaNat (a + n * k) n).map fun x => (k, x)

/-! ### JOB_OPEN and JOB_CLOSE -/

/-- The state of a die at job start (R77, R191, R240, R288, R342); what belongs to the silicon and the directory
stays, and so do diagnostic packets under way, whose replies are discarded as they arrive (R392, R408). -/
def Die.fresh (x : Die) (job : Option Dword) (diag : Bool) : Die :=
  { x with
    cores := [], tables := Die.reset.tables, sched := Die.reset.sched, xf := Die.reset.xf, tr := Die.reset.tr
    xl := { x.xl with root := none, tlb := [] }
    job := job, diag := diag, launched := false
    tiers := { x.tiers with diag := (dropWhere x.tiers.diag (·.arrived)).map fun p => { p with orphan := true } } }
/-- Every context of a die holds no program. -/
def State.idleAll (s : State) (d : Nat) : State := s.modAll (s.placedOn d) fun _ => Ctx.idle
/-- Carry windows of transfers that a die issued close everywhere. -/
def State.dropWindowsOf (s : State) (d : Nat) : State :=
  { s with dies := s.dies.map fun x => { x with
      xf := { x.xf with windows := dropWhere x.xf.windows fun w => w.owner % 8 = d } } }
/-- A die is scrubbed and holds `job`, or is free. -/
def State.freshDie (job : Option Dword) (diag : Bool) (s : State) (d : Nat) : State :=
  ((((s.idleAll d).scrub d).dropWindowsOf d).ordered d).modDie d fun x => x.fresh job diag
/-- The Halyard of a domain whose counter is `phc`. -/
def Halyard.begin_ (h : Halyard) (phc : BitVec 64) (pkgs : List (Nat × Nat × Nat)) : Halyard :=
  { h with
    phc := phc, extended := false, frozen := false, arrived := 0, timer := none, expiries := 0, pkgs := pkgs }
/-- A package of a domain list, in the form of PKG (R377). -/
def pkgOf (x : Nat) : Nat × Nat × Nat := (x % 8, x / 8 % 8, x / 64 % 8)
/-- A die that a job other than `job` holds, a named one before the package's others, which are of its domain (R18). -/
def State.heldByOther (s : State) (c : Cmd) (job : Dword) : Option Nat :=
  let held := fun d => match (s.die d).job with | none => false | some j => j ≠ job
  ((c.dies ++ numsFrom 0 8).find? held)
/-- JOB_OPEN: claims the named dies for a job and gives them the state of a job's start; ctl.phc becomes 0. -/
def jobOpen : CmdOp := fun s c => do
  let job : Dword := BitVec.ofNat 64 (c.arg 0x10 8)
  failIf (c.arg 0x24 4 ≥ 2) { code := 1, detail := 0 }
  let pkgs ← s.dmaRecs (c.arg 0x18 8) 8 (c.arg 0x20 4)
  match s.heldByOther c job with
  | some d => .error (busy d)
  | none =>
    failIf (pkgs.any fun p => !s.reaches (pkgOf p.2)) (busy 0xFFFF)
    let s1 := c.dies.foldl (State.freshDie (some job) (c.arg 0x24 4 = 1)) s
    .ok { s1 with hy := s1.hy.begin_ 0 (pkgs.map fun p => pkgOf p.2) }
/-- JOB_OPEN (R342) -/
def execJobOpen (s : State) : Host.Outcome State Fault Refusal := .next (runCmd 0x01 anyCmd false jobOpen s)

/-- The block whose bytes a way holds and device memory does not yet (R219, R442). -/
def Way.owed (y : Way) : Option Nat :=
  match y.pending with
  | some b => some b
  | none => if y.st = .dirty || y.st = .writing then some y.block else none
/-- A write-back that fails while its job ends: recorded as for an Idle context, under the context whose WBACK or EVICT asked
for it, or where none did under the block's address (R206, R219, log 53). -/
def State.flushFault (s : State) (d w b : Nat) (c : Cause) : State :=
  match (s.die d).tr.jobs.find? fun j => j.way = w && j.wb with
  | some j => s.recordFault (ctxIn d j.ctx) { cause := c, tpc := j.tpc, info := {}, xfer := none }
  | none => s.raiseJob d .idlefault (some (BitVec.ofNat 64 c.code)) (some (BitVec.ofNat 64 (b * 2048)))
/-- Writes one dirty block back, or records why it cannot be. -/
def State.flushWay (s : State) (d w b : Nat) : State :=
  if s.badRead (s.frameKey d w) 2048 then s.flushFault d w b .eccUncorrectable
  else match s.dvaCanPut d (b * 2048) 2048 with
    | .error e => s.flushFault d w b e.1.cause
    | .ok _ => s.dvaPut d (b * 2048) (s.bytes (s.frameKey d w) 2048) (.writeBack w)
/-- Writes back the dirty blocks of a die's Trellis and empties its ways. -/
def State.flushTrellis (s : State) (d : Nat) : State :=
  ((s.die d).tr.ways.foldl (fun (s : State) e => match e.2.owed with
    | none => s
    | some b => s.flushWay d e.1 b) s).modTr d fun t => { t with ways := [], jobs := [] }
/-- The end of a job on a die: no owned units but those of its directory entries (R365). Its pinned groups stay so until
another root replaces its own (R399). -/
def State.release (s : State) (d : Nat) (job : Dword) : State :=
  if (s.die d).xl.dir.any fun e => e.job = job then s
  else s.modDie d fun x => { x with xl := { x.xl with owners := dropWhere x.xl.owners fun o => o.1 = job } }
/-- A write-back that a close makes waits on a diagnostic packet (R392, R393). -/
def State.flushHeld (s : State) (d : Nat) : Bool :=
  (s.die d).tr.ways.any fun e => match e.2.owed with | none => false | some b => s.dvaHeld d (b * 2048) 2048 .write
/-- The park buffers take the write-backs of a close, and no packet holds them; else it waits (R370, R393). -/
def State.closeFits (s : State) (c : Cmd) : Bool :=
  c.dies.all fun d => ((s.flushTrellis d).die d).tiers.parked.length ≤ 256 && !s.flushHeld d
/-- JOB_CLOSE: contexts Idle, dirty blocks written back, SRAM scrubbed, the dies free. -/
def jobClose : CmdOp := fun s c =>
  let close := fun (s : State) d =>
    let job := (s.die d).job.getD 0
    State.freshDie none false ((s.flushTrellis d).release d job) d
  let s1 := c.dies.foldl close s
  .ok (if s1.domain.isEmpty then { s1 with hy := s1.hy.begin_ s1.hy.phc [] }
    else { s1 with hy := { s1.hy with
        arrived := s1.hy.arrived &&& BitVec.ofNat 8 ((s1.domain.map fun d => 2 ^ d).foldl (· + ·) 0) } })
/-- JOB_CLOSE (R342) -/
def execJobClose (s : State) : Host.Outcome State Fault Refusal := .next (runCmd 0x02 (fun c => s.closeFits c) true jobClose s)

/-! ### PAGEROOT (R357, R364, R365, R379, R399) -/

/-- Device physical addresses of a die. -/
def dpaLimit : Nat := 0x3000000000
/-- Bytes of an image area. -/
def imgBytes : Nat := 0x2C000000
/-- Two areas of an image's size overlap. -/
def imgMeets (a b : Nat) : Bool := a < b + imgBytes && b < a + imgBytes
/-- An image area breaks a limit: alignment, the DPA space, the sail plan page, or the owned units. -/
def imgBad (own : BitVec 64) (a : Nat) : Bool :=
  a % 65536 ≠ 0 || a + imgBytes > dpaLimit || (a < sailPage + 65536 && sailPage < a + imgBytes) ||
    (numsFrom (a / 0xC0000000) ((a + imgBytes - 1) / 0xC0000000 - a / 0xC0000000 + 1)).any fun u => !own.getLsbD u
/-- The offset of the first field of a root record that a die refuses. -/
def State.rootBad (s : State) (d : Nat) (r : Root) : Option Nat :=
  let x := s.die d
  if r.troot % 4096 ≠ 0 || r.troot ≥ dpaLimit then some 0
  else if imgBad r.own r.imga || (imgGroups r.imga).contains 0xFFFFF then some 0x08
  else if imgBad r.own r.imgb || imgMeets r.imga r.imgb then some 0x10
  else if x.xl.owners.any fun o => if some o.1 = x.job then o.2 &&& ~~~r.own ≠ 0 else o.2 &&& r.own ≠ 0 then some 0x18
  else none
/-- Places a page of copy A in its fast slot, or a page of copy B out of it, by a move where it must, and pins its group (R399,
R403). -/
def State.placePage (fast : Bool) (d base : Nat) (s : State) (i : Nat) : State :=
  let g := dpaGroup (base + 65536 * i)
  let j := dpaMember (base + 65536 * i)
  let r := s.remapOf d g
  let m := if fast then j else if r.fast = j then r.slot0 else r.fast
  let s1 := if m = r.fast then s else
    ((s.exchangeSlots d g m).modTiers d fun t => { t with swaps := t.swaps + 1 }).count d 0xDC0 1
  s1.modTiers d fun t => { t with
    remap := tabSet t.remap g { tabGetD t.remap g Remap.reset with pin := true } }
/-- Sets the root of a die. -/
def State.setRoot (r : Root) (s : State) (d : Nat) : State :=
  let s1 := s.lastRoot d (some r)
  let s2 := (numsFrom 0 imgPages).foldl (State.placePage true d r.imga) s1
  let s3 := (numsFrom 0 imgPages).foldl (State.placePage false d r.imgb) s2
  s3.modDie d fun x => { x with xl := { x.xl with
    root := some r, tlb := []
    owners := (dropWhere x.xl.owners fun o => some o.1 = x.job) ++ [(x.job.getD 0, r.own)] } }
/-- PAGEROOT: the translation root of the named dies. -/
def pageRoot : CmdOp := fun s c => do
  let r : Root := { troot := c.arg 0x10 8, imga := c.arg 0x18 8, imgb := c.arg 0x20 8, own := BitVec.ofNat 64 (c.arg 0x28 8) }
  match c.dies.findSome? fun d => s.rootBad d r with
  | some o => .error (refuse o)
  | none => .ok (c.dies.foldl (State.setRoot r) s)
/-- A diagnostic packet holds a slot of some group of a list (R392, R393). -/
def State.groupsHeld (s : State) (d : Nat) (gs : List Nat) : Bool :=
  !(s.die d).tiers.diag.isEmpty && gs.any fun g =>
    s.bdaHeld d 0 (g * 65536) 65536 || s.bdaHeld d 1 (g * 65536) 65536 || s.bdaHeld d 1 (68719476736 + g * 65536) 65536
/-- A move in progress in a group of the root's image areas holds the command back: it completes only after the moves; so
does a diagnostic packet to a page of them. -/
def State.rootWaits (s : State) (c : Cmd) : Bool :=
  let gs := imgGroups (c.arg 0x18 8) ++ imgGroups (c.arg 0x20 8)
  c.dies.any fun d => (s.die d).tiers.moves.any (fun m => gs.contains m.group) || s.groupsHeld d gs
/-- PAGEROOT (R342, R364) -/
def execPageroot (s : State) : Host.Outcome State Fault Refusal :=
  .next (runCmd 0x03 (fun c => !s.rootWaits c) true pageRoot s)

/-! ### TRELLIS, WHEEL, LAYOUTS, SCHED, TIDS -/

/-- A named die where the job has made a launch. -/
def State.launchedOn (s : State) (c : Cmd) : Option Nat := c.dies.find? fun d => (s.die d).launched
/-- TRELLIS: the partition size and the vault mask (R71). -/
def trellisCmd : CmdOp := fun s c => do
  failIf (c.arg 0x10 8 > 16) (refuse 0x10)
  failIf (c.arg 0x18 16 ≥ 2 ^ 72) (refuse 0x18)
  match s.launchedOn c with
  | some d => .error (busy d)
  | none =>
    .ok (c.dies.foldl (fun (s : State) d => s.modTr d fun _ =>
      { Die.reset.tr with p := c.arg 0x10 8, mask := BitVec.ofNat 72 (c.arg 0x18 9) }) s)
/-- TRELLIS (R342, R71) -/
def execTrellis (s : State) : Host.Outcome State Fault Refusal := .next (runCmd 0x04 anyCmd true trellisCmd s)
/-- WHEEL: the reservation table (R283). -/
def wheelCmd : CmdOp := fun s c => do
  let es ← s.dmaRecs (c.arg 0x10 8) 2 1024
  match es.find? fun e => e.2 > 575 && e.2 ≠ 0xFFFF with
  | some e => .error (refuse (2 * e.1))
  | none => match s.launchedOn c with
  | some d => .error (busy d)
  | none =>
    let w := (es.filter fun e => e.2 ≠ 0xFFFF).map fun e => (e.1, BitVec.ofNat 16 e.2)
    .ok (c.dies.foldl (fun (s : State) d => s.modTables d fun t => { t with wheel := w }) s)
/-- WHEEL (R342, R283) -/
def execWheel (s : State) : Host.Outcome State Fault Refusal := .next (runCmd 0x05 anyCmd true wheelCmd s)
/-- LAYOUTS: entries of the layout table, with the records' VERSIONs (R286, R288). -/
def layoutsCmd : CmdOp := fun s c => do
  let first := c.arg 0x18 4
  let count := c.arg 0x1C 4
  failIf (first ≥ 256) (refuse 0x18)
  failIf (first + count > 256) (refuse 0x1C)
  let raw ← s.dmaRecs (c.arg 0x10 8) 32 count
  let rs := raw.map fun r => (r.1, BitVec.ofNat 256 r.2)
  match rs.find? fun r => (layBad r.2 true).isSome with
  | some r => .error (refuse (32 * r.1 + (layBad r.2 true).getD 0))
  | none =>
    .ok (c.dies.foldl (fun (s : State) d => s.modTables d fun t => { t with
      layouts := rs.foldl (fun l r => tabSet l (first + r.1) r.2) t.layouts }) s)
/-- LAYOUTS (R342, R286) -/
def execLayouts (s : State) : Host.Outcome State Fault Refusal := .next (runCmd 0x06 anyCmd true layoutsCmd s)
/-- The link directions that a send from die `d` to die `e` takes in x, y, z order (R299). -/
def linkHops (d e : Nat) : List (Nat × Nat) :=
  let h := fun (p : Nat × List (Nat × Nat)) a =>
    if p.1 / 2 ^ a % 2 = e / 2 ^ a % 2 then p else (p.1 ^^^ 2 ^ a, p.2 ++ [(p.1, a)])
  ([0, 1, 2].foldl h (d, [])).2
/-- The link directions of step `t` of a die's schedule. -/
def State.schedHops (s : State) (k : Schedule) (d t : Nat) : List (Nat × Nat) :=
  match k.steps[t]? with
  | none => []
  | some y => match s.dieOfFabric y.sdie with
    | none => []
    | some e => linkHops d e
/-- A step of a schedule from its 32 bytes (R299). -/
def stepOf (x : Nat) : SchedStep :=
  let f := fun off n => x / 2 ^ (8 * off) % 2 ^ (8 * n)
  { sdie := f 0 2, rdie := f 2 2, scount := f 4 4, sstart := f 8 8, dstart := f 16 8, rcount := f 24 4 }
/-- The first field of a schedule beyond NSTEP that breaks R299, by its offset. -/
def schedBad (h : BitVec 512) (raw : List (Nat × Nat)) : Option Nat :=
  if fieldAt h 96 8 > 8 then some 0x0C
  else if fieldAt h 104 24 ≠ 0 then some 0x0D
  else if fieldAt h 288 224 ≠ 0 then some 0x24
  else (raw.find? fun r => r.2 / 2 ^ 224 ≠ 0).map fun r => 0x5C + 32 * r.1
/-- The first step whose send takes a link direction that another die's schedule of the slot takes in the same step. -/
def State.schedMeets (s : State) (slot : Nat) (news : List Nat) (k : Schedule) : Option Nat :=
  let of_ := fun e => if news.contains e then some k else tabGet (s.die e).tables.scheds slot
  (numsFrom 0 k.steps.length).find? fun t =>
    let hops := s.liveDies.flatMap fun e => match of_ e with | none => [] | some y => (s.schedHops y e t).map fun h => (e, h)
    hops.any fun x => news.contains x.1 && hops.any fun y => y.1 ≠ x.1 && y.2 = x.2
/-- SCHED: a re-shard schedule into a slot, its header read before its steps (R299). -/
def schedCmd : CmdOp := fun s c => do
  let slot := c.arg 0x18 4
  failIf (slot > 15) (refuse 0x18)
  let hdr ← s.dmaNat (c.arg 0x10 8) 64
  let h : BitVec 512 := BitVec.ofNat 512 hdr
  failIf (fieldAt h 16 16 = 0 || fieldAt h 16 16 > 64) (refuse 0x02)
  let raw ← s.dmaRecs (c.arg 0x10 8 + 64) 32 (fieldAt h 16 16)
  let k : Schedule := { header := h, steps := raw.map fun r => stepOf r.2 }
  match schedBad h raw with
  | some o => .error (refuse o)
  | none => match s.schedMeets slot c.dies k with
    | some t => .error (refuse (0x40 + 32 * t))
    | none =>
      .ok (c.dies.foldl (fun (s : State) d => s.modTables d fun t => { t with scheds := tabSet t.scheds slot k }) s)
/-- SCHED (R342, R299) -/
def execSched (s : State) : Host.Outcome State Fault Refusal := .next (runCmd 0x07 anyCmd true schedCmd s)
/-- TIDS: tensor identifier entries from maps (R223, R224). -/
def tidsCmd : CmdOp := fun s c => do
  let first := c.arg 0x18 4
  let count := c.arg 0x1C 4
  failIf (first ≥ 4096) (refuse 0x18)
  failIf (first + count > 4096) (refuse 0x1C)
  let raw ← s.dmaRecs (c.arg 0x10 8) 64 count
  let rs := raw.map fun r => (r.1, BitVec.ofNat 512 r.2)
  match rs.find? fun r => (mapFault r.2).isSome with
  | some r => .error { code := 5, detail := 64 * r.1 + (mapFault r.2).getD 0 }
  | none => .ok (c.dies.foldl (fun s d => rs.foldl (fun (s : State) r => s.tidWrite d (first + r.1) r.2) s) s)
/-- TIDS (R342, R224) -/
def execTids (s : State) : Host.Outcome State Fault Refusal := .next (runCmd 0x08 anyCmd true tidsCmd s)

/-! ### IMAGE and QUEUES -/

/-- Writes bytes of an SRAM from a key upward, its granules full (R77, R342). -/
def State.imagePut (bs : List Byte) (s : State) (k : Nat) : State := (s.put k bs).setFull (granulesOf k bs.length)
/-- IMAGE: bytes into scratchpads or a vault. Bits of the word at 0x1C that its kind does not use are reserved (R341). -/
def imageCmd : CmdOp := fun s c => do
  let n := c.arg 0x18 4
  let sel := c.arg 0x1C 4
  let off := c.arg 0x20 8
  failIf (if sel % 2 = 1 then sel / 2 % 128 ≠ 0 || sel ≥ 32768 else sel ≥ 128) { code := 1, detail := 0 }
  if sel % 2 = 1 then
    let v := sel / 256 % 128
    failIf (v ≥ 72) (refuse 0x1C)
    failIf (n > 4194304) (refuse 0x18)
    failIf (off + n > 4194304) (refuse 0x20)
    let bs ← s.dma (c.arg 0x10 8) n
    .ok (c.dies.foldl (fun s d => State.imagePut bs s (vaultKey d v off)) s)
  else
    let cores := (numsFrom 0 576).filter fun k => sel / 2 ^ (1 + k / 96) % 2 = 1
    failIf (n > spBytes) (refuse 0x18)
    failIf (off + n > spBytes || c.dies.any fun d => cores.any fun k => off + n > s.spLimit d k) (refuse 0x20)
    let bs ← s.dma (c.arg 0x10 8) n
    .ok (c.dies.foldl (fun s d => cores.foldl (fun s k => State.imagePut bs s (spKey d k off)) s) s)
/-- IMAGE (R342) -/
def execImage (s : State) : Host.Outcome State Fault Refusal := .next (runCmd 0x09 anyCmd true imageCmd s)
/-- A queue's descriptor from the 32 bytes of a QUEUES command (R343). -/
def Queue.ofDesc (v now : Nat) : Queue :=
  let f := fun lo w => v / 2 ^ lo % 2 ^ w
  { rbase := BitVec.ofNat 64 (f 0 64), log2n := f 64 5, prod := f 69 1 = 1, held := false, vec := f 80 11, note := f 91 2
    head := BitVec.ofNat 32 (f 128 32), tail := BitVec.ofNat 32 (f 160 32), aged := 0, since := now, stuck := false }
/-- QUEUES: queue descriptors; BUSY for one that a live launch holds. -/
def queuesCmd : CmdOp := fun s c => do
  let first := c.arg 0x18 4
  let count := c.arg 0x1C 4
  failIf (first ≥ 1024) (refuse 0x18)
  failIf (first + count > 1024) (refuse 0x1C)
  match c.dies.find? fun d => (numsFrom first count).any fun q => (s.queueAt d q).held with
  | some d => .error (busy d)
  | none =>
    let rs ← s.dmaRecs (c.arg 0x10 8) 32 count
    .ok (c.dies.foldl (fun s d => rs.foldl (fun (s : State) r => s.modSched d fun x => { x with
      queues := tabSet x.queues (first + r.1) (Queue.ofDesc r.2 s.nowCyc)
      links := dropWhere x.links fun y => y.1 = first + r.1
      recs := dropWhere x.recs fun y => y.queue = first + r.1
      replays := dropWhere x.replays fun y => y.queue = first + r.1 }) s) s)
/-- QUEUES (R342, R343) -/
def execQueues (s : State) : Host.Outcome State Fault Refusal := .next (runCmd 0x0A anyCmd true queuesCmd s)

/-! ### LAUNCH (R41 to R44, R325) -/

/-- The cap of a launch. -/
def Launch.cap (l : Launch) : Nat := codeCap (l.fld 0x14 1 % 4)
/-- Contexts selected on each core. -/
def Launch.picks (l : Launch) : List Nat := [0, 1, 2, 3].filter fun k => l.fld 0x6D 1 / 2 ^ k % 2 = 1
/-- The cores that a launch selects: those of its clusters that are alive (R380). -/
def State.coresOf (s : State) (d : Nat) (l : Launch) : List Nat :=
  (numsFrom 0 576).filter fun c => l.fld 0x6C 1 / 2 ^ (c / 96) % 2 = 1 && s.coreAlive d c
/-- The tiles of context `k`. -/
def Launch.acc (l : Launch) (k : Nat) : Nat := l.fld (0x10 + k) 1
/-- Two ACCMASK bytes share a tile, or one gives a tile to a context that is not selected. -/
def Launch.accBad (l : Launch) : Bool :=
  ([0, 1, 2, 3].any fun i => [0, 1, 2, 3].any fun j => i < j && (l.acc i &&& l.acc j) ≠ 0) ||
    [0, 1, 2, 3].any fun k => l.acc k ≠ 0 && !l.picks.contains k
/-- The widths break a limit. -/
def Launch.widthBad (l : Launch) : Bool :=
  l.total > 64 || (numsFrom 0 6).any (fun i => l.width i > 64) ||
    (numsFrom 1 5).any fun i => l.width i ≠ 0 && l.width (i - 1) = 0
/-- A continuation template that a die cannot take: unreadable, or naming a host-fed queue (R342). -/
def State.contBad (s : State) (d va : Nat) : Bool :=
  va ≠ 0 && match s.dvaGet d va 64 with
    | .error _ => true
    | .ok bs =>
      let q := leNat ((bs.drop 0x1E).take 2)
      q < 1024 && !(s.queueAt d q).prod
/-- The live launches that hold a core of another one. -/
def State.sharing (s : State) (d : Nat) (l : Launch) : List Launch :=
  let cs := s.coresOf d l
  (s.die d).sched.launches.filter fun y => y.ctxs.any fun n => cs.contains (n / 4)
/-- A launch on a die without a live launch in the way of its tiles. -/
def State.tileHeld (s : State) (d : Nat) (l : Launch) : Bool :=
  let mine := l.acc 0 ||| l.acc 1 ||| l.acc 2 ||| l.acc 3
  (s.sharing d l).any fun y => (mine &&& (y.acc 0 ||| y.acc 1 ||| y.acc 2 ||| y.acc 3)) ≠ 0
/-- A selected context is held by a live launch. -/
def State.ctxHeld (s : State) (d : Nat) (l : Launch) : Bool :=
  let cs := s.coresOf d l
  (s.die d).sched.launches.any fun y => y.ctxs.any fun n => cs.contains (n / 4) && l.picks.contains (n % 4)
/-- The caps of a selected core's live contexts would sum to more than 128 registers. -/
def State.capBad (s : State) (d : Nat) (l : Launch) : Bool :=
  (s.coresOf d l).any fun c =>
    ((((s.die d).sched.launches.flatMap (·.ctxs)).filter fun n => n / 4 = c && (s.ctx (ctxIn d n)).st ≠ .idle).map fun n =>
      (s.ctx (ctxIn d n)).cap).foldl (· + ·) 0 + l.picks.length * l.cap > 128
/-- A selected core's scratchpad cannot hold the reservations. -/
def State.spaceBad (s : State) (d : Nat) (l : Launch) : Bool :=
  let n := l.picks.length
  (s.coresOf d l).any fun c =>
    (s.core d c).regionTop + n * (l.fld 0x20 4 + l.fld 0x24 4) +
      16384 * ((s.core d c).ballasts + if l.prio = 0 then n else 0) > spBytes
/-- The offsets at which a die refuses a launch (R42). A failing width names its field, 0x08. Where R42 names no offset, the
offset is the model's: 0x14 for the sum of the caps, 0x20 for the scratchpad's space, 0x15 for PRIO 0 with SCRATCH or STACK,
0x68 for a held queue (log 55). -/
def State.launchFaults (s : State) (d : Nat) (l : Launch) : List Nat :=
  let f := fun (c : Bool) o => if c then [o] else []
  let qf := l.fld 0x68 2
  let qc := l.fld 0x6A 2
  let qcBad := qc = 0 || qc > 1024 || qf + qc > 1024
  f (l.fld 0 8 % 4 ≠ 0 || l.fld 0 8 ≥ 2 ^ 57) 0x00 ++ f l.widthBad 0x08 ++ f (l.fld 0x0E 2 ≥ 4096) 0x0E ++
  f (l.accBad || s.tileHeld d l) 0x10 ++ f (l.fld 0x14 1 ≥ 4 || s.capBad d l) 0x14 ++
  f ((l.prio = 0) = (l.fld 0x15 1 / 8 % 2 = 1) || (l.prio = 0 && (l.fld 0x20 4 ≠ 0 || l.fld 0x24 4 ≠ 0))) 0x15 ++
  f (l.fld 0x16 2 ≠ 0) 0x16 ++ f (l.fld 0x1C 4 ≠ 0) 0x1C ++ f (l.fld 0x20 4 % 16 ≠ 0 || s.spaceBad d l) 0x20 ++
  f (l.fld 0x24 4 % 16 ≠ 0) 0x24 ++ f (l.fld 0x28 8 % 65536 ≠ 0 || l.fld 0x28 8 ≥ 2 ^ 57) 0x28 ++
  f (l.fld 0x30 8 % 65536 ≠ 0 || l.fld 0x30 8 > 17179869184) 0x30 ++
  (numsFrom 0 6).flatMap (fun i =>
    let va := l.fld (0x38 + 8 * i) 8
    f (va % 64 ≠ 0 || va ≥ 2 ^ 57 || s.contBad d va) (0x38 + 8 * i)) ++
  f (qf > 1023 || l.queues.any fun q => q < 1024 && ((s.queueAt d q).log2n = 0 || (s.queueAt d q).held)) 0x68 ++
  f qcBad 0x6A ++ f (l.fld 0x6C 1 = 0 || l.fld 0x6C 1 ≥ 64) 0x6C ++
  f (l.fld 0x6D 1 = 0 || l.fld 0x6D 1 ≥ 16 || s.ctxHeld d l) 0x6D ++ f (l.fld 0x6E 2 ≠ 0) 0x6E ++
  f (l.fld 0x78 8 ≠ 0) 0x78
/-- The registers of a placed context (R44). -/
def Ctx.start (l : Launch) (g : CtxId) (version now top slot : Nat) : Ctx :=
  let z := Ctx.idle
  let budget := if l.fld 0x18 4 = 0 then 16777216 else l.fld 0x18 4
  { z with
    st := .ready, pc := BitVec.ofNat 64 (l.fld 0 8)
    s := (z.s.set 1 (BitVec.ofNat 64 (l.fld 0x70 8))).set 2 (BitVec.ofNat 64 g.inDie)
    ctl := { z.ctl with
      rmp := BitVec.ofNat 64 version, rmv := BitVec.ofNat 64 version
      stkb := BitVec.ofNat 64 top, stkl := BitVec.ofNat 64 (top - l.fld 0x24 4)
      wdog := BitVec.ofNat 64 budget, cyc := BitVec.ofNat 64 now }
    prio := l.prio, lastQ := l.fld 0x68 2 + l.fld 0x6A 2 - 1, launch := l.id, cap := l.cap
    tiles := BitVec.ofNat 8 (l.acc g.ctx), ballast := if l.prio = 0 then some slot else none
    priv := l.priv, budget := budget }
/-- Places one context on its core (R44, R68, R325). -/
def State.placeCtx (l : Launch) (s : State) (g : CtxId) : State :=
  let y := s.core g.die g.core
  let top := y.regionTop + l.fld 0x20 4 + l.fld 0x24 4
  (s.setCtx g (Ctx.start l g s.plan.version (s.cycOf g.die g.core) top y.ballasts)).modCore g.die g.core fun c => { c with
    regionTop := if l.prio = 0 then c.regionTop else top
    ballasts := if l.prio = 0 then c.ballasts + 1 else c.ballasts
    tiles := Vector.ofFn fun z => if l.acc g.ctx / 2 ^ z.val % 2 = 1 then Tile.zero else c.tiles.get z }
/-- The slot wheel counts its revolutions from 0: at a job's first launch on the die, and as it resumes (R283, R284). -/
def DieTables.restartWheel (t : DieTables) : DieTables := { t with wheelPos := 0, wheelRev := 0 }
/-- Accepts a launch on a die whole: each queue starts at its base priority (R42, R44, R53). -/
def State.place (header : BitVec 1024) (priv : Bool) (s : State) (d : Nat) : State :=
  let l0 : Launch := { id := (s.die d).sched.nextLaunch, header := header, ctxs := [], priv := priv }
  let gs := (s.coresOf d l0).flatMap fun c => l0.picks.map fun k => (⟨d, c, k⟩ : CtxId)
  let l : Launch := { l0 with ctxs := gs.map CtxId.inDie }
  let s1 := s.modDie d fun x => { x with
    launched := true
    tables := if x.launched then x.tables else x.tables.restartWheel
    sched := { x.sched with launches := x.sched.launches ++ [l], nextLaunch := x.sched.nextLaunch + 1 } }
  let s2 := l.queues.foldl (fun (s : State) q => s.modQueue d q fun y => { y with held := true, since := s.nowCyc, aged := 0 }) s1
  gs.foldl (State.placeCtx l) s2
/-- LAUNCH: a residency launch on every named die. -/
def launchCmd : CmdOp := fun s c => do
  failIf (c.priv && c.dies.any fun d => !(s.die d).diag) { code := 7, detail := 0 }
  let hdr ← s.dmaNat (c.arg 0x10 8) 128
  let header : BitVec 1024 := BitVec.ofNat 1024 hdr
  let l : Launch := { id := 0, header := header, ctxs := [], priv := c.priv }
  match c.dies.flatMap fun d => s.launchFaults d l with
  | o :: os => .error (refuse (os.foldl Nat.min o))
  | [] => .ok (c.dies.foldl (State.place header c.priv) s)
/-- LAUNCH (R342, R41 to R44) -/
def execLaunch (s : State) : Host.Outcome State Fault Refusal := .next (runCmd 0x0B anyCmd true launchCmd s)

/-! ### RESUME and SWITCH_OUT (R36, R38, R356, R363) -/

/-- A suspended context is resumed: SAILPLAN_UNACKED before its next bundle (R38, R59). -/
def Ctx.resumeSuspended (c : Ctx) : Ctx :=
  if c.st = .suspended then
    { c with st := .ready, sailPend := true, resume := if c.sleepRec.isSome then c.sleepRec else c.resume, sleepRec := none }
  else c
/-- A context frozen at a marked boundary becomes Ready; one that slept in QPOP issues it again (R59). -/
def Ctx.thaw (c : Ctx) : Ctx :=
  if c.st = .frozen then
    { c with st := .ready, resume := if c.sleepRec.isSome then c.sleepRec else c.resume, sleepRec := none }
  else c
/-- The member contexts of the named dies. -/
def State.named (s : State) (c : Cmd) : List CtxId := s.placed.filter fun g => c.dies.contains g.die
/-- RESUME with bit 0 = 0. -/
def resumeSuspended : CmdOp := fun s c => do
  failIf (c.arg 0x10 8 ≥ 2) { code := 1, detail := 0 }
  .ok (s.modAll (s.named c) Ctx.resumeSuspended)
/-- RESUME_SUSPENDED (R38, R342) -/
def execResumeSuspended (s : State) : Host.Outcome State Fault Refusal :=
  .next (runCmd 0x0C (fun c => c.arg 0x10 1 % 2 = 0) true resumeSuspended s)
/-- A job goes on at a die: every granule of former carry destinations is full, and the wheel counts afresh (R36, R284). -/
def State.resumeDie (s : State) (d : Nat) : State :=
  ((s.setFull ((s.die d).xf.former.flatMap Window.granules)).modXf d fun x => { x with former := [] }).modTables d
    DieTables.restartWheel
/-- A die's image for a directory entry: from copy A, read twice before it is given up, else from copy B (R363). A first
read of A that fails where the second does not is no property of the stored bytes: the caller says where it does. -/
def State.bestImage (s : State) (d : Nat) (e : DirEntry) : Option Img :=
  match (s.getImage d e.root.imga).bind Img.good with
  | some m => some m
  | none => (s.getImage d e.root.imgb).bind Img.good
/-- On the dies `again`, the first read of copy A failed; where the second succeeded, the failure is logged as transient
(R363, R439). -/
def State.logReread (s : State) (again : BitVec 8) (rs : List (Nat × DirEntry × Option Img)) : State :=
  (rs.filter fun r => again.getLsbD r.1 && ((s.getImage r.1 r.2.1.root.imga).bind Img.good).isSome).foldl (fun s r =>
    s.logEvent r.1 14 0 0 r.2.1.root.imga) s
/-- The oldest directory entry of a die is removed; the job's units are free (R363, R365). -/
def State.dropEntry (s : State) (d : Nat) : State :=
  match (s.die d).xl.dir with
  | [] => s
  | e :: es =>
    let s1 := s.modDie d fun x => { x with xl := { x.xl with dir := es, owners := dropWhere x.xl.owners fun o => o.1 = e.job } }
    s1.lastRoot d (s1.die d).xl.last
/-- The dies with their oldest entries and the images read. -/
def State.restorable (s : State) (ds : List Nat) : List (Nat × DirEntry × Option Img) :=
  ds.filterMap fun d => match (s.die d).xl.dir with
    | [] => none
    | e :: _ => some (d, e, s.bestImage d e)
/-- A die of the package that holds a job which none of the entries is of: the package's domain is that job's (R18). -/
def State.otherJob (s : State) (rs : List (Nat × DirEntry × Option Img)) : Option Nat :=
  (numsFrom 0 8).find? fun d => match (s.die d).job with | none => false | some j => rs.any fun r => r.2.1.job ≠ j
/-- The restore of switched-out dies, BUSY while another job holds the domain (R18). -/
def restore (again : BitVec 8) (s0 : State) (ds : List Nat) : Except CmdFail State := do
  let rs := s0.restorable ds
  failIf (rs.length ≠ ds.length) { code := 3, detail := 0 }
  match s0.otherJob rs with
  | some d => .error (busy d)
  | none => .ok ()
  let s := s0.logReread again rs
  failIf (rs.any fun r => s.lacks r.1 r.2.1.saved) (refuse 0xFFFE)
  let s1 := rs.foldl (fun s r => match r.2.2 with | none => s | some m => (s.loadImage r.1 m r.2.1).resumeDie r.1) s
  match rs with
  | [] => .ok s
  | r :: _ =>
    let s2 := { s1 with hy := s1.hy.begin_ (BitVec.ofNat 64 r.2.1.phc) r.2.1.saved.pkgs }
    let v := match r.2.2 with | none => 0 | some m => Img.nat m 0x30 8
    let s3 := { s2 with hy := { s2.hy with tmo := v % 16777216, extend := v / 16777216 % 2 = 1, preen := v / 33554432 % 2 = 1 } }
    .ok (if s3.exchange then s3 else ds.foldl State.wakeAll s3)
/-- The named dies hold no job, and every image of theirs is bad: the job is lost. -/
def State.jobLost (s : State) (c : Cmd) : Bool :=
  let rs := s.restorable c.dies
  rs.length = c.dies.length && (s.otherJob rs).isNone && (rs.any fun r => r.2.2.isNone) && !rs.any fun r => s.lacks r.1 r.2.1.saved
/-- RESUME with bit 0 = 1: in place where the job is frozen, else from the images. -/
def resumeJob : CmdOp := fun s c => do
  failIf (c.arg 0x10 8 ≥ 2) { code := 1, detail := 0 }
  match c.dies.find? fun d => (s.die d).job.isSome with
  | none => restore s.outside.reread s c.dies
  | some d =>
    if !s.hy.frozen then .error (busy d)
    else match c.dies.find? fun d => (s.die d).job.isNone with
      | some d => .error (busy d)
      | none =>
        let s1 := c.dies.foldl State.resumeDie (s.modAll (s.named c) Ctx.thaw)
        .ok { s1 with hy := { s1.hy with frozen := false } }
/-- A diagnostic packet holds a page of an image that a resume reads (R392, R393). -/
def State.resumeHeld (s : State) (c : Cmd) : Bool :=
  c.dies.any fun d => (s.die d).job.isNone && match (s.die d).xl.dir with | [] => false | e :: _ => s.groupsHeld d e.root.groups
/-- RESUME_JOB (R36, R342, R363): a job lost by its images also loses its directory entry, and completes REFUSED. The
first read of copy A may fail for a passing cause (`outside.reread`) -/
def execResumeJob (s : State) : Host.Outcome State Fault Refusal :=
  .next (match s.nextCmd with
    | none => s
    | some c =>
      if c.opc = 0x0C && s.resumeHeld c then s
      else if c.opc = 0x0C && c.arg 0x10 8 = 1 && (match s.cmdCheck c false with | .ok _ => true | .error _ => false) &&
          (c.dies.all fun d => (s.die d).job.isNone) && s.jobLost c then
        (c.dies.foldl State.dropEntry s).complete c (refuse 0xFFFF)
      else runCmd 0x0C (fun c => c.arg 0x10 1 % 2 = 1) false resumeJob s)

/-- Held deferred faults are dropped and recorded as for an Idle context (R355, R356 step 4). -/
def State.dropHeld (s : State) (g : CtxId) : State :=
  let held := (s.ctx g).held
  held.foldl (fun s f => s.recordFault g f) (s.modCtx g fun c => { c with held := [] })
/-- Steps 1, 3 and 4 of R356 on a die. -/
def State.quiesce (s : State) (d : Nat) : State :=
  let s1 := (s.flushTrellis d).modXf d fun x => { x with copies := [], halos := [], early := [], colls := [] }
  (s1.placedOn d).foldl State.dropHeld s1
/-- Steps 5 to 7 of R356 on a die. -/
def State.saveDie (s : State) (d : Nat) : State :=
  let x := s.die d
  match x.xl.root, x.job with
  | some r, some job =>
    let m := s.image d job r
    let e : DirEntry := { job := job, root := r, phc := s.hy.phc.toNat, saved := s.saved d }
    let s1 := (s.putImage d r.imga (Img.copy m 0)).putImage d r.imgb (Img.copy m 1)
    let s2 := s1.tickFree.modDie d fun x => { x with xl := { x.xl with dir := x.xl.dir ++ [e] } }
    State.freshDie none false s2 d
  | _, _ => s
/-- SWITCH_OUT: a frozen job is saved and its dies are freed. -/
def switchOut : CmdOp := fun s c => do
  match c.dies.find? fun d => !s.hy.frozen || (s.die d).xl.dir.length ≥ 16 || (s.die d).xl.root.isNone with
  | some d => .error (busy d)
  | none =>
    let s1 := c.dies.foldl State.quiesce s
    let s2 := c.dies.foldl State.saveDie s1
    let s3 := { s2 with power := { s2.power with duty := 0 } }
    .ok (if s3.domain.isEmpty then { s3 with hy := s3.hy.begin_ s3.hy.phc [] } else s3)
/-- A write of the job is still parked, or a diagnostic packet holds a write that the command makes: it waits (R356 step 2,
R393). -/
def State.parkedOn (s : State) (c : Cmd) : Bool :=
  c.dies.any fun d => !((s.quiesce d).die d).tiers.parked.isEmpty || s.flushHeld d ||
    match (s.die d).xl.root with | none => false | some r => s.groupsHeld d r.groups
/-- SWITCH_OUT (R342, R356) -/
def execSwitchOut (s : State) : Host.Outcome State Fault Refusal :=
  .next (runCmd 0x0D (fun c => !s.parkedOn c) true switchOut s)

end Sys2Proof.Machine
end

