-- ==== Sys2Proof/Machine/LocalMem.lean ====
section
/-! DEFINITION. The loads, stores and granule instructions of the LS and WY slots (R207 to R215, R327). -/

namespace Sys2Proof.Machine

/-! ### Accesses -/

/-- The two ports. -/
inductive LsPort | ls | wy
  deriving DecidableEq, Repr
/-- The slot of a port. -/
def LsPort.slot : LsPort → Slot | .ls => .ls | .wy => .wy
/-- The latch that a port's loads write (R105). -/
def LsPort.latch : LsPort → Fin 8 | .ls => 4 | .wy => 5
/-- The key of an access of `n` bytes at a 64-bit address: R113, then R67 or R69. -/
def State.portKey (s : State) (pt : LsPort) (ea n : Nat) : Option Nat :=
  if ea ≥ 4294967296 then none
  else match pt with | .ls => s.lsKey ea n | .wy => s.wyKey ea n
/-- An access that passed its address checks: for each byte of the data its memory key and address, where it is
touched, and the byte ranges (address, length) that the stack check covers (R327). -/
structure LsAcc where
  n : Nat
  key : Nat → Option Nat
  addr : Nat → Nat
  spans : List (Nat × Nat)
/-- The touched bytes as (index, key), in ascending index. -/
def LsAcc.cells (a : LsAcc) : List (Nat × Nat) := (List.range a.n).filterMap fun i => (a.key i).map fun k => (i, k)
/-- The granules holding a touched byte. -/
def LsAcc.granules (a : LsAcc) : List Nat := a.cells.foldl (fun g x => setIns g (x.2 / 16)) []
/-- A form of access: its addresses, for the phase check of a ballast context, and the access or the trap of its
address checks. -/
structure LsForm where
  port : LsPort
  base : Src
  sums : State → List Nat
  acc : State → Except Trap LsAcc

/-- Form M: `n` bytes at BASE plus the offset, aligned to `al`; `t` says which bytes the form touches (R208, R209). -/
def formM (pt : LsPort) (base : Src) (off : MOff) (n al : Nat) (t : Ctx → Nat → Bool) : LsForm :=
  let ea := fun (s : State) => (s.cx.sval base + off.bytes n).toNat
  { port := pt, base := base, sums := fun s => [ea s]
    acc := fun s =>
      let a := ea s
      if a % al ≠ 0 then .error { cause := .align, slot := pt.slot.num }
      else match s.portKey pt a n with
        | none => .error { cause := .access, slot := pt.slot.num }
        | some k => .ok {
            n := n, key := fun i => if t s.cx i then some (k + i) else none, addr := fun i => a + i
            spans := [(a, n)] } }
/-- Every byte. -/
def allBytes (_ : Ctx) (_ : Nat) : Bool := true
/-- The bytes that a predicate governs. -/
def predBytes (p : Fin 16) (c : Ctx) (i : Nat) : Bool := (c.pval p).getLsbD i

/-- The rows that take part in a tile access: RB, NR and the limit, or `none` where RBC or ROWLIM is invalid
(R213). -/
def tileShape (x : BitVec 256) : Option (Nat × Nat) :=
  let rbc := fieldAt x 0 3
  let rb := 16 * 2 ^ rbc
  let nr := 256 / rb
  let lim := fieldAt x 32 5
  if rbc > 4 || lim > nr then none else some (rb, if lim = 0 then nr else lim)
/-- The address of row `r`, computed exactly (R214). -/
def tileRow (x : BitVec 256) (base : Dword) (r : Nat) : Int := (base.toNat : Int) + r * sfieldAt x 8 24
/-- The tensor check of a tile access (R214). -/
def State.tileTid (s : State) (x : BitVec 256) : Option Cause :=
  if !x.getLsbD 60 then none
  else
    let e := s.tid s.cur.die (fieldAt x 48 12)
    if !tidValid e then some .tidInvalid
    else if layStale e (fieldAt x 64 8) (fieldAt x 80 16) then some .layoutStale
    else none
/-- The keys of the rows of a tile, or the cause of R214 that stops it. -/
def State.tileRows (s : State) (pt : LsPort) (x : BitVec 256) (base : Dword) : Except Cause (Nat × List (Nat × Nat)) :=
  match tileShape x with
  | none => .error .access
  | some (rb, lim) =>
    match s.tileTid x with
    | some c => .error c
    | none =>
      let as := (List.range lim).map (tileRow x base)
      if as.any fun a => a % 16 ≠ 0 then .error .align
      else
        let ks := as.filterMap fun a => if a < 0 then none else (s.portKey pt a.toNat rb).map fun k => (a.toNat, k)
        if ks.length = lim then .ok (rb, ks) else .error .access
/-- The shape register of a tile form. -/
def LsPort.shapeIdx (pt : LsPort) (h : Fin 4) : Fin 16 := match pt with | .ls => lhIdx h | .wy => whIdx h
/-- Form G, tile (R213, R214). -/
def formT (pt : LsPort) (base : Src) (h : Fin 4) (p : Fin 16) (sw : Bool) : LsForm :=
  let x := fun (s : State) => s.cx.shape (pt.shapeIdx h) sw
  { port := pt, base := base
    sums := fun s => match tileShape (x s) with
      | none => [(s.cx.sval base).toNat]
      | some (_, lim) => (List.range lim).map fun r => (tileRow (x s) (s.cx.sval base) r % 2 ^ 64).toNat
    acc := fun s =>
      match s.tileRows pt (x s) (s.cx.sval base) with
      | .error c => .error { cause := c, slot := pt.slot.num }
      | .ok (rb, rows) => .ok {
          n := 256
          key := fun i =>
            if (s.cx.pval p).getLsbD i then (rows[i / rb]?).map fun r => r.2 + i % rb else none
          addr := fun i => (rows[i / rb]?.map fun r => r.1 + i % rb).getD 0
          spans := rows.map fun r => (r.1, rb) } }
/-- The lane addresses of a gather or scatter (R215). -/
def laneAddr (c : Ctx) (base : Src) (idx : Fin 48) (i : Nat) : Nat :=
  (c.sval base + (BitVec.ofNat 32 (laneAt (c.v.get idx) 32 i)).signExtend 64).toNat
/-- The lanes that a predicate governs. -/
def laneOn (c : Ctx) (p : Fin 16) (i : Nat) : Bool := (c.pval p).getLsbD (4 * i)
/-- The lowest lane that fails its address checks, with its cause. -/
def State.badLane (s : State) (pt : LsPort) (ea : Nat → Nat) : List Nat → Option (Nat × Cause)
  | [] => none
  | i :: r =>
    if ea i % 4 ≠ 0 then some (i, .align)
    else if (s.portKey pt (ea i) 4).isNone then some (i, .access)
    else s.badLane pt ea r
/-- Form G, gather and scatter (R215). -/
def formG (pt : LsPort) (base : Src) (idx : Fin 48) (p : Fin 16) : LsForm :=
  let lanes := fun (s : State) => (List.range 64).filter (laneOn s.cx p)
  { port := pt, base := base, sums := fun s => (lanes s).map (laneAddr s.cx base idx)
    acc := fun s =>
      let ea := laneAddr s.cx base idx
      match s.badLane pt ea (lanes s) with
      | some (i, c) => .error { cause := c, slot := pt.slot.num, info := some { t0 := BitVec.ofNat 64 i } }
      | none => .ok {
          n := 256
          key := fun i =>
            if laneOn s.cx p (i / 4) then (s.portKey pt (ea (i / 4)) 4).map fun k => k + i % 4 else none
          addr := fun i => ea (i / 4) + i % 4
          spans := (lanes s).map fun i => (ea i, 4) } }

/-! ### Checks (R24, R29, R39, R73, R253, R327) -/

/-- The first byte of a range outside the stack. -/
def offStack (stkl stkb a : Nat) : Nat → Option Nat
  | 0 => none
  | n + 1 =>
    match offStack stkl stkb a n with
    | some x => some x
    | none =>
      let b := a + n
      if b / 524288 % 128 ≠ 127 || b % 524288 < stkl || b % 524288 ≥ stkb then some b else none
/-- The lower of two addresses. -/
def lowest : Option Nat → Option Nat → Option Nat
  | none, y => y
  | some x, none => some x
  | some x, some y => some (Nat.min x y)
/-- The stack check (R327). -/
def State.stackCheck (s : State) (f : LsForm) (a : LsAcc) : Option Trap :=
  if f.port = .ls && f.base = .reg 47 && !s.isBallast then
    match (a.spans.map fun x => offStack s.cx.ctl.stkl.toNat s.cx.ctl.stkb.toNat x.1 x.2).foldl lowest none with
    | none => none
    | some b => some {
        cause := .stackLimit, slot := Slot.ls.num
        info := some { t0 := BitVec.ofNat 64 b, t1 := s.cx.ctl.stkl, t2 := s.cx.ctl.stkb } }
  else none
/-- The address checks and the stack check, then the checks of the instruction's own rules. -/
def LsForm.check (f : LsForm) (rest : State → LsAcc → Option Trap) (s : State) : Option Trap :=
  match f.acc s with
  | .error t => some t
  | .ok a => match s.stackCheck f a with
    | some t => some t
    | none => rest s a
/-- The checks of a load (R29). -/
def loadRest (pt : LsPort) (w c : Bool) (s : State) (a : LsAcc) : Option Trap :=
  if s.loadEarly s.cur.die w c a.granules then some { cause := .carryEarly, slot := pt.slot.num } else none
/-- The checks of a store or of a granule instruction that changes a bit (R29, R73, R212, R253). -/
def storeRest (pt : LsPort) (s : State) (a : LsAcc) : Option Trap :=
  if s.storeEarly s.cur.die a.granules then some { cause := .carryEarly, slot := pt.slot.num }
  else if pt = .wy && a.cells.any fun x => s.fillingAt s.cur.die x.2 1 then
    some { cause := .access, slot := pt.slot.num }
  else firstTrap (fun (x : Nat × Nat) => s.cx.nodeCheck pt.slot x.2 1 (a.addr x.1)) a.cells
/-- The superstep forbids the access; a ballast context loads and stores through LS with CORE 126 only (R24, R39). -/
def LsForm.phase (f : LsForm) (granule : Bool) (s : State) : Bool :=
  if s.isBallast then f.port = .wy || granule || (f.sums s).any fun a => a / 524288 % 128 ≠ 126
  else s.exchange
/-- Another context began to wait for one of some granules before the current one, and all that it waits for are full: it
is served first (R79). -/
def State.behind (s : State) (gs : List Nat) : Bool :=
  s.placed.any fun g =>
    let x := s.ctx g
    g ≠ s.cur && x.st.awake && match x.fills with
      | none => false
      | some (t, hs) => hs.any gs.contains && hs.all s.full && match s.cx.fills with | none => true | some (u, _) => t < u
/-- The current context joins those that wait for some granules, and keeps its place if it has one. -/
def State.joinFill (s : State) (gs : List Nat) : State :=
  { s with cx := { s.cx with fills := some ((s.cx.fills.map (·.1)).getD s.nowCyc, gs) } }
/-- A load qualified .w waits for its granules, one that empties them for those too that waited before it (R78, R79). -/
def LsForm.waits (f : LsForm) (w c : Bool) (s : State) : Option (State × Wait) :=
  if !w then none
  else match f.acc s with
    | .error _ => none
    | .ok a =>
      if a.granules.all s.full && !(c && s.behind a.granules) then none
      else some (if c then s.joinFill a.granules else s, .fill)

/-! ### Effects -/

/-- A load: its form, qualifiers and result, which `f` makes from the registers before the bundle and the bytes at
each index (R207, R209). -/
def loadSyl (g : LsForm) (w c : Bool) (vregs : List Nat) (srcs : List Src) (dest : DFile × Nat)
    (f : State → (Nat → Option Byte) → Ctx → Ctx) : Syl :=
  { slot := g.port.slot, vregs := vregs, latches := latchesOf srcs, dest := some dest, phase := g.phase false
    check := g.check (loadRest g.port w c), blocks := g.waits w c
    orders := fun _ => w
    perform := fun e s =>
      match g.acc e.pre with
      | .error t => .error t
      | .ok a =>
        if a.cells.any fun x => s.badRead x.2 1 then .error { cause := .eccUncorrectable, slot := g.port.slot.num }
        else
          let s1 := { s with cx := f e.pre (fun i => (a.key i).map s.byte) s.cx }
          .ok { st := if c then s1.setEmpty a.granules else s1 } }
/-- Bytes at successive keys, from (key, byte) pairs, as runs. -/
def keyRuns : List (Nat × Byte) → List (Nat × List Byte)
  | [] => []
  | (k, b) :: r =>
    match keyRuns r with
    | [] => [(k, [b])]
    | (j, bs) :: rs => if j = k + 1 then (k, b :: bs) :: rs else (k, [b]) :: (j, bs) :: rs
/-- Stores the bytes of `data` at the touched places, in ascending index, and marks Trellis blocks dirty (R73). -/
def State.storeCells (s : State) (a : LsAcc) (data : Nat) : State :=
  (keyRuns (a.cells.map fun x => (x.2, BitVec.ofNat 8 (data / 2 ^ (8 * x.1))))).foldl (fun s r =>
    (s.put r.1 r.2).dirtyAt s.cur.die r.1 r.2.length) s
/-- A store qualified .f is a release: it waits until the context's parked writes have performed (R278, R279, R370). -/
def releaseWaits (full : Bool) (s : State) : Option (State × Wait) :=
  if full && s.myParked then some (s, .hold) else none
/-- A store of the low bytes of the value that `f` reads (R209). -/
def storeSyl (g : LsForm) (full : Bool) (vregs : List Nat) (srcs : List Src) (f : Ctx → Nat) : Syl :=
  { slot := g.port.slot, vregs := vregs, latches := latchesOf srcs, phase := g.phase false, store := true
    check := g.check (storeRest g.port), blocks := releaseWaits full, orders := fun _ => full
    perform := fun e s =>
      match g.acc e.pre with
      | .error t => .error t
      | .ok a =>
        let s1 := s.storeCells a (f e.pre.cx)
        .ok { st := if full then s1.setFull a.granules else s1 } }
/-- FESET, FECLR and their WY forms (R212). -/
def granuleSyl (pt : LsPort) (base : Src) (off : MOff) (full : Bool) : Syl :=
  let g := formM pt base off 16 16 allBytes
  { slot := pt.slot, latches := latchesOf [base], phase := g.phase true, store := true, check := g.check (storeRest pt)
    perform := fun e s =>
      match g.acc e.pre with
      | .error t => .error t
      | .ok a => .ok { st := if full then s.setFull a.granules else s.setEmpty a.granules } }
/-- The number that bytes 0 to n − 1 form, an untouched byte taken from `d`. -/
def gatherBytes (b : Nat → Option Byte) (d : Nat → Byte) (n : Nat) : Nat :=
  leNat ((List.range n).map fun i => (b i).getD (d i))
/-- Byte `i` of a vector. -/
def vbyte (v : Vec) (i : Nat) : Byte := slice v (8 * i) 8
/-- A scalar load, zero-extended (R209). -/
def scalarLoad (pt : LsPort) (d : Fin 48) (base : Src) (off : MOff) (n : Nat) (w c : Bool) : Syl :=
  loadSyl (formM pt base off n n allBytes) w c [] [base] (.s, d.val) fun _ b x =>
    x.outS pt.latch (some d) (BitVec.ofNat 64 (gatherBytes b (fun _ => 0) n))
/-- A vector load: bytes not touched keep what `keep` gives (R209, R214, R215). -/
def vectorLoad (g : LsForm) (d : Fin 48) (vs : List Nat) (w c : Bool) (keep : State → Nat → Byte) : Syl :=
  loadSyl g w c (d.val :: vs) [g.base] (.v, d.val) fun pre b x =>
    x.outV g.port.latch (some d) (BitVec.ofNat 2048 (gatherBytes b (keep pre) 256))
/-- DST's earlier bytes. -/
def keepOld (d : Fin 48) (pre : State) (i : Nat) : Byte := vbyte (pre.cx.v.get d) i
/-- A tile load writes zero to governed bytes of rows beyond ROWLIM (R214). -/
def keepTile (d : Fin 48) (p : Fin 16) (pre : State) (i : Nat) : Byte :=
  if (pre.cx.pval p).getLsbD i then 0
  else keepOld d pre i
/-- A predicate of the V forms, p0 to p7. -/
def lowPred (p : Fin 8) : Fin 16 := ⟨p, by omega⟩
/-- A tile syllable with its swap, which falls at issue before the register is read (R152, R213). -/
def tileSwap (pt : LsPort) (h : Fin 4) (sw : Bool) (y : Syl) : Syl :=
  if !sw then y
  else { y with
    swap := some (pt.shapeIdx h)
    perform := fun e s => match y.perform e s with
      | .error t => .error t
      | .ok r => .ok { r with st := { r.st with cx := r.st.cx.swapShape (pt.shapeIdx h) } } }

/-- LDB (R208, R209) -/
def actLdb (d : Fin 48) (base : Src) (off : MOff) (w : Bool) (c : Bool) : Syl :=
  scalarLoad .ls d base off 1 w c
/-- LDB, alone in its bundle. -/
def execLdb (d : Fin 48) (base : Src) (off : MOff) (w : Bool) (c : Bool) (s : State) : Host.Outcome State Fault Refusal :=
  issueOne (actLdb d base off w c) s

/-- LDH (R208, R209) -/
def actLdh (d : Fin 48) (base : Src) (off : MOff) (w : Bool) (c : Bool) : Syl :=
  scalarLoad .ls d base off 2 w c
/-- LDH, alone in its bundle. -/
def execLdh (d : Fin 48) (base : Src) (off : MOff) (w : Bool) (c : Bool) (s : State) : Host.Outcome State Fault Refusal :=
  issueOne (actLdh d base off w c) s

/-- LDW (R208, R209) -/
def actLdw (d : Fin 48) (base : Src) (off : MOff) (w : Bool) (c : Bool) : Syl :=
  scalarLoad .ls d base off 4 w c
/-- LDW, alone in its bundle. -/
def execLdw (d : Fin 48) (base : Src) (off : MOff) (w : Bool) (c : Bool) (s : State) : Host.Outcome State Fault Refusal :=
  issueOne (actLdw d base off w c) s

/-- LDD (R208, R209) -/
def actLdd (d : Fin 48) (base : Src) (off : MOff) (w : Bool) (c : Bool) : Syl :=
  scalarLoad .ls d base off 8 w c
/-- LDD, alone in its bundle. -/
def execLdd (d : Fin 48) (base : Src) (off : MOff) (w : Bool) (c : Bool) (s : State) : Host.Outcome State Fault Refusal :=
  issueOne (actLdd d base off w c) s

/-- LDV (R208, R209) -/
def actLdv (d : Fin 48) (base : Src) (off : MOff) (p : Fin 8) (w : Bool) (c : Bool) : Syl :=
  vectorLoad (formM .ls base off 256 16 (predBytes (lowPred p))) d [] w c (keepOld d)
/-- LDV, alone in its bundle. -/
def execLdv (d : Fin 48) (base : Src) (off : MOff) (p : Fin 8) (w : Bool) (c : Bool) (s : State) : Host.Outcome State Fault Refusal :=
  issueOne (actLdv d base off p w c) s

/-- LDP (R208, R209) -/
def actLdp (d : Fin 16) (base : Src) (off : MOff) (w : Bool) (c : Bool) : Syl :=
  loadSyl (formM .ls base off 32 16 allBytes) w c [] [base] (.p, d.val) fun _ b x =>
    x.outP 4 (some d) (BitVec.ofNat 256 (gatherBytes b (fun _ => 0) 32))
/-- LDP, alone in its bundle. -/
def execLdp (d : Fin 16) (base : Src) (off : MOff) (w : Bool) (c : Bool) (s : State) : Host.Outcome State Fault Refusal :=
  issueOne (actLdp d base off w c) s

/-- LDT (R213, R214) -/
def actLdt (d : Fin 48) (base : Src) (h : Fin 4) (p : Fin 16) (w : Bool) (c : Bool) (sw : Bool) : Syl :=
  tileSwap .ls h sw (vectorLoad (formT .ls base h p sw) d [] w c (keepTile d p))
/-- LDT, alone in its bundle. -/
def execLdt (d : Fin 48) (base : Src) (h : Fin 4) (p : Fin 16) (w : Bool) (c : Bool) (sw : Bool) (s : State) : Host.Outcome State Fault Refusal :=
  issueOne (actLdt d base h p w c sw) s

/-- LDG (R215) -/
def actLdg (d : Fin 48) (base : Src) (idx : Fin 48) (p : Fin 16) (w : Bool) (c : Bool) : Syl :=
  vectorLoad (formG .ls base idx p) d [idx.val] w c (keepOld d)
/-- LDG, alone in its bundle. -/
def execLdg (d : Fin 48) (base : Src) (idx : Fin 48) (p : Fin 16) (w : Bool) (c : Bool) (s : State) : Host.Outcome State Fault Refusal :=
  issueOne (actLdg d base idx p w c) s

/-- STB (R208, R209) -/
def actStb (v : Src) (base : Src) (off : MOff) (f : Bool) : Syl :=
  storeSyl (formM .ls base off 1 1 allBytes) f [] [v, base] fun c => (c.sval v).toNat
/-- STB, alone in its bundle. -/
def execStb (v : Src) (base : Src) (off : MOff) (f : Bool) (s : State) : Host.Outcome State Fault Refusal :=
  issueOne (actStb v base off f) s

/-- STH (R208, R209) -/
def actSth (v : Src) (base : Src) (off : MOff) (f : Bool) : Syl :=
  storeSyl (formM .ls base off 2 2 allBytes) f [] [v, base] fun c => (c.sval v).toNat
/-- STH, alone in its bundle. -/
def execSth (v : Src) (base : Src) (off : MOff) (f : Bool) (s : State) : Host.Outcome State Fault Refusal :=
  issueOne (actSth v base off f) s

/-- STW (R208, R209) -/
def actStw (v : Src) (base : Src) (off : MOff) (f : Bool) : Syl :=
  storeSyl (formM .ls base off 4 4 allBytes) f [] [v, base] fun c => (c.sval v).toNat
/-- STW, alone in its bundle. -/
def execStw (v : Src) (base : Src) (off : MOff) (f : Bool) (s : State) : Host.Outcome State Fault Refusal :=
  issueOne (actStw v base off f) s

/-- STD (R208, R209) -/
def actStd (v : Src) (base : Src) (off : MOff) (f : Bool) : Syl :=
  storeSyl (formM .ls base off 8 8 allBytes) f [] [v, base] fun c => (c.sval v).toNat
/-- STD, alone in its bundle. -/
def execStd (v : Src) (base : Src) (off : MOff) (f : Bool) (s : State) : Host.Outcome State Fault Refusal :=
  issueOne (actStd v base off f) s

/-- STV (R208, R209) -/
def actStv (v : Src) (base : Src) (off : MOff) (p : Fin 8) (f : Bool) : Syl :=
  storeSyl (formM .ls base off 256 16 (predBytes (lowPred p))) f (vregsOf [v]) [v, base] fun c => (c.vvalInt 8 v).toNat
/-- STV, alone in its bundle. -/
def execStv (v : Src) (base : Src) (off : MOff) (p : Fin 8) (f : Bool) (s : State) : Host.Outcome State Fault Refusal :=
  issueOne (actStv v base off p f) s

/-- STP (R208, R209) -/
def actStp (v : Fin 16) (base : Src) (off : MOff) (f : Bool) : Syl :=
  storeSyl (formM .ls base off 32 16 allBytes) f [] [base] fun c => (c.pval v).toNat
/-- STP, alone in its bundle. -/
def execStp (v : Fin 16) (base : Src) (off : MOff) (f : Bool) (s : State) : Host.Outcome State Fault Refusal :=
  issueOne (actStp v base off f) s

/-- STT (R213, R214) -/
def actStt (v : Src) (base : Src) (h : Fin 4) (p : Fin 16) (f : Bool) (sw : Bool) : Syl :=
  tileSwap .ls h sw (storeSyl (formT .ls base h p sw) f (vregsOf [v]) [v, base] fun c => (c.vvalInt 8 v).toNat)
/-- STT, alone in its bundle. -/
def execStt (v : Src) (base : Src) (h : Fin 4) (p : Fin 16) (f : Bool) (sw : Bool) (s : State) : Host.Outcome State Fault Refusal :=
  issueOne (actStt v base h p f sw) s

/-- STG (R215) -/
def actStg (v : Src) (base : Src) (idx : Fin 48) (p : Fin 16) (f : Bool) : Syl :=
  storeSyl (formG .ls base idx p) f (idx.val :: vregsOf [v]) [v, base] fun c => (c.vvalInt 32 v).toNat
/-- STG, alone in its bundle. -/
def execStg (v : Src) (base : Src) (idx : Fin 48) (p : Fin 16) (f : Bool) (s : State) : Host.Outcome State Fault Refusal :=
  issueOne (actStg v base idx p f) s

/-- FESET (R212) -/
def actFeset (base : Src) (off : MOff) : Syl :=
  granuleSyl .ls base off true
/-- FESET, alone in its bundle. -/
def execFeset (base : Src) (off : MOff) (s : State) : Host.Outcome State Fault Refusal :=
  issueOne (actFeset base off) s

/-- FECLR (R212) -/
def actFeclr (base : Src) (off : MOff) : Syl :=
  granuleSyl .ls base off false
/-- FECLR, alone in its bundle. -/
def execFeclr (base : Src) (off : MOff) (s : State) : Host.Outcome State Fault Refusal :=
  issueOne (actFeclr base off) s

/-- FETST (R212): never waits and never traps CARRY_EARLY -/
def actFetst (d : Fin 48) (base : Src) (off : MOff) : Syl :=
  let g := formM .ls base off 16 16 allBytes
  { slot := .ls, latches := latchesOf [base], dest := some (.s, d.val), phase := g.phase true
    check := g.check fun _ _ => none
    perform := fun e s =>
      match g.acc e.pre with
      | .error t => .error t
      | .ok a => .ok { st := { s with cx := s.cx.outS 4 (some d) (if a.granules.all e.pre.full then 1 else 0) } } }
/-- FETST, alone in its bundle. -/
def execFetst (d : Fin 48) (base : Src) (off : MOff) (s : State) : Host.Outcome State Fault Refusal :=
  issueOne (actFetst d base off) s

/-- WLDW (R208, R209) -/
def actWldw (d : Fin 48) (base : Src) (off : MOff) (w : Bool) (c : Bool) : Syl :=
  scalarLoad .wy d base off 4 w c
/-- WLDW, alone in its bundle. -/
def execWldw (d : Fin 48) (base : Src) (off : MOff) (w : Bool) (c : Bool) (s : State) : Host.Outcome State Fault Refusal :=
  issueOne (actWldw d base off w c) s

/-- WLDD (R208, R209) -/
def actWldd (d : Fin 48) (base : Src) (off : MOff) (w : Bool) (c : Bool) : Syl :=
  scalarLoad .wy d base off 8 w c
/-- WLDD, alone in its bundle. -/
def execWldd (d : Fin 48) (base : Src) (off : MOff) (w : Bool) (c : Bool) (s : State) : Host.Outcome State Fault Refusal :=
  issueOne (actWldd d base off w c) s

/-- WLDV (R208, R209) -/
def actWldv (d : Fin 48) (base : Src) (off : MOff) (p : Fin 8) (w : Bool) (c : Bool) : Syl :=
  vectorLoad (formM .wy base off 256 16 (predBytes (lowPred p))) d [] w c (keepOld d)
/-- WLDV, alone in its bundle. -/
def execWldv (d : Fin 48) (base : Src) (off : MOff) (p : Fin 8) (w : Bool) (c : Bool) (s : State) : Host.Outcome State Fault Refusal :=
  issueOne (actWldv d base off p w c) s

/-- WLDT (R213, R214) -/
def actWldt (d : Fin 48) (base : Src) (h : Fin 4) (p : Fin 16) (w : Bool) (c : Bool) (sw : Bool) : Syl :=
  tileSwap .wy h sw (vectorLoad (formT .wy base h p sw) d [] w c (keepTile d p))
/-- WLDT, alone in its bundle. -/
def execWldt (d : Fin 48) (base : Src) (h : Fin 4) (p : Fin 16) (w : Bool) (c : Bool) (sw : Bool) (s : State) : Host.Outcome State Fault Refusal :=
  issueOne (actWldt d base h p w c sw) s

/-- WLDG (R215) -/
def actWldg (d : Fin 48) (base : Src) (idx : Fin 48) (p : Fin 16) (w : Bool) (c : Bool) : Syl :=
  vectorLoad (formG .wy base idx p) d [idx.val] w c (keepOld d)
/-- WLDG, alone in its bundle. -/
def execWldg (d : Fin 48) (base : Src) (idx : Fin 48) (p : Fin 16) (w : Bool) (c : Bool) (s : State) : Host.Outcome State Fault Refusal :=
  issueOne (actWldg d base idx p w c) s

/-- WSTW (R208, R209) -/
def actWstw (v : Src) (base : Src) (off : MOff) (f : Bool) : Syl :=
  storeSyl (formM .wy base off 4 4 allBytes) f [] [v, base] fun c => (c.sval v).toNat
/-- WSTW, alone in its bundle. -/
def execWstw (v : Src) (base : Src) (off : MOff) (f : Bool) (s : State) : Host.Outcome State Fault Refusal :=
  issueOne (actWstw v base off f) s

/-- WSTD (R208, R209) -/
def actWstd (v : Src) (base : Src) (off : MOff) (f : Bool) : Syl :=
  storeSyl (formM .wy base off 8 8 allBytes) f [] [v, base] fun c => (c.sval v).toNat
/-- WSTD, alone in its bundle. -/
def execWstd (v : Src) (base : Src) (off : MOff) (f : Bool) (s : State) : Host.Outcome State Fault Refusal :=
  issueOne (actWstd v base off f) s

/-- WSTV (R208, R209) -/
def actWstv (v : Src) (base : Src) (off : MOff) (p : Fin 8) (f : Bool) : Syl :=
  storeSyl (formM .wy base off 256 16 (predBytes (lowPred p))) f (vregsOf [v]) [v, base] fun c => (c.vvalInt 8 v).toNat
/-- WSTV, alone in its bundle. -/
def execWstv (v : Src) (base : Src) (off : MOff) (p : Fin 8) (f : Bool) (s : State) : Host.Outcome State Fault Refusal :=
  issueOne (actWstv v base off p f) s

/-- WSTT (R213, R214) -/
def actWstt (v : Src) (base : Src) (h : Fin 4) (p : Fin 16) (f : Bool) (sw : Bool) : Syl :=
  tileSwap .wy h sw (storeSyl (formT .wy base h p sw) f (vregsOf [v]) [v, base] fun c => (c.vvalInt 8 v).toNat)
/-- WSTT, alone in its bundle. -/
def execWstt (v : Src) (base : Src) (h : Fin 4) (p : Fin 16) (f : Bool) (sw : Bool) (s : State) : Host.Outcome State Fault Refusal :=
  issueOne (actWstt v base h p f sw) s

/-- WSTG (R215) -/
def actWstg (v : Src) (base : Src) (idx : Fin 48) (p : Fin 16) (f : Bool) : Syl :=
  storeSyl (formG .wy base idx p) f (idx.val :: vregsOf [v]) [v, base] fun c => (c.vvalInt 32 v).toNat
/-- WSTG, alone in its bundle. -/
def execWstg (v : Src) (base : Src) (idx : Fin 48) (p : Fin 16) (f : Bool) (s : State) : Host.Outcome State Fault Refusal :=
  issueOne (actWstg v base idx p f) s

/-- WFESET (R212) -/
def actWfeset (base : Src) (off : MOff) : Syl :=
  granuleSyl .wy base off true
/-- WFESET, alone in its bundle. -/
def execWfeset (base : Src) (off : MOff) (s : State) : Host.Outcome State Fault Refusal :=
  issueOne (actWfeset base off) s

/-- WFECLR (R212) -/
def actWfeclr (base : Src) (off : MOff) : Syl :=
  granuleSyl .wy base off false
/-- WFECLR, alone in its bundle. -/
def execWfeclr (base : Src) (off : MOff) (s : State) : Host.Outcome State Fault Refusal :=
  issueOne (actWfeclr base off) s

end Sys2Proof.Machine
end

