-- ==== Sys2Proof/Machine/MxUnit.lean ====
section
/-! DEFINITION. The matrix unit's datapath: operand fetch, K-blocks with their checksums, ROM and writable routines as
plans, outlier lists, and running one queued operation (R91, R92, R176 to R193, R204). -/

namespace Sys2Proof

/-- Columns of a tile. -/
def TileMode.cols : TileMode → Nat | .fp32 => 32 | .int32 => 32 | .fp64 => 16
/-- Bits of an element of a tile. -/
def TileMode.width : TileMode → Nat | .fp32 => 32 | .int32 => 32 | .fp64 => 64
/-- The exact value of an element of a tile. -/
def TileMode.val : TileMode → Nat → Machine.FVal
  | .fp32, x => Machine.unpack .f32 x
  | .int32, x => let i := Machine.signedOf 32 x; .fin (i < 0) i.natAbs 0
  | .fp64, x => Machine.unpack .f64 x
/-- The elements of a row. -/
def TileMode.row (k : TileMode) (r : BitVec 1024) : List Nat := Machine.splitLanes k.width k.cols r.toNat
/-- A row from its elements. -/
def TileMode.join (k : TileMode) (xs : List Nat) : BitVec 1024 := BitVec.ofNat 1024 (Machine.lanesOf k.width xs)
end Sys2Proof

namespace Sys2Proof.Machine

/-! ### Formats, tiles and checksums (R176 to R179) -/

/-- The tile mode of a pair AFMT, BFMT (R176). -/
def mxPair (a b : Nat) : Option TileMode :=
  if (a = 1 && b = 1) || (a = 2 && b = 2) || (a = 0 && b = 4) || (a = 4 && b = 4) then some .fp32
  else if a = 0 && b = 0 then some .int32
  else if a = 3 && b = 3 then some .fp64
  else none
/-- Bytes of an element of AFMT or BFMT 0 to 3. -/
def mxSize : Nat → Nat | 0 => 1 | 1 => 2 | 2 => 2 | 3 => 8 | _ => 1
/-- The terms of a K-block (R92). -/
def mxTerms (a : Nat) : Nat := if a = 3 then 1 else 32

/-- The exact sum of data rounded once, RNE; a zero sum is −0 where every datum is negative. -/
def sumRound (f : FFmt) (xs : List FVal) : Nat :=
  (xs.foldl Acc.add (.num 0 0)).round f (xs.all FVal.neg)
/-- The FP64 sum in ascending order, rounded RNE at each step (R178). -/
def foldRound : List FVal → Nat
  | [] => 0
  | x :: xs => xs.foldl (fun acc y => (addVal .f64 .rne (unpack .f64 acc) y).1) (roundVal .f64 .rne x).1
/-- A datum's magnitude. -/
def FVal.abs : FVal → FVal | .nan s => .nan s | .inf _ => .inf false | .fin _ m e => .fin false m e
/-- The exact product, a NaN for 0 × ∞. -/
def FVal.mul (a b : FVal) : FVal := (mulVal a b).getD (.nan false)
/-- A datum is finite. -/
def FVal.isFin : FVal → Bool | .fin _ _ _ => true | _ => false
/-- A finite datum times 2^1100, as an integer. -/
def FVal.scaled : FVal → Int
  | .fin n m e => atExp n m e (-1100)
  | _ => 0
/-- The test of a row against its checksum pair (R179). -/
def rowPasses (vs : List FVal) (cs ms : FVal) : Bool :=
  if vs.any fun v => !v.isFin then true
  else if !cs.isFin || !ms.isFin then false
  else
    let d := (vs.foldl (fun a v => a + v.scaled) 0 - cs.scaled).natAbs
    (d * 262144 : Int) ≤ ms.scaled + 262144 * 2 ^ 1040
/-- The exact values of row `i` of a tile. -/
def Tile.vals (t : Tile) (i : Fin 32) : List FVal := (t.mode.row (t.rows.get i)).map t.mode.val
/-- Row `i` passes the check. -/
def Tile.passes (t : Tile) (i : Fin 32) : Bool :=
  rowPasses (t.vals i) (unpack .f64 (t.cs.get i).toNat) (unpack .f64 (t.ms.get i).toNat)
/-- Resets the pair of row `i` from the row's values (R178). -/
def Tile.resetPair (t : Tile) (i : Fin 32) : Tile :=
  { t with
    cs := t.cs.set i (BitVec.ofNat 64 (foldRound (t.vals i)))
    ms := t.ms.set i (BitVec.ofNat 64 (foldRound ((t.vals i).map FVal.abs))) }
/-- A cleared tile in a mode (R197). -/
def Tile.cleared (k : TileMode) : Tile := { Tile.zero with mode := k }

/-! ### Operand fetch (R180, R181) -/

/-- What stops an operation after acceptance (R204): an address outside its space, an uncorrectable read, or an engine fault;
or a carry window over bytes it would read, whose close it waits for (R180). -/
inductive MxFault
  | access (addr : Nat)
  | ecc
  | engine
  | held
  deriving DecidableEq, Repr
/-- The key of `n` bytes at an LS address of the own scratchpad of a core (R180). -/
def State.ownSp (s : State) (d c a n : Nat) : Option Nat :=
  let core := a / 524288 % 128
  let off := a % 524288
  if a / 67108864 = 0 && (core = 127 || core = c % 96) && off + n ≤ s.spLimit d c && s.coreAlive d c then
    some (spKey d c off)
  else none
/-- The first of `n` bytes at an LS address that `ownSp` refuses (R204, log 33). -/
def State.spOutside (s : State) (d c a : Nat) : Nat :=
  let core := a / 524288 % 128
  let off := a % 524288
  if a / 67108864 = 0 && (core = 127 || core = c % 96) && s.coreAlive d c then Nat.max a (a - off + s.spLimit d c) else a
/-- What an operation captures, and where it runs. -/
structure MxEnv where
  s : State
  die : Nat
  core : Nat
  mh : BitVec 256
  m : Vector Dword 8
  mask : BitVec 32
/-- AFMT and BFMT. -/
def MxEnv.af (e : MxEnv) : Nat := fieldAt e.mh 0 4
/-- BFMT. -/
def MxEnv.bf (e : MxEnv) : Nat := fieldAt e.mh 4 4
/-- The block width of A. -/
def MxEnv.aw (e : MxEnv) : Nat := fieldAt e.mh 8 3 + 1
/-- The block width of B. -/
def MxEnv.bw (e : MxEnv) : Nat := fieldAt e.mh 11 3 + 1
/-- Reads scratchpad bytes. -/
def MxEnv.read (e : MxEnv) (a n : Nat) : Except MxFault (List Byte) :=
  match e.s.ownSp e.die e.core (a % 2 ^ 64) n with
  | none => .error (.access (e.s.spOutside e.die e.core (a % 2 ^ 64)))
  | some k =>
    if e.s.windowMeets e.die k n then .error .held else if e.s.badRead k n then .error .ecc
    else .ok (e.s.seen 4 k (e.s.bytes k n))
/-- Reads weight-buffer bytes. -/
def MxEnv.readWb (e : MxEnv) (off n : Nat) : Except MxFault (List Byte) :=
  if off + n > 131072 then .error (.access (Nat.max off 131072))
  else if e.s.windowMeets e.die (wbKey e.die e.core off) n then .error .held
  else if e.s.badRead (wbKey e.die e.core off) n then .error .ecc
  else .ok (e.s.seen 4 (wbKey e.die e.core off) (e.s.bytes (wbKey e.die e.core off) n))

/-- An operand element: its exact value, and for int8 and blocks its integer with the exponent of its unit. -/
structure MElt where
  v : FVal
  m : Int := 0
  e : Int := 0
/-- The element zero. -/
def MElt.zero : MElt := { v := .fin false 0 0 }
/-- An integer element in units of 2^e. -/
def MElt.int (m e : Int) : MElt := { v := .fin (m < 0) m.natAbs e, m := m, e := e }
/-- The element that `mxSize` bytes encode. -/
def mxElem (fmt x : Nat) : MElt :=
  match fmt with
  | 0 => MElt.int (signedOf 8 x) 0
  | 1 => { v := unpack .bf16 x }
  | 2 => { v := unpack .f16 x }
  | _ => { v := unpack .f64 x }
/-- `n` contiguous elements. -/
def mxElems (fmt : Nat) (bs : List Byte) (n : Nat) : List MElt :=
  (List.range n).map fun k => mxElem fmt (leNat ((bs.drop (k * mxSize fmt)).take (mxSize fmt)))
/-- The first `n` elements of a block (R87, R88). -/
def mxBlock (w : Nat) (bs : List Byte) (n : Nat) : List MElt :=
  match bs with
  | [] => []
  | e :: r =>
    if e.toNat = 255 then List.replicate n { v := .nan false }
    else (List.range n).map fun i => MElt.int (signedOf w (leNat r / 2 ^ (w * i) % 2 ^ w)) (bfpUnit w e.toNat)

/-- Where the A elements of a K-block lie: row i at base + i × stride, or the convolution's element k0 onward. -/
inductive ASrc
  | rows (base stride : Nat)
  | conv (a0 m5 k0 : Nat)
/-- A 4-bit field of mh. -/
def MxEnv.f4 (e : MxEnv) (lo : Nat) : Nat := fieldAt e.mh lo 4
/-- A 16-bit field of mh. -/
def MxEnv.f16 (e : MxEnv) (lo : Nat) : Nat := fieldAt e.mh lo 16
/-- An output extent of routine 3; 0 where the window does not fit (R187). -/
def convOut (ext pad dil k str : Nat) : Nat :=
  if ext + 2 * pad < dil * (k - 1) + 1 then 0 else (ext + 2 * pad - dil * (k - 1) - 1) / str + 1
/-- TOUT, HOUT and WOUT. -/
def MxEnv.outs (e : MxEnv) : Nat × Nat × Nat :=
  (convOut (e.f16 144) (e.f4 96) (e.f4 112) (e.f4 80) (e.f4 128),
    convOut (e.f16 160) (e.f4 100) (e.f4 116) (e.f4 84) (e.f4 132),
    convOut (e.f16 176) (e.f4 104) (e.f4 120) (e.f4 88) (e.f4 136))
/-- K of routine 3. -/
def MxEnv.convK (e : MxEnv) : Nat := e.f4 80 * e.f4 84 * e.f4 88 * e.f16 192
/-- The address of the input position of element k of output position p, with its channel; `none` in the padding. -/
def MxEnv.convPos (e : MxEnv) (a0 p k : Nat) : Option (Nat × Nat) :=
  let (_, ho, wo) := e.outs
  let c := k % e.f16 192
  let tap := k / e.f16 192
  let ti : Int := (p / (ho * wo) * e.f4 128 : Nat) - (e.f4 96 : Int) + (tap / (e.f4 84 * e.f4 88) * e.f4 112 : Nat)
  let hi : Int := (p / wo % ho * e.f4 132 : Nat) - (e.f4 100 : Int) + (tap / e.f4 88 % e.f4 84 * e.f4 116 : Nat)
  let wi : Int := (p % wo * e.f4 136 : Nat) - (e.f4 104 : Int) + (tap % e.f4 88 * e.f4 120 : Nat)
  if ti < 0 || hi < 0 || wi < 0 || ti ≥ e.f16 144 || hi ≥ e.f16 160 || wi ≥ e.f16 176 then none
  else some (a0 + ((ti.toNat * e.f16 160 + hi.toNat) * e.f16 176 + wi.toNat) * (e.m.get 0).toNat, c)
/-- The padding element: FILL, or mantissa 0; for FP64 the spec gives no padding value (log 2). -/
def MxEnv.fill (e : MxEnv) : MElt :=
  match e.af with
  | 0 => mxElem 0 (fieldAt e.mh 208 8)
  | 3 => mxElem 3 (e.s.freeBits 64).toNat
  | 4 => MElt.zero
  | f => mxElem f (fieldAt e.mh 208 16)
/-- Collects the results of a list of reads. -/
def allOk {α : Type} : List (Except MxFault α) → Except MxFault (List α)
  | [] => .ok []
  | x :: xs =>
    match x with
    | .error f => .error f
    | .ok v => match allOk xs with | .error f => .error f | .ok vs => .ok (v :: vs)
/-- `n` A elements of row `i`. -/
def MxEnv.aRow (e : MxEnv) (src : ASrc) (i n : Nat) : Except MxFault (List MElt) :=
  match src with
  | .rows base stride =>
    if e.af = 4 then (e.read (base + i * stride) (4 * e.aw + 1)).map fun bs => mxBlock e.aw bs n
    else (e.read (base + i * stride) (n * mxSize e.af)).map fun bs => mxElems e.af bs n
  | .conv a0 m5 k0 =>
    allOk ((List.range n).map fun k =>
      match e.convPos a0 (m5 + i) (k0 + k) with
      | none => .ok e.fill
      | some (pos, c) =>
        if e.af = 4 then
          (e.read (pos + c / 32 * (4 * e.aw + 1)) (4 * e.aw + 1)).map fun bs =>
            (mxBlock e.aw bs 32)[c % 32]?.getD MElt.zero
        else (e.read (pos + c * mxSize e.af) (mxSize e.af)).map fun bs => mxElem e.af (leNat bs))
/-- Row `i` takes part: ROWMASK, and for a convolution an output position that exists. -/
def MxEnv.takes (e : MxEnv) (src : ASrc) (i : Nat) : Bool :=
  e.mask.getLsbD i && match src with
    | .rows _ _ => true
    | .conv _ m5 _ => let o := e.outs; m5 + i < o.1 * o.2.1 * o.2.2

/-- An open B stream: its place, the blocks left in the run, whether they are literal, and the blocks that the
stream still owes, where its length is fixed (R181). -/
structure BStream where
  pos : Nat
  run : Nat
  lit : Bool
  left : Option Nat
/-- The next block of a compressed stream. -/
def MxEnv.nextBlock (e : MxEnv) (n : Nat) (b : BStream) : Except MxFault (List MElt × BStream) :=
  let size := 4 * e.bw + 1
  let hd : Except MxFault BStream :=
    if b.run ≠ 0 then .ok b
    else
      match e.readWb b.pos 1 with
      | .error f => .error f
      | .ok bs =>
        let h := leNat bs
        let k := h % 128 + 1
        if (match b.left with | none => false | some l => k > l) then .error (.access b.pos)
        else .ok { b with pos := b.pos + 1, run := k, lit := h / 128 = 0 }
  match hd with
  | .error f => .error f
  | .ok b1 =>
    let b2 := { b1 with run := b1.run - 1, left := b1.left.map (· - 1) }
    if b1.lit then
      match e.readWb b1.pos size with
      | .error f => .error f
      | .ok bs => .ok (mxBlock e.bw bs n, { b2 with pos := b1.pos + size })
    else .ok (List.replicate n MElt.zero, b2)
/-- The next `cnt` blocks. -/
def MxEnv.nextBlocks (e : MxEnv) (n : Nat) : Nat → BStream → Except MxFault (List (List MElt) × BStream)
  | 0, b => .ok ([], b)
  | cnt + 1, b =>
    match e.nextBlock n b with
    | .error f => .error f
    | .ok (x, b1) =>
      match e.nextBlocks n cnt b1 with
      | .error f => .error f
      | .ok (xs, b2) => .ok (x :: xs, b2)
/-- Column `j` of rows. -/
def mxColumn (rows : List (List MElt)) (j : Nat) : List MElt := rows.map fun r => r[j]?.getD MElt.zero
/-- The columns of B of one K-block of `n` terms, under KBLK's MOD (R193), and the stream after it. -/
def MxEnv.bCols (e : MxEnv) (cols n mod base : Nat) (b : Option BStream) :
    Except MxFault (List (List MElt) × Option BStream) :=
  let size := mxSize e.bf
  let m2 := (e.m.get 2).toNat
  if mod = 0 then
    match b with
    | none => .error .engine
    | some st =>
      if e.bf = 4 then (e.nextBlocks n cols st).map fun r => (r.1, some r.2)
      else
        match allOk ((List.range n).map fun k => e.readWb (st.pos + k * cols * size) (cols * size)) with
        | .error f => .error f
        | .ok rs =>
          let rows := rs.map fun bs => mxElems e.bf bs cols
          .ok ((List.range cols).map (mxColumn rows), some { st with pos := st.pos + n * cols * size })
  else if e.bf = 4 then .error .engine
  else if mod = 1 then
    match allOk ((List.range n).map fun r => e.read (base + r * m2) (cols * size)) with
    | .error f => .error f
    | .ok rs => let rows := rs.map fun bs => mxElems e.bf bs cols; .ok ((List.range cols).map (mxColumn rows), b)
  else
    match allOk ((List.range cols).map fun j => e.read (base + j * m2) (n * size)) with
    | .error f => .error f
    | .ok rs => .ok (rs.map fun bs => mxElems e.bf bs n, b)
/-- The `cnt` FP32 scales that register `r` names (R182). -/
def MxEnv.scales (e : MxEnv) (r : Fin 8) (cnt : Nat) : Except MxFault (List FVal) :=
  if e.bf ≠ 4 || e.m.get r = BitVec.allOnes 64 then .ok (List.replicate cnt (.fin false 1 0))
  else (e.read (e.m.get r).toNat (4 * cnt)).map fun bs =>
    (List.range cnt).map fun k => unpack .f32 (leNat ((bs.drop (4 * k)).take 4))

/-! ### One K-block (R91, R92, R178) -/

/-- The exact integer sum of products of mantissas. -/
def mxDot (xs ys : List MElt) : Int := (List.zipWith (fun x y => x.m * y.m) xs ys).foldl (· + ·) 0
/-- The exponents of two blocks' units. -/
def mxExp (xs : List MElt) : Int := match xs with | [] => 0 | x :: _ => x.e
/-- The contribution t of R91. -/
def mxBlockTerm (xs ys : List MElt) (sa sb : FVal) : FVal :=
  let sc := unpack .f32 (roundVal .f32 .rne (sa.mul sb)).1
  if (xs.any fun x => x.v.isNan) || (ys.any fun y => y.v.isNan) || sc.isNan then .nan false
  else
    let t := mxDot xs ys
    if t = 0 then .fin false 0 0
    else unpack .f32 (roundVal .f32 .rne (FVal.mul (.fin (t < 0) t.natAbs (mxExp xs + mxExp ys)) sc)).1
/-- Element (i, j) after a K-block. -/
def mxAccum (mode : TileMode) (blk : Bool) (z : Nat) (xs ys : List MElt) (sa sb : FVal) : Nat :=
  match mode with
  | .int32 => (toWidth 32 (signedOf 32 z + mxDot xs ys)).toNat
  | .fp64 => sumRound .f64 (unpack .f64 z :: List.zipWith (fun x y => x.v.mul y.v) xs ys)
  | .fp32 =>
    if blk then sumRound .f32 [unpack .f32 z, mxBlockTerm xs ys sa sb]
    else sumRound .f32 (unpack .f32 z :: List.zipWith (fun x y => x.v.mul y.v) xs ys)
/-- Row `i` of a tile after a K-block, with its checksum pair. -/
def Tile.applyRow (t : Tile) (blk : Bool) (i : Fin 32) (xs : List MElt) (cols : List (List MElt)) (sa : FVal)
    (sb : List FVal) : Tile :=
  let scaled := List.zipWith (fun (ys : List MElt) c => ys.map fun y => y.v.mul c) cols sb
  let at_ := fun k => scaled.map fun ys => ys[k]?.getD (.fin false 0 0)
  let hats := xs.map fun x => x.v.mul sa
  let terms := List.zipWith (fun (k : Nat) h => FVal.mul h (unpack .f64 (foldRound (at_ k)))) (List.range xs.length) hats
  let mags := List.zipWith (fun (k : Nat) (h : FVal) =>
    FVal.mul h.abs (unpack .f64 (foldRound ((at_ k).map FVal.abs)))) (List.range xs.length) hats
  let zs := List.zipWith (fun z (c : List MElt × FVal) => mxAccum t.mode blk z xs c.1 sa c.2)
    (t.mode.row (t.rows.get i)) (cols.zip sb)
  { t with
    rows := t.rows.set i (t.mode.join zs)
    cs := t.cs.set i (BitVec.ofNat 64 (sumRound .f64 (unpack .f64 (t.cs.get i).toNat :: terms)))
    ms := t.ms.set i (BitVec.ofNat 64 (sumRound .f64 (unpack .f64 (t.ms.get i).toNat :: mags))) }
/-- The rows of a tile, by number. -/
def rowNums : List (Fin 32) := List.finRange 32
/-- A tile after one K-block: every operand is fetched before any row changes. -/
def MxEnv.kblock (e : MxEnv) (t : Tile) (src : ASrc) (n mod base : Nat) (b : Option BStream) :
    Except MxFault (Tile × Option BStream) :=
  match e.bCols t.mode.cols n mod base b with
  | .error f => .error f
  | .ok (cols, b1) =>
    let rows := rowNums.filter fun i => e.takes src i.val
    match allOk (rows.map fun i => (e.aRow src i.val n).map fun xs => (i, xs)), e.scales 3 32, e.scales 4 t.mode.cols with
    | .ok as, .ok sa, .ok sb =>
      .ok (as.foldl (fun t (r : Fin 32 × List MElt) =>
        t.applyRow (e.bf = 4) r.1 r.2 cols (sa[r.1.val]?.getD (.fin false 1 0)) sb) t, b1)
    | .error f, _, _ => .error f
    | _, .error f, _ => .error f
    | _, _, .error f => .error f

/-! ### Plans: ROM and writable routines (R185 to R193) -/

/-- A step of an operation, with the index that a fault of it names (R204): the repeat issue or the microword. -/
inductive MxStep
  | start (off : Nat) (left : Option Nat)
  | kblk (src : ASrc) (n mod base : Nat)
  | outl
  | fail
/-- A step with its index. -/
abbrev MxPlan := List (Nat × MxStep)

/-- The K-blocks of a run of `n` terms; FP64 K-blocks hold one term each (R92). -/
def kblocks (fmt idx : Nat) (src : Nat → ASrc) (n mod : Nat) (base : Nat → Nat) : MxPlan :=
  if fmt = 3 then (List.range n).map fun k => (idx, .kblk (src k) 1 mod (base k))
  else [(idx, .kblk (src 0) n mod (base 0))]
/-- The plan of a ROM routine for issue `t` of its repeat (R186, R187). -/
def MxEnv.romPlan (e : MxEnv) (r t a0 a1 : Nat) : MxPlan :=
  let k := if r = 3 then e.convK else (e.m.get 1).toNat
  let m2 := (e.m.get 2).toNat
  let step := mxTerms e.af
  let nb := (k + step - 1) / step
  let blocks := (List.range nb).map fun b =>
    let k0 := b * step
    let n := Nat.min step (k - k0)
    let src := if r = 3 then ASrc.conv a0 (e.m.get 5).toNat k0
      else ASrc.rows (a0 + (if e.af = 4 then b * (4 * e.aw + 1) else k0 * mxSize e.af)) (e.m.get 0).toNat
    let base := if r = 1 then a1 + k0 * m2 else a1 + k0 * mxSize e.bf
    (t, MxStep.kblk src n (if r = 3 then 0 else r) base)
  if r = 0 || r = 3 then (t, MxStep.start a1 (some (nb * 32))) :: blocks else blocks

/-- The microword fields of R192. -/
def uwOp (w : BitVec 64) : Nat := fieldAt w 59 5
/-- XA. -/
def uwA (w : BitVec 64) : Nat := fieldAt w 56 3
/-- XB. -/
def uwB (w : BitVec 64) : Nat := fieldAt w 53 3
/-- XC. -/
def uwC (w : BitVec 64) : Nat := fieldAt w 50 3
/-- MOD. -/
def uwMod (w : BitVec 64) : Nat := fieldAt w 48 2
/-- TGT. -/
def uwTgt (w : BitVec 64) : Nat := fieldAt w 32 12
/-- IMM32. -/
def uwImm (w : BitVec 64) : Nat := fieldAt w 0 32
/-- A microword is valid in a routine of length `len` (R193). A field counts as used where some MOD of its OP uses it, as XB
of LDX and XC of KBLK. -/
def uwValid (w : BitVec 64) (len : Nat) : Bool :=
  let noA := uwA w = 0
  let noB := uwB w = 0
  let noC := uwC w = 0
  let noT := uwTgt w = 0
  let noI := uwImm w = 0
  let mod := uwMod w
  fieldAt w 44 4 = 0 &&
    match uwOp w with
    | 0 => mod = 0 && noA && noB && noC && noT && noI
    | 1 => noC && noT && (mod = 0 || mod = 3 || uwImm w < 8)
    | 2 => mod = 0 && noT
    | 3 => mod = 0 && noB && noC && noT && noI
    | 4 => mod ≤ 2 && noT && 1 ≤ uwImm w && uwImm w ≤ 32
    | 5 => mod = 0 && noB && noC && noI && uwTgt w < len
    | 6 => mod = 0 && noA && noB && noC && noT && noI
    | 7 => mod = 0 && noA && noB && noC && noT && noI
    | _ => false
/-- IMM32 sign-extended. -/
def uwNum (w : BitVec 64) : Dword := (slice w 0 32).signExtend 64
/-- The ix registers. -/
abbrev Ix := Vector Dword 8
/-- ix[n]. -/
def ixGet (ix : Ix) (n : Nat) : Dword := ix[n]?.getD 0
/-- ix[n] ← x. -/
def ixSet (ix : Ix) (n : Nat) (x : Dword) : Ix := ix.setIfInBounds n x
/-- The plan of a writable routine from microword `i` (R191, R193); `fuel` bounds the microwords (R204). -/
def ucPlan (uc : Tab (BitVec 64)) (start len fmt : Nat) (m : Vector Dword 8) (abase : Nat → Dword) :
    Nat → Nat → Ix → MxPlan
  | 0, i, _ => [(i, .fail)]
  | fuel + 1, i, ix =>
    if i ≥ len then [(i, .fail)]
    else
      let w := tabGetD uc (start + i) 0
      let go := ucPlan uc start len fmt m abase fuel
      let a := ixGet ix (uwA w)
      let b := ixGet ix (uwB w)
      let c := ixGet ix (uwC w)
      match uwOp w with
      | 0 => []
      | 1 =>
        let v := match uwMod w with
          | 0 => uwNum w
          | 1 => m[uwImm w % 8]?.getD 0
          | 2 => abase (uwImm w % 8)
          | _ => b + uwNum w
        go (i + 1) (ixSet ix (uwA w) v)
      | 2 => go (i + 1) (ixSet ix (uwA w) (b + c * uwNum w))
      | 3 => (i, .start a.toNat none) :: go (i + 1) ix
      | 4 =>
        let m2 := (m.get 2).toNat
        kblocks fmt i (fun k => .rows (a.toNat + k * mxSize fmt) b.toNat) (uwImm w) (uwMod w)
          (fun k => c.toNat + (if uwMod w = 1 then k * m2 else k * mxSize fmt)) ++ go (i + 1) ix
      | 5 =>
        if a = 0 then go (i + 1) ix
        else if uwTgt w ≥ len then [(i, .fail)]
        else go (uwTgt w) (ixSet ix (uwA w) (a - 1))
      | 6 => (i, .outl) :: go (i + 1) ix
      | _ => go (i + 1) ix

/-- The base of address register `k` that an issue captured (R188). -/
def MxArgs.base (args : MxArgs) (k : Nat) : Dword := (args.a[k]?.map fun r => r.base).getD 0
/-- The plan of issue `rep` of an MCALL of routine `r`, on what that issue captured. A ROM routine ends with the attached
list where `last` holds. -/
def MxEnv.plan (e : MxEnv) (r : Nat) (args : MxArgs) (rep : Nat) (last : Bool) : MxPlan :=
  if r < 64 then
    e.romPlan r rep (args.base 0).toNat (args.base 1).toNat ++ (if last then [(rep, .outl)] else [])
  else
    let k := e.s.core e.die e.core
    match tabGet k.routines r with
    | none => []
    | some (start, len) =>
      ucPlan k.ucode start len e.af e.m args.base 16777216 0 ((Vector.replicate 8 0).set 0 args.sreg)
/-- The K-blocks of a plan before its first OUTL, as sources of terms (R190). -/
def segsOf : MxPlan → List (ASrc × Nat)
  | [] => []
  | (_, .kblk src n _ _) :: r => (src, n) :: segsOf r
  | (_, .start _ _) :: r => segsOf r
  | (_, .outl) :: r => segsOf r
  | (_, .fail) :: _ => []
/-- The source of term `k` and its place in the K-block. -/
def termAt : List (ASrc × Nat) → Nat → Option (ASrc × Nat)
  | [], _ => none
  | (src, n) :: r, k => if k < n then some (src, k) else termAt r (k - n)

/-! ### Outlier lists (R189, R190) -/

/-- One entry applied to a tile. -/
def MxEnv.outlier (e : MxEnv) (segs : List (ASrc × Nat)) (t : Tile) (x : BitVec 64) : Except MxFault Tile :=
  let j := fieldAt x 16 5
  if fieldAt x 21 11 ≠ 0 || j ≥ t.mode.cols then .ok t
  else
    match termAt segs (fieldAt x 0 16) with
    | none => .ok t
    | some (src, k) =>
      let v := unpack .f32 (fieldAt x 32 32)
      match allOk ((rowNums.filter fun i => e.takes src i.val).map fun i =>
        (e.aRow src i.val (k + 1)).map fun xs => (i, xs[k]?.getD MElt.zero)), e.scales 3 32 with
      | .error f, _ => .error f
      | _, .error f => .error f
      | .ok as, .ok sa =>
        .ok (as.foldl (fun t (r : Fin 32 × MElt) =>
          let p := (r.2.v.mul (sa[r.1.val]?.getD (.fin false 1 0))).mul v
          let zs := (t.mode.row (t.rows.get r.1)).mapIdx fun c z => if c = j then sumRound .f32 [unpack .f32 z, p] else z
          { t with
            rows := t.rows.set r.1 (t.mode.join zs)
            cs := t.cs.set r.1 (BitVec.ofNat 64 (sumRound .f64 [unpack .f64 (t.cs.get r.1).toNat, p]))
            ms := t.ms.set r.1 (BitVec.ofNat 64 (sumRound .f64 [unpack .f64 (t.ms.get r.1).toNat, p.abs])) }) t)
/-- The entries applied in ascending order. -/
def MxEnv.outliers (e : MxEnv) (segs : List (ASrc × Nat)) (bs : List Byte) : Nat → Nat → Tile → Except MxFault Tile
  | 0, _, t => .ok t
  | n + 1, q, t =>
    match e.outlier segs t (BitVec.ofNat 64 (leNat ((bs.drop (8 * q)).take 8))) with
    | .error f => .error f
    | .ok t1 => e.outliers segs bs n (q + 1) t1
/-- Applies the attached list, if any, and detaches it. -/
def MxEnv.outl (e : MxEnv) (segs : List (ASrc × Nat)) (t : Tile) : Except MxFault Tile :=
  match t.outl with
  | none => .ok t
  | some o =>
    let k := spKey e.die e.core o.offset
    if e.s.windowMeets e.die k (8 * o.count) then .error .held
    else if e.s.badRead k (8 * o.count) then .error .ecc
    else (e.outliers segs (e.s.seen 4 k (e.s.bytes k (8 * o.count))) o.count 0 t).map fun t1 => { t1 with outl := none }

/-! ### Running an operation -/

/-- Runs a plan: the tile, and the fault that stopped it with its index. `before` holds the terms of the issues and
K-blocks before the plan. -/
def MxEnv.run (e : MxEnv) : MxPlan → List (ASrc × Nat) → Option BStream → Tile → Tile × Option (Nat × MxFault)
  | [], _, _, t => (t, none)
  | (i, st) :: r, segs, b, t =>
    match st with
    | .start off left => e.run r segs (some { pos := off, run := 0, lit := false, left := left }) t
    | .fail => (t, some (i, .engine))
    | .outl =>
      match e.outl segs t with
      | .error f => (t, some (i, f))
      | .ok t1 => e.run r segs b t1
    | .kblk src n mod base =>
      match e.kblock t src n mod base b with
      | .error f => (t, some (i, f))
      | .ok (t1, b1) => e.run r (segs ++ [(src, n)]) b1 t1

end Sys2Proof.Machine
end

