-- ==== Sys2Proof/Machine/Matrix.lean ====
section
/-! DEFINITION. The instructions of the MX slot, the later issues of a repeated MCALL and the completion of queued
matrix operations (R184 to R205, R441). -/

namespace Sys2Proof.Machine

/-! ### Issue checks (R184, R185, R441) -/

/-- The mode that tile `z` will have once the core's queue has drained (R177, R197). -/
def Core.modeAfter (k : Core) (z : Fin 8) : TileMode :=
  k.queue.foldl (fun md e => match e.op with | .mzero y md1 => if y = z.val then md1 else md | _ => md)
    (k.tiles.get z).mode
/-- The tensor checks of one operand (R184): its TC bit, identifier, whether it is in block floating point and its
reduction axis, which for an entry of another format is its BAXIS, axis 0 (R221, log 61); for A also the expected layout. -/
def State.mxTid (s : State) (d : Nat) (on : Bool) (n : Nat) (blk : Bool) (axis : Nat) (lay : Option (Nat × Nat)) :
    Option Cause :=
  let e := s.tid d n
  if !on then none
  else if !tidValid e then some .tidInvalid
  else if (match lay with | none => false | some l => layStale e l.1 l.2) then some .layoutStale
  else if blk && tidAxis e ≠ axis then
    match s.tidComp d e with
    | none => some .formatAxis
    | some c => if tidFmt c = 8 && tidAxis c = axis then none else some .formatAxis
  else none
/-- Value limits of an MCALL (R183, R185, R187). -/
def MxEnv.limits (e : MxEnv) (r : Nat) (mode : TileMode) : Bool :=
  let k := (e.m.get 1).toNat
  let o := e.outs
  e.af ≤ 4 && e.bf ≤ 4 && (e.af ≠ 4 || e.aw ≠ 1) && (e.bf ≠ 4 || e.bw ≠ 1) && mxPair e.af e.bf = some mode &&
    (if r = 1 || r = 2 then e.bf ≠ 4 else true) &&
    (if r < 3 then 1 ≤ k && k ≤ 65536
    else if r = 3 then
      ([80, 84, 88, 112, 116, 120, 128, 132, 136].all fun lo => e.f4 lo ≠ 0) &&
        ([144, 160, 176, 192].all fun lo => e.f16 lo ≠ 0) && o.1 ≠ 0 && o.2.1 ≠ 0 && o.2.2 ≠ 0 &&
        e.convK ≤ 65536 && (e.af ≠ 4 || e.f16 192 % 32 = 0)
    else true)
/-- The places (address, bytes) of A, of B in the scratchpad and of the scale arrays that a ROM routine reads; of a writable
routine, whose operands only its KBLKs name, the scale arrays (R441). -/
def MxEnv.places (e : MxEnv) (r a0 a1 cols : Nat) : List (Nat × Nat) :=
  let k := (e.m.get 1).toNat
  let m0 := (e.m.get 0).toNat
  let m2 := (e.m.get 2).toNat
  let rows := (List.range 32).filter fun i => e.mask.getLsbD i
  let unit := 4 * e.aw + 1
  let a := if r = 3 then
      let o := e.outs
      (rows.filter fun i => (e.m.get 5).toNat + i < o.1 * o.2.1 * o.2.2).flatMap fun i =>
        (List.range (e.f4 80 * e.f4 84 * e.f4 88)).filterMap fun tap =>
          (e.convPos a0 ((e.m.get 5).toNat + i) (tap * e.f16 192)).map fun p =>
            (p.1, if e.af = 4 then e.f16 192 / 32 * unit else e.f16 192 * mxSize e.af)
    else rows.map fun i => (a0 + i * m0, if e.af = 4 then (k + 31) / 32 * unit else k * mxSize e.af)
  let b := if r = 1 then (List.range k).map fun q => (a1 + q * m2, cols * mxSize e.bf)
    else if r = 2 then (List.range cols).map fun j => (a1 + j * m2, k * mxSize e.bf)
    else []
  let sc := fun (x : Fin 8) n => if e.bf ≠ 4 || e.m.get x = BitVec.allOnes 64 then [] else [((e.m.get x).toNat, n)]
  (if r < 64 then a ++ b else []) ++ sc 3 128 ++ sc 4 (4 * cols)
/-- A misaligned m0 or element address (R180); a writable routine has m0 alone at its issue. -/
def MxEnv.misaligned (e : MxEnv) (r a0 a1 : Nat) : Bool :=
  let sa := if e.af = 4 then 1 else mxSize e.af
  let sb := if e.bf = 4 then 1 else mxSize e.bf
  (e.m.get 0).toNat % sa ≠ 0 || (r < 64 && (a0 % sa ≠ 0 || a1 % sb ≠ 0)) ||
    ((r = 1 && (e.m.get 1).toNat > 1 || r = 2) && (e.m.get 2).toNat % sb ≠ 0)
/-- The first failing check of an issue of MCALL in the order of R441, with the address it names. -/
def MxEnv.check (e : MxEnv) (z : Fin 8) (r a0 a1 : Nat) : Option (Cause × Nat) :=
  let k := e.s.core e.die e.core
  let mode := k.modeAfter z
  let tids := match e.s.mxTid e.die (e.mh.getLsbD 28) (fieldAt e.mh 16 12) (e.af = 4) 0
      (some (fieldAt e.mh 48 8, fieldAt e.mh 64 16)) with
    | some c => some c
    | none => e.s.mxTid e.die (e.mh.getLsbD 44) (fieldAt e.mh 32 12) (e.bf = 4) 1 none
  if 4 ≤ r && r < 64 then some (.reservedEncoding, 0)
  else if r ≥ 64 && (tabGet k.routines r).isNone then some (.access, 0)
  else if !e.limits r mode then some (.access, 0)
  else match tids with
    | some c => some (c, 0)
    | none =>
      if e.misaligned r a0 a1 then some (.align, 0)
      else match (e.places r a0 a1 mode.cols).find? fun p => (e.s.ownSp e.die e.core (p.1 % 2 ^ 64) p.2).isNone with
        | some p => some (.access, e.s.spOutside e.die e.core (p.1 % 2 ^ 64))
        | none => if (r = 0 || r = 3) && a1 ≥ 131072 then some (.access, a1) else none

/-! ### The queue (R196, R203) -/

/-- The matrix queue is full, or a repeat still issues: an MX syllable blocks (R100, R196). -/
def mxFull (s : State) : Option (State × Wait) :=
  if s.myCore.rept.isSome || s.myCore.queue.length ≥ 16 then some (s, .stall) else none
/-- The tile that a queued operation names. -/
def MxOp.tile : MxOp → Nat
  | .mcall z _ _ _ _ => z | .mzero z _ => z | .mst z _ _ => z | .mout z _ => z | .detach z => z
/-- An interlocked instruction waits, keeping the width: behind a repeat, or for the queued operations that name its tile
(R196, R316). -/
def mxLock (z : Option (Fin 8)) (s : State) : Option (State × Wait) :=
  if s.myCore.rept.isSome then some (s, .hold)
  else if s.myCore.queue.any fun e => match z with | none => true | some y => e.op.tile = y.val then some (s, .hold)
  else none
/-- The count of a repeat (R97, R100). -/
def Ctx.rptCount (c : Ctx) : Rpt → Nat
  | .none => 1
  | .areg k => (c.a[4 + k.val]?.map fun r => r.count.toNat).getD 0
  | .n16 => 16 | .n64 => 64 | .n256 => 256
/-- The environment of an MCALL of the current context on the registers before the bundle. -/
def State.mxEnv (s : State) (mh : BitVec 256) (sreg : Dword) : MxEnv :=
  { s := s, die := s.cur.die, core := s.cur.core, mh := mh, m := s.cx.m, mask := sreg.setWidth 32 }
/-- Bytes of a row that MST writes (R199). -/
def mstBytes (form : Nat) : Nat := if form = 0 then 128 else 64
/-- The address of row `i` of an MST. -/
def mstAddr (v : Dword) (i : Nat) : Nat := v.toNat % 4294967296 + i * (v.toNat / 4294967296 % 65536)
/-- The scratchpad keys of the rows of an MST by a core; rows that R180 refuses are left out. -/
def State.mstKeys (s : State) (d c form : Nat) (v : Dword) : List Nat :=
  (List.range 32).filterMap fun i => s.ownSp d c (mstAddr v i) (mstBytes form)
/-- An operation that a context's bundle issued is accepted: it joins the queue, and an MST sets its destination granules
empty (R196, R199). -/
def State.mxAccept (s : State) (d c : Nat) (e : MxEntry) : State :=
  let s1 := s.modCore d c fun k => { k with queue := k.queue ++ [e] }
  match e.op with
  | .mst _ form v => s1.setEmpty ((s.mstKeys d c form v).flatMap fun k => granulesOf k (mstBytes form))
  | .mcall .. => s1
  | .mzero .. => s1
  | .mout .. => s1
  | .detach _ => s1
/-- A queued MX syllable: its first issue, and the repeat of the others on the operands of the first (R100, log 24). -/
def mxQueued (z : Fin 8) (srcs : List Src) (rpt : Rpt) (check : State → Option Trap) (op : Ctx → MxOp) : Syl :=
  { slot := .mx, latches := latchesOf srcs, tile := some z.val, phase := phaseCompute, check := check, blocks := mxFull
    perform := fun e s =>
      let c := e.pre.cx
      let n := c.rptCount rpt
      let s1 := s.mxAccept s.cur.die s.cur.core { ctx := s.cur.ctx, tpc := c.pc, op := op c, node := c.inNode }
      let more : MxRepeat := { ctx := s.cur.ctx, tpc := c.pc, again := .op (op c), left := n - 1, node := c.inNode }
      .ok { st := if n = 0 then s else if n = 1 then s1 else s1.modCore s.cur.die s.cur.core fun k => { k with rept := some more } } }
/-- An interlocked MX syllable has performed its first issue; the repeat of the others begins (R100). -/
def State.lockMore (s : State) (c : Ctx) (n : Nat) (o : MxLock) : State :=
  if n ≤ 1 then s
  else s.modCore s.cur.die s.cur.core fun k => { k with
    rept := some { ctx := s.cur.ctx, tpc := c.pc, again := .lock o, left := n - 1, node := c.inNode } }
/-- An interlocked MX syllable on a tile: its check runs once no queued operation names the tile; a count of 0 performs
nothing (R100). -/
def mxLocked (z : Fin 8) (rpt : Rpt) (check : State → Option Trap) (again : Ctx → MxLock) (f : State → Ctx → State → State) : Syl :=
  { slot := .mx, tile := some z.val, phase := phaseCompute
    check := fun s => if (mxLock (some z) s).isSome then none else check s
    blocks := mxLock (some z)
    perform := fun e s =>
      let c := e.pre.cx
      .ok { st := if c.rptCount rpt = 0 then s else (f e.pre c s).lockMore c (c.rptCount rpt) (again c) } }
/-- The current core's tile. -/
def State.myTile (s : State) (z : Fin 8) : Tile := s.myCore.tiles.get z
/-- Replaces a tile of a core. -/
def State.setTile (s : State) (d c : Nat) (z : Nat) (t : Tile) : State :=
  s.modCore d c fun k => { k with tiles := k.tiles.setIfInBounds z t }
/-- The trap of a poisoned tile (R198, R200). -/
def mxPoison (z : Fin 8) (s : State) : Option Trap :=
  if (s.myTile z).poison then some { cause := .eccUncorrectable, slot := Slot.mx.num } else none
/-- MRD's value (R198). -/
def Tile.read (t : Tile) (q : Nat) : Vec :=
  if q < 16 then (t.rows[2 * q + 1]?.getD 0) ++ (t.rows[2 * q]?.getD 0)
  else BitVec.ofNat 2048 (lanesOf 64 ((numsFrom (16 * (q - 16)) 16).flatMap fun i =>
    [(t.cs[i]?.getD 0).toNat, (t.ms[i]?.getD 0).toNat]))
/-- MWR's write (R198). -/
def Tile.write (t : Tile) (q : Fin 16) (v : Vec) : Tile :=
  let lo : Fin 32 := ⟨2 * q.val, by omega⟩
  let hi : Fin 32 := ⟨2 * q.val + 1, by omega⟩
  (({ t with rows := (t.rows.set lo (slice v 0 1024)).set hi (slice v 1024 1024) }).resetPair lo).resetPair hi
/-- The failing rows of a tile. -/
def Tile.failing (t : Tile) : List (Fin 32) := rowNums.filter fun i => !t.passes i
/-- The check of MCHK and MCSR (R200). -/
def mxChk (z : Fin 8) (s : State) : Option Trap :=
  let t := s.myTile z
  match mxPoison z s with
  | some x => some x
  | none =>
    match t.failing with
    | [] => none
    | i :: r => some {
        cause := .accChecksum, slot := Slot.mx.num
        info := some {
          t0 := BitVec.ofNat 64 z.val, t1 := BitVec.ofNat 64 i.val
          t2 := BitVec.ofNat 64 (sumRound .f64 (t.vals i)), t3 := BitVec.ofNat 64 (r.length + 1) } }
/-- The bytes of row `i` in MST's element format. -/
def Tile.mstRow (t : Tile) (form : Nat) (i : Fin 32) : List Byte :=
  let zs := t.mode.row (t.rows.get i)
  match form with
  | 0 => leBytes 128 (t.rows.get i).toNat
  | 1 => leBytes 64 (lanesOf 16 (zs.map fun z => (cvtFF .bf16 .f32 .rne z).1))
  | 2 => leBytes 64 (lanesOf 16 (zs.map fun z => (cvtFF .f16 .f32 .rne z).1))
  | _ => leBytes 64 (lanesOf 32 (zs.map fun z => (cvtFF .f32 .f64 .rne z).1))
/-- The issue check of MST: value limits, alignment, ranges, then R253. -/
def mstCheck (z : Fin 8) (form : Nat) (a : Src) (s : State) : Option Trap :=
  let v := s.cx.sval a
  let mode := s.myCore.modeAfter z
  let keys := s.mstKeys s.cur.die s.cur.core form v
  let trap := fun (c : Cause) => some { cause := c, slot := Slot.mx.num : Trap }
  if v.toNat / 2 ^ 48 ≠ 0 || ((form = 1 || form = 2) && mode ≠ .fp32) || (form = 3 && mode ≠ .fp64) then trap .access
  else if v.toNat % 4294967296 % 16 ≠ 0 || v.toNat / 4294967296 % 16 ≠ 0 then trap .align
  else if keys.length ≠ 32 then trap .access
  else firstTrap (fun (x : Nat × Nat) => s.cx.nodeCheck .mx x.2 (mstBytes form) (mstAddr v x.1))
    ((List.range 32).zip keys)
/-- The operand of MULD: address, START and LEN (R201). -/
def muldArgs (v : Dword) : Nat × Nat × Nat := (fieldAt v 0 32, fieldAt v 32 12, fieldAt v 44 13)
/-- The microwords at a scratchpad key. -/
def State.words64 (s : State) (k n : Nat) : List (BitVec 64) :=
  (List.range n).map fun i => BitVec.ofNat 64 (s.rd (k + 8 * i) 8)
/-- The first microword that is invalid in a routine of length `len`, by its index. -/
def badWord (len : Nat) : List (BitVec 64) → Nat → Option Nat
  | [], _ => none
  | w :: ws, i => if uwValid w len then badWord len ws (i + 1) else some i
/-- What traps a MULD with an operand (R201). -/
def State.muldBad (s : State) (v : Dword) : Option Trap :=
  let (addr, start, len) := muldArgs v
  let trap := fun (c : Cause) => some { cause := c, slot := Slot.mx.num : Trap }
  if fieldAt v 57 7 ≠ 0 || len = 0 || len > 4096 || start + len > 4096 || addr % 8 ≠ 0 then trap .access
  else
    match s.ownSp s.cur.die s.cur.core addr (8 * len) with
    | none => trap .access
    | some k =>
      if s.loadEarly s.cur.die false false (granulesOf k (8 * len)) then trap .carryEarly
      else if s.badRead k (8 * len) then trap .eccUncorrectable
      else match badWord len (s.words64 k len) 0 with
        | none => none
        | some i => some {
            cause := .reservedEncoding, slot := Slot.mx.num, info := some { t0 := BitVec.ofNat 64 i } }
/-- The issue check of MULD, once the queue is empty (R201). -/
def muldCheck (a : Src) (s : State) : Option Trap :=
  if (mxLock none s).isSome then none else s.muldBad (s.cx.sval a)
/-- MULD's effect: the store words and the routine's entry. -/
def State.muld (s : State) (r : Nat) (v : Dword) : State :=
  let (addr, start, len) := muldArgs v
  match s.ownSp s.cur.die s.cur.core addr (8 * len) with
  | none => s
  | some k =>
    let ws := s.words64 k len
    s.modCore s.cur.die s.cur.core fun c => { c with
      ucode := ((List.range len).zip ws).foldl (fun u x => tabSet u (start + x.1) x.2) c.ucode
      routines := tabSet c.routines r (start, len) }

/-- MCALL (R185 to R188): the first issue of its repeat -/
def actMcall (z : Fin 8) (r : Fin 256) (mh : Fin 4) (sw : Bool) (a : Src) (rpt : Rpt) : Syl :=
  { slot := .mx, latches := latchesOf [a], tile := some z.val, phase := phaseCompute
    swap := if sw then some (mhIdx mh) else none, blocks := mxFull
    check := fun s =>
      ((s.mxEnv (s.cx.shape (mhIdx mh) sw) (s.cx.sval a)).check z r.val (s.cx.a.get 0).base.toNat
        (s.cx.a.get 1).base.toNat).map fun x => { cause := x.1, slot := Slot.mx.num }
    perform := fun e s =>
      let c := e.pre.cx
      let n := c.rptCount rpt
      let h := c.shape (mhIdx mh) sw
      let s1 := if sw then { s with cx := s.cx.swapShape (mhIdx mh) } else s
      let args : MxArgs := { sreg := c.sval a, m := c.m, a := c.a, mh := h }
      let s2 := s1.mxAccept s.cur.die s.cur.core {
        ctx := s.cur.ctx, tpc := c.pc, op := .mcall z.val r.val args [] (n = 1), node := c.inNode }
      let more : MxRepeat := {
        ctx := s.cur.ctx, tpc := c.pc, again := .mcall z.val r.val (c.sval a) h [args], left := n - 1, node := c.inNode }
      .ok { st := if n = 0 then s1 else if n = 1 then s2 else s2.modCore s.cur.die s.cur.core fun k => { k with rept := some more } } }
/-- MCALL, alone in its bundle. -/
def execMcall (z : Fin 8) (r : Fin 256) (mh : Fin 4) (sw : Bool) (a : Src) (rpt : Rpt) (s : State) : Host.Outcome State Fault Refusal :=
  issueOne (actMcall z r mh sw a rpt) s

/-- MZERO (R197), queued -/
def actMzero (z : Fin 8) (mode : TileMode) (rpt : Rpt) : Syl :=
  mxQueued z [] rpt (fun _ => none) fun _ => .mzero z.val mode
/-- MZERO, alone in its bundle. -/
def execMzero (z : Fin 8) (mode : TileMode) (rpt : Rpt) (s : State) : Host.Outcome State Fault Refusal :=
  issueOne (actMzero z mode rpt) s

/-- MRD (R198) -/
def actMrd (d : Fin 48) (z : Fin 8) (q : Fin 18) (rpt : Rpt) : Syl :=
  { mxLocked z rpt (mxPoison z) (fun _ => .mrd d.val z.val q.val)
      (fun pre _ s => { s with cx := s.cx.setV (some d) ((pre.myTile z).read q.val) }) with
    vregs := [d.val], dest := some (.v, d.val) }
/-- MRD, alone in its bundle. -/
def execMrd (d : Fin 48) (z : Fin 8) (q : Fin 18) (rpt : Rpt) (s : State) : Host.Outcome State Fault Refusal :=
  issueOne (actMrd d z q rpt) s

/-- MWR (R198) -/
def actMwr (z : Fin 8) (q : Fin 16) (a : Fin 48) (rpt : Rpt) : Syl :=
  { mxLocked z rpt (mxPoison z) (fun c => .mwr z.val q.val (c.v.get a)) (fun pre c s =>
      s.setTile s.cur.die s.cur.core z.val ((pre.myTile z).write q (c.v.get a))) with vregs := [a.val] }
/-- MWR, alone in its bundle. -/
def execMwr (z : Fin 8) (q : Fin 16) (a : Fin 48) (rpt : Rpt) (s : State) : Host.Outcome State Fault Refusal :=
  issueOne (actMwr z q a rpt) s

/-- MST (R199), queued: its destination granules become empty at acceptance -/
def actMst (z : Fin 8) (form : Fin 4) (a : Src) (rpt : Rpt) : Syl :=
  mxQueued z [a] rpt (mstCheck z form.val a) fun c => .mst z.val form.val (c.sval a)
/-- MST, alone in its bundle. -/
def execMst (z : Fin 8) (form : Fin 4) (a : Src) (rpt : Rpt) (s : State) : Host.Outcome State Fault Refusal :=
  issueOne (actMst z form a rpt) s

/-- MCHK (R200) -/
def actMchk (z : Fin 8) (rpt : Rpt) : Syl :=
  mxLocked z rpt (mxChk z) (fun _ => .mchk z.val) fun _ _ s => s
/-- MCHK, alone in its bundle. -/
def execMchk (z : Fin 8) (rpt : Rpt) (s : State) : Host.Outcome State Fault Refusal :=
  issueOne (actMchk z rpt) s

/-- MCSR (R200) -/
def actMcsr (z : Fin 8) (rpt : Rpt) : Syl :=
  mxLocked z rpt (mxChk z) (fun _ => .mcsr z.val) fun pre _ s =>
    s.setTile s.cur.die s.cur.core z.val (rowNums.foldl Tile.resetPair (pre.myTile z))
/-- MCSR, alone in its bundle. -/
def execMcsr (z : Fin 8) (rpt : Rpt) (s : State) : Host.Outcome State Fault Refusal :=
  issueOne (actMcsr z rpt) s

/-- MULD (R201) -/
def actMuld (r : Fin 256) (a : Src) (rpt : Rpt) : Syl :=
  { slot := .mx, latches := latchesOf [a], phase := phaseCompute, check := muldCheck a, blocks := mxLock none
    perform := fun e s =>
      let c := e.pre.cx
      let more := (s.muld r.val (c.sval a)).lockMore c (c.rptCount rpt) (.muld r.val (c.sval a))
      .ok { st := if c.rptCount rpt = 0 then s else more } }
/-- MULD, alone in its bundle. -/
def execMuld (r : Fin 256) (a : Src) (rpt : Rpt) (s : State) : Host.Outcome State Fault Refusal :=
  issueOne (actMuld r a rpt) s

/-- MOUT (R202), queued -/
def actMout (z : Fin 8) (nm1 : Fin 256) (a : Src) (rpt : Rpt) : Syl :=
  mxQueued z [a] rpt
    (fun s =>
      let v := (s.cx.sval a).toNat
      let trap := fun (c : Cause) => some { cause := c, slot := Slot.mx.num : Trap }
      if s.myCore.modeAfter z ≠ .fp32 then trap .access
      else if v % 8 ≠ 0 then trap .align
      else if (s.ownSp s.cur.die s.cur.core v (8 * (nm1.val + 1))).isNone then trap .access
      else none)
    fun c => .mout z.val { offset := (c.sval a).toNat % 524288, count := nm1.val + 1 }
/-- MOUT, alone in its bundle. -/
def execMout (z : Fin 8) (nm1 : Fin 256) (a : Src) (rpt : Rpt) (s : State) : Host.Outcome State Fault Refusal :=
  issueOne (actMout z nm1 a rpt) s

/-- MWAIT (R203) -/
def actMwait (rpt : Rpt) : Syl :=
  let _ := rpt
  { slot := .mx, phase := phaseCompute
    blocks := fun s => if s.myCore.rept.isSome || s.mxBusy s.cur then some (s, .stall) else none
    perform := fun _ s => .ok { st := s } }
/-- MWAIT, alone in its bundle. -/
def execMwait (rpt : Rpt) (s : State) : Host.Outcome State Fault Refusal :=
  issueOne (actMwait rpt) s

/-! ### Later issues and completion (R188, R196, R204, R206) -/

/-- Whether a deferred fault of a context can be taken from its operation now: its queue of 32 has room, or it is
Idle (R351). -/
def State.canFault (s : State) (g : CtxId) : Bool := (s.ctx g).st = .idle || (s.ctx g).held.length < 32
/-- The deferred fault of a matrix operation on tile `z` (R204). -/
def mxDFault (c : Cause) (tpc : Dword) (z t1 t2 : Nat) (node : Bool) : DFault :=
  { cause := c, tpc := tpc
    info := { t0 := BitVec.ofNat 64 z, t1 := BitVec.ofNat 64 t1, t2 := BitVec.ofNat 64 t2 }, xfer := none, node := node }
/-- The first two address registers stepped (R188). -/
def stepPair (a : Vector AReg 8) : Vector AReg 8 := a.mapIdx fun k r => if k < 2 then r.step else r
/-- An issue of a repeat is accepted; `again` is what the rest of the repeat issues. -/
def State.repeatAccept (s : State) (d c : Nat) (r : MxRepeat) (again : MxAgain) (op : MxOp) : State :=
  (s.mxAccept d c { ctx := r.ctx, tpc := r.tpc, op := op, node := r.node }).modCore d c fun k => { k with
    rept := if r.left = 1 then none else some { r with again := again, left := r.left - 1 } }
/-- The next issue of an MCALL's repeat of core `c`: a0 and a1 step, and the checks are made again (R188). -/
def State.mcallAgain (s : State) (d c : Nat) (r : MxRepeat) (zn rn : Nat) (sreg : Dword) (mh : BitVec 256)
    (before : List MxArgs) : State :=
  let g : CtxId := ⟨d, c, r.ctx⟩
  let x := s.ctx g
  let a := stepPair x.a
  let s1 := s.setCtx g { x with a := a }
  let e : MxEnv := { s := s1, die := d, core := c, mh := mh, m := x.m, mask := sreg.setWidth 32 }
  let z : Fin 8 := ⟨zn % 8, by omega⟩
  let args : MxArgs := { sreg := sreg, m := x.m, a := a, mh := mh }
  match e.check z rn (a.get 0).base.toNat (a.get 1).base.toNat with
  | some f =>
    if s.canFault g then
      ((s1.mxAccept d c { ctx := r.ctx, tpc := r.tpc, op := .detach zn, node := r.node }).modCore d c fun k => { k with
        rept := none }).raiseFault g (mxDFault f.1 r.tpc zn before.length f.2 r.node)
    else s
  | none => s1.repeatAccept d c r (.mcall zn rn sreg mh (before ++ [args])) (.mcall zn rn args before (r.left = 1))
/-- One issue of a repeat less is left. -/
def State.repeatOne (s : State) (d c : Nat) (r : MxRepeat) : State :=
  s.modCore d c fun k => { k with rept := if r.left = 1 then none else some { r with left := r.left - 1 } }
/-- The tile of a number, of a core. -/
def State.tileAt (s : State) (d c z : Nat) : Tile := (s.core d c).tiles[z]?.getD Tile.zero
/-- The next issue of an interlocked operation's repeat: it performs again; a MULD whose words fail their check now ends the
repeat as an MCALL's failing issue does (R100, R188, log 24). -/
def State.lockAgain (s : State) (d c : Nat) (r : MxRepeat) (o : MxLock) : State :=
  let g : CtxId := ⟨d, c, r.ctx⟩
  match o with
  | .mrd v z q => (s.modCtx g fun x => { x with v := x.v.setIfInBounds v ((s.tileAt d c z).read q) }).repeatOne d c r
  | .mwr z q v => (s.setTile d c z ((s.tileAt d c z).write ⟨q % 16, by omega⟩ v)).repeatOne d c r
  | .mchk _ => s.repeatOne d c r
  | .mcsr z => (s.setTile d c z (rowNums.foldl Tile.resetPair (s.tileAt d c z))).repeatOne d c r
  | .muld n v =>
    match (s.focus g).muldBad v with
    | none => (((s.focus g).muld n v).focus s.cur).repeatOne d c r
    | some t =>
      if s.canFault g then
        (s.modCore d c fun k => { k with rept := none }).raiseFault g
          { cause := t.cause, tpc := r.tpc, info := t.tinfo, xfer := none, node := r.node }
      else s
/-- The next issue of a repeat of core `c`; a queued operation's waits for a free entry of the queue (R100, R188, R320). -/
def State.repeatIssue (s : State) (d c : Nat) (r : MxRepeat) : State :=
  let full := decide ((s.core d c).queue.length ≥ 16)
  match r.again with
  | .mcall z rn sreg mh before => if full then s else s.mcallAgain d c r z rn sreg mh before
  | .op o => if full then s else s.repeatAccept d c r r.again o
  | .lock o => s.lockAgain d c r o
/-- MCALL_REPEAT_ISSUE (R100, R188, R320): the next issue of the core's repeat; none comes while the die's clocks stand
(R427) -/
def execMcallRepeatIssue (die core : Nat) (s : State) : Host.Outcome State Fault Refusal :=
  .next (match (s.core die core).rept with
    | none => s
    | some r => if (s.die die).th.stopped then s else s.repeatIssue die core r)

/-- The environment of a queued MCALL. -/
def State.mxEnvOf (s : State) (d c : Nat) (args : MxArgs) : MxEnv :=
  { s := s, die := d, core := c, mh := args.mh, m := args.m, mask := args.sreg.setWidth 32 }
/-- Whether an MCALL's issue ends its operation's use of the list: the last issue of a repeat. A writable routine
that ends without an OUTL drops the list (R190). -/
def mcallRun (e : MxEnv) (t : Tile) (r : Nat) (args : MxArgs) (before : List MxArgs) (last : Bool) :
    Tile × Option (Nat × MxFault) :=
  let segs := before.flatMap fun b => segsOf ({ e with m := b.m }.plan r b 0 false)
  let x := e.run (e.plan r args before.length last) segs none t
  match x.2 with
  | none => (if last then { x.1 with outl := none } else x.1, none)
  | some f => ({ x.1 with outl := none, poison := x.1.poison || f.2 = .ecc }, some f)
/-- The issues of the same repeat that follow in the queue. -/
def laterIssues : List MxEntry → List MxEntry
  | [] => []
  | e :: r => match e.op with
    | .mcall _ _ _ before _ => if before.isEmpty then e :: r else laterIssues r
    | _ => e :: r
/-- Ends the operation at the head of the queue with its fault: later issues of its repeat fall away, and the repeat ends
where it still runs, which is where nothing but its issues follows in the queue. -/
def State.mxStop (s : State) (d c : Nat) (h : MxEntry) (z : Nat) (last : Bool) (f : Nat × MxFault) : State :=
  let s1 := s.modCore d c fun k => { k with
    queue := if last then k.queue else laterIssues k.queue
    rept := if last || !(laterIssues k.queue).isEmpty then k.rept else none }
  s1.raiseFault ⟨d, c, h.ctx⟩ (match f.2 with
    | .access a => mxDFault .access h.tpc z f.1 a h.node
    | .ecc => mxDFault .eccUncorrectable h.tpc z 0 0 h.node
    | .engine => mxDFault .engineAsync h.tpc z f.1 0 h.node
    | .held => mxDFault .engineAsync h.tpc z f.1 0 h.node)
/-- Completes the operation `h` at the head of the queue. -/
def State.mxComplete (s : State) (d c : Nat) (h : MxEntry) (rest : List MxEntry) : State :=
  let k := s.core d c
  let s1 := s.modCore d c fun k => { k with queue := rest }
  let tile := fun (z : Nat) => k.tiles[z]?.getD Tile.zero
  match h.op with
  | .mzero z md => s1.setTile d c z (Tile.cleared md)
  | .mout z l => s1.setTile d c z { tile z with outl := some l }
  | .detach z => s1.setTile d c z { tile z with outl := none }
  | .mst z form v =>
    ((s.mstKeys d c form v).zip rowNums).foldl (fun s (x : Nat × Fin 32) =>
      (s.putBy 4 d x.1 ((tile z).mstRow form x.2)).setFull (granulesOf x.1 (mstBytes form))) s1
  | .mcall z r args before last =>
    let x := mcallRun (s.mxEnvOf d c args) (tile z) r args before last
    let s2 := (s1.setTile d c z x.1).tickFree
    match x.2 with
    | none => s2
    | some f => s2.mxStop d c h z last f
/-- The operation `h` waits: a carry window covers a granule that it reads or writes (R29, R180, R199), or it faults and the
context's queue of held faults is full (R355). -/
def State.mxWaits (s : State) (d c : Nat) (h : MxEntry) : Bool :=
  match h.op with
  | .mcall z r args before last =>
    match (mcallRun (s.mxEnvOf d c args) ((s.core d c).tiles[z]?.getD Tile.zero) r args before last).2 with
    | none => false
    | some f => f.2 = .held || !s.canFault ⟨d, c, h.ctx⟩
  | .mst _ form v => (s.mstKeys d c form v).any fun k => s.windowMeets d k (mstBytes form)
  | .mzero .. => false
  | .mout .. => false
  | .detach _ => false
/-- MATRIX_OP_COMPLETE (R196, R203, R204): the operation at the head of a core's queue completes, unless it waits or the
die's clocks stand (R427) -/
def execMatrixOpComplete (die core : Nat) (s : State) : Host.Outcome State Fault Refusal :=
  .next (match (s.core die core).queue with
    | [] => s
    | h :: rest =>
      if s.mxWaits die core h || (s.die die).th.stopped then s
      else s.mxComplete die core h rest)

end Sys2Proof.Machine
end

