-- ==== Sys2Proof/Machine/System.lean ====
section
/-! DEFINITION. Phase and system instructions: PHEND, RMACK, DRAIN, XFENCE, TRAP, XRET, HALT; and the diagnostic
packets BDPKT and BDRSP (R256 to R264, R404 to R409). -/

namespace Sys2Proof.Machine

/-! ### Diagnostic packets (R404 to R408) -/

/-- The request image at an LS address. -/
def State.bdImage (s : State) (a : Nat) : Except Trap (BitVec 768) :=
  match s.ownKey a 96 with
  | none => .error (enTrap .access)
  | some k => if s.badRead k 96 then .error (enTrapKeep .eccUncorrectable) else .ok (BitVec.ofNat 768 (s.rd k 96))
/-- The bytes of a tier (R391). -/
def tierSize (capacity : Bool) : Nat := if capacity then 0x2000000000 else 0x1000000000
/-- The first field of a request image that breaks R405. -/
def bdFieldBad (r : BitVec 768) : Option Nat :=
  let cmd := fieldAt r 0 4
  let a := fieldAt r 64 64
  let mask := fieldAt r 128 64
  let chk := fieldAt r 192 64
  if cmd > 3 || fieldAt r 8 56 ≠ 0 then some 0
  else if a % 64 ≠ 0 || a ≥ tierSize (r.getLsbD 7) then some 8
  else if (cmd = 1) = (mask = 0) then some 0x10
  else if (if cmd = 3 then chk / 2 ^ 32 ≠ 0 || chk / 2 ^ 10 % 32 ≠ 0 || chk / 2 ^ 26 % 32 ≠ 0 else chk ≠ 0) then some 0x18
  else none
/-- The member that a slot holds now, as a device physical address of its first byte (R398, R399). -/
def State.slotDpa (s : State) (d : Nat) (capacity : Bool) (a : Nat) : Nat :=
  let g := a / 65536 % 1048576
  let r := s.remapOf d g
  let m := if !capacity then r.fast
    else if a / 68719476736 = 0 then r.slot0
    else 3 - r.fast - r.slot0
  m * 68719476736 + g * 65536
/-- The page of the slot is the sail plan's, a context image's, or another job's (R406). -/
def State.slotBarred (s : State) (d : Nat) (capacity : Bool) (a : Nat) : Bool :=
  let p := s.slotDpa d capacity a
  let x := s.die d
  p = sailPage ||
    (match x.xl.root with
    | none => false
    | some r => p / 65536 = r.imga / 65536 || p / 65536 = r.imgb / 65536 ||
        (r.imga ≤ p && p < r.imga + 0x2C000000) || (r.imgb ≤ p && p < r.imgb + 0x2C000000)) ||
    x.xl.owners.any fun o => some o.1 ≠ x.job && o.2.getLsbD (p / 0xC0000000)
/-- The check of BDPKT (R406). -/
def bdpktCheck (a : Src) (s : State) : Option Trap :=
  match s.bdImage (s.cx.sval a).toNat with
  | .error t => some t
  | .ok r =>
    match bdFieldBad r with
    | some o => some (enTrapAt .access o)
    | none =>
      if (r.getLsbD 0) && s.slotBarred s.cur.die (r.getLsbD 7) (fieldAt r 64 64) then some (enTrapAt .access 8) else none
/-- BDPKT waits: its TAG is in use on the port, 16 packets are outstanding, or the line's group moves (R406). -/
def bdpktBlocks (a : Src) (s : State) : Option (State × Wait) :=
  match s.bdImage (s.cx.sval a).toNat with
  | .error _ => none
  | .ok r =>
    let d := s.cur.die
    let addr := fieldAt r 64 64
    let used := s.myDie.tiers.diag.any fun p => !p.arrived && p.hdr.toNat / 16 % 8 = fieldAt r 4 3 &&
      p.addr / 256 % 16 = addr / 256 % 16
    if used || s.myDie.tiers.diag.length ≥ 16 || s.moving d (addr / 65536 % 1048576) then some (s, .stall) else none
/-- The oldest reply that waits for the current context. -/
def State.myReply (s : State) : Option DiagPkt :=
  s.myDie.tiers.diag.find? fun p => p.ctx = s.cur.inDie && !p.orphan && p.arrived
/-- Packets of the current context without a reply. -/
def State.myPending (s : State) : Bool :=
  s.myDie.tiers.diag.any fun p => p.ctx = s.cur.inDie && !p.orphan && !p.arrived
/-- Removes the first element of a list for which `c` holds. -/
def dropFirst {α : Type} (c : α → Bool) : List α → List α
  | [] => []
  | x :: xs => if c x then xs else x :: dropFirst c xs

/-! ### XRET (R262, R352) -/

/-- The check of XRET: outside a handler, and an action other than RETRY after a cause other than ENGINE_ASYNC. -/
def xretCheck (act : Fin 3) (s : State) : Option Trap :=
  match s.cx.topRec with
  | none => some (enTrap .access)
  | some r => if act ≠ 0 && r.cause ≠ .engineAsync then some (enTrap .access) else none
/-- SKIP on the transfer that the trap record names (R231). -/
def State.skipXfer (s : State) (x : Option XferRef) : State :=
  match x with
  | none => s
  | some (.cpy h) => s.copySkip s.cur h
  | some (.rput p) => s.rputSkip s.cur p


/-- PHEND (R257): waits for matrix operations, Running, then sleeps (R58, R59, log 57); a YIELD for ballast (R39) -/
def actPhend : Syl :=
  { slot := .en
    blocks := fun s => if !s.isBallast && s.mxBusy s.cur then some (s, .hold) else none
    perform := fun _ s =>
      if s.isBallast then .ok {
        st := { s with cx := { s.cx with ctl := { s.cx.ctl with wdog := BitVec.ofNat 64 s.cx.budget } } }
        post := some .offer }
      else .ok { st := s, post := some .sleep } }
/-- PHEND, alone in its bundle. -/
def execPhend (s : State) : Host.Outcome State Fault Refusal :=
  issueOne actPhend s

/-- RMACK (R258) -/
def actRmack (a : Src) : Syl :=
  { slot := .en, latches := latchesOf [a], phase := phaseMember
    check := fun s =>
      let v := s.cx.sval a
      if s.cx.ctl.rmv ≤ v && v ≤ s.cx.ctl.rmp then none
      else some { cause := .access, slot := Slot.en.num, info := some { t0 := s.cx.ctl.rmp } }
    perform := onCtx fun pre c => { c with ctl := { c.ctl with rmv := pre.sval a } } }
/-- RMACK, alone in its bundle. -/
def execRmack (a : Src) (s : State) : Host.Outcome State Fault Refusal :=
  issueOne (actRmack a) s

/-- DRAIN (R259): loads and stores perform as they issue (log 5), but for Cleat writes that are parked, for which it holds the
issue width (R273, R370) -/
def actDrain (scope : Fin 4) : Syl :=
  { slot := .en, phase := phaseMember
    blocks := fun s => if scope ≠ 0 && s.myParked then some (s, .hold) else none
    perform := fun _ s => .ok { st := s } }
/-- DRAIN, alone in its bundle. -/
def execDrain (scope : Fin 4) (s : State) : Host.Outcome State Fault Refusal :=
  issueOne (actDrain scope) s

/-- XFENCE (R260, R277): what class F has written on the die, class T reads from here on; from the Cleat it waits for the
context's parked writes (R370, log 5) -/
def actXfence (f : Fin 8) (t : Fin 8) : Syl :=
  { slot := .en, phase := phaseMember
    blocks := fun s => if f = 7 && t ≠ 7 && s.myParked then some (s, .hold) else none
    perform := fun _ s => .ok { st := s.fence s.cur.die f.val t.val } }
/-- XFENCE, alone in its bundle. -/
def execXfence (f : Fin 8) (t : Fin 8) (s : State) : Host.Outcome State Fault Refusal :=
  issueOne (actXfence f t) s

/-- TRAP (R261) -/
def actTrap (a : Src) (n : Fin 64) : Syl :=
  { slot := .en, latches := latchesOf [a]
    perform := fun e s => .ok { st := s, post := some (.software (e.pre.cx.sval a) n.val) } }
/-- TRAP, alone in its bundle. -/
def execTrap (a : Src) (n : Fin 64) (s : State) : Host.Outcome State Fault Refusal :=
  issueOne (actTrap a n) s

/-- XRET (R262, R352) -/
def actXret (act : Fin 3) : Syl :=
  { slot := .en, check := xretCheck act
    perform := fun _ s =>
      let s1 := match s.cx.topRec with
        | none => s
        | some r => if act = 1 then s.skipXfer r.xfer else s
      .ok { st := s1, post := some (.xret act.val) } }
/-- XRET, alone in its bundle. -/
def execXret (act : Fin 3) (s : State) : Host.Outcome State Fault Refusal :=
  issueOne (actXret act) s

/-- HALT (R263) -/
def actHalt : Syl :=
  { slot := .en
    check := State.logBad, orders := fun _ => true
    blocks := fun s =>
      match s.retireBlocks with
      | some w => some w
      | none => if s.mxBusy s.cur then some (s.retire, .hold) else none
    perform := fun _ s => .ok { st := s.retire, post := some .halt } }
/-- HALT, alone in its bundle. -/
def execHalt (s : State) : Host.Outcome State Fault Refusal :=
  issueOne actHalt s

/-- BDPKT (R406) -/
def actBdpkt (a : Src) : Syl :=
  { slot := .en, latches := latchesOf [a], illegal := fun s => !s.cx.priv, phase := phaseCompute
    check := bdpktCheck a
    blocks := bdpktBlocks a
    perform := fun e s =>
      match e.pre.bdImage (e.pre.cx.sval a).toNat with
      | .error t => .error t
      | .ok r => .ok {
          st := s.modTiers s.cur.die fun t => { t with
            diag := t.diag ++ [{
              ctx := s.cur.inDie, hdr := r.setWidth 64, addr := fieldAt r 64 64, mask := (r >>> 128).setWidth 64
              check := (r >>> 192).setWidth 32, data := (r >>> 256).setWidth 512, reply := none, arrived := false
              orphan := false }] } } }
/-- BDPKT, alone in its bundle. -/
def execBdpkt (a : Src) (s : State) : Host.Outcome State Fault Refusal :=
  issueOne (actBdpkt a) s

/-- BDRSP (R408) -/
def actBdrsp (d : Fin 48) (a : Src) : Syl :=
  { slot := .en, latches := latchesOf [a], dest := some (.s, d.val), illegal := fun s => !s.cx.priv
    phase := phaseCompute
    check := fun s => if (s.ownKey (s.cx.sval a).toNat 96).isNone then some (enTrap .access) else none
    blocks := fun s => if s.myReply.isNone && s.myPending then some (s, .stall) else none
    perform := fun e s =>
      match s.myReply, e.pre.ownKey (e.pre.cx.sval a).toNat 96 with
      | some p, some k =>
        let r := p.reply.getD 0
        let s1 := (s.wr k 96 r.toNat).modTiers s.cur.die fun t => { t with
          diag := dropFirst (fun x => x.ctx = s.cur.inDie && !x.orphan && x.arrived) t.diag }
        .ok { st := { s1 with cx := s1.cx.outS 7 (some d) (r.setWidth 64) }, post := some .offer }
      | _, _ => .ok { st := { s with cx := s.cx.outS 7 (some d) 0 }, post := some .offer } }
/-- BDRSP, alone in its bundle. -/
def execBdrsp (d : Fin 48) (a : Src) (s : State) : Host.Outcome State Fault Refusal :=
  issueOne (actBdrsp d a) s

end Sys2Proof.Machine
end

