-- ==== Sys2Proof/Machine/Special.lean ====
section
/-! DEFINITION. The special functions of R168 and R169: the exact value rounded once to nearest even. Each is
evaluated with far more bits than a result holds and a sticky bit below them; exact results are told apart first
(log 14). -/

namespace Sys2Proof.Machine

/-- floor(π × 2^448). -/
def piFixed : Nat :=
  0x3243f6a8885a308d313198a2e03707344a4093822299f31d0082efa98ec4e6c89452821e638d01377be5466cf34e90c6cc0ac29b7c97c50dd
/-- floor(ln 2 × 2^320). -/
def ln2Fixed : Nat :=
  0xb17217f7d1cf79abc9e3b39803f2f6af40f343267298b62d8a0d175b8baafa2be7b876206debac98

/-- The sum of t^k / k! at scale 2^p from the term `term` of index `k` on, for `n` terms. -/
def expSeries (p t : Nat) : Nat → Nat → Nat → Nat
  | 0, _, _ => 0
  | n + 1, k, term => term + expSeries p t n (k + 1) (term * t / 2 ^ p / (k + 1))
/-- exp(t) at scale 2^320, for t from 0 to 1 at the same scale. -/
def expFixed (t : Nat) : Nat := expSeries 320 t 90 0 (2 ^ 320)
/-- The alternating sum t − t³/3! + … at scale 2^448, as the sums of its positive and negative terms. -/
def sinSeries (t2 : Nat) : Nat → Nat → Nat → Bool → Nat × Nat
  | 0, _, _, _ => (0, 0)
  | n + 1, k, term, pos =>
    let r := sinSeries t2 n (k + 2) (term * t2 / 2 ^ 448 / ((k + 1) * (k + 2))) (!pos)
    if pos then (r.1 + term, r.2) else (r.1, r.2 + term)
/-- sin(π t) at scale 2^448 for t from 0 to 1/2 at scale 2^300. -/
def sinFixed (t : Nat) : Nat :=
  let x := piFixed * t / 2 ^ 300
  let r := sinSeries (x * x / 2 ^ 448) 60 1 x true
  r.1 - r.2
/-- `n` binary digits of log2 of y, for y from 1 to 2 at scale 2^512. -/
def log2Digits : Nat → Nat → Nat → Nat
  | 0, _, acc => acc
  | n + 1, y, acc =>
    let z := y * y / 2 ^ 512
    if z ≥ 2 ^ 513 then log2Digits n (z / 2) (2 * acc + 1) else log2Digits n z (2 * acc)

/-- An inexact positive value near `m × 2^e`, just above it, rounded to nearest even. -/
def stickyUp (f : FFmt) (neg : Bool) (m : Nat) (e : Int) : Nat × FFlags := roundTo f .rne neg (2 * m + 1) (e - 1)
/-- The magnitude of a finite datum at scale 2^300, exact for the formats of R168. -/
def fixed300 (m : Nat) (e : Int) : Nat := if e ≥ -300 then m * 2 ^ (e + 300).toNat else 0

/-- 2^x for a finite x. -/
def exp2Fin (f : FFmt) (neg : Bool) (m : Nat) (e : Int) : Nat × FFlags :=
  if m = 0 then roundTo f .rne false 1 0
  else if (Nat.log2 m : Int) + e > 12 then
    if neg then stickyUp f false 1 (-8192) else stickyUp f false 1 8192
  else
    let x : Int := if neg then -(fixed300 m e : Int) else fixed300 m e
    let n := x / 2 ^ 300
    let t := (x % 2 ^ 300).toNat
    if t = 0 then roundTo f .rne false 1 n
    else stickyUp f false (expFixed (t * 2 ^ 20 * ln2Fixed / 2 ^ 320)) (n - 320)
/-- log2 of a finite x > 0. -/
def log2Fin (f : FFmt) (m : Nat) (e : Int) : Nat × FFlags :=
  let k := Nat.log2 m
  let n := e + k
  if m = 2 ^ k then roundInt f .rne n 0 false
  else
    let d := log2Digits 200 (m * 2 ^ (512 - k)) 0
    let v : Int := n * 2 ^ 201 + (2 * d + 1 : Nat)
    roundInt f .rne v (-201) false
/-- sin(π x) for a finite x ≠ 0; `half` adds 1/2 to x, which gives cos(π x). -/
def sinPiFin (f : FFmt) (half neg : Bool) (m : Nat) (e : Int) : Nat × FFlags :=
  let big := (Nat.log2 m : Int) + e > 64
  let x0 : Int := if big then 0 else if neg then -(fixed300 m e : Int) else fixed300 m e
  let x := if half then x0 + 2 ^ 299 else x0
  let r := (x % 2 ^ 301).toNat
  let lower := r ≥ 2 ^ 300
  let u := if lower then r - 2 ^ 300 else r
  let t := if u > 2 ^ 299 then 2 ^ 300 - u else u
  if t = 0 then (signBit f (!half && neg), 0)
  else if t = 2 ^ 299 then roundTo f .rne lower 1 0
  else stickyUp f lower (sinFixed t) (-448)
/-- tanh of a finite x ≠ 0. -/
def tanhFin (f : FFmt) (neg : Bool) (m : Nat) (e : Int) : Nat × FFlags :=
  let top := (Nat.log2 m : Int) + e
  if top < -30 then roundTo f .rne neg (m * 2 ^ 64 - 1) (e - 64)
  else if top ≥ 6 then roundTo f .rne neg (2 ^ 64 - 1) (-64)
  else
    let y := fixed300 m (e + 1) * 2 ^ 20
    let k := y / ln2Fixed
    let r := y - k * ln2Fixed
    let den := expFixed r * 2 ^ k
    let one := 2 ^ 320
    stickyUp f neg ((den - one) * 2 ^ 200 / (den + one)) (-200)
/-- 1 / √x for a finite x > 0. -/
def rsqFin (f : FFmt) (m : Nat) (e : Int) : Nat × FFlags :=
  let odd := e % 2 = 1
  let n := if odd then 2 * m else m
  let h := (if odd then e - 1 else e) / 2
  let r := isqrt (2 ^ 300 / n)
  if r * r * n = 2 ^ 300 then roundTo f .rne false r (-150 - h) else stickyUp f false r (-150 - h)

/-- The seven functions of R169. -/
inductive SpecFn | rcp | rsq | exp2 | log2 | sin | cos | tanh
  deriving DecidableEq, Repr

/-- A special function with the special inputs of R169. -/
def specFn (g : SpecFn) (f : FFmt) (x : Nat) : Nat × FFlags :=
  let one := (cvtIF f .rne 1).1
  match unpack f x, g with
  | .nan s, _ => nanOut f s
  | _, .rcp => fDiv f .rne one x
  | .inf n, .rsq => if n then nanOut f true else (0, 0)
  | .fin n m e, .rsq =>
    if m = 0 then (signBit f n + infBits f, flagDZ) else if n then nanOut f true else rsqFin f m e
  | .inf n, .exp2 => if n then (0, 0) else (infBits f, 0)
  | .fin n m e, .exp2 => exp2Fin f n m e
  | .inf n, .log2 => if n then nanOut f true else (infBits f, 0)
  | .fin n m e, .log2 =>
    if m = 0 then (signBit f true + infBits f, flagDZ) else if n then nanOut f true else log2Fin f m e
  | .inf _, .sin => nanOut f true
  | .fin n m e, .sin => if m = 0 then (signBit f n, 0) else sinPiFin f false n m e
  | .inf _, .cos => nanOut f true
  | .fin n m e, .cos => if m = 0 then (one, 0) else sinPiFin f true n m e
  | .inf n, .tanh => (signBit f n + one, 0)
  | .fin n m e, .tanh => if m = 0 then (signBit f n, 0) else tanhFin f n m e

end Sys2Proof.Machine
end

