-- ==== Sys2Proof/Machine/Vector.lean ====
section
/-! DEFINITION. The vector and predicate instructions of VA and VB (R156 to R175). -/

namespace Sys2Proof.Machine

/-! ### Lanes and sources (R104, R156 to R159) -/

/-- The bits of an integer in a format: reduced, or rounded to nearest (exact for the constants of R104). -/
def fmtNum : Fmt → Int → Nat
  | .int w, x => (toWidth w.bits x).toNat
  | .flt f, x => (cvtIF f .rne x).1
/-- A vector source in the lanes of a format (R104). -/
def Ctx.vval (c : Ctx) (f : Fmt) (a : Src) : Vec := c.vvalBy f.bits (fmtNum f) (fun x => fmtNum f x) a
/-- DST's earlier value; with NW, v0's (R157). -/
def Ctx.dstVec (c : Ctx) (d : Dst) : Vec := c.v.get (d.getD 0)
/-- The rounding mode of a vector syllable (R159). -/
def Ctx.vmode (c : Ctx) (x : Option VMod) : RMode := match x with | none => modeOf c.ctl.rnd | some m => c.mode m.rq
/-- Its saturation. -/
def vsat (x : Option VMod) : Sat := match x with | none => .none | some m => m.sat
/-- Its IMM11. -/
def vimm (x : Option VMod) : Nat := match x with | none => 0 | some m => m.imm11.toNat

/-- The governing bits of lanes of `w` bits under a predicate (R156). -/
def governs (w : Nat) (p : Pred) : List Bool := (List.range (2048 / w)).map fun i => p.getLsbD (w / 8 * i)
/-- A result lane with its flags. -/
abbrev LaneRes := Nat × FFlags
/-- Merges per lane: the operation where the lane is governed, else the earlier value and no flag (R157, R158). -/
def laneMerge (op : Nat → Nat → Nat → LaneRes) : List Bool → List Nat → List Nat → List Nat → List LaneRes
  | g :: gs, a :: as, b :: bs, d :: ds => (if g then op a b d else (d, 0)) :: laneMerge op gs as bs ds
  | _, _, _, _ => []
/-- A vector and the union of the flags from its lanes. -/
def packLanes (w : Nat) (rs : List LaneRes) : Vec × FFlags := (Vec.ofLanes w (rs.map (·.1)), orFlags (rs.map (·.2)))

/-- A vector syllable that reads `vs` of the v file and `ss` of the s file and writes a v register. -/
def vecSyl (u : VUnit) (vs ss : List Src) (d : Dst) (f : Ctx → Vec × FFlags) : Syl :=
  { slot := u.slot, vregs := vregsOf vs ++ (d.map Fin.val).toList, latches := latchesOf (vs ++ ss)
    dest := d.map fun n => (.v, n.val), phase := phaseVector
    perform := onCtx fun pre c => (c.outV u.latch d (f pre).1).raiseFlags (f pre).2 }
/-- A vector syllable with a result in the s file. -/
def vecToS (u : VUnit) (vs ss : List Src) (d : Dst) (f : Ctx → Dword) : Syl :=
  { slot := u.slot, vregs := vregsOf vs, latches := latchesOf (vs ++ ss), dest := d.map fun n => (.s, n.val)
    phase := phaseVector, perform := onCtx fun pre c => c.outS u.latch d (f pre) }
/-- A syllable with a result in the p file. -/
def vecToP (u : VUnit) (vs : List Src) (d : PDst) (f : Ctx → Pred × FFlags) : Syl :=
  { slot := u.slot, vregs := vregsOf vs, latches := latchesOf vs, dest := d.map fun n => (.p, n.val)
    phase := phaseVector, perform := onCtx fun pre c => (c.outP u.latch d (f pre).1).raiseFlags (f pre).2 }

/-- An element-wise instruction of two sources under M (R161); `op` receives A, B and D of the lane. -/
def ewise (u : VUnit) (d : Dst) (a b : Src) (p : Fin 16) (f : Fmt) (op : Ctx → Nat → Nat → Nat → LaneRes) : Syl :=
  vecSyl u [a, b] [] d fun c =>
    packLanes f.bits (laneMerge (op c) (governs f.bits (c.pval p)) (Vec.lanes (c.vval f a) f.bits)
      (Vec.lanes (c.vval f b) f.bits) (Vec.lanes (c.dstVec d) f.bits))
/-- An element-wise instruction of one source under M. -/
def ewise1 (u : VUnit) (d : Dst) (a : Src) (p : Fin 16) (f : Fmt) (op : Ctx → Nat → LaneRes) : Syl :=
  vecSyl u [a] [] d fun c =>
    let xs := Vec.lanes (c.vval f a) f.bits
    packLanes f.bits (laneMerge (fun x _ _ => op c x) (governs f.bits (c.pval p)) xs xs
      (Vec.lanes (c.dstVec d) f.bits))

/-- A lane read at width `w`, signed unless SATU (R161). -/
def laneInt (w : Nat) (s : Sat) (x : Nat) : Int := if s = .satu then (x : Int) else signedOf w x
/-- An integer result clamped or reduced to a lane (R161). -/
def laneOut (w : IntW) (s : Sat) (x : Int) : LaneRes := ((toWidth w.bits (clampW w s x)).toNat, 0)
/-- Integer lanes under a saturation, or floating lanes under a mode. -/
def arith (f : Fmt) (x : Option VMod) (iop : Int → Int → Int → Int)
    (fop : FFmt → RMode → Nat → Nat → Nat → Nat × FFlags) (c : Ctx) (a b d : Nat) : LaneRes :=
  match f with
  | .int w => laneOut w (vsat x) (iop (laneInt w.bits (vsat x) a) (laneInt w.bits (vsat x) b) (laneInt w.bits (vsat x) d))
  | .flt g => fop g (c.vmode x) a b d
/-- A bitwise lane operation. -/
def laneBits (op : Nat → Nat → Nat) (_ : Ctx) (a b _ : Nat) : LaneRes := (op a b, 0)
/-- Shifts of lanes, the count read unsigned (R131, R161). -/
def laneShl (w a n : Nat) : Nat := if n < w then a * 2 ^ n % 2 ^ w else 0
/-- Logical right shift. -/
def laneShr (w a n : Nat) : Nat := if n < w then a / 2 ^ n else 0
/-- Arithmetic right shift. -/
def laneSra (w a n : Nat) : Nat := (toWidth w (signedOf w a / 2 ^ (if n < w then n else w))).toNat
/-- The sum of the four products of sub-elements (R162). -/
def dot4 (w : Nat) (s : Sat) (a b : Nat) : Int :=
  let q := w / 4
  ((List.range 4).map fun k => laneInt q s (a / 2 ^ (q * k) % 2 ^ q) * laneInt q s (b / 2 ^ (q * k) % 2 ^ q)).foldl
    (fun x y => x + y) 0
/-- The outcome of a compare of two lanes (R163). -/
def laneCmp (f : Fmt) (cond : Cond) (a b : Nat) : Bool × FFlags :=
  match f with
  | .int w => (condInt w.bits cond (BitVec.ofNat _ a) (BitVec.ofNat _ b), 0)
  | .flt g => fCmp g cond a b
/-- A predicate from one outcome per lane: every bit of the lane's byte group (R163). -/
def predOf (w : Nat) (gs : List Bool) : Pred :=
  BitVec.ofNat 256 (lanesOf (w / 8) (gs.map fun g => if g then 2 ^ (w / 8) - 1 else 0))
/-- The lanes of `xs` whose governing bit is set, and those whose bit is clear. -/
def chosen {α : Type} : List Bool → List α → List α × List α
  | g :: gs, x :: xs => let r := chosen gs xs; if g then (x :: r.1, r.2) else (r.1, x :: r.2)
  | _, _ => ([], [])
/-- A list cut or filled with zeros to `n` elements. -/
def padTo (n : Nat) (xs : List Nat) : List Nat := (xs ++ List.replicate n 0).take n
/-- VEXPAND's lanes (R164). -/
def expandLanes : List Bool → List Nat → List Nat → List Nat
  | g :: gs, as, d :: ds =>
    if g then as.headD 0 :: expandLanes gs as.tail ds else d :: expandLanes gs as ds
  | _, _, _ => []
/-- Element `j` of a list. -/
def nth (xs : List Nat) (j : Nat) : Nat := xs.getD j 0
/-- The lane index of VEXTR and VINS (R164). -/
def laneIndex (f : Fmt) (x : Option VMod) (v : Dword) : Nat := (v.toNat + vimm x) % (2048 / f.bits)

/-! ### Conversions (R165, R166) -/

/-- One converted element between any two formats (R165). -/
def vcvtOne (dst src : Fmt) (s : Sat) (mode : RMode) (x : Nat) : LaneRes :=
  match dst, src with
  | .int wd, .int ws => laneOut wd s (signedOf ws.bits x)
  | .int wd, .flt g => cvtFI wd.bits g mode x
  | .flt f, .int ws => cvtIF f mode (signedOf ws.bits x)
  | .flt f, .flt g => cvtFF f g mode x
/-- The blocks of VBFPK: `n` runs of 32 lanes (R166). -/
def packBlocks (w : Nat) (mode : RMode) : Nat → List FVal → List Byte × FFlags
  | 0, _ => ([], 0)
  | n + 1, xs =>
    let q := quantise w mode (xs.take 32)
    let r := packBlocks w mode n (xs.drop 32)
    (blockBytes w q.1 q.2.1 ++ r.1, q.2.2 ||| r.2)

/-! ### Reductions (R93, R167) -/

/-- A sum with the flags of everything under it. -/
def addRes (add : Nat → Nat → Nat × FFlags) (a b : LaneRes) : LaneRes :=
  let r := add a.1 b.1
  (r.1, a.2 ||| b.2 ||| r.2)
/-- The sums of neighbours. -/
def pairSums (add : Nat → Nat → Nat × FFlags) : List LaneRes → List LaneRes
  | a :: b :: r => addRes add a b :: pairSums add r
  | _ => []
/-- The levels of the tree of R93 from the leaves up; each node carries the flags of the additions under it. -/
def treeLevels (add : Nat → Nat → Nat × FFlags) : Nat → List LaneRes → List (List LaneRes)
  | 0, xs => [xs]
  | k + 1, xs => if xs.length ≤ 1 then [xs] else xs :: treeLevels add k (pairSums add xs)
/-- Node `j` of a level. -/
def nodeAt (xs : List LaneRes) (j : Nat) : LaneRes := xs.getD j (0, 0)
/-- The leaves: the lanes with g(i) = 1, and +0 for the others. -/
def treeLeaves (gs : List Bool) (xs : List Nat) : List LaneRes := (gs.zip xs).map fun e => (if e.1 then e.2 else 0, 0)
/-- The nodes that cover lanes 0 to i − 1, by the binary digits of i from the most significant down: `k` is the
level of the digit, `j` the first lane not yet covered (R93). -/
def scanNodes (levels : List (List LaneRes)) (i : Nat) : Nat → Nat → List LaneRes
  | 0, _ => []
  | k + 1, j =>
    if i / 2 ^ k % 2 = 1 then nodeAt (levels.getD k []) (j / 2 ^ k) :: scanNodes levels i k (j + 2 ^ k)
    else scanNodes levels i k j
/-- A value that an arithmetic operation hands on: a NaN becomes the default NaN, a signalling one with NV (R82). -/
def arithNan (f : FFmt) (x : LaneRes) : LaneRes :=
  if (unpack f x.1).isNan then (nanBits f, x.2 ||| flagIf (unpack f x.1).isSnan flagNV) else x
/-- Adds nodes left to right, one rounding per addition. -/
def addLeft (f : FFmt) (add : Nat → Nat → Nat × FFlags) : List LaneRes → LaneRes
  | [] => (0, 0)
  | x :: xs => xs.foldl (addRes add) (arithNan f x)
/-- Prefix sums of integers. -/
def prefixSums : Int → List Int → List Int
  | _, [] => []
  | a, x :: xs => (a + x) :: prefixSums (a + x) xs
/-- The greatest or least of the lanes that are no NaN, with its bits (R167). -/
def redMinMax (f : FFmt) (max : Bool) (xs : List Nat) : LaneRes :=
  let nv := flagIf (xs.any fun x => (unpack f x).isSnan) flagNV
  match xs.filter fun x => !(unpack f x).isNan with
  | [] => (nanBits f, nv)
  | y :: ys => (ys.foldl (fun a b => (fMinMax f max a b).1) y, nv)

/-! ### Sorting (R171) -/

/-- A lane's key does not come after another's in key order. -/
def keyLe (f : Fmt) (a b : Nat) : Bool :=
  match f with
  | .int w => signedOf w.bits a ≤ signedOf w.bits b
  | .flt g =>
    let x := unpack g a
    let y := unpack g b
    if y.isNan then true else if x.isNan then false else cmpVal true x y ≤ 0
/-- Inserts a pair before the first one whose key comes after it or equals it. -/
def insKey (f : Fmt) (x : Nat × Nat) : List (Nat × Nat) → List (Nat × Nat)
  | [] => [x]
  | y :: ys => if keyLe f x.1 y.1 then x :: y :: ys else y :: insKey f x ys
/-- Stable sort of (key, value) pairs by key order: the later lane of equal keys is inserted first. -/
def sortKeys (f : Fmt) : List (Nat × Nat) → List (Nat × Nat)
  | [] => []
  | x :: xs => insKey f x (sortKeys f xs)
/-- The lanes of `vs` in the permutation of R171 formed from `ks`. -/
def sortLanes (f : Fmt) (gs : List Bool) (ks vs : List Nat) : List Nat :=
  let c := chosen gs (ks.zip vs)
  (sortKeys f c.1 ++ c.2).map (·.2)

/-! ### Histograms and predicates (R170, R172) -/

/-- Counter `j` of a lane counts one, saturating at 255 (R170). -/
def histLane (w s d a : Nat) : Nat :=
  let j := if s ≥ w then 0 else a / 2 ^ s % (w / 8)
  let k := d / 2 ^ (8 * j) % 256
  if k = 255 then d else d + 2 ^ (8 * j)
/-- Bits of `x` where `g` is set, else of `d` (R172). -/
def predMerge (g x d : Pred) : Pred := (x &&& g) ||| (d &&& ~~~ g)
/-- A predicate instruction (R172). -/
def predSyl (u : VUnit) (d : PDst) (p : Fin 16) (f : Ctx → Pred) : Syl :=
  vecToP u [] d fun c => (predMerge (c.pval p) (f c) (c.pval (d.getD 0)), 0)
/-- The index of the first set element, or the number of elements. -/
def firstSet : List Bool → Nat
  | [] => 0
  | b :: bs => if b then 0 else 1 + firstSet bs
/-- The predicates of an octet. -/
def octAt : OctBase → Fin 8 → Fin 16
  | .p0, k => ⟨k, by omega⟩
  | .p8, k => ⟨8 + k, by omega⟩

/-- VADD (R161) -/
def actVadd (u : VUnit) (d : Dst) (a b : Src) (p : Fin 16) (f : Fmt) (x : Option VMod) : Syl :=
  ewise u d a b p f (arith f x (fun a b _ => a + b) fun g m a b _ => fAdd g m a b)
/-- VADD, alone in its bundle. -/
def execVadd (u : VUnit) (d : Dst) (a b : Src) (p : Fin 16) (f : Fmt) (x : Option VMod) (s : State) : Host.Outcome State Fault Refusal :=
  issueOne (actVadd u d a b p f x) s

/-- VSUB (R161) -/
def actVsub (u : VUnit) (d : Dst) (a b : Src) (p : Fin 16) (f : Fmt) (x : Option VMod) : Syl :=
  ewise u d a b p f (arith f x (fun a b _ => a - b) fun g m a b _ => fSub g m a b)
/-- VSUB, alone in its bundle. -/
def execVsub (u : VUnit) (d : Dst) (a b : Src) (p : Fin 16) (f : Fmt) (x : Option VMod) (s : State) : Host.Outcome State Fault Refusal :=
  issueOne (actVsub u d a b p f x) s

/-- VMUL (R161) -/
def actVmul (u : VUnit) (d : Dst) (a b : Src) (p : Fin 16) (f : Fmt) (x : Option VMod) : Syl :=
  ewise u d a b p f (arith f x (fun a b _ => a * b) fun g m a b _ => fMul g m a b)
/-- VMUL, alone in its bundle. -/
def execVmul (u : VUnit) (d : Dst) (a b : Src) (p : Fin 16) (f : Fmt) (x : Option VMod) (s : State) : Host.Outcome State Fault Refusal :=
  issueOne (actVmul u d a b p f x) s

/-- VFMA (R161) -/
def actVfma (u : VUnit) (d : Dst) (a b : Src) (p : Fin 16) (f : Fmt) (x : Option VMod) : Syl :=
  ewise u d a b p f (arith f x (fun a b d => a * b + d) fun g m a b d => fFma g m a b d)
/-- VFMA, alone in its bundle. -/
def execVfma (u : VUnit) (d : Dst) (a b : Src) (p : Fin 16) (f : Fmt) (x : Option VMod) (s : State) : Host.Outcome State Fault Refusal :=
  issueOne (actVfma u d a b p f x) s

/-- VFMS (R161) -/
def actVfms (u : VUnit) (d : Dst) (a b : Src) (p : Fin 16) (f : Fmt) (x : Option VMod) : Syl :=
  ewise u d a b p f (arith f x (fun a b d => a * b - d) fun g m a b d => fmaVal g m (unpack g a) (unpack g b) (unpack g d).negate)
/-- VFMS, alone in its bundle. -/
def execVfms (u : VUnit) (d : Dst) (a b : Src) (p : Fin 16) (f : Fmt) (x : Option VMod) (s : State) : Host.Outcome State Fault Refusal :=
  issueOne (actVfms u d a b p f x) s

/-- VMULH (R161) -/
def actVmulh (u : VUnit) (d : Dst) (a b : Src) (p : Fin 16) (w : IntW) (x : Option VMod) : Syl :=
  let _ := x
  ewise u d a b p (.int w) fun _ a b _ => laneOut w .none (mulHigh w (signedOf w.bits a) (signedOf w.bits b))
/-- VMULH, alone in its bundle. -/
def execVmulh (u : VUnit) (d : Dst) (a b : Src) (p : Fin 16) (w : IntW) (x : Option VMod) (s : State) : Host.Outcome State Fault Refusal :=
  issueOne (actVmulh u d a b p w x) s

/-- VNEG (R161) -/
def actVneg (u : VUnit) (d : Dst) (a : Src) (p : Fin 16) (f : Fmt) (x : Option VMod) : Syl :=
  ewise1 u d a p f fun _ v => match f with
    | .int w => laneOut w (vsat x) (-signedOf w.bits v)
    | .flt g => (fNeg g v, 0)
/-- VNEG, alone in its bundle. -/
def execVneg (u : VUnit) (d : Dst) (a : Src) (p : Fin 16) (f : Fmt) (x : Option VMod) (s : State) : Host.Outcome State Fault Refusal :=
  issueOne (actVneg u d a p f x) s

/-- VABS (R161) -/
def actVabs (u : VUnit) (d : Dst) (a : Src) (p : Fin 16) (f : Fmt) (x : Option VMod) : Syl :=
  ewise1 u d a p f fun _ v => match f with
    | .int w => laneOut w (vsat x) (signedOf w.bits v).natAbs
    | .flt g => (fAbs g v, 0)
/-- VABS, alone in its bundle. -/
def execVabs (u : VUnit) (d : Dst) (a : Src) (p : Fin 16) (f : Fmt) (x : Option VMod) (s : State) : Host.Outcome State Fault Refusal :=
  issueOne (actVabs u d a p f x) s

/-- VMIN (R83, R161) -/
def actVmin (u : VUnit) (d : Dst) (a b : Src) (p : Fin 16) (f : Fmt) (x : Option VMod) : Syl :=
  let _ := x
  ewise u d a b p f fun _ a b _ => match f with
    | .int w => laneOut w .none (min (signedOf w.bits a) (signedOf w.bits b))
    | .flt g => fMinMax g false a b
/-- VMIN, alone in its bundle. -/
def execVmin (u : VUnit) (d : Dst) (a b : Src) (p : Fin 16) (f : Fmt) (x : Option VMod) (s : State) : Host.Outcome State Fault Refusal :=
  issueOne (actVmin u d a b p f x) s

/-- VMAX (R83, R161) -/
def actVmax (u : VUnit) (d : Dst) (a b : Src) (p : Fin 16) (f : Fmt) (x : Option VMod) : Syl :=
  let _ := x
  ewise u d a b p f fun _ a b _ => match f with
    | .int w => laneOut w .none (max (signedOf w.bits a) (signedOf w.bits b))
    | .flt g => fMinMax g true a b
/-- VMAX, alone in its bundle. -/
def execVmax (u : VUnit) (d : Dst) (a b : Src) (p : Fin 16) (f : Fmt) (x : Option VMod) (s : State) : Host.Outcome State Fault Refusal :=
  issueOne (actVmax u d a b p f x) s

/-- VDOT4 (R162) -/
def actVdot4 (u : VUnit) (d : Dst) (a b : Src) (p : Fin 16) (w : IntW) (x : Option VMod) : Syl :=
  ewise u d a b p (.int w) fun _ a b d =>
    laneOut w (vsat x) (laneInt w.bits (vsat x) d + dot4 w.bits (vsat x) a b)
/-- VDOT4, alone in its bundle. -/
def execVdot4 (u : VUnit) (d : Dst) (a b : Src) (p : Fin 16) (w : IntW) (x : Option VMod) (s : State) : Host.Outcome State Fault Refusal :=
  issueOne (actVdot4 u d a b p w x) s

/-- VAND (R161) -/
def actVand (u : VUnit) (d : Dst) (a b : Src) (p : Fin 16) (w : IntW) (x : Option VMod) : Syl :=
  let _ := x
  ewise u d a b p (.int w) (laneBits (fun a b => a &&& b))
/-- VAND, alone in its bundle. -/
def execVand (u : VUnit) (d : Dst) (a b : Src) (p : Fin 16) (w : IntW) (x : Option VMod) (s : State) : Host.Outcome State Fault Refusal :=
  issueOne (actVand u d a b p w x) s

/-- VOR (R161) -/
def actVor (u : VUnit) (d : Dst) (a b : Src) (p : Fin 16) (w : IntW) (x : Option VMod) : Syl :=
  let _ := x
  ewise u d a b p (.int w) (laneBits (fun a b => a ||| b))
/-- VOR, alone in its bundle. -/
def execVor (u : VUnit) (d : Dst) (a b : Src) (p : Fin 16) (w : IntW) (x : Option VMod) (s : State) : Host.Outcome State Fault Refusal :=
  issueOne (actVor u d a b p w x) s

/-- VXOR (R161) -/
def actVxor (u : VUnit) (d : Dst) (a b : Src) (p : Fin 16) (w : IntW) (x : Option VMod) : Syl :=
  let _ := x
  ewise u d a b p (.int w) (laneBits (fun a b => a ^^^ b))
/-- VXOR, alone in its bundle. -/
def execVxor (u : VUnit) (d : Dst) (a b : Src) (p : Fin 16) (w : IntW) (x : Option VMod) (s : State) : Host.Outcome State Fault Refusal :=
  issueOne (actVxor u d a b p w x) s

/-- VANDN (R161) -/
def actVandn (u : VUnit) (d : Dst) (a b : Src) (p : Fin 16) (w : IntW) (x : Option VMod) : Syl :=
  let _ := x
  ewise u d a b p (.int w) (laneBits (fun a b => a &&& (b ^^^ (2 ^ w.bits - 1))))
/-- VANDN, alone in its bundle. -/
def execVandn (u : VUnit) (d : Dst) (a b : Src) (p : Fin 16) (w : IntW) (x : Option VMod) (s : State) : Host.Outcome State Fault Refusal :=
  issueOne (actVandn u d a b p w x) s

/-- VSHL (R131, R161) -/
def actVshl (u : VUnit) (d : Dst) (a b : Src) (p : Fin 16) (w : IntW) (x : Option VMod) : Syl :=
  let _ := x
  ewise u d a b p (.int w) (laneBits (laneShl w.bits))
/-- VSHL, alone in its bundle. -/
def execVshl (u : VUnit) (d : Dst) (a b : Src) (p : Fin 16) (w : IntW) (x : Option VMod) (s : State) : Host.Outcome State Fault Refusal :=
  issueOne (actVshl u d a b p w x) s

/-- VSHR (R131, R161) -/
def actVshr (u : VUnit) (d : Dst) (a b : Src) (p : Fin 16) (w : IntW) (x : Option VMod) : Syl :=
  let _ := x
  ewise u d a b p (.int w) (laneBits (laneShr w.bits))
/-- VSHR, alone in its bundle. -/
def execVshr (u : VUnit) (d : Dst) (a b : Src) (p : Fin 16) (w : IntW) (x : Option VMod) (s : State) : Host.Outcome State Fault Refusal :=
  issueOne (actVshr u d a b p w x) s

/-- VSRA (R131, R161) -/
def actVsra (u : VUnit) (d : Dst) (a b : Src) (p : Fin 16) (w : IntW) (x : Option VMod) : Syl :=
  let _ := x
  ewise u d a b p (.int w) (laneBits (laneSra w.bits))
/-- VSRA, alone in its bundle. -/
def execVsra (u : VUnit) (d : Dst) (a b : Src) (p : Fin 16) (w : IntW) (x : Option VMod) (s : State) : Host.Outcome State Fault Refusal :=
  issueOne (actVsra u d a b p w x) s

/-- VCMP (R163) -/
def actVcmp (u : VUnit) (d : PDst) (a b : Src) (cond : Cond) (f : Fmt) (x : Option VMod) : Syl :=
  let _ := x
  vecToP u [a, b] d fun c =>
    let rs := ((Vec.lanes (c.vval f a) f.bits).zip (Vec.lanes (c.vval f b) f.bits)).map fun e => laneCmp f cond e.1 e.2
    (predOf f.bits (rs.map (·.1)), orFlags (rs.map (·.2)))
/-- VCMP, alone in its bundle. -/
def execVcmp (u : VUnit) (d : PDst) (a b : Src) (cond : Cond) (f : Fmt) (x : Option VMod) (s : State) : Host.Outcome State Fault Refusal :=
  issueOne (actVcmp u d a b cond f x) s

/-- VSEL (R164) -/
def actVsel (u : VUnit) (d : Dst) (a b : Src) (p : Fin 16) (f : Fmt) (x : Option VMod) : Syl :=
  let _ := x
  vecSyl u [a, b] [] d fun c =>
    let bs := Vec.lanes (c.vval f b) f.bits
    packLanes f.bits (laneMerge (fun a _ _ => (a, 0)) (governs f.bits (c.pval p)) (Vec.lanes (c.vval f a) f.bits) bs bs)
/-- VSEL, alone in its bundle. -/
def execVsel (u : VUnit) (d : Dst) (a b : Src) (p : Fin 16) (f : Fmt) (x : Option VMod) (s : State) : Host.Outcome State Fault Refusal :=
  issueOne (actVsel u d a b p f x) s

/-- VMOV (R164) -/
def actVmov (u : VUnit) (d : Dst) (a : Src) (p : Fin 16) (f : Fmt) (x : Option VMod) : Syl :=
  let _ := x
  ewise1 u d a p f fun _ v => (v, 0)
/-- VMOV, alone in its bundle. -/
def execVmov (u : VUnit) (d : Dst) (a : Src) (p : Fin 16) (f : Fmt) (x : Option VMod) (s : State) : Host.Outcome State Fault Refusal :=
  issueOne (actVmov u d a p f x) s

/-- VBCAST (R164): the source is of the s file -/
def actVbcast (u : VUnit) (d : Dst) (a : Src) (p : Fin 16) (f : Fmt) (x : Option VMod) : Syl :=
  let _ := x
  vecSyl u [] [a] d fun c =>
    let xs := List.replicate (2048 / f.bits) ((c.sval a).toNat % 2 ^ f.bits)
    packLanes f.bits (laneMerge (fun v _ _ => (v, 0)) (governs f.bits (c.pval p)) xs xs (Vec.lanes (c.dstVec d) f.bits))
/-- VBCAST, alone in its bundle. -/
def execVbcast (u : VUnit) (d : Dst) (a : Src) (p : Fin 16) (f : Fmt) (x : Option VMod) (s : State) : Host.Outcome State Fault Refusal :=
  issueOne (actVbcast u d a p f x) s

/-- VEXTR (R164) -/
def actVextr (u : VUnit) (d : Dst) (a b : Src) (f : Fmt) (x : Option VMod) : Syl :=
  vecToS u [a] [b] d fun c =>
    let v := laneAt (c.vval f a) f.bits (laneIndex f x (c.sval b))
    match f with
    | .int w => (BitVec.ofNat w.bits v).signExtend 64
    | .flt _ => BitVec.ofNat 64 v
/-- VEXTR, alone in its bundle. -/
def execVextr (u : VUnit) (d : Dst) (a b : Src) (f : Fmt) (x : Option VMod) (s : State) : Host.Outcome State Fault Refusal :=
  issueOne (actVextr u d a b f x) s

/-- VINS (R164) -/
def actVins (u : VUnit) (d : Dst) (a b : Src) (f : Fmt) (x : Option VMod) : Syl :=
  vecSyl u [] [a, b] d fun c =>
    (putSlice (c.dstVec d) (f.bits * laneIndex f x (c.sval b)) ((c.sval a).setWidth f.bits), 0)
/-- VINS, alone in its bundle. -/
def execVins (u : VUnit) (d : Dst) (a b : Src) (f : Fmt) (x : Option VMod) (s : State) : Host.Outcome State Fault Refusal :=
  issueOne (actVins u d a b f x) s

/-- VIOTA (R164) -/
def actViota (u : VUnit) (d : Dst) (a b : Src) (p : Fin 16) (f : Fmt) (x : Option VMod) : Syl :=
  vecSyl u [] [a, b] d fun c =>
    let is := (List.range (2048 / f.bits)).map fun i => i + vimm x
    let av := (c.sval a).toNat % 2 ^ f.bits
    let bv := (c.sval b).toNat % 2 ^ f.bits
    let op := fun (i _ _ : Nat) => match f with
      | .int w => laneOut w .none (signedOf w.bits av + (i : Int) * signedOf w.bits bv)
      | .flt g => fmaVal g (c.vmode x) (.fin false i 0) (unpack g bv) (unpack g av)
    packLanes f.bits (laneMerge op (governs f.bits (c.pval p)) is is (Vec.lanes (c.dstVec d) f.bits))
/-- VIOTA, alone in its bundle. -/
def execViota (u : VUnit) (d : Dst) (a b : Src) (p : Fin 16) (f : Fmt) (x : Option VMod) (s : State) : Host.Outcome State Fault Refusal :=
  issueOne (actViota u d a b p f x) s

/-- VCVT (R165) -/
def actVcvt (u : VUnit) (d : Dst) (a : Src) (src : Fmt) (rq : Rq) (p : Fin 16) (f : Fmt) (x : Option VMod) : Syl :=
  vecSyl u [a] [] d fun c =>
    let m := 2048 / max src.bits f.bits
    let xs := (Vec.lanes (c.vval src a) src.bits).take m
    let ds := Vec.lanes (c.dstVec d) f.bits
    let r := packLanes f.bits (laneMerge (fun v _ _ => vcvtOne f src (vsat x) (c.mode rq) v)
      (governs f.bits (c.pval p)) xs xs ds)
    (r.1 ||| BitVec.ofNat 2048 (lanesOf f.bits (ds.drop m) * 2 ^ (f.bits * m)), r.2)
/-- VCVT, alone in its bundle. -/
def execVcvt (u : VUnit) (d : Dst) (a : Src) (src : Fmt) (rq : Rq) (p : Fin 16) (f : Fmt) (x : Option VMod) (s : State) : Host.Outcome State Fault Refusal :=
  issueOne (actVcvt u d a src rq p f x) s

/-- VBFPK (R166) -/
def actVbfpk (u : VUnit) (d : Dst) (a : Src) (wm1 : Fin 8) (rq : Rq) (p : Fin 16) (f : FFmt) (x : Option VMod) : Syl :=
  let _ := x
  vecSyl u [a] [] d fun c =>
    let xs := ((Vec.lanes (c.vval (.flt f) a) f.bits).zip (governs f.bits (c.pval p))).map fun e =>
      if e.2 then unpack f e.1 else .fin false 0 0
    let r := packBlocks (wm1.val + 1) (c.mode rq) (2048 / f.bits / 32) xs
    (BitVec.ofNat 2048 (leNat r.1), r.2)
/-- VBFPK, alone in its bundle. -/
def execVbfpk (u : VUnit) (d : Dst) (a : Src) (wm1 : Fin 8) (rq : Rq) (p : Fin 16) (f : FFmt) (x : Option VMod) (s : State) : Host.Outcome State Fault Refusal :=
  issueOne (actVbfpk u d a wm1 rq p f x) s

/-- VBFUP (R166) -/
def actVbfup (u : VUnit) (d : Dst) (a : Src) (wm1 : Fin 8) (rq : Rq) (p : Fin 16) (f : FFmt) (x : Option VMod) : Syl :=
  let _ := x
  vecSyl u [a] [] d fun c =>
    let w := wm1.val + 1
    let bs := leBytes 256 (c.vval (.flt f) a).toNat
    let is := List.range (2048 / f.bits)
    let op := fun (i _ _ : Nat) =>
      match blockElem w ((bs.drop (i / 32 * (4 * w + 1))).take (4 * w + 1)) (i % 32) with
      | .nan _ => (nanBits f, 0)
      | v => roundVal f (c.mode rq) v
    packLanes f.bits (laneMerge op (governs f.bits (c.pval p)) is is (Vec.lanes (c.dstVec d) f.bits))
/-- VBFUP, alone in its bundle. -/
def execVbfup (u : VUnit) (d : Dst) (a : Src) (wm1 : Fin 8) (rq : Rq) (p : Fin 16) (f : FFmt) (x : Option VMod) (s : State) : Host.Outcome State Fault Refusal :=
  issueOne (actVbfup u d a wm1 rq p f x) s

/-- VPERM (R164) -/
def actVperm (u : VUnit) (d : Dst) (a b : Src) (p : Fin 16) (w : IntW) (x : Option VMod) : Syl :=
  let _ := x
  vecSyl u [a, b] [] d fun c =>
    let as := Vec.lanes (c.vval (.int w) a) w.bits
    let bs := Vec.lanes (c.vval (.int w) b) w.bits
    packLanes w.bits (laneMerge (fun j _ _ => (nth as (j % (2048 / w.bits)), 0)) (governs w.bits (c.pval p)) bs bs
      (Vec.lanes (c.dstVec d) w.bits))
/-- VPERM, alone in its bundle. -/
def execVperm (u : VUnit) (d : Dst) (a b : Src) (p : Fin 16) (w : IntW) (x : Option VMod) (s : State) : Host.Outcome State Fault Refusal :=
  issueOne (actVperm u d a b p w x) s

/-- VSHUF (R164) -/
def actVshuf (u : VUnit) (d : Dst) (a b : Src) (p : Fin 16) (w : IntW) (x : Option VMod) : Syl :=
  let _ := x
  vecSyl u [a, b] [] d fun c =>
    let ds := Vec.lanes (c.dstVec d) w.bits
    let as := Vec.lanes (c.vval (.int w) a) w.bits ++ ds
    let bs := Vec.lanes (c.vval (.int w) b) w.bits
    packLanes w.bits (laneMerge (fun j _ _ => (nth as (j % (2 * (2048 / w.bits))), 0)) (governs w.bits (c.pval p)) bs bs ds)
/-- VSHUF, alone in its bundle. -/
def execVshuf (u : VUnit) (d : Dst) (a b : Src) (p : Fin 16) (w : IntW) (x : Option VMod) (s : State) : Host.Outcome State Fault Refusal :=
  issueOne (actVshuf u d a b p w x) s

/-- VSLIDE (R164) -/
def actVslide (u : VUnit) (d : Dst) (a b : Src) (p : Fin 16) (f : Fmt) (x : Option VMod) : Syl :=
  vecSyl u [a] [b] d fun c =>
    let n := 2048 / f.bits
    let k : Int := (c.sval b).toInt + vimm x
    let as := Vec.lanes (c.vval f a) f.bits
    let is := List.range n
    let op := fun (i _ _ : Nat) =>
      let j : Int := i + k
      (if 0 ≤ j ∧ j < n then nth as j.toNat else 0, 0)
    packLanes f.bits (laneMerge op (governs f.bits (c.pval p)) is is (Vec.lanes (c.dstVec d) f.bits))
/-- VSLIDE, alone in its bundle. -/
def execVslide (u : VUnit) (d : Dst) (a b : Src) (p : Fin 16) (f : Fmt) (x : Option VMod) (s : State) : Host.Outcome State Fault Refusal :=
  issueOne (actVslide u d a b p f x) s

/-- VCOMPR (R164) -/
def actVcompr (u : VUnit) (d : Dst) (a : Src) (p : Fin 16) (f : Fmt) (x : Option VMod) : Syl :=
  let _ := x
  vecSyl u [a] [] d fun c =>
    (Vec.ofLanes f.bits (padTo (2048 / f.bits) (chosen (governs f.bits (c.pval p)) (Vec.lanes (c.vval f a) f.bits)).1), 0)
/-- VCOMPR, alone in its bundle. -/
def execVcompr (u : VUnit) (d : Dst) (a : Src) (p : Fin 16) (f : Fmt) (x : Option VMod) (s : State) : Host.Outcome State Fault Refusal :=
  issueOne (actVcompr u d a p f x) s

/-- VEXPAND (R164) -/
def actVexpand (u : VUnit) (d : Dst) (a : Src) (p : Fin 16) (f : Fmt) (x : Option VMod) : Syl :=
  let _ := x
  vecSyl u [a] [] d fun c =>
    (Vec.ofLanes f.bits (expandLanes (governs f.bits (c.pval p)) (Vec.lanes (c.vval f a) f.bits)
      (Vec.lanes (c.dstVec d) f.bits)), 0)
/-- VEXPAND, alone in its bundle. -/
def execVexpand (u : VUnit) (d : Dst) (a : Src) (p : Fin 16) (f : Fmt) (x : Option VMod) (s : State) : Host.Outcome State Fault Refusal :=
  issueOne (actVexpand u d a p f x) s

/-- VRSUM (R93, R167) -/
def actVrsum (u : VUnit) (d : Dst) (a : Src) (p : Fin 16) (f : Fmt) (x : Option VMod) : Syl :=
  vecSyl u [a] [] d fun c =>
    let gs := governs f.bits (c.pval p)
    let xs := Vec.lanes (c.vval f a) f.bits
    let r : LaneRes := match f with
      | .int w => laneOut w (vsat x) (((chosen gs xs).1.map (laneInt w.bits (vsat x))).foldl (fun s y => s + y) 0)
      | .flt g => nodeAt ((treeLevels (fAdd g (c.vmode x)) 8 (treeLeaves gs xs)).getLastD []) 0
    (BitVec.ofNat 2048 r.1, r.2)
/-- VRSUM, alone in its bundle. -/
def execVrsum (u : VUnit) (d : Dst) (a : Src) (p : Fin 16) (f : Fmt) (x : Option VMod) (s : State) : Host.Outcome State Fault Refusal :=
  issueOne (actVrsum u d a p f x) s

/-- VRMAX (R167) -/
def actVrmax (u : VUnit) (d : Dst) (a : Src) (p : Fin 16) (f : Fmt) (x : Option VMod) : Syl :=
  let _ := x
  vecSyl u [a] [] d fun c =>
    let xs := (chosen (governs f.bits (c.pval p)) (Vec.lanes (c.vval f a) f.bits)).1
    let r : LaneRes := match f with
      | .int w => laneOut w .none ((xs.map (signedOf w.bits)).foldl (fun s y => max s y) (-(2 ^ (w.bits - 1))))
      | .flt g => redMinMax g true xs
    (BitVec.ofNat 2048 r.1, r.2)
/-- VRMAX, alone in its bundle. -/
def execVrmax (u : VUnit) (d : Dst) (a : Src) (p : Fin 16) (f : Fmt) (x : Option VMod) (s : State) : Host.Outcome State Fault Refusal :=
  issueOne (actVrmax u d a p f x) s

/-- VRMIN (R167) -/
def actVrmin (u : VUnit) (d : Dst) (a : Src) (p : Fin 16) (f : Fmt) (x : Option VMod) : Syl :=
  let _ := x
  vecSyl u [a] [] d fun c =>
    let xs := (chosen (governs f.bits (c.pval p)) (Vec.lanes (c.vval f a) f.bits)).1
    let r : LaneRes := match f with
      | .int w => laneOut w .none ((xs.map (signedOf w.bits)).foldl (fun s y => min s y) (2 ^ (w.bits - 1) - 1))
      | .flt g => redMinMax g false xs
    (BitVec.ofNat 2048 r.1, r.2)
/-- VRMIN, alone in its bundle. -/
def execVrmin (u : VUnit) (d : Dst) (a : Src) (p : Fin 16) (f : Fmt) (x : Option VMod) (s : State) : Host.Outcome State Fault Refusal :=
  issueOne (actVrmin u d a p f x) s

/-- VSCAN (R93, R167) -/
def actVscan (u : VUnit) (d : Dst) (a : Src) (p : Fin 16) (f : Fmt) (x : Option VMod) : Syl :=
  vecSyl u [a] [] d fun c =>
    let gs := governs f.bits (c.pval p)
    let xs := treeLeaves gs (Vec.lanes (c.vval f a) f.bits)
    let ds := Vec.lanes (c.dstVec d) f.bits
    match f with
    | .int w =>
      let ys := (prefixSums 0 ((xs.map (·.1)).map (laneInt w.bits (vsat x)))).map fun y => (laneOut w (vsat x) y).1
      packLanes f.bits (laneMerge (fun y _ _ => (y, 0)) gs ys ys ds)
    | .flt g =>
      let add := fAdd g (c.vmode x)
      let t := treeLevels add 8 xs
      let is := List.range (2048 / f.bits)
      packLanes f.bits (laneMerge (fun i _ _ => addLeft g add (scanNodes t (i + 1) 9 0)) gs is is ds)
/-- VSCAN, alone in its bundle. -/
def execVscan (u : VUnit) (d : Dst) (a : Src) (p : Fin 16) (f : Fmt) (x : Option VMod) (s : State) : Host.Outcome State Fault Refusal :=
  issueOne (actVscan u d a p f x) s

/-- VCHK (R174): CHECK_MISMATCH before any slot performs, or nothing -/
def actVchk (u : VUnit) (a b : Src) (p : Fin 16) (f : Fmt) (x : Option VMod) : Syl :=
  let _ := x
  { slot := u.slot, vregs := vregsOf [a, b], latches := latchesOf [a, b], phase := phaseVector
    check := fun s =>
      let c := s.cx
      let as := Vec.lanes (c.vval f a) f.bits
      let bs := Vec.lanes (c.vval f b) f.bits
      let bad := ((governs f.bits (c.pval p)).zip (as.zip bs)).map fun e => e.1 && e.2.1 ≠ e.2.2
      let n := (bad.filter id).length
      let i := firstSet bad
      if n = 0 then none
      else some {
        cause := .checkMismatch, slot := u.slot.num
        info := some {
          t0 := BitVec.ofNat 64 i, t1 := BitVec.ofNat 64 (nth as i), t2 := BitVec.ofNat 64 (nth bs i)
          t3 := BitVec.ofNat 64 n } }
    perform := onCtx fun _ c => c }
/-- VCHK, alone in its bundle. -/
def execVchk (u : VUnit) (a b : Src) (p : Fin 16) (f : Fmt) (x : Option VMod) (s : State) : Host.Outcome State Fault Refusal :=
  issueOne (actVchk u a b p f x) s

/-- PAND (R172) -/
def actPand (u : VUnit) (d : PDst) (a b : Fin 16) (p : Fin 16) (x : Option VMod) : Syl :=
  let _ := x
  predSyl u d p fun c => c.pval a &&& c.pval b
/-- PAND, alone in its bundle. -/
def execPand (u : VUnit) (d : PDst) (a b : Fin 16) (p : Fin 16) (x : Option VMod) (s : State) : Host.Outcome State Fault Refusal :=
  issueOne (actPand u d a b p x) s

/-- POR (R172) -/
def actPor (u : VUnit) (d : PDst) (a b : Fin 16) (p : Fin 16) (x : Option VMod) : Syl :=
  let _ := x
  predSyl u d p fun c => c.pval a ||| c.pval b
/-- POR, alone in its bundle. -/
def execPor (u : VUnit) (d : PDst) (a b : Fin 16) (p : Fin 16) (x : Option VMod) (s : State) : Host.Outcome State Fault Refusal :=
  issueOne (actPor u d a b p x) s

/-- PXOR (R172) -/
def actPxor (u : VUnit) (d : PDst) (a b : Fin 16) (p : Fin 16) (x : Option VMod) : Syl :=
  let _ := x
  predSyl u d p fun c => c.pval a ^^^ c.pval b
/-- PXOR, alone in its bundle. -/
def execPxor (u : VUnit) (d : PDst) (a b : Fin 16) (p : Fin 16) (x : Option VMod) (s : State) : Host.Outcome State Fault Refusal :=
  issueOne (actPxor u d a b p x) s

/-- PNOT (R172) -/
def actPnot (u : VUnit) (d : PDst) (a : Fin 16) (p : Fin 16) (x : Option VMod) : Syl :=
  let _ := x
  predSyl u d p fun c => ~~~ (c.pval a)
/-- PNOT, alone in its bundle. -/
def execPnot (u : VUnit) (d : PDst) (a : Fin 16) (p : Fin 16) (x : Option VMod) (s : State) : Host.Outcome State Fault Refusal :=
  issueOne (actPnot u d a p x) s

/-- PCNT (R172) -/
def actPcnt (u : VUnit) (d : Dst) (a : Fin 16) (p : Fin 16) (w : IntW) (x : Option VMod) : Syl :=
  let _ := x
  vecToS u [] [] d fun c => BitVec.ofNat 64 ((governs w.bits (c.pval a &&& c.pval p)).filter id).length
/-- PCNT, alone in its bundle. -/
def execPcnt (u : VUnit) (d : Dst) (a : Fin 16) (p : Fin 16) (w : IntW) (x : Option VMod) (s : State) : Host.Outcome State Fault Refusal :=
  issueOne (actPcnt u d a p w x) s

/-- PFIRST (R172) -/
def actPfirst (u : VUnit) (d : Dst) (a : Fin 16) (p : Fin 16) (w : IntW) (x : Option VMod) : Syl :=
  let _ := x
  vecToS u [] [] d fun c => BitVec.ofNat 64 (firstSet (governs w.bits (c.pval a &&& c.pval p)))
/-- PFIRST, alone in its bundle. -/
def execPfirst (u : VUnit) (d : Dst) (a : Fin 16) (p : Fin 16) (w : IntW) (x : Option VMod) (s : State) : Host.Outcome State Fault Refusal :=
  issueOne (actPfirst u d a p w x) s

/-- PMOV (R172) -/
def actPmov (u : VUnit) (d : PDst) (a : Fin 16) (p : Fin 16) (x : Option VMod) : Syl :=
  let _ := x
  predSyl u d p fun c => c.pval a
/-- PMOV, alone in its bundle. -/
def execPmov (u : VUnit) (d : PDst) (a : Fin 16) (p : Fin 16) (x : Option VMod) (s : State) : Host.Outcome State Fault Refusal :=
  issueOne (actPmov u d a p x) s

/-- PPACK (R173) -/
def actPpack (u : VUnit) (d : Dst) (a : OctBase) (x : Option VMod) : Syl :=
  let _ := x
  vecSyl u [] [] d fun c =>
    (Vec.ofLanes 256 ((List.finRange 8).map fun k => (c.pval (octAt a k)).toNat), 0)
/-- PPACK, alone in its bundle. -/
def execPpack (u : VUnit) (d : Dst) (a : OctBase) (x : Option VMod) (s : State) : Host.Outcome State Fault Refusal :=
  issueOne (actPpack u d a x) s

/-- PUNPK (R173): the latch receives the whole vector, and a write to p0 is discarded; the destination register that
R102 compares is p(D), the one its field names, and a sibling that names another of the eight writes over it (DEDUCED,
log 18) -/
def actPunpk (u : VUnit) (d : OctBase) (nw : Bool) (a : Src) (x : Option VMod) : Syl :=
  let _ := x
  { slot := u.slot, vregs := vregsOf [a], latches := latchesOf [a]
    dest := if nw then none else some (.p, (octAt d 0).val), phase := phaseVector
    perform := onCtx fun pre c =>
      let v := pre.vval (.int .i8) a
      let c1 := c.setLatch u.latch v
      if nw then c1
      else (List.finRange 8).foldl (fun c k => c.setP (some (octAt d k)) (slice v (256 * k.val) 256)) c1 }
/-- PUNPK, alone in its bundle. -/
def execPunpk (u : VUnit) (d : OctBase) (nw : Bool) (a : Src) (x : Option VMod) (s : State) : Host.Outcome State Fault Refusal :=
  issueOne (actPunpk u d nw a x) s

/-- VRCP (R168, R169) -/
def actVrcp (d : Dst) (a : Src) (p : Fin 16) (f : FFmt) : Syl :=
  ewise1 .vb d a p (.flt f) fun _ v => specFn .rcp f v
/-- VRCP, alone in its bundle. -/
def execVrcp (d : Dst) (a : Src) (p : Fin 16) (f : FFmt) (s : State) : Host.Outcome State Fault Refusal :=
  issueOne (actVrcp d a p f) s

/-- VRSQ (R168, R169) -/
def actVrsq (d : Dst) (a : Src) (p : Fin 16) (f : FFmt) : Syl :=
  ewise1 .vb d a p (.flt f) fun _ v => specFn .rsq f v
/-- VRSQ, alone in its bundle. -/
def execVrsq (d : Dst) (a : Src) (p : Fin 16) (f : FFmt) (s : State) : Host.Outcome State Fault Refusal :=
  issueOne (actVrsq d a p f) s

/-- VEXP2 (R168, R169) -/
def actVexp2 (d : Dst) (a : Src) (p : Fin 16) (f : FFmt) : Syl :=
  ewise1 .vb d a p (.flt f) fun _ v => specFn .exp2 f v
/-- VEXP2, alone in its bundle. -/
def execVexp2 (d : Dst) (a : Src) (p : Fin 16) (f : FFmt) (s : State) : Host.Outcome State Fault Refusal :=
  issueOne (actVexp2 d a p f) s

/-- VLOG2 (R168, R169) -/
def actVlog2 (d : Dst) (a : Src) (p : Fin 16) (f : FFmt) : Syl :=
  ewise1 .vb d a p (.flt f) fun _ v => specFn .log2 f v
/-- VLOG2, alone in its bundle. -/
def execVlog2 (d : Dst) (a : Src) (p : Fin 16) (f : FFmt) (s : State) : Host.Outcome State Fault Refusal :=
  issueOne (actVlog2 d a p f) s

/-- VSIN (R168, R169) -/
def actVsin (d : Dst) (a : Src) (p : Fin 16) (f : FFmt) : Syl :=
  ewise1 .vb d a p (.flt f) fun _ v => specFn .sin f v
/-- VSIN, alone in its bundle. -/
def execVsin (d : Dst) (a : Src) (p : Fin 16) (f : FFmt) (s : State) : Host.Outcome State Fault Refusal :=
  issueOne (actVsin d a p f) s

/-- VCOS (R168, R169) -/
def actVcos (d : Dst) (a : Src) (p : Fin 16) (f : FFmt) : Syl :=
  ewise1 .vb d a p (.flt f) fun _ v => specFn .cos f v
/-- VCOS, alone in its bundle. -/
def execVcos (d : Dst) (a : Src) (p : Fin 16) (f : FFmt) (s : State) : Host.Outcome State Fault Refusal :=
  issueOne (actVcos d a p f) s

/-- VTANH (R168, R169) -/
def actVtanh (d : Dst) (a : Src) (p : Fin 16) (f : FFmt) : Syl :=
  ewise1 .vb d a p (.flt f) fun _ v => specFn .tanh f v
/-- VTANH, alone in its bundle. -/
def execVtanh (d : Dst) (a : Src) (p : Fin 16) (f : FFmt) (s : State) : Host.Outcome State Fault Refusal :=
  issueOne (actVtanh d a p f) s

/-- VSQRT (R168) -/
def actVsqrt (d : Dst) (a : Src) (p : Fin 16) (f : FFmt) : Syl :=
  ewise1 .vb d a p (.flt f) fun c v => fSqrt f (modeOf c.ctl.rnd) v
/-- VSQRT, alone in its bundle. -/
def execVsqrt (d : Dst) (a : Src) (p : Fin 16) (f : FFmt) (s : State) : Host.Outcome State Fault Refusal :=
  issueOne (actVsqrt d a p f) s

/-- VDIV (R168) -/
def actVdiv (d : Dst) (a b : Src) (p : Fin 16) (f : FFmt) : Syl :=
  ewise .vb d a b p (.flt f) fun c a b _ => fDiv f (modeOf c.ctl.rnd) a b
/-- VDIV, alone in its bundle. -/
def execVdiv (d : Dst) (a b : Src) (p : Fin 16) (f : FFmt) (s : State) : Host.Outcome State Fault Refusal :=
  issueOne (actVdiv d a b p f) s

/-- VHIST (R170) -/
def actVhist (d : Dst) (a b : Src) (p : Fin 16) (w : IntW) : Syl :=
  vecSyl .vb [a] [b] d fun c =>
    let xs := Vec.lanes (c.vval (.int w) a) w.bits
    packLanes w.bits (laneMerge (fun v _ d => (histLane w.bits (c.sval b).toNat d v, 0)) (governs w.bits (c.pval p)) xs xs
      (Vec.lanes (c.dstVec d) w.bits))
/-- VHIST, alone in its bundle. -/
def execVhist (d : Dst) (a b : Src) (p : Fin 16) (w : IntW) (s : State) : Host.Outcome State Fault Refusal :=
  issueOne (actVhist d a b p w) s

/-- VHMERGE (R170) -/
def actVhmerge (d : Dst) (a : Src) (w : IntW) : Syl :=
  vecSyl .vb [a] [] d fun c =>
    let xs := Vec.lanes (c.vval (.int w) a) w.bits
    (Vec.ofLanes 32 (padTo 64 ((List.range (w.bits / 8)).map fun j =>
      (xs.map fun v => v / 2 ^ (8 * j) % 256).foldl (fun s y => s + y) 0)), 0)
/-- VHMERGE, alone in its bundle. -/
def execVhmerge (d : Dst) (a : Src) (w : IntW) (s : State) : Host.Outcome State Fault Refusal :=
  issueOne (actVhmerge d a w) s

/-- VSORT (R171) -/
def actVsort (d : Dst) (a : Src) (p : Fin 16) (f : Fmt) : Syl :=
  vecSyl .vb [a] [] d fun c =>
    let ks := Vec.lanes (c.vval f a) f.bits
    (Vec.ofLanes f.bits (sortLanes f (governs f.bits (c.pval p)) ks ks), 0)
/-- VSORT, alone in its bundle. -/
def execVsort (d : Dst) (a : Src) (p : Fin 16) (f : Fmt) (s : State) : Host.Outcome State Fault Refusal :=
  issueOne (actVsort d a p f) s

/-- VSORTKV (R171) -/
def actVsortkv (d : Dst) (a b : Src) (p : Fin 16) (f : Fmt) : Syl :=
  vecSyl .vb [a, b] [] d fun c =>
    (Vec.ofLanes f.bits (sortLanes f (governs f.bits (c.pval p)) (Vec.lanes (c.vval f a) f.bits)
      (Vec.lanes (c.vval f b) f.bits)), 0)
/-- VSORTKV, alone in its bundle. -/
def execVsortkv (d : Dst) (a b : Src) (p : Fin 16) (f : Fmt) (s : State) : Host.Outcome State Fault Refusal :=
  issueOne (actVsortkv d a b p f) s

/-- VSRCH (R171) -/
def actVsrch (d : Dst) (a b : Src) (p : Fin 16) (f : Fmt) : Syl :=
  vecSyl .vb [a, b] [] d fun c =>
    let ks := Vec.lanes (c.vval f a) f.bits
    let bs := Vec.lanes (c.vval f b) f.bits
    packLanes f.bits (laneMerge (fun y _ _ => ((ks.filter fun k => keyLe f k y).length, 0)) (governs f.bits (c.pval p))
      bs bs (Vec.lanes (c.dstVec d) f.bits))
/-- VSRCH, alone in its bundle. -/
def execVsrch (d : Dst) (a b : Src) (p : Fin 16) (f : Fmt) (s : State) : Host.Outcome State Fault Refusal :=
  issueOne (actVsrch d a b p f) s

end Sys2Proof.Machine
end

