-- ==== Sys2Proof/Machine/Action.lean ====
section
/-! DEFINITION. What each syllable does, for bundles of several syllables: the action of every constructor that
stands in a slot. -/

namespace Sys2Proof.Machine

/-- The action of an instruction that stands in a slot; a no-operation bundle and the happenings of the table have
none. -/
def action (i : Instr) : Option Syl :=
  match i with
  | .add u d a b w sat => some (actAdd u d a b w sat)
  | .addImm u d imm w => some (actAddImm u d imm w)
  | .sub u d a b w sat => some (actSub u d a b w sat)
  | .subImm u d imm w => some (actSubImm u d imm w)
  | .mul u d a b w sat => some (actMul u d a b w sat)
  | .mulImm u d imm w => some (actMulImm u d imm w)
  | .mulh u d a b w => some (actMulh u d a b w)
  | .mulhu u d a b w => some (actMulhu u d a b w)
  | .and u d a b w => some (actAnd u d a b w)
  | .andImm u d imm w => some (actAndImm u d imm w)
  | .or u d a b w => some (actOr u d a b w)
  | .orImm u d imm w => some (actOrImm u d imm w)
  | .xor u d a b w => some (actXor u d a b w)
  | .xorImm u d imm w => some (actXorImm u d imm w)
  | .andn u d a b w => some (actAndn u d a b w)
  | .andnImm u d imm w => some (actAndnImm u d imm w)
  | .shl u d a b w => some (actShl u d a b w)
  | .shlImm u d imm w => some (actShlImm u d imm w)
  | .shr u d a b w => some (actShr u d a b w)
  | .shrImm u d imm w => some (actShrImm u d imm w)
  | .sra u d a b w => some (actSra u d a b w)
  | .sraImm u d imm w => some (actSraImm u d imm w)
  | .rot u d a b w => some (actRot u d a b w)
  | .rotImm u d imm w => some (actRotImm u d imm w)
  | .min u d a b w => some (actMin u d a b w)
  | .minImm u d imm w => some (actMinImm u d imm w)
  | .max u d a b w => some (actMax u d a b w)
  | .maxImm u d imm w => some (actMaxImm u d imm w)
  | .minu u d a b w => some (actMinu u d a b w)
  | .minuImm u d imm w => some (actMinuImm u d imm w)
  | .maxu u d a b w => some (actMaxu u d a b w)
  | .maxuImm u d imm w => some (actMaxuImm u d imm w)
  | .clz u d a w => some (actClz u d a w)
  | .ctz u d a w => some (actCtz u d a w)
  | .popc u d a w => some (actPopc u d a w)
  | .sext u d a w => some (actSext u d a w)
  | .zext u d a w => some (actZext u d a w)
  | .bfx u d a b => some (actBfx u d a b)
  | .bfi u d a b => some (actBfi u d a b)
  | .sel u d a b w => some (actSel u d a b w)
  | .mov u d a w => some (actMov u d a w)
  | .movi u d imm w => some (actMovi u d imm w)
  | .movhi u d imm => some (actMovhi u d imm)
  | .cmp u d a b w cond => some (actCmp u d a b w cond)
  | .schk u a b => some (actSchk u a b)
  | .wfld u d a level => some (actWfld u d a level)
  | .fadd u d a b f rq => some (actFadd u d a b f rq)
  | .fsub u d a b f rq => some (actFsub u d a b f rq)
  | .fmul u d a b f rq => some (actFmul u d a b f rq)
  | .ffma u d a b f rq => some (actFfma u d a b f rq)
  | .fmin u d a b f => some (actFmin u d a b f)
  | .fmax u d a b f => some (actFmax u d a b f)
  | .fabs u d a f => some (actFabs u d a f)
  | .fneg u d a f => some (actFneg u d a f)
  | .fcmp u d a b f cond => some (actFcmp u d a b f cond)
  | .fcvt u d a res src rq => some (actFcvt u d a res src rq)
  | .fclass u d a f => some (actFclass u d a f)
  | .ctlr u d c => some (actCtlr u d c)
  | .ctlw u a c => some (actCtlw u a c)
  | .shw u h a field fmt => some (actShw u h a field fmt)
  | .mpw u m a => some (actMpw u m a)
  | .awr u r part a => some (actAwr u r part a)
  | .div d a b w => some (actDiv d a b w)
  | .divu d a b w => some (actDivu d a b w)
  | .rem d a b w => some (actRem d a b w)
  | .remu d a b w => some (actRemu d a b w)
  | .fdiv d a b f rq => some (actFdiv d a b f rq)
  | .fsqrt d a f rq => some (actFsqrt d a f rq)
  | .yield => some actYield
  | .loop count off => some (actLoop count off)
  | .br off => some (actBr off)
  | .bz r off => some (actBz r off)
  | .bnz r off => some (actBnz r off)
  | .bp p test off => some (actBp p test off)
  | .jmp a fmt => some (actJmp a fmt)
  | .call d off => some (actCall d off)
  | .callr d a fmt => some (actCallr d a fmt)
  | .ret a fmt => some (actRet a fmt)
  | .nopBundle _ => none
  | .vadd u d a b p f x => some (actVadd u d a b p f x)
  | .vsub u d a b p f x => some (actVsub u d a b p f x)
  | .vmul u d a b p f x => some (actVmul u d a b p f x)
  | .vfma u d a b p f x => some (actVfma u d a b p f x)
  | .vfms u d a b p f x => some (actVfms u d a b p f x)
  | .vmulh u d a b p w x => some (actVmulh u d a b p w x)
  | .vneg u d a p f x => some (actVneg u d a p f x)
  | .vabs u d a p f x => some (actVabs u d a p f x)
  | .vmin u d a b p f x => some (actVmin u d a b p f x)
  | .vmax u d a b p f x => some (actVmax u d a b p f x)
  | .vdot4 u d a b p w x => some (actVdot4 u d a b p w x)
  | .vand u d a b p w x => some (actVand u d a b p w x)
  | .vor u d a b p w x => some (actVor u d a b p w x)
  | .vxor u d a b p w x => some (actVxor u d a b p w x)
  | .vandn u d a b p w x => some (actVandn u d a b p w x)
  | .vshl u d a b p w x => some (actVshl u d a b p w x)
  | .vshr u d a b p w x => some (actVshr u d a b p w x)
  | .vsra u d a b p w x => some (actVsra u d a b p w x)
  | .vcmp u d a b cond f x => some (actVcmp u d a b cond f x)
  | .vsel u d a b p f x => some (actVsel u d a b p f x)
  | .vmov u d a p f x => some (actVmov u d a p f x)
  | .vbcast u d a p f x => some (actVbcast u d a p f x)
  | .vextr u d a b f x => some (actVextr u d a b f x)
  | .vins u d a b f x => some (actVins u d a b f x)
  | .viota u d a b p f x => some (actViota u d a b p f x)
  | .vcvt u d a src rq p f x => some (actVcvt u d a src rq p f x)
  | .vbfpk u d a wm1 rq p f x => some (actVbfpk u d a wm1 rq p f x)
  | .vbfup u d a wm1 rq p f x => some (actVbfup u d a wm1 rq p f x)
  | .vperm u d a b p w x => some (actVperm u d a b p w x)
  | .vshuf u d a b p w x => some (actVshuf u d a b p w x)
  | .vslide u d a b p f x => some (actVslide u d a b p f x)
  | .vcompr u d a p f x => some (actVcompr u d a p f x)
  | .vexpand u d a p f x => some (actVexpand u d a p f x)
  | .vrsum u d a p f x => some (actVrsum u d a p f x)
  | .vrmax u d a p f x => some (actVrmax u d a p f x)
  | .vrmin u d a p f x => some (actVrmin u d a p f x)
  | .vscan u d a p f x => some (actVscan u d a p f x)
  | .vchk u a b p f x => some (actVchk u a b p f x)
  | .pand u d a b p x => some (actPand u d a b p x)
  | .por u d a b p x => some (actPor u d a b p x)
  | .pxor u d a b p x => some (actPxor u d a b p x)
  | .pnot u d a p x => some (actPnot u d a p x)
  | .pcnt u d a p w x => some (actPcnt u d a p w x)
  | .pfirst u d a p w x => some (actPfirst u d a p w x)
  | .pmov u d a p x => some (actPmov u d a p x)
  | .ppack u d a x => some (actPpack u d a x)
  | .punpk u d nw a x => some (actPunpk u d nw a x)
  | .vrcp d a p f => some (actVrcp d a p f)
  | .vrsq d a p f => some (actVrsq d a p f)
  | .vsqrt d a p f => some (actVsqrt d a p f)
  | .vdiv d a b p f => some (actVdiv d a b p f)
  | .vexp2 d a p f => some (actVexp2 d a p f)
  | .vlog2 d a p f => some (actVlog2 d a p f)
  | .vsin d a p f => some (actVsin d a p f)
  | .vcos d a p f => some (actVcos d a p f)
  | .vtanh d a p f => some (actVtanh d a p f)
  | .vhist d a b p w => some (actVhist d a b p w)
  | .vhmerge d a w => some (actVhmerge d a w)
  | .vsort d a p f => some (actVsort d a p f)
  | .vsortkv d a b p f => some (actVsortkv d a b p f)
  | .vsrch d a b p f => some (actVsrch d a b p f)
  | .mcall z r mh sw a rpt => some (actMcall z r mh sw a rpt)
  | .mzero z mode rpt => some (actMzero z mode rpt)
  | .mrd d z q rpt => some (actMrd d z q rpt)
  | .mwr z q a rpt => some (actMwr z q a rpt)
  | .mst z form a rpt => some (actMst z form a rpt)
  | .mchk z rpt => some (actMchk z rpt)
  | .mcsr z rpt => some (actMcsr z rpt)
  | .muld r a rpt => some (actMuld r a rpt)
  | .mout z nm1 a rpt => some (actMout z nm1 a rpt)
  | .mwait rpt => some (actMwait rpt)
  | .ldb d base off w c => some (actLdb d base off w c)
  | .ldh d base off w c => some (actLdh d base off w c)
  | .ldw d base off w c => some (actLdw d base off w c)
  | .ldd d base off w c => some (actLdd d base off w c)
  | .ldv d base off p w c => some (actLdv d base off p w c)
  | .ldp d base off w c => some (actLdp d base off w c)
  | .ldt d base h p w c sw => some (actLdt d base h p w c sw)
  | .ldg d base idx p w c => some (actLdg d base idx p w c)
  | .stb v base off f => some (actStb v base off f)
  | .sth v base off f => some (actSth v base off f)
  | .stw v base off f => some (actStw v base off f)
  | .std v base off f => some (actStd v base off f)
  | .stv v base off p f => some (actStv v base off p f)
  | .stp v base off f => some (actStp v base off f)
  | .stt v base h p f sw => some (actStt v base h p f sw)
  | .stg v base idx p f => some (actStg v base idx p f)
  | .feset base off => some (actFeset base off)
  | .feclr base off => some (actFeclr base off)
  | .fetst d base off => some (actFetst d base off)
  | .wldw d base off w c => some (actWldw d base off w c)
  | .wldd d base off w c => some (actWldd d base off w c)
  | .wldv d base off p w c => some (actWldv d base off p w c)
  | .wldt d base h p w c sw => some (actWldt d base h p w c sw)
  | .wldg d base idx p w c => some (actWldg d base idx p w c)
  | .wstw v base off f => some (actWstw v base off f)
  | .wstd v base off f => some (actWstd v base off f)
  | .wstv v base off p f => some (actWstv v base off p f)
  | .wstt v base h p f sw => some (actWstt v base h p f sw)
  | .wstg v base idx p f => some (actWstg v base idx p f)
  | .wfeset base off => some (actWfeset base off)
  | .wfeclr base off => some (actWfeclr base off)
  | .probe d a off => some (actProbe d a off)
  | .fill d a => some (actFill d a)
  | .evict a => some (actEvict a)
  | .wback a => some (actWback a)
  | .pin d a => some (actPin d a)
  | .unpin a => some (actUnpin a)
  | .tginv a => some (actTginv a)
  | .tgstat d a => some (actTgstat d a)
  | .cpy d a eh carry sw => some (actCpy d a eh carry sw)
  | .cwait d a b => some (actCwait d a b)
  | .ctest d a b => some (actCtest d a b)
  | .ccancel a => some (actCcancel a)
  | .rput a carry => some (actRput a carry)
  | .rflag a b carry ord => some (actRflag a b carry ord)
  | .rfence => some actRfence
  | .halo d eh carry sw => some (actHalo d eh carry sw)
  | .hwait d a => some (actHwait d a)
  | .tidw a b => some (actTidw a b)
  | .tidr d a k => some (actTidr d a k)
  | .tidinv a => some (actTidinv a)
  | .layset d a f => some (actLayset d a f)
  | .coll d a b carry => some (actColl d a b carry)
  | .clwait d a b => some (actClwait d a b)
  | .reshard d a b carry => some (actReshard d a b carry)
  | .gathj d a b carry => some (actGathj d a b carry)
  | .aadd d a b sc scope => some (actAadd d a b sc scope)
  | .amin d a b sc scope => some (actAmin d a b sc scope)
  | .amax d a b sc scope => some (actAmax d a b sc scope)
  | .aand d a b sc scope => some (actAand d a b sc scope)
  | .aor d a b sc scope => some (actAor d a b sc scope)
  | .axor d a b sc scope => some (actAxor d a b sc scope)
  | .aswp d a b sc scope => some (actAswp d a b sc scope)
  | .acas d a b sc scope => some (actAcas d a b sc scope)
  | .ared a b scope => some (actAred a b scope)
  | .alock d a sc scope => some (actAlock d a sc scope)
  | .aunlk a sc scope => some (actAunlk a sc scope)
  | .barc d a b scope => some (actBarc d a b scope)
  | .barw d a b scope => some (actBarw d a b scope)
  | .tspawn d a b => some (actTspawn d a b)
  | .tdec a => some (actTdec a)
  | .tdone => some actTdone
  | .qpop d a => some (actQpop d a)
  | .qpush d a b => some (actQpush d a b)
  | .qstat d a => some (actQstat d a)
  | .phend => some actPhend
  | .rmack a => some (actRmack a)
  | .drain scope => some (actDrain scope)
  | .xfence f t => some (actXfence f t)
  | .trap a n => some (actTrap a n)
  | .xret act => some (actXret act)
  | .halt => some actHalt
  | .bdpkt a => some (actBdpkt a)
  | .bdrsp d a => some (actBdrsp d a)
  | .mcallRepeatIssue _ _ => none
  | .matrixOpComplete _ _ => none
  | .trellisFillGranule _ _ _ => none
  | .trellisFillEnd _ _ => none
  | .trellisWritebackEnd _ _ => none
  | .copyChunkLand _ _ _ _ => none
  | .engineTransferFault _ _ _ _ _ => none
  | .remotePieceLand _ _ _ _ _ => none
  | .remoteAck _ _ _ _ _ => none
  | .haloFaceLand _ _ _ _ => none
  | .haloFaceAck _ _ _ _ => none
  | .collTransferApply _ _ _ _ => none
  | .reshardStep _ _ _ => none
  | .collEnd _ _ _ => none
  | .cleatReply _ _ => none
  | .scWheelIssue _ => none
  | .taskServe _ => none
  | .queueAgeing _ _ => none
  | .deferredFaultDelivery _ _ => none
  | .watchdog _ _ => none
  | .dieArrive _ => none
  | .domainCross => none
  | .stragglerTimeout => none
  | .sailplanPublish => none
  | .leaseClaim _ => none
  | .leaseRenew _ => none
  | .belvedereLapse _ => none
  | .packageUnmanaged => none
  | .errorRetryClassify _ _ _ _ _ _ => none
  | .sramLineRetest _ _ _ => none
  | .schedTableRebuild _ _ => none
  | .lodgeHalt _ => none
  | .lodgeReloadTimeout _ => none
  | .lodgeReloadComplete _ => none
  | .clusterReplan _ _ => none
  | .jobOpen => none
  | .jobClose => none
  | .pageroot => none
  | .trellis => none
  | .wheel => none
  | .layouts => none
  | .sched => none
  | .tids => none
  | .image => none
  | .queues => none
  | .launch => none
  | .resumeSuspended => none
  | .resumeJob => none
  | .switchOut => none
  | .cmdTailWrite _ => none
  | .cmdCtlWrite _ => none
  | .hyCtlWrite _ => none
  | .qtail _ _ _ => none
  | .xlInvAll _ => none
  | .xlInvPage _ _ => none
  | .tcCtlWrite _ _ => none
  | .thLimitsWrite _ _ => none
  | .pwCtlWrite _ => none
  | .snap => none
  | .lrDataRead => none
  | .msixUnmask _ => none
  | .registerWrite _ _ _ => none
  | .regsizeAccess _ _ _ => none
  | .hostWindowAccess _ _ _ => none
  | .translationWalk _ _ _ _ => none
  | .dramRead _ _ _ _ => none
  | .dramWrite _ _ _ _ _ _ => none
  | .bdRawrd _ _ => none
  | .bdRawwr _ _ => none
  | .bdReplyArrive _ _ => none
  | .hotnessEpoch _ => none
  | .tierMoveStart _ _ => none
  | .tierMoveEnd _ _ => none
  | .linkFlitReceive _ _ _ _ => none
  | .linkPacketReceive _ _ _ _ => none
  | .portBringup _ _ _ _ => none
  | .rekey _ _ _ => none
  | .powerGood => none
  | .pldmActivate _ => none
  | .getVersion => none
  | .getCapabilities => none
  | .negotiateAlgorithms => none
  | .getDigests => none
  | .getCertificate _ => none
  | .challenge _ => none
  | .getMeasurements _ _ => none
  | .dualreport _ => none
  | .dualcert => none
  | .thermalSample _ _ _ _ => none
  | .powerTick _ => none
  | .lifetimeFlashWrite => none
  | .urgentEventFlush => none
  | .powerLoss => none
  | .ballastDutyWindow _ => none
  | .snapshotReady => none

end Sys2Proof.Machine
end

