-- ==== Sys2Proof/Machine/Turn.lean ====
section
/-! DEFINITION. A core's turn: contexts whose wait is over, the selector, the causes met before a bundle issues, and
the issue of a bundle from its words; the Cleat's reply to a waiting context and the slot wheel (R54, R55, R59, R241,
R283, R348, R353, R354). -/

namespace Sys2Proof.Machine

/-! ### A bundle from its words -/

/-- The cause that decoding gives a syllable (R117 step 2). -/
def decCause : DecErr → Cause
  | .illegalOpcode => .illegalOpcode
  | .reservedEncoding => .reservedEncoding
/-- A slot of a decoded bundle with its action. -/
def slotSyl (x : Slot × Except DecErr Instr) : SlotSyl :=
  (x.1, match x.2 with
    | .error e => .error (decCause e)
    | .ok i => match action i with | some y => .ok y | none => .error .illegalOpcode)
/-- A word of the EN slot as a context may see it: without the privilege, the codes 0x3E and 0x3F are empty (R122, R264),
whatever their fields hold; 0x37 stands for them. -/
def hideBd (priv : Bool) (w : Word) : Word :=
  if !priv && w.toNat / 67108864 ≥ 62 then BitVec.ofNat 32 (w.toNat % 67108864 + 55 * 67108864) else w
/-- The words of a bundle after its header as a context may see them: the EN slot's word, the last one, without the
codes that only a privileged launch has. -/
def seenWords (priv : Bool) (h : Word) (ws : List Word) : List Word :=
  if h.getLsbD Slot.en.maskBit then
    let n := headerSyls h
    ws.zipIdx.map fun x => if x.2 + 1 = n then hideBd priv x.1 else x.1
  else ws
/-- The slots of the bundle of some words; `none` where its header breaks R98. -/
def bundleOf (priv : Bool) (ws : List Word) : Option (Nat × List SlotSyl) :=
  match ws with
  | [] => none
  | h :: r => (decodeBundle h (seenWords priv h r)).map fun b => (b.nwords, b.syls.map slotSyl)
/-- The trap of a header that breaks R98: SLOT 0. -/
def headerTrap : Trap := { cause := .reservedEncoding, slot := 0 }
/-- Issues the bundle of some words in the current context: step 1 of R117, then the rest. -/
def State.issueWords (s : State) (ws : List Word) : State :=
  match bundleOf s.cx.priv ws with
  | none => s.trapBundle s.begun headerTrap s.cx.perf s.cx.pend
  | some b => issueBundle b.1 b.2 s
/-- The words of the bundle about to issue: of the trap record, or as fetched; a record whose words could not be
fetched is fetched again (R353). -/
def State.nextWords (s : State) : Except (XErr × Nat) (List Word) :=
  match s.cx.resume with
  | none => s.fetchBundle s.cur.die s.cx.pc.toNat
  | some r => if r.words.isEmpty then s.fetchBundle s.cur.die s.cx.pc.toNat else .ok r.words

/-! ### Before a bundle issues (R354, rows 1 to 4) -/

/-- Rows 1 to 3 of R354 give the context a trap before its bundle is fetched. -/
def Ctx.due (c : Ctx) : Bool := c.sailPend || (c.level = 0 && !c.held.isEmpty) || c.ctl.wdog = 0
/-- The context's bundle is fetched as it issues, not kept in a trap record (R353). -/
def Ctx.fetches (c : Ctx) : Bool :=
  !c.rollback && !c.due && match c.resume with | none => true | some r => r.words.isEmpty
/-- The fetch of the current context's bundle waits on a diagnostic packet (R392, R393). -/
def State.fetchWaits (s : State) : Bool := s.cx.fetches && s.fetchHeld s.cur.die s.cx.pc.toNat
/-- What the fetch of the current context's bundle leaves: corrected words are written back (R395). -/
def State.fetched (s : State) : State := if s.cx.fetches then s.fetchScrub s.cur.die s.cx.pc.toNat else s

/-- The first cause of rows 1 to 4 for the current context: the trap, its ctl.tpc, and the context without what the
delivery uses up. -/
def State.beforeTrap (s : State) : Option (Trap × Dword × Ctx) :=
  let c := s.cx
  if c.sailPend then some ({ cause := .sailplanUnacked, slot := 15 }, c.pc, c)
  else match (if c.level = 0 then c.held else []) with
    | f :: fs => some ({ cause := f.cause, slot := 15, info := some f.info, xfer := f.xfer, defer := true }, f.tpc, { c with held := fs })
    | [] =>
      if c.ctl.wdog = 0 then some ({ cause := .watchdog, slot := 15 }, c.pc, c)
      else match s.nextWords with
        | .ok _ => none
        | .error e =>
          some ({
            cause := e.1.cause, slot := 15, keep := true
            info := match e.1 with | .invalid => some { t0 := BitVec.ofNat 64 e.2 } | .ecc => none }, c.pc, c)
/-- Delivers a cause met before issue; the record keeps the bits and the transfer of a bundle being reissued. -/
def State.deliverBefore (s : State) (t : Trap × Dword × Ctx) : State :=
  ({ s with cx := t.2.2 }).takeTrap s.cur t.1 t.2.1 (s.bundleRec s.cx.perf s.cx.pend)
/-- The current context's bundle issues, or a cause before it is delivered; a rollback waits for matrix operations
(R386). -/
def State.issueNext (s : State) : State :=
  if s.cx.rollback then (if s.mxBusy s.cur then s else s.rollbackEnd s.cur false)
  else match s.beforeTrap with
    | some t => s.deliverBefore t
    | none => match s.nextWords with
      | .error _ => s
      | .ok ws => s.issueWords ws

/-! ### Waits that are over (R59) -/

/-- The wait that the bundle of the current context meets now, with what it leaves: `none` where the bundle issues or
a cause before it or in its checks is to be taken. -/
def State.waitNow (s : State) : Option (State × Wait) :=
  if s.cx.rollback then (if s.mxBusy s.cur then some (s, .stall) else none)
  else if s.cx.due then none
  else match s.nextWords with
    | .error _ => none
    | .ok ws =>
      match bundleOf s.cx.priv ws with
      | none => none
      | some b =>
        if (checkIssue s b.2).isSome then none
        else firstWait s ((sylsOf b.2).filter fun y => !bitOf s.cx.perf y.slot)
/-- The wait of the Stalled context `g` looked at again: it is over, and the context is Ready, or the state keeps what
the wait now met leaves; an interlock is no Stalled wait (R54, R58), and only a wait on granules keeps the place among
their waiters (R79). -/
def State.retryWait (s : State) (g : CtxId) : State :=
  let ready := s.modCtx g fun x => { x with st := .ready }
  match (s.focus g).waitNow with
  | none => ready
  | some (_, .hold) => ready
  | some (s1, .fill) => (s1.wait .fill).focus s.cur
  | some (s1, w) => (({ s1 with cx := { s1.cx with fills := none } }).wait w).focus s.cur
/-- The bundle of context `g` still blocks. -/
def State.stillBlocked (s : State) (g : CtxId) : Bool := ((s.retryWait g).ctx g).st ≠ .ready
/-- The waits of the Stalled contexts of a core are looked at again (R59). -/
def State.refresh (s : State) (d c : Nat) : State :=
  [0, 1, 2, 3].foldl (fun s k =>
    let g : CtxId := ⟨d, c, k⟩
    if (s.ctx g).st = .stalled then s.retryWait g else s) s

/-! ### The selector (R55) -/

/-- A context loses the width: its latches become invalid, where a bundle of its waits once that bundle has performed, and
so do the latches that its trap records put aside (R55, R105, R317). -/
def Ctx.loseWidth (c : Ctx) : Ctx :=
  let none8 : Vector (Option Vec) 8 := Vector.replicate 8 none
  let waits : Bool := match c.st with | .stalled => true | .ready => !c.woken | .sleepQueue => true | _ => false
  { c with
    b := if waits then c.b else none8
    lapsed := waits
    rec1 := c.rec1.map fun r => { r with aside := none8 }
    rec2 := c.rec2.map fun r => { r with aside := none8 } }
/-- Contexts of a core in the order of the round robin after the one last selected. -/
def robin (last : Nat) : List Nat := [1, 2, 3, 4].map fun k => (last + k) % 4
/-- The context of highest priority, the first in order among equals. -/
def topPrio (p : Nat → Nat) : List Nat → Option Nat
  | [] => none
  | k :: ks => match topPrio p ks with
    | none => some k
    | some j => if p j > p k then some j else some k
/-- The context that the selector gives the width: the Ready member of highest priority, or a Ready ballast context
where no member is Ready and the duty window is open (R434). -/
def State.chosen (s : State) (d c : Nat) : Option Nat :=
  let at_ := fun (k : Nat) => s.ctx ⟨d, c, k⟩
  let ready := (robin (s.core d c).lastSel).filter fun k =>
    (at_ k).st = .ready && ((at_ k).ballast.isNone || s.dutyOpen d)
  match topPrio (fun k => (at_ k).prio) (ready.filter fun k => (at_ k).ballast.isNone) with
  | some k => some k
  | none => topPrio (fun k => (at_ k).prio) ready
/-- The holder of a core's width keeps it: it is Running, and does not offer it, or no other context is Ready and it may be
Ready itself: a ballast context only while the duty window is open (R434). -/
def State.keeps (s : State) (d c : Nat) : Bool :=
  match (s.core d c).running with
  | none => false
  | some k =>
    let x := s.ctx ⟨d, c, k⟩
    x.st = .running && (!(s.core d c).offer || ((s.chosen d c).isNone && (x.ballast.isNone || s.dutyOpen d)))
/-- The holder of a core's width loses it, and is Ready where it was Running. -/
def State.takeWidth (s : State) (d c h : Nat) : State :=
  s.modCtx ⟨d, c, h⟩ fun y =>
    let z : Ctx := y.loseWidth
    if z.st = RunState.running then { z with st := .ready } else z
/-- Gives the width of a core to context `k`. -/
def State.giveWidth (s : State) (d c k : Nat) : State :=
  let s1 := match (s.core d c).running with
    | none => s
    | some h => if h = k then s else s.takeWidth d c h
  (s1.modCtx ⟨d, c, k⟩ fun y => { y with st := .running, woken := false }).modCore d c fun y =>
    { y with running := some k, offer := false, lastSel := k }
/-- The Running context of a core. -/
def State.runningOn (s : State) (d c : Nat) : Option CtxId :=
  match (s.core d c).running with
  | none => none
  | some k => if (s.ctx ⟨d, c, k⟩).st = .running then some ⟨d, c, k⟩ else none
/-- The selector of a core. -/
def State.select (s : State) (d c : Nat) : State :=
  if s.keeps d c then s.modCore d c fun y => { y with offer := false }
  else match s.chosen d c with
    | some k => s.giveWidth d c k
    | none => match s.runningOn d c with
      | none => s
      | some g => (s.takeWidth d c g.ctx).modCore d c fun y => { y with running := none, offer := false }
/-- A core's turn up to the issue: waits that are over, the selector, and the context that issues. -/
def State.ready (s : State) (d c : Nat) : State :=
  let s1 := (s.refresh d c).select d c
  match s1.runningOn d c with
  | none => s1
  | some g => s1.focus g

/-! ### The Cleat's reply and the slot wheel (R241, R283) -/

/-- The instructions that wait on a Cleat reply (R242, R248). -/
def waitsReply (i : Instr) : Bool :=
  match i with
  | .aadd .. | .amin .. | .amax .. | .aand .. | .aor .. | .axor .. | .aswp .. | .acas .. | .alock .. | .barc ..
  | .barw .. | .tspawn .. | .qpop .. | .qpush .. | .qstat .. | .aunlk .. | .tdec .. | .tdone | .ared .. => true
  | _ => false
/-- The bundle of the current context waits on a Cleat reply. -/
def State.onReply (s : State) : Bool :=
  match s.nextWords with
  | .ok (h :: r) => match decodeBundle h r with
    | some b => b.syls.any fun x => match x.2 with | .ok i => waitsReply i | .error _ => false
    | none => false
  | _ => false
/-- A Stalled context's bundle performs where it waits, and the context is Ready. -/
def State.performStalled (s : State) (g : CtxId) : State :=
  if (s.ctx g).st ≠ .stalled || (s.die g.die).th.stopped then s
  else
    let s0 := s.retryWait g
    let x := s.core g.die g.core
    let s1 := s.focus g
    if (s0.ctx g).st ≠ .ready then s0
    else if !s1.onReply then s
    else
      let s2 := ({ s1 with cx := { s1.cx with st := .running } }).issueNext
      let s3 := s2.modCtx g fun c =>
        let y : Ctx := if x.running = some g.ctx then c else { c with b := Vector.replicate 8 none }
        if c.st = .running then { y with st := .ready, woken := true } else y
      s3.modCore g.die g.core fun y => { y with offer := x.offer }
/-- CLEAT_REPLY (R241): the reply that a Stalled context waits on reaches it -/
def execCleatReply (die ctx : Nat) (s : State) : Host.Outcome State Fault Refusal :=
  .next (s.performStalled (ctxIn die ctx))
/-- The waiting .sc operation of context `w` of a die takes its position: it issues there, and waits on from there only
among the waiters of a held lock; a bundle that another slot holds keeps its place for the next position (R245, R246,
R283). -/
def State.scIssue (s : State) (d w : Nat) : State :=
  let s1 := (s.modTables d fun t => { t with
    scWait := t.scWait.map fun x => if x = w then w + 4096 else x }).performStalled (ctxIn d w)
  if (s1.die d).tables.locks.any fun l => l.waiters.contains w then s1
  else s1.modTables d fun t => { t with scWait := t.scWait.map fun x => if x = w + 4096 then w else x }
/-- The slot wheel goes on by one position, and counts its revolutions (R283). -/
def DieTables.wheelNext (t : DieTables) : DieTables :=
  { t with wheelPos := (t.wheelPos + 1) % 1024, wheelRev := if t.wheelPos % 1024 = 1023 then t.wheelRev + 1 else t.wheelRev }
/-- SC_WHEEL_ISSUE (R283): the slot wheel advances to its next position, at which the oldest waiting .sc operation of
the core that holds the position issues -/
def execScWheelIssue (die : Nat) (s : State) : Host.Outcome State Fault Refusal :=
  .next (
    let t := (s.die die).tables
    let s1 := s.modTables die DieTables.wheelNext
    match tabGet t.wheel t.wheelPos with
    | none => s1
    | some core =>
      match t.scWait.find? fun w => w < 4096 && w / 4 = core.toNat with
      | none => s1
      | some w => s1.scIssue die w)

/-! ### Traps delivered between bundles (R56, R206) -/

/-- DEFERRED_FAULT_DELIVERY (R206, R354): a Running context at level 0 takes its oldest held deferred fault -/
def execDeferredFaultDelivery (die ctx : Nat) (s : State) : Host.Outcome State Fault Refusal :=
  .next (
    let c := s.ctx (ctxIn die ctx)
    if c.st = .running && !c.rollback && !c.sailPend && c.level = 0 && !c.held.isEmpty then
      let s1 := s.focus (ctxIn die ctx)
      match s1.beforeTrap with | some t => s1.deliverBefore t | none => s
    else s)
/-- WATCHDOG (R56, R354): a Running context whose ctl.wdog is zero takes the trap before its next bundle -/
def execWatchdog (die ctx : Nat) (s : State) : Host.Outcome State Fault Refusal :=
  .next (
    let c := s.ctx (ctxIn die ctx)
    if c.st = .running && !c.rollback && !c.sailPend && (c.level ≠ 0 || c.held.isEmpty) && c.ctl.wdog = 0 then
      let s1 := s.focus (ctxIn die ctx)
      match s1.beforeTrap with | some t => s1.deliverBefore t | none => s
    else s)

end Sys2Proof.Machine
end

