-- ==== Sys2Proof/Machine/Dispatch.lean ====
section
/-! DEFINITION. The meaning of every instruction: one arm per constructor, each a direct call of its meaning. -/

namespace Sys2Proof.Machine

def exec (i : Instr) (s : State) : Host.Outcome State Fault Refusal :=
  match i with
  | .add u d a b w sat => Sys2Proof.Machine.execAdd u d a b w sat s
  | .addImm u d imm w => Sys2Proof.Machine.execAddImm u d imm w s
  | .sub u d a b w sat => Sys2Proof.Machine.execSub u d a b w sat s
  | .subImm u d imm w => Sys2Proof.Machine.execSubImm u d imm w s
  | .mul u d a b w sat => Sys2Proof.Machine.execMul u d a b w sat s
  | .mulImm u d imm w => Sys2Proof.Machine.execMulImm u d imm w s
  | .mulh u d a b w => Sys2Proof.Machine.execMulh u d a b w s
  | .mulhu u d a b w => Sys2Proof.Machine.execMulhu u d a b w s
  | .and u d a b w => Sys2Proof.Machine.execAnd u d a b w s
  | .andImm u d imm w => Sys2Proof.Machine.execAndImm u d imm w s
  | .or u d a b w => Sys2Proof.Machine.execOr u d a b w s
  | .orImm u d imm w => Sys2Proof.Machine.execOrImm u d imm w s
  | .xor u d a b w => Sys2Proof.Machine.execXor u d a b w s
  | .xorImm u d imm w => Sys2Proof.Machine.execXorImm u d imm w s
  | .andn u d a b w => Sys2Proof.Machine.execAndn u d a b w s
  | .andnImm u d imm w => Sys2Proof.Machine.execAndnImm u d imm w s
  | .shl u d a b w => Sys2Proof.Machine.execShl u d a b w s
  | .shlImm u d imm w => Sys2Proof.Machine.execShlImm u d imm w s
  | .shr u d a b w => Sys2Proof.Machine.execShr u d a b w s
  | .shrImm u d imm w => Sys2Proof.Machine.execShrImm u d imm w s
  | .sra u d a b w => Sys2Proof.Machine.execSra u d a b w s
  | .sraImm u d imm w => Sys2Proof.Machine.execSraImm u d imm w s
  | .rot u d a b w => Sys2Proof.Machine.execRot u d a b w s
  | .rotImm u d imm w => Sys2Proof.Machine.execRotImm u d imm w s
  | .min u d a b w => Sys2Proof.Machine.execMin u d a b w s
  | .minImm u d imm w => Sys2Proof.Machine.execMinImm u d imm w s
  | .max u d a b w => Sys2Proof.Machine.execMax u d a b w s
  | .maxImm u d imm w => Sys2Proof.Machine.execMaxImm u d imm w s
  | .minu u d a b w => Sys2Proof.Machine.execMinu u d a b w s
  | .minuImm u d imm w => Sys2Proof.Machine.execMinuImm u d imm w s
  | .maxu u d a b w => Sys2Proof.Machine.execMaxu u d a b w s
  | .maxuImm u d imm w => Sys2Proof.Machine.execMaxuImm u d imm w s
  | .clz u d a w => Sys2Proof.Machine.execClz u d a w s
  | .ctz u d a w => Sys2Proof.Machine.execCtz u d a w s
  | .popc u d a w => Sys2Proof.Machine.execPopc u d a w s
  | .sext u d a w => Sys2Proof.Machine.execSext u d a w s
  | .zext u d a w => Sys2Proof.Machine.execZext u d a w s
  | .bfx u d a b => Sys2Proof.Machine.execBfx u d a b s
  | .bfi u d a b => Sys2Proof.Machine.execBfi u d a b s
  | .sel u d a b w => Sys2Proof.Machine.execSel u d a b w s
  | .mov u d a w => Sys2Proof.Machine.execMov u d a w s
  | .movi u d imm w => Sys2Proof.Machine.execMovi u d imm w s
  | .movhi u d imm => Sys2Proof.Machine.execMovhi u d imm s
  | .cmp u d a b w cond => Sys2Proof.Machine.execCmp u d a b w cond s
  | .schk u a b => Sys2Proof.Machine.execSchk u a b s
  | .wfld u d a level => Sys2Proof.Machine.execWfld u d a level s
  | .fadd u d a b f rq => Sys2Proof.Machine.execFadd u d a b f rq s
  | .fsub u d a b f rq => Sys2Proof.Machine.execFsub u d a b f rq s
  | .fmul u d a b f rq => Sys2Proof.Machine.execFmul u d a b f rq s
  | .ffma u d a b f rq => Sys2Proof.Machine.execFfma u d a b f rq s
  | .fmin u d a b f => Sys2Proof.Machine.execFmin u d a b f s
  | .fmax u d a b f => Sys2Proof.Machine.execFmax u d a b f s
  | .fabs u d a f => Sys2Proof.Machine.execFabs u d a f s
  | .fneg u d a f => Sys2Proof.Machine.execFneg u d a f s
  | .fcmp u d a b f cond => Sys2Proof.Machine.execFcmp u d a b f cond s
  | .fcvt u d a res src rq => Sys2Proof.Machine.execFcvt u d a res src rq s
  | .fclass u d a f => Sys2Proof.Machine.execFclass u d a f s
  | .ctlr u d c => Sys2Proof.Machine.execCtlr u d c s
  | .ctlw u a c => Sys2Proof.Machine.execCtlw u a c s
  | .shw u h a field fmt => Sys2Proof.Machine.execShw u h a field fmt s
  | .mpw u m a => Sys2Proof.Machine.execMpw u m a s
  | .awr u r part a => Sys2Proof.Machine.execAwr u r part a s
  | .div d a b w => Sys2Proof.Machine.execDiv d a b w s
  | .divu d a b w => Sys2Proof.Machine.execDivu d a b w s
  | .rem d a b w => Sys2Proof.Machine.execRem d a b w s
  | .remu d a b w => Sys2Proof.Machine.execRemu d a b w s
  | .fdiv d a b f rq => Sys2Proof.Machine.execFdiv d a b f rq s
  | .fsqrt d a f rq => Sys2Proof.Machine.execFsqrt d a f rq s
  | .yield => Sys2Proof.Machine.execYield s
  | .loop count off => Sys2Proof.Machine.execLoop count off s
  | .br off => Sys2Proof.Machine.execBr off s
  | .bz r off => Sys2Proof.Machine.execBz r off s
  | .bnz r off => Sys2Proof.Machine.execBnz r off s
  | .bp p test off => Sys2Proof.Machine.execBp p test off s
  | .jmp a fmt => Sys2Proof.Machine.execJmp a fmt s
  | .call d off => Sys2Proof.Machine.execCall d off s
  | .callr d a fmt => Sys2Proof.Machine.execCallr d a fmt s
  | .ret a fmt => Sys2Proof.Machine.execRet a fmt s
  | .nopBundle stop => Sys2Proof.Machine.execNopBundle stop s
  | .vadd u d a b p f x => Sys2Proof.Machine.execVadd u d a b p f x s
  | .vsub u d a b p f x => Sys2Proof.Machine.execVsub u d a b p f x s
  | .vmul u d a b p f x => Sys2Proof.Machine.execVmul u d a b p f x s
  | .vfma u d a b p f x => Sys2Proof.Machine.execVfma u d a b p f x s
  | .vfms u d a b p f x => Sys2Proof.Machine.execVfms u d a b p f x s
  | .vmulh u d a b p w x => Sys2Proof.Machine.execVmulh u d a b p w x s
  | .vneg u d a p f x => Sys2Proof.Machine.execVneg u d a p f x s
  | .vabs u d a p f x => Sys2Proof.Machine.execVabs u d a p f x s
  | .vmin u d a b p f x => Sys2Proof.Machine.execVmin u d a b p f x s
  | .vmax u d a b p f x => Sys2Proof.Machine.execVmax u d a b p f x s
  | .vdot4 u d a b p w x => Sys2Proof.Machine.execVdot4 u d a b p w x s
  | .vand u d a b p w x => Sys2Proof.Machine.execVand u d a b p w x s
  | .vor u d a b p w x => Sys2Proof.Machine.execVor u d a b p w x s
  | .vxor u d a b p w x => Sys2Proof.Machine.execVxor u d a b p w x s
  | .vandn u d a b p w x => Sys2Proof.Machine.execVandn u d a b p w x s
  | .vshl u d a b p w x => Sys2Proof.Machine.execVshl u d a b p w x s
  | .vshr u d a b p w x => Sys2Proof.Machine.execVshr u d a b p w x s
  | .vsra u d a b p w x => Sys2Proof.Machine.execVsra u d a b p w x s
  | .vcmp u d a b cond f x => Sys2Proof.Machine.execVcmp u d a b cond f x s
  | .vsel u d a b p f x => Sys2Proof.Machine.execVsel u d a b p f x s
  | .vmov u d a p f x => Sys2Proof.Machine.execVmov u d a p f x s
  | .vbcast u d a p f x => Sys2Proof.Machine.execVbcast u d a p f x s
  | .vextr u d a b f x => Sys2Proof.Machine.execVextr u d a b f x s
  | .vins u d a b f x => Sys2Proof.Machine.execVins u d a b f x s
  | .viota u d a b p f x => Sys2Proof.Machine.execViota u d a b p f x s
  | .vcvt u d a src rq p f x => Sys2Proof.Machine.execVcvt u d a src rq p f x s
  | .vbfpk u d a wm1 rq p f x => Sys2Proof.Machine.execVbfpk u d a wm1 rq p f x s
  | .vbfup u d a wm1 rq p f x => Sys2Proof.Machine.execVbfup u d a wm1 rq p f x s
  | .vperm u d a b p w x => Sys2Proof.Machine.execVperm u d a b p w x s
  | .vshuf u d a b p w x => Sys2Proof.Machine.execVshuf u d a b p w x s
  | .vslide u d a b p f x => Sys2Proof.Machine.execVslide u d a b p f x s
  | .vcompr u d a p f x => Sys2Proof.Machine.execVcompr u d a p f x s
  | .vexpand u d a p f x => Sys2Proof.Machine.execVexpand u d a p f x s
  | .vrsum u d a p f x => Sys2Proof.Machine.execVrsum u d a p f x s
  | .vrmax u d a p f x => Sys2Proof.Machine.execVrmax u d a p f x s
  | .vrmin u d a p f x => Sys2Proof.Machine.execVrmin u d a p f x s
  | .vscan u d a p f x => Sys2Proof.Machine.execVscan u d a p f x s
  | .vchk u a b p f x => Sys2Proof.Machine.execVchk u a b p f x s
  | .pand u d a b p x => Sys2Proof.Machine.execPand u d a b p x s
  | .por u d a b p x => Sys2Proof.Machine.execPor u d a b p x s
  | .pxor u d a b p x => Sys2Proof.Machine.execPxor u d a b p x s
  | .pnot u d a p x => Sys2Proof.Machine.execPnot u d a p x s
  | .pcnt u d a p w x => Sys2Proof.Machine.execPcnt u d a p w x s
  | .pfirst u d a p w x => Sys2Proof.Machine.execPfirst u d a p w x s
  | .pmov u d a p x => Sys2Proof.Machine.execPmov u d a p x s
  | .ppack u d a x => Sys2Proof.Machine.execPpack u d a x s
  | .punpk u d nw a x => Sys2Proof.Machine.execPunpk u d nw a x s
  | .vrcp d a p f => Sys2Proof.Machine.execVrcp d a p f s
  | .vrsq d a p f => Sys2Proof.Machine.execVrsq d a p f s
  | .vsqrt d a p f => Sys2Proof.Machine.execVsqrt d a p f s
  | .vdiv d a b p f => Sys2Proof.Machine.execVdiv d a b p f s
  | .vexp2 d a p f => Sys2Proof.Machine.execVexp2 d a p f s
  | .vlog2 d a p f => Sys2Proof.Machine.execVlog2 d a p f s
  | .vsin d a p f => Sys2Proof.Machine.execVsin d a p f s
  | .vcos d a p f => Sys2Proof.Machine.execVcos d a p f s
  | .vtanh d a p f => Sys2Proof.Machine.execVtanh d a p f s
  | .vhist d a b p w => Sys2Proof.Machine.execVhist d a b p w s
  | .vhmerge d a w => Sys2Proof.Machine.execVhmerge d a w s
  | .vsort d a p f => Sys2Proof.Machine.execVsort d a p f s
  | .vsortkv d a b p f => Sys2Proof.Machine.execVsortkv d a b p f s
  | .vsrch d a b p f => Sys2Proof.Machine.execVsrch d a b p f s
  | .mcall z r mh sw a rpt => Sys2Proof.Machine.execMcall z r mh sw a rpt s
  | .mzero z mode rpt => Sys2Proof.Machine.execMzero z mode rpt s
  | .mrd d z q rpt => Sys2Proof.Machine.execMrd d z q rpt s
  | .mwr z q a rpt => Sys2Proof.Machine.execMwr z q a rpt s
  | .mst z form a rpt => Sys2Proof.Machine.execMst z form a rpt s
  | .mchk z rpt => Sys2Proof.Machine.execMchk z rpt s
  | .mcsr z rpt => Sys2Proof.Machine.execMcsr z rpt s
  | .muld r a rpt => Sys2Proof.Machine.execMuld r a rpt s
  | .mout z nm1 a rpt => Sys2Proof.Machine.execMout z nm1 a rpt s
  | .mwait rpt => Sys2Proof.Machine.execMwait rpt s
  | .ldb d base off w c => Sys2Proof.Machine.execLdb d base off w c s
  | .ldh d base off w c => Sys2Proof.Machine.execLdh d base off w c s
  | .ldw d base off w c => Sys2Proof.Machine.execLdw d base off w c s
  | .ldd d base off w c => Sys2Proof.Machine.execLdd d base off w c s
  | .ldv d base off p w c => Sys2Proof.Machine.execLdv d base off p w c s
  | .ldp d base off w c => Sys2Proof.Machine.execLdp d base off w c s
  | .ldt d base h p w c sw => Sys2Proof.Machine.execLdt d base h p w c sw s
  | .ldg d base idx p w c => Sys2Proof.Machine.execLdg d base idx p w c s
  | .stb v base off f => Sys2Proof.Machine.execStb v base off f s
  | .sth v base off f => Sys2Proof.Machine.execSth v base off f s
  | .stw v base off f => Sys2Proof.Machine.execStw v base off f s
  | .std v base off f => Sys2Proof.Machine.execStd v base off f s
  | .stv v base off p f => Sys2Proof.Machine.execStv v base off p f s
  | .stp v base off f => Sys2Proof.Machine.execStp v base off f s
  | .stt v base h p f sw => Sys2Proof.Machine.execStt v base h p f sw s
  | .stg v base idx p f => Sys2Proof.Machine.execStg v base idx p f s
  | .feset base off => Sys2Proof.Machine.execFeset base off s
  | .feclr base off => Sys2Proof.Machine.execFeclr base off s
  | .fetst d base off => Sys2Proof.Machine.execFetst d base off s
  | .wldw d base off w c => Sys2Proof.Machine.execWldw d base off w c s
  | .wldd d base off w c => Sys2Proof.Machine.execWldd d base off w c s
  | .wldv d base off p w c => Sys2Proof.Machine.execWldv d base off p w c s
  | .wldt d base h p w c sw => Sys2Proof.Machine.execWldt d base h p w c sw s
  | .wldg d base idx p w c => Sys2Proof.Machine.execWldg d base idx p w c s
  | .wstw v base off f => Sys2Proof.Machine.execWstw v base off f s
  | .wstd v base off f => Sys2Proof.Machine.execWstd v base off f s
  | .wstv v base off p f => Sys2Proof.Machine.execWstv v base off p f s
  | .wstt v base h p f sw => Sys2Proof.Machine.execWstt v base h p f sw s
  | .wstg v base idx p f => Sys2Proof.Machine.execWstg v base idx p f s
  | .wfeset base off => Sys2Proof.Machine.execWfeset base off s
  | .wfeclr base off => Sys2Proof.Machine.execWfeclr base off s
  | .probe d a off => Sys2Proof.Machine.execProbe d a off s
  | .fill d a => Sys2Proof.Machine.execFill d a s
  | .evict a => Sys2Proof.Machine.execEvict a s
  | .wback a => Sys2Proof.Machine.execWback a s
  | .pin d a => Sys2Proof.Machine.execPin d a s
  | .unpin a => Sys2Proof.Machine.execUnpin a s
  | .tginv a => Sys2Proof.Machine.execTginv a s
  | .tgstat d a => Sys2Proof.Machine.execTgstat d a s
  | .cpy d a eh carry sw => Sys2Proof.Machine.execCpy d a eh carry sw s
  | .cwait d a b => Sys2Proof.Machine.execCwait d a b s
  | .ctest d a b => Sys2Proof.Machine.execCtest d a b s
  | .ccancel a => Sys2Proof.Machine.execCcancel a s
  | .rput a carry => Sys2Proof.Machine.execRput a carry s
  | .rflag a b carry ord => Sys2Proof.Machine.execRflag a b carry ord s
  | .rfence => Sys2Proof.Machine.execRfence s
  | .halo d eh carry sw => Sys2Proof.Machine.execHalo d eh carry sw s
  | .hwait d a => Sys2Proof.Machine.execHwait d a s
  | .tidw a b => Sys2Proof.Machine.execTidw a b s
  | .tidr d a k => Sys2Proof.Machine.execTidr d a k s
  | .tidinv a => Sys2Proof.Machine.execTidinv a s
  | .layset d a f => Sys2Proof.Machine.execLayset d a f s
  | .coll d a b carry => Sys2Proof.Machine.execColl d a b carry s
  | .clwait d a b => Sys2Proof.Machine.execClwait d a b s
  | .reshard d a b carry => Sys2Proof.Machine.execReshard d a b carry s
  | .gathj d a b carry => Sys2Proof.Machine.execGathj d a b carry s
  | .aadd d a b sc scope => Sys2Proof.Machine.execAadd d a b sc scope s
  | .amin d a b sc scope => Sys2Proof.Machine.execAmin d a b sc scope s
  | .amax d a b sc scope => Sys2Proof.Machine.execAmax d a b sc scope s
  | .aand d a b sc scope => Sys2Proof.Machine.execAand d a b sc scope s
  | .aor d a b sc scope => Sys2Proof.Machine.execAor d a b sc scope s
  | .axor d a b sc scope => Sys2Proof.Machine.execAxor d a b sc scope s
  | .aswp d a b sc scope => Sys2Proof.Machine.execAswp d a b sc scope s
  | .acas d a b sc scope => Sys2Proof.Machine.execAcas d a b sc scope s
  | .ared a b scope => Sys2Proof.Machine.execAred a b scope s
  | .alock d a sc scope => Sys2Proof.Machine.execAlock d a sc scope s
  | .aunlk a sc scope => Sys2Proof.Machine.execAunlk a sc scope s
  | .barc d a b scope => Sys2Proof.Machine.execBarc d a b scope s
  | .barw d a b scope => Sys2Proof.Machine.execBarw d a b scope s
  | .tspawn d a b => Sys2Proof.Machine.execTspawn d a b s
  | .tdec a => Sys2Proof.Machine.execTdec a s
  | .tdone => Sys2Proof.Machine.execTdone s
  | .qpop d a => Sys2Proof.Machine.execQpop d a s
  | .qpush d a b => Sys2Proof.Machine.execQpush d a b s
  | .qstat d a => Sys2Proof.Machine.execQstat d a s
  | .phend => Sys2Proof.Machine.execPhend s
  | .rmack a => Sys2Proof.Machine.execRmack a s
  | .drain scope => Sys2Proof.Machine.execDrain scope s
  | .xfence f t => Sys2Proof.Machine.execXfence f t s
  | .trap a n => Sys2Proof.Machine.execTrap a n s
  | .xret act => Sys2Proof.Machine.execXret act s
  | .halt => Sys2Proof.Machine.execHalt s
  | .bdpkt a => Sys2Proof.Machine.execBdpkt a s
  | .bdrsp d a => Sys2Proof.Machine.execBdrsp d a s
  | .mcallRepeatIssue die core => Sys2Proof.Machine.execMcallRepeatIssue die core s
  | .matrixOpComplete die core => Sys2Proof.Machine.execMatrixOpComplete die core s
  | .trellisFillGranule die way granule => Sys2Proof.Machine.execTrellisFillGranule die way granule s
  | .trellisFillEnd die way => Sys2Proof.Machine.execTrellisFillEnd die way s
  | .trellisWritebackEnd die way => Sys2Proof.Machine.execTrellisWritebackEnd die way s
  | .copyChunkLand die ctx handle chunk => Sys2Proof.Machine.execCopyChunkLand die ctx handle chunk s
  | .engineTransferFault die ctx kind index piece => Sys2Proof.Machine.execEngineTransferFault die ctx kind index piece s
  | .remotePieceLand die ctx kind index piece => Sys2Proof.Machine.execRemotePieceLand die ctx kind index piece s
  | .remoteAck die ctx kind index piece => Sys2Proof.Machine.execRemoteAck die ctx kind index piece s
  | .haloFaceLand die ctx handle face => Sys2Proof.Machine.execHaloFaceLand die ctx handle face s
  | .haloFaceAck die ctx handle face => Sys2Proof.Machine.execHaloFaceAck die ctx handle face s
  | .collTransferApply die ctx handle index => Sys2Proof.Machine.execCollTransferApply die ctx handle index s
  | .reshardStep die ctx handle => Sys2Proof.Machine.execReshardStep die ctx handle s
  | .collEnd die ctx handle => Sys2Proof.Machine.execCollEnd die ctx handle s
  | .cleatReply die ctx => Sys2Proof.Machine.execCleatReply die ctx s
  | .scWheelIssue die => Sys2Proof.Machine.execScWheelIssue die s
  | .taskServe die => Sys2Proof.Machine.execTaskServe die s
  | .queueAgeing die queue => Sys2Proof.Machine.execQueueAgeing die queue s
  | .deferredFaultDelivery die ctx => Sys2Proof.Machine.execDeferredFaultDelivery die ctx s
  | .watchdog die ctx => Sys2Proof.Machine.execWatchdog die ctx s
  | .dieArrive die => Sys2Proof.Machine.execDieArrive die s
  | .domainCross => Sys2Proof.Machine.execDomainCross s
  | .stragglerTimeout => Sys2Proof.Machine.execStragglerTimeout s
  | .sailplanPublish => Sys2Proof.Machine.execSailplanPublish s
  | .leaseClaim die => Sys2Proof.Machine.execLeaseClaim die s
  | .leaseRenew die => Sys2Proof.Machine.execLeaseRenew die s
  | .belvedereLapse die => Sys2Proof.Machine.execBelvedereLapse die s
  | .packageUnmanaged => Sys2Proof.Machine.execPackageUnmanaged s
  | .errorRetryClassify die cls unit addr corrected lasting => Sys2Proof.Machine.execErrorRetryClassify die cls unit addr corrected lasting s
  | .sramLineRetest die line clean => Sys2Proof.Machine.execSramLineRetest die line clean s
  | .schedTableRebuild die mirrorOk => Sys2Proof.Machine.execSchedTableRebuild die mirrorOk s
  | .lodgeHalt die => Sys2Proof.Machine.execLodgeHalt die s
  | .lodgeReloadTimeout die => Sys2Proof.Machine.execLodgeReloadTimeout die s
  | .lodgeReloadComplete die => Sys2Proof.Machine.execLodgeReloadComplete die s
  | .clusterReplan die cluster => Sys2Proof.Machine.execClusterReplan die cluster s
  | .jobOpen => Sys2Proof.Machine.execJobOpen s
  | .jobClose => Sys2Proof.Machine.execJobClose s
  | .pageroot => Sys2Proof.Machine.execPageroot s
  | .trellis => Sys2Proof.Machine.execTrellis s
  | .wheel => Sys2Proof.Machine.execWheel s
  | .layouts => Sys2Proof.Machine.execLayouts s
  | .sched => Sys2Proof.Machine.execSched s
  | .tids => Sys2Proof.Machine.execTids s
  | .image => Sys2Proof.Machine.execImage s
  | .queues => Sys2Proof.Machine.execQueues s
  | .launch => Sys2Proof.Machine.execLaunch s
  | .resumeSuspended => Sys2Proof.Machine.execResumeSuspended s
  | .resumeJob => Sys2Proof.Machine.execResumeJob s
  | .switchOut => Sys2Proof.Machine.execSwitchOut s
  | .cmdTailWrite v => Sys2Proof.Machine.execCmdTailWrite v s
  | .cmdCtlWrite v => Sys2Proof.Machine.execCmdCtlWrite v s
  | .hyCtlWrite v => Sys2Proof.Machine.execHyCtlWrite v s
  | .qtail die queue v => Sys2Proof.Machine.execQtail die queue v s
  | .xlInvAll die => Sys2Proof.Machine.execXlInvAll die s
  | .xlInvPage die page => Sys2Proof.Machine.execXlInvPage die page s
  | .tcCtlWrite die v => Sys2Proof.Machine.execTcCtlWrite die v s
  | .thLimitsWrite die v => Sys2Proof.Machine.execThLimitsWrite die v s
  | .pwCtlWrite v => Sys2Proof.Machine.execPwCtlWrite v s
  | .snap => Sys2Proof.Machine.execSnap s
  | .lrDataRead => Sys2Proof.Machine.execLrDataRead s
  | .msixUnmask vec => Sys2Proof.Machine.execMsixUnmask vec s
  | .registerWrite off wide v => Sys2Proof.Machine.execRegisterWrite off wide v s
  | .regsizeAccess off size write => Sys2Proof.Machine.execRegsizeAccess off size write s
  | .hostWindowAccess off len data => Sys2Proof.Machine.execHostWindowAccess off len data s
  | .translationWalk die dva write fetch => Sys2Proof.Machine.execTranslationWalk die dva write fetch s
  | .dramRead die tier line pkt => Sys2Proof.Machine.execDramRead die tier line pkt s
  | .dramWrite die tier line mask data pkt => Sys2Proof.Machine.execDramWrite die tier line mask data pkt s
  | .bdRawrd die pkt => Sys2Proof.Machine.execBdRawrd die pkt s
  | .bdRawwr die pkt => Sys2Proof.Machine.execBdRawwr die pkt s
  | .bdReplyArrive die pkt => Sys2Proof.Machine.execBdReplyArrive die pkt s
  | .hotnessEpoch die => Sys2Proof.Machine.execHotnessEpoch die s
  | .tierMoveStart die group => Sys2Proof.Machine.execTierMoveStart die group s
  | .tierMoveEnd die group => Sys2Proof.Machine.execTierMoveEnd die group s
  | .linkFlitReceive die port seq flit => Sys2Proof.Machine.execLinkFlitReceive die port seq flit s
  | .linkPacketReceive die port out tagOk => Sys2Proof.Machine.execLinkPacketReceive die port out tagOk s
  | .portBringup die port peer far => Sys2Proof.Machine.execPortBringup die port peer far s
  | .rekey die port k => Sys2Proof.Machine.execRekey die port k s
  | .powerGood => Sys2Proof.Machine.execPowerGood s
  | .pldmActivate slot => Sys2Proof.Machine.execPldmActivate slot s
  | .getVersion => Sys2Proof.Machine.execGetVersion s
  | .getCapabilities => Sys2Proof.Machine.execGetCapabilities s
  | .negotiateAlgorithms => Sys2Proof.Machine.execNegotiateAlgorithms s
  | .getDigests => Sys2Proof.Machine.execGetDigests s
  | .getCertificate slot => Sys2Proof.Machine.execGetCertificate slot s
  | .challenge nonce => Sys2Proof.Machine.execChallenge nonce s
  | .getMeasurements index nonce => Sys2Proof.Machine.execGetMeasurements index nonce s
  | .dualreport nonce => Sys2Proof.Machine.execDualreport nonce s
  | .dualcert => Sys2Proof.Machine.execDualcert s
  | .thermalSample die temps htemp ctemp => Sys2Proof.Machine.execThermalSample die temps htemp ctemp s
  | .powerTick watts => Sys2Proof.Machine.execPowerTick watts s
  | .lifetimeFlashWrite => Sys2Proof.Machine.execLifetimeFlashWrite s
  | .urgentEventFlush => Sys2Proof.Machine.execUrgentEventFlush s
  | .powerLoss => Sys2Proof.Machine.execPowerLoss s
  | .ballastDutyWindow die => Sys2Proof.Machine.execBallastDutyWindow die s
  | .snapshotReady => Sys2Proof.Machine.execSnapshotReady s

end Sys2Proof.Machine
end

