-- ==== Sys2Proof/Machine/Run.lean ====
section
/-! DEFINITION. One turn of the machine: a core's turn, a happening of the table, time that passes, and the turn taken
when no input names one (log 1); and the placing of one instruction where the next step fetches it (log 10). -/

namespace Sys2Proof.Machine

/-- What a step answers. -/
abbrev Out := Host.Outcome State Fault Refusal

/-! ### A core's turn -/

/-- The instruction that the current context's words hold alone, where no cause before issue stands in its way. -/
def State.soleInstr (s : State) : Option Instr :=
  if s.cx.rollback || s.beforeTrap.isSome then none
  else match s.nextWords with
    | .error _ => none
    | .ok ws => decodeOne ws
/-- The Running context issues: one instruction by its meaning, a bundle of several by their actions. -/
def issueCurrent (s : State) : Out :=
  match s.soleInstr with
  | some i => exec i s
  | none => .next s.issueNext
/-- A cycle in which no context of a core can run: a Stalled context that still holds the width counts it (R56, R79). -/
def State.idleCycle (s : State) (d c : Nat) : State :=
  match (s.core d c).running with
  | none => s
  | some k => if (s.ctx ⟨d, c, k⟩).st = .stalled then (s.focus ⟨d, c, k⟩).tick else s
/-- A core's turn (R55, R354): a bundle whose fetch waits keeps the width and counts the cycle; none passes where the die's
clocks stand (R427). -/
def coreTurn (d c : Nat) (s : State) : Out :=
  if (s.die d).th.stopped then .next s
  else
    let s1 := s.ready d c
    match s1.runningOn d c with
    | none => .next (s1.idleCycle d c)
    | some _ => if s1.fetchWaits then .next s1.tick else issueCurrent s1.fetched

/-! ### Happenings and time -/

/-- The instruction is a happening of the table, not one that a context issues. -/
def isEvent (i : Instr) : Bool :=
  match i with
  | .nopBundle _ => false
  | _ => (action i).isNone
/-- A happening; an instruction of a context is none. -/
def eventTurn (i : Instr) (s : State) : Out := if isEvent i then exec i s else .next s
/-- Time passes: 1,000 cycles of the 1 GHz clock a µs, fewer at a cluster of a lower clock (R2), the lifetime records count
it, the straggler timer runs,
the hotness counters are halved and the cold plate's temperatures are read (R14, R31, R401, R425, R438). -/
def State.elapse (s0 : State) (us : Nat) : State :=
  let s := s0.lifeTick us
  { s with
    dies := s.dies.map fun x => { x with tiers := x.tiers.halveAll (s.nowUs + us) }
    nowUs := s.nowUs + us, nowCyc := s.nowCyc + 1000 * us, lag := s.lagAfter (1000 * us)
    power := { s.power with
      inlet := Config.coolant false (s.nowUs + us), outlet := Config.coolant true (s.nowUs + us) }
    hy := { s.hy with timer := s.hy.timer.map (· + us) } }
/-- A turn. -/
def takeTurn (t : Turn) (s : State) : Out :=
  match t with
  | .core d c => coreTurn d c s
  | .event i => eventTurn i s
  | .elapse us => .next (s.elapse us)
  | .inputs x => .next { s with outside := x }

/-! ### The turn that no input names (log 1) -/

/-- A move that some agent may make. -/
abbrev Move := State → Out
/-- What the engines of die `d` may do next, oldest transfers first. -/
def State.pendingOn (s : State) (d : Nat) : List Move :=
  let x := s.die d
  let chunks : List Move := x.xf.copies.flatMap fun c =>
    if c.ended then [] else match (List.range c.chunks).find? c.open_ with
      | none => []
      | some q => [execCopyChunkLand d c.ctx c.handle q, execEngineTransferFault d c.ctx none c.handle q]
  let puts : List Move := x.xf.rputs.flatMap fun r =>
    (match (List.range r.pieces).find? r.open_ with
      | none => []
      | some k => [execRemotePieceLand d r.ctx .rput r.place k, execEngineTransferFault d r.ctx (some .rput) r.place k]) ++
    r.landed.map fun k => execRemoteAck d r.ctx .rput r.place k
  let flags : List Move := x.xf.rflags.flatMap fun f =>
    [execRemotePieceLand d f.ctx .rflag f.place 0, execRemoteAck d f.ctx .rflag f.place 0]
  let faces : List Move := x.xf.halos.flatMap fun h =>
    allFaces.flatMap fun f => [execHaloFaceLand d h.ctx h.handle f, execHaloFaceAck d h.ctx h.handle f]
  let far : List Move := x.inbox.filterMap fun k =>
    k.head.face.map fun y => execHaloFaceLand (8 + k.head.src) k.head.ctx k.head.index y.face
  let colls : List Move := x.xf.colls.flatMap fun c =>
    if c.ended then [] else
      (List.range (s.collCount d c)).map (fun i => execCollTransferApply d c.ctx c.handle i) ++
        [execReshardStep d c.ctx c.handle, execCollEnd d c.ctx c.handle]
  let cores : List Move := x.cores.flatMap fun e =>
    (match e.2.rept with | none => [] | some _ => [execMcallRepeatIssue d e.1]) ++
      if e.2.queue.isEmpty then [] else [execMatrixOpComplete d e.1]
  let fills : List Move := x.tr.jobs.flatMap fun j =>
    if j.wb then [execTrellisWritebackEnd d j.way]
    else [execTrellisFillGranule d j.way ((List.range 128).find? (fun g => j.landed / 2 ^ g % 2 = 0) |>.getD 0),
      execTrellisFillEnd d j.way]
  let sc : List Move := if x.tables.scWait.any fun w => w < 4096 then [execScWheelIssue d] else []
  let serve : List Move := if x.sched.ready.isEmpty then [] else [execTaskServe d]
  let moves : List Move := x.tiers.moves.map fun m => execTierMoveEnd d m.group
  let diag : List Move := x.tiers.diag.zipIdx.flatMap fun e =>
    let line := e.1.addr / 64
    [execDramRead d e.1.cap line (some e.2), execDramWrite d e.1.cap line e.1.mask e.1.data (some e.2),
      execBdRawrd d e.2, execBdRawwr d e.2, execBdReplyArrive d e.2]
  cores ++ fills ++ chunks ++ puts ++ flags ++ faces ++ far ++ colls ++ sc ++ serve ++ moves ++ diag
/-- What the engines of every live die may do next. -/
def State.pending (s : State) : List Move := s.liveDies.flatMap s.pendingOn
/-- Some context waits for the boundary, or in an exchange superstep for work: the domain has a reason to cross. -/
def State.wantsCross (s : State) : Bool :=
  s.placed.any fun g =>
    let c := s.ctx g
    s.dieAlive g.die && c.ballast.isNone && (c.st = .sleepBoundary || (s.exchange && c.st = .sleepQueue))
/-- Arrivals and the crossing, once the domain has a reason to cross. -/
def State.boundary (s : State) : List Move :=
  if s.wantsCross then s.domain.map execDieArrive ++ [execDomainCross] else []
/-- The turns of the cores with such a context, in a round that starts after the current core. -/
def State.coreMoves (s : State) : List Move :=
  let gs := s.placed.filter fun g => (s.ctx g).st.awake
  let here := s.cur.die * 576 + s.cur.core
  let after := fun (g : CtxId) => decide (g.die * 576 + g.core > here)
  ((gs.filter after ++ gs.filter fun g => !after g).map fun g => (g.die, g.core)).eraseDups.map fun x => coreTurn x.1 x.2
/-- Cycles pass on a die where a Ready ballast context waits for its duty window (R434). -/
def State.windowMoves (s : State) : List Move :=
  ((s.placed.filter fun g => (s.ctx g).st = .ready && (s.ctx g).ballast.isSome && !s.dutyOpen g.die &&
    s.dutyOf g.die ≠ 0).map (·.die)).eraseDups.map execBallastDutyWindow
/-- The outcome of the first move that gives a state other than `s`. -/
def firstMove (s : State) : List Move → Option Out
  | [] => none
  | m :: ms =>
    match m s with
    | .next t => if t = s then firstMove s ms else some (.next t)
    | .fault f => some (.fault f)
    | .refused r => some (.refused r)
/-- The turn taken when no input names one: an engine happening that changes something, else an arrival or the crossing,
else a core, else the next edge of a ballast window. -/
def freeTurn (s : State) : Out := (firstMove s (s.pending ++ s.boundary ++ s.coreMoves ++ s.windowMoves)).getD (.next s)

/-! ### Placing one instruction (log 10) -/

/-- The words of an instruction given by its number: a syllable in a bundle of its own, or a header alone. -/
def wordsOf (w : Nat) : List Word :=
  let word : Word := BitVec.ofNat 32 w
  match tableSlot word with
  | some k => [BitVec.ofNat 32 (2 ^ k.maskBit + 4194304), word]
  | none => [word]
/-- The bytes of some words, as the hardware stores them (R1). -/
def wordBytes (ws : List Word) : List Byte := ws.flatMap fun w => leBytes 4 w.toNat
/-- The context that the placed instruction runs in, as a launch with every tile and a cap of 48 places it (R44). -/
def Ctx.placed (c : Ctx) : Ctx :=
  { c with
    st := .running, pc := 0, level := 0, rec1 := none, rec2 := none, resume := none, sleepRec := none, held := []
    sailPend := false, rollback := false, cap := 48, tiles := 0xFF, budget := 16777216
    ctl := { c.ctl with wdog := 16777216 } }
/-- Stores words at device virtual address 0 of the current context's die, mapped for fetch, and gives the context its
core's width for the next turn. -/
def State.placeWords (s : State) (ws : List Word) : State :=
  let d := s.cur.die
  let s1 := s.devPutRaw d 0 (wordBytes ws)
  let s2 := s1.modDie d fun x => { x with
    xl := { x.xl with tlb := { base := 0, bits := 16, dpa := 0, w := true, x := true } :: x.xl.tlb } }
  let s3 := s2.modCore d s.cur.core fun y => { y with running := some s.cur.ctx, offer := false }
  { s3 with cx := s3.cx.placed, agenda := [.core d s.cur.core] }

end Sys2Proof.Machine
end

