-- ==== Sys2Proof/Machine/Step.lean ====
section
/-! DEFINITION. One step of the machine, and the placing of one instruction for the next step. -/

namespace Sys2Proof.Machine

/-- One step: the turn at the head of the agenda, or the turn that the state itself chooses; nothing happens when no
agent can move. -/
def step (s : State) : Host.Outcome State Fault Refusal :=
  match s.agenda with
  | t :: ts => takeTurn t { s with agenda := ts }
  | [] => freeTurn s

/-- The state with one instruction placed where the next step fetches it (log 10). -/
def State.withFetchWord (s : State) (nbits w : Nat) : State :=
  let _ := nbits
  s.placeWords (wordsOf w)

end Sys2Proof.Machine
end

