-- ==== Sys2Proof/Safety.lean ====
section
/-! DEFINITION. What counts as a safe outcome and as a well-formed state, and when and with what a bundle of one
syllable ends, in the terms the statements use. -/

namespace Sys2Proof.Machine

/-- The outcome is a next state. -/
def runs (o : Host.Outcome State Fault Refusal) : Prop := ∃ t, o = .next t
/-- The stored p0 is all ones in a context (R65). -/
abbrev Ctx.p0Ones (c : Ctx) : Prop := c.p.get 0 = BitVec.allOnes 256
/-- The memory keeps its canonical form. -/
abbrev State.memOk (s : State) : Prop := Memory.wf s.mem = true

/-! ### A bundle of one syllable -/

/-- The current context starts a new bundle: it is Running, and no bundle of its waits to be reissued (R58, R353). -/
abbrev State.issues (s : State) : Prop := s.cx.st = .running ∧ s.cx.resume = none
/-- Every latch that the sources name is valid (R105). -/
abbrev Ctx.holds (c : Ctx) (as : List Src) : Prop := ∀ k ∈ latchesOf as, (c.b.get k).isSome = true
/-- Every v register of the list is below the cap of the context's launch (R66). -/
abbrev Ctx.within (c : Ctx) (ns : List Nat) : Prop := ∀ n ∈ ns, n < c.cap
/-- A context that may issue what only compute supersteps admit and ballast contexts never issue (R24, R39). -/
abbrev State.computes (s : State) : Prop := s.cx.ballast = none ∧ s.exchange = false
/-- A context that may issue vector instructions: a ballast context, or a member in a compute superstep (R24, R39). -/
abbrev State.vectors (s : State) : Prop := s.cx.ballast ≠ none ∨ s.exchange = false
/-- The state after a bundle of one syllable that did `g` and took no transfer: a cycle has passed, and the program
counter stands at the next bundle, or where the loop end test puts it (R96, R145). -/
def State.bundle (s : State) (g : State → State) : State :=
  let t := g s.begun
  { t with cx := t.cx.advance s.cx.pc 2 none }
/-- The same of a syllable that changes only the context's registers. -/
def State.bundleCtx (s : State) (f : Ctx → Ctx) : State := s.bundle fun t => { t with cx := f t.cx }
/-- The state after a bundle of one syllable that did `g` and took a transfer (R102, R142). -/
def State.bundleTo (s : State) (g : State → State) (target : Dword) : State :=
  let t := g s.begun
  { t with cx := t.cx.advance s.cx.pc 2 (some target) }
/-- The address of the bundle after one syllable's (R96). -/
def State.nextPc (s : State) : Dword := s.cx.pc + 8
/-- Taking a trap at the issue of the current bundle: a cycle has passed, and the bundle is kept whole (R348, R353). -/
def State.trapAt (s : State) (t : Trap) : State := s.trapBundle s.begun t 0 none

/-! ### Vector results -/

/-- The outcome of a vector syllable alone in its bundle whose result is `r` and which raises `fl` (R158). -/
def State.vecOut (s : State) (u : VUnit) (d : Dst) (r : Vec) (fl : FFlags) : Host.Outcome State Fault Refusal :=
  .next (s.bundleCtx fun c => (c.outV u.latch d r).raiseFlags fl)
/-- Lane `i` of `w` bits is governed under a predicate (R156). -/
def Ctx.governed (c : Ctx) (p : Fin 16) (w i : Nat) : Prop := (c.pval p).getLsbD (w / 8 * i) = true
/-- The outcome of a vector syllable under role M (R157): each governed lane receives its operation, each other lane
keeps the earlier value of DST, and the flags raised are those of the governed lanes (R158). -/
def State.merges (s : State) (u : VUnit) (d : Dst) (p : Fin 16) (w : Nat) (op : Nat → LaneRes)
    (o : Host.Outcome State Fault Refusal) : Prop :=
  ∃ r fl, o = s.vecOut u d r fl ∧
    (∀ i, i < 2048 / w → (s.cx.governed p w i → laneAt r w i = (op i).1 % 2 ^ w) ∧
      (¬ s.cx.governed p w i → laneAt r w i = laneAt (s.cx.dstVec d) w i)) ∧
    (∀ k, fl.getLsbD k = true ↔ ∃ i, i < 2048 / w ∧ s.cx.governed p w i ∧ (op i).2.getLsbD k = true)
/-- The outcome of a vector syllable that writes every lane and raises no flag. -/
def State.writes (s : State) (u : VUnit) (d : Dst) (w : Nat) (val : Nat → Nat)
    (o : Host.Outcome State Fault Refusal) : Prop :=
  ∃ r, o = .next (s.bundleCtx fun c => c.outV u.latch d r) ∧ ∀ i, i < 2048 / w → laneAt r w i = val i % 2 ^ w
/-- The v registers that a syllable's sources and destination name are below the cap (R66). -/
abbrev Ctx.fits (c : Ctx) (srcs : List Src) (d : Dst) : Prop := c.within (vregsOf srcs ++ (d.map Fin.val).toList)
/-- The value the tree of R93 holds for `2 ^ k` lanes, with the flags of its additions. -/
def treeSum (add : Nat → Nat → Nat × FFlags) : Nat → (Nat → Nat) → LaneRes
  | 0, x => (x 0, 0)
  | k + 1, x =>
    let a := treeSum add k x
    let b := treeSum add k fun i => x (i + 2 ^ k)
    let r := add a.1 b.1
    (r.1, a.2 ||| b.2 ||| r.2)
/-- The nodes of R93 that cover the first `n` lanes, by the binary digits of `n` from digit `k − 1` down, from lane
`j` on. -/
def prefixParts (add : Nat → Nat → Nat × FFlags) (x : Nat → Nat) (n : Nat) : Nat → Nat → List LaneRes
  | 0, _ => []
  | k + 1, j =>
    if n / 2 ^ k % 2 = 1 then
      (treeSum add k fun i => x (j + i)) :: prefixParts add x n k (j + 2 ^ k)
    else prefixParts add x n k j

/-! ### Conditions on the state -/

/-- The current context owns tile `z` (R66). -/
abbrev State.owns (s : State) (z : Fin 8) : Prop := s.cx.tiles.getLsbD z = true
/-- The matrix queue of the core has room, and no repeat issues (R196). -/
abbrev State.mxRoom (s : State) : Prop := s.myCore.rept = none ∧ s.myCore.queue.length < 16
/-- No repeat issues, and no queued operation names tile `z` (R196). -/
abbrev State.mxFree (s : State) (z : Fin 8) : Prop := s.myCore.rept = none ∧ ∀ e ∈ s.myCore.queue, e.op.tile ≠ z.val
/-- No carry window is open at the context's die (R28, R29). -/
abbrev State.noWindows (s : State) : Prop := (s.die s.cur.die).xf.windows = []
/-- The context holds no replayable node (R253). -/
def State.noNode (s : State) : Prop := ∀ it, s.cx.item = some it → it.node = none

/-! ### Loads and stores -/

/-- The registers of every context but the current one are as before. -/
def sameOthers (s t : State) : Prop := t.cur = s.cur ∧ t.ctxs = s.ctxs
/-- An access of a port at ranges of addresses is one that the superstep and the context admit (R24, R39), and through
s47 it stays within the stack (R327). -/
abbrev State.lsOk (s : State) (pt : LsPort) (base : Src) (granule : Bool) (spans : List (Nat × Nat)) : Prop :=
  (s.computes ∨ s.cx.ballast ≠ none ∧ s.cur.core < 576 ∧ pt = .ls ∧ granule = false ∧
      ∀ x ∈ spans, x.1 / 524288 % 128 = 126) ∧
    (pt = .ls → base = .reg 47 → s.cx.ballast = none → ∀ x ∈ spans, ∀ j, j < x.2 →
      (x.1 + j) / 524288 % 128 = 127 ∧ s.cx.ctl.stkl.toNat ≤ (x.1 + j) % 524288 ∧
        (x.1 + j) % 524288 < s.cx.ctl.stkb.toNat)
/-- A context after the swap of a shape register, if a syllable makes one (R152). -/
def Ctx.swapped (c : Ctx) : Option (Fin 16) → Ctx
  | none => c
  | some h => c.swapShape h
/-- The granules of the memory keys that an access touches, byte by byte. -/
def touchedGranules (n : Nat) (key : Nat → Option Nat) : List Nat := ((List.range n).filterMap key).map (· / 16)
/-- The outcome of a vector load whose byte `i` lies at `key i`: DST and the port's latch receive those bytes, and
`old i` where none is touched; under .c the touched granules become empty (R78, R209), and .w is an acquire (R278). -/
def State.loads (s : State) (pt : LsPort) (d : Fin 48) (w c : Bool) (sw : Option (Fin 16)) (key : Nat → Option Nat)
    (old : Nat → Byte) (o : Host.Outcome State Fault Refusal) : Prop :=
  ∃ r : Vec, o = .next ((s.under w).bundle fun t =>
      let t1 := { t with cx := (t.cx.outV pt.latch (some d) r).swapped sw }
      if c then t1.setEmpty (touchedGranules 256 key) else t1) ∧
    ∀ i, i < 256 → vbyte r i = match key i with | some k => s.byte k | none => old i
/-- The outcome of a store of `n` bytes whose byte `i` goes to `key i`: a later byte stays where two meet, every byte of
memory outside them reads as before, under .f the touched granules become full, and no register but the program counter
changes; a WY store leaves each Trellis block it touches as `Way.stored` says (R73, R78, R209). -/
def State.stores (s : State) (pt : LsPort) (f : Bool) (sw : Option (Fin 16)) (n : Nat) (key : Nat → Option Nat)
    (data : Nat → Byte) (o : Host.Outcome State Fault Refusal) : Prop :=
  ∃ t, o = .next t ∧ t.cx = (s.begun.cx.swapped sw).advance s.cx.pc 2 none ∧ sameOthers s t ∧
    (∀ i k, i < n → key i = some k → (∀ j, i < j → j < n → key j ≠ some k) → t.byte k = data i) ∧
    (∀ a, (∀ i, i < n → key i ≠ some a) → t.byte a = s.byte a) ∧
    t.empty = (if f then (touchedGranules n key).foldl setDel s.empty else s.empty) ∧
    (pt = .ls → t.dies = s.dies) ∧
    (∀ w, ((∃ i k, i < n ∧ key i = some k ∧ w ∈ s.waysOf s.cur.die k 1) →
        t.way s.cur.die w = (s.way s.cur.die w).stored) ∧
      (¬ (∃ i k, i < n ∧ key i = some k ∧ w ∈ s.waysOf s.cur.die k 1) → t.way s.cur.die w = s.way s.cur.die w))

/-! ### Host commands -/

/-- What a command does by a DMA read of an argument block: FAULT where the read fails, and `k` of what it read (R341). -/
def State.reads {α : Type} (s : State) (c : Cmd) (i : Instr) (x : Except CmdFail α) (k : α → Prop) : Prop :=
  (∀ f, x = .error f → exec i s = .next (s.complete c { code := 6, detail := 0 })) ∧ ∀ v, x = .ok v → k v

/-! ### Rounding (R81, R84, R85) -/

/-- The real number that a finite datum stands for. -/
def FVal.rat : FVal → Rat
  | .fin n m e => (if n then -1 else 1) * (m : Rat) * 2 ^ e
  | _ => 0
/-- A finite number of a format. -/
def numberOf (f : FFmt) (v : Rat) : Prop :=
  ∃ b n m e, b < 2 ^ f.bits ∧ unpack f b = .fin n m e ∧ v = (FVal.fin n m e).rat
/-- The bits and flags `r` are an exact result rounded once to a format (R84, R85). The result is the real number X
given by its cut: `le x` says X ≤ x and `ge x` says x ≤ X. A result of 0 has the sign `zneg`. -/
def RoundedCut (f : FFmt) (mode : RMode) (le ge : Rat → Prop) (zneg : Bool) (r : Nat × FFlags) : Prop :=
  let top : Rat := 2 ^ emax f
  let most := top - 2 ^ (emax f - prec f)
  let edge := top - 2 ^ (emax f - prec f - 1)
  let norm : Rat := 2 ^ (emin f + prec f - 1)
  let gap := fun (k : Int) => norm - 2 ^ (emin f - k)
  let out := unpack f r.1
  let y := out.rat
  let down := (out = .inf true ∧ ¬ ge (-most)) ∨ (out.isFin = true ∧ ge y ∧ ∀ v, numberOf f v → ge v → v ≤ y)
  let up := (out = .inf false ∧ ¬ le most) ∨ (out.isFin = true ∧ le y ∧ ∀ v, numberOf f v → le v → y ≤ v)
  let nearest := out.isFin = true ∧ ∀ v, numberOf f v →
    (y < v → le ((y + v) / 2) ∧ (ge ((y + v) / 2) → r.1 % 2 = 0)) ∧
    (v < y → ge ((y + v) / 2) ∧ (le ((y + v) / 2) → r.1 % 2 = 0))
  let inexact := ¬ (out.isFin = true ∧ le y ∧ ge y)
  let past := match mode with
    | .rne => ge edge ∨ le (-edge)
    | .rtz => ge top ∨ le (-top)
    | .rup => ¬ le most ∨ le (-top)
    | .rdn => ge top ∨ ¬ ge (-most)
  let tiny := match mode with
    | .rne => ¬ ge (gap 2) ∧ ¬ le (-gap 2)
    | .rtz => ¬ ge norm ∧ ¬ le (-norm)
    | .rup => le (gap 1) ∧ ¬ le (-norm)
    | .rdn => ¬ ge norm ∧ ge (-gap 1)
  r.1 < 2 ^ f.bits ∧ (le 0 → ge 0 → r = (signBit f zneg, 0)) ∧
    (¬ ge 0 → out.neg = true) ∧ (¬ le 0 → out.neg = false) ∧
    (match mode with
      | .rne => (ge edge → out = .inf false) ∧ (le (-edge) → out = .inf true) ∧ (¬ ge edge → ¬ le (-edge) → nearest)
      | .rtz => out.isFin = true ∧ (ge 0 → down) ∧ (le 0 → up)
      | .rup => up
      | .rdn => down) ∧
    (∀ k, r.2.getLsbD k = true ↔ (k = 0 ∧ inexact) ∨ (k = 1 ∧ inexact ∧ tiny) ∨ (k = 2 ∧ past))
/-- The same of a rational result. -/
def Rounded (f : FFmt) (mode : RMode) (x : Rat) (zneg : Bool) (r : Nat × FFlags) : Prop :=
  RoundedCut f mode (fun v => x ≤ v) (fun v => v ≤ x) zneg r
/-- The bits are a rational rounded once in RNE, where no flag is raised (R84, R85). -/
def Nearest (f : FFmt) (x : Rat) (b : Nat) : Prop := ∃ zneg fl, Rounded f .rne x zneg (b, fl)
/-- The integer is a rational rounded to a whole number in a mode (R84, R86). -/
def RoundedInt (mode : RMode) (x : Rat) (k : Int) : Prop :=
  match mode with
  | .rne => (k : Rat) - 1 / 2 ≤ x ∧ x ≤ k + 1 / 2 ∧ (x = k - 1 / 2 ∨ x = k + 1 / 2 → k % 2 = 0)
  | .rtz => (0 ≤ x → (k : Rat) ≤ x ∧ x < k + 1) ∧ (x ≤ 0 → x ≤ k ∧ k - 1 < x)
  | .rup => x ≤ k ∧ k - 1 < x
  | .rdn => (k : Rat) ≤ x ∧ x < k + 1

/-! ### What stays -/

/-- Every byte of memory reads as before. -/
def sameBytes (s t : State) : Prop := ∀ k, t.byte k = s.byte k
/-- Every byte of memory outside the `n` bytes from key `k` reads as before. -/
def sameBytesBut (k n : Nat) (s t : State) : Prop := ∀ a, a < k ∨ k + n ≤ a → t.byte a = s.byte a

end Sys2Proof.Machine
end

