-- ==== Sys2Proof/Certificates/Slice0/Obligations.lean ====
section
/-! DEFINITION. What is stated of the model, by family; each docstring names the rules of the spec that it follows. -/

open Sys2Proof Sys2Proof.Machine

/-! ### Scalar integer instructions -/

/-- R128 to R130, R132 to R134: in a bundle of its own, each register form of the scalar integer instructions that is no
shift and no division answers a next state in which DST, unless NW, and the slot's latch hold the result, the program
counter stands at the next bundle, and nothing else of the context's registers has changed.
R101, R108, R128, R129, R132: the immediate forms read DST (s0 under NW) and the extended immediate, and answer a
next state that differs in DST, the latch and the program counter only. -/
def Obligations.ScalarIntegerResults : Prop :=
 (∀ (s : State) (u : SUnit) (d : Dst) (a b : Src) (w : IntW), s.issues → s.cx.holds [a, b] →
    let x := s.cx.sval a
    let y := s.cx.sval b
    let out := fun (r : Dword) => Host.Outcome.next (s.bundleCtx fun c => c.outS u.latch d r)
    let bin := fun (uns : Bool) (op : Int → Int → Int) => out (writeW w uns (op (readW w uns x) (readW w uns y)))
    let sat := fun (t : Sat) (op : Int → Int → Int) =>
      out (writeW w (t = .satu) (clampW w t (op (readW w (t = .satu) x) (readW w (t = .satu) y))))
    (∀ t, exec (.add u d a b w t) s = sat t fun p q => p + q) ∧
    (∀ t, exec (.sub u d a b w t) s = sat t fun p q => p - q) ∧
    (∀ t, exec (.mul u d a b w t) s = sat t fun p q => p * q) ∧
    exec (.mulh u d a b w) s = bin false (fun p q => p * q / 2 ^ w.bits) ∧
    exec (.mulhu u d a b w) s = bin true (fun p q => p * q / 2 ^ w.bits) ∧
    exec (.and u d a b w) s = out (((x &&& y).setWidth w.bits).signExtend 64) ∧
    exec (.or u d a b w) s = out (((x ||| y).setWidth w.bits).signExtend 64) ∧
    exec (.xor u d a b w) s = out (((x ^^^ y).setWidth w.bits).signExtend 64) ∧
    exec (.andn u d a b w) s = out (((x &&& ~~~ y).setWidth w.bits).signExtend 64) ∧
    exec (.min u d a b w) s = bin false (fun p q => min p q) ∧
    exec (.max u d a b w) s = bin false (fun p q => max p q) ∧
    exec (.minu u d a b w) s = bin true (fun p q => min p q) ∧
    exec (.maxu u d a b w) s = bin true (fun p q => max p q) ∧
    exec (.clz u d a w) s = out (writeW w true (clzN w.bits (readW w true x).toNat)) ∧
    exec (.ctz u d a w) s = out (writeW w true (ctzN w.bits (readW w true x).toNat)) ∧
    exec (.popc u d a w) s = out (writeW w true (onesIn w.bits (readW w true x).toNat)) ∧
    exec (.sext u d a w) s = out (writeW w false (readW w false x)) ∧
    exec (.zext u d a w) s = out (writeW w true (readW w true x)) ∧
    exec (.mov u d a w) s = out (writeW w false (readW w false x)) ∧
    exec (.bfx u d a b) s =
      out (BitVec.ofNat 64 (x.toNat / 2 ^ (y.toNat % 64) %
        2 ^ (if y.toNat / 256 % 64 = 0 then 64 else y.toNat / 256 % 64))) ∧
    (∃ r : Dword, exec (.bfi u d a b) s = out r ∧
      ∀ j, j < 64 → r.getLsbD j =
        if y.toNat % 64 ≤ j ∧ j < y.toNat % 64 + (if y.toNat / 256 % 64 = 0 then 64 else y.toNat / 256 % 64)
        then x.getLsbD (j - y.toNat % 64) else (s.cx.s.get (d.getD 0)).getLsbD j) ∧
    exec (.sel u d a b w) s =
      out (writeW w false (readW w false (if (s.cx.s.get (d.getD 0)).getLsbD 0 then x else y))) ∧
    (∀ c, exec (.cmp u d a b w c) s =
      out (if condInt w.bits c (x.setWidth w.bits) (y.setWidth w.bits) then 1 else 0))) ∧
 (∀ (s : State) (u : SUnit) (d : Dst) (imm : Imm16) (w : IntW), s.issues →
    let x := s.cx.s.get (d.getD 0)
    let out := fun (r : Dword) => Host.Outcome.next (s.bundleCtx fun c => c.outS u.latch d r)
    let bin := fun (uns : Bool) (y : Dword) (op : Int → Int → Int) =>
      out (writeW w uns (op (readW w uns x) (readW w uns y)))
    exec (.addImm u d imm w) s = bin false imm.sx (fun p q => p + q) ∧
    exec (.subImm u d imm w) s = bin false imm.sx (fun p q => p - q) ∧
    exec (.mulImm u d imm w) s = bin false imm.sx (fun p q => p * q) ∧
    exec (.andImm u d imm w) s = out (((x &&& imm.zx).setWidth w.bits).signExtend 64) ∧
    exec (.orImm u d imm w) s = out (((x ||| imm.zx).setWidth w.bits).signExtend 64) ∧
    exec (.xorImm u d imm w) s = out (((x ^^^ imm.zx).setWidth w.bits).signExtend 64) ∧
    exec (.andnImm u d imm w) s = out (((x &&& ~~~ imm.zx).setWidth w.bits).signExtend 64) ∧
    exec (.minImm u d imm w) s = bin false imm.sx (fun p q => min p q) ∧
    exec (.maxImm u d imm w) s = bin false imm.sx (fun p q => max p q) ∧
    exec (.minuImm u d imm w) s = bin true imm.zx (fun p q => min p q) ∧
    exec (.maxuImm u d imm w) s = bin true imm.zx (fun p q => max p q) ∧
    exec (.movi u d imm w) s = out (writeW w false (readW w false imm.sx)) ∧
    (∃ r : Dword, exec (.movhi u d imm) s = out r ∧
      r.toNat = imm.zx.toNat % 2 ^ 32 * 2 ^ 32 + x.toNat % 2 ^ 32))

/-- R131: the shifts and the rotation at every width, the amount being the whole 64-bit value of source B read unsigned
(the extended immediate in the immediate form): the amounts below the width, and from the width on. -/
def Obligations.ShiftResults : Prop :=
  ∀ (s : State) (u : SUnit) (d : Dst) (w : IntW), s.issues →
    let out := fun (r : Dword) => Host.Outcome.next (s.bundleCtx fun c => c.outS u.latch d r)
    let shl := fun (x n : Dword) =>
      out (if n.toNat < w.bits then writeW w false (readW w false x * 2 ^ n.toNat) else 0)
    let shr := fun (x n : Dword) =>
      out (if n.toNat < w.bits then writeW w true (readW w true x / 2 ^ n.toNat) else 0)
    let sra := fun (x n : Dword) =>
      out (if n.toNat < w.bits then writeW w false (readW w false x / 2 ^ n.toNat)
        else if x.getLsbD (w.bits - 1) then BitVec.allOnes 64 else 0)
    let rot := fun (x n : Dword) =>
      out (writeW w true ((x.setWidth w.bits).rotateRight (n.toNat % w.bits)).toNat)
    (∀ a b : Src, s.cx.holds [a, b] →
      exec (.shl u d a b w) s = shl (s.cx.sval a) (s.cx.sval b) ∧
      exec (.shr u d a b w) s = shr (s.cx.sval a) (s.cx.sval b) ∧
      exec (.sra u d a b w) s = sra (s.cx.sval a) (s.cx.sval b) ∧
      exec (.rot u d a b w) s = rot (s.cx.sval a) (s.cx.sval b)) ∧
    (∀ imm : Imm16,
      exec (.shlImm u d imm w) s = shl (s.cx.s.get (d.getD 0)) imm.sx ∧
      exec (.shrImm u d imm w) s = shr (s.cx.s.get (d.getD 0)) imm.sx ∧
      exec (.sraImm u d imm w) s = sra (s.cx.s.get (d.getD 0)) imm.sx ∧
      exec (.rotImm u d imm w) s = rot (s.cx.s.get (d.getD 0)) imm.sx)

/-- R135: the divisions at every width, rounding towards zero, the remainder with the sign of the dividend, and the
corners, in which no division traps. -/
def Obligations.DivisionResults : Prop :=
  ∀ (s : State) (d : Dst) (a b : Src) (w : IntW), s.issues → s.cx.holds [a, b] →
    let x := s.cx.sval a
    let y := s.cx.sval b
    let out := fun (r : Dword) => Host.Outcome.next (s.bundleCtx fun c => c.outS 1 d r)
    exec (.div d a b w) s =
      out (if readW w false y = 0 then BitVec.allOnes 64
        else writeW w false ((readW w false x).tdiv (readW w false y))) ∧
    exec (.divu d a b w) s =
      out (if readW w true y = 0 then writeW w true (2 ^ w.bits - 1)
        else writeW w true (readW w true x / readW w true y)) ∧
    exec (.rem d a b w) s =
      out (if readW w false y = 0 then writeW w false (readW w false x)
        else writeW w false ((readW w false x).tmod (readW w false y))) ∧
    exec (.remu d a b w) s =
      out (if readW w true y = 0 then writeW w true (readW w true x)
        else writeW w true (readW w true x % readW w true y)) ∧
    (readW w false x = -(2 ^ (w.bits - 1)) → readW w false y = -1 →
      exec (.div d a b w) s = out (writeW w false (-(2 ^ (w.bits - 1)))) ∧ exec (.rem d a b w) s = out 0)

/-- R141, R154: SCHK on equal values changes nothing but the program counter, and on unequal values traps CHECK_MISMATCH
with the two values before anything performs; WFLD gives a field of the identifier under the launch's widths.
R152, R153: SHW writes its field of the shadow copy of a shape register, whose reserved bits read zero; MPW an m register; AWR a part of an address
register; MPW and AWR while no repeat of the context runs. YIELD reloads the watchdog and offers the width (R147). -/
def Obligations.CheckAndRegisterFileResults : Prop :=
 (∀ (s : State) (u : SUnit) (a b : Src), s.issues →
    (s.cx.holds [a, b] → s.cx.sval a = s.cx.sval b → exec (.schk u a b) s = .next (s.bundleCtx fun c => c)) ∧
    (s.cx.holds [a, b] → s.cx.sval a ≠ s.cx.sval b →
      exec (.schk u a b) s = .next (s.trapAt {
        cause := .checkMismatch, slot := u.slot.num
        info := some { t0 := s.cx.sval a, t1 := s.cx.sval b } })) ∧
    (∀ (d : Dst) (level : Fin 6) (l : Launch), s.cx.holds [a] → s.myLaunch = some l →
      exec (.wfld u d a level) s = .next (s.bundleCtx fun c => c.outS u.latch d
        (BitVec.ofNat 64 ((s.cx.sval a).toNat / 2 ^ (l.total - l.sumTo (level.val + 1)) % 2 ^ l.width level.val))))) ∧
 (∀ (s : State) (u : SUnit) (a : Src), s.issues →
    (s.cx.holds [a] → ∀ (h : Fin 16) (i : Fin 28) (fmt : Fin 1),
      exec (.shw u h a i fmt) s = .next (s.bundleCtx fun c =>
        { c with shadow := c.shadow.set h (shapeWrite (c.shadow.get h) i (s.cx.sval a) &&& ~~~(shapeReserved h)) })) ∧
    (s.cx.holds [a] → (∀ r, s.myCore.rept = some r → r.ctx ≠ s.cur.ctx) →
      (∀ m : Fin 8, exec (.mpw u m a) s = .next (s.bundleCtx fun c => { c with m := c.m.set m (s.cx.sval a) })) ∧
      (∀ (r : Fin 8) (p : AwrPart), exec (.awr u r p a) s = .next (s.bundleCtx fun c =>
        { c with a := c.a.set r ((c.a.get r).setPart p (s.cx.sval a)) }))) ∧
    (∃ t, exec .yield s = .next t ∧ t.cx.ctl.wdog = BitVec.ofNat 64 s.cx.budget ∧ t.mem = s.mem ∧
      t.cx.pc = (s.cx.advance s.cx.pc 2 none).pc ∧ t.cx.s = s.cx.s ∧ t.cx.v = s.cx.v ∧ t.cx.p = s.cx.p ∧
      t.cx.st = .running ∧
      (s.cur.die < 8 → (t.core s.cur.die s.cur.core).offer = true)))

/-! ### Scalar floating-point instructions -/

/-- R136 to R140, R82 to R86: in a bundle of its own, each scalar floating-point instruction reads the low bits of its
sources in its format, answers a next state in which DST, unless NW, and the latch hold the zero-extended result (an
integer result of FCVT its sign-extended one), and the flags of the operation are raised beside those that stood. -/
def Obligations.ScalarFloatResults : Prop :=
  ∀ (s : State) (u : SUnit) (d : Dst) (a b : Src) (f : FFmt) (q : Rq), s.issues → s.cx.holds [a, b] →
    let x := (s.cx.sval a).toNat % 2 ^ f.bits
    let y := (s.cx.sval b).toNat % 2 ^ f.bits
    let z := (s.cx.s.get (d.getD 0)).toNat % 2 ^ f.bits
    let m := s.cx.mode q
    let out := fun (k : SUnit) (r : Dword × FFlags) =>
      Host.Outcome.next (s.bundleCtx fun c => (c.outS k.latch d r.1).raiseFlags r.2)
    let flt := fun (k : SUnit) (r : Nat × FFlags) => out k (BitVec.ofNat 64 r.1, r.2)
    exec (.fadd u d a b f q) s = flt u (fAdd f m x y) ∧
    exec (.fsub u d a b f q) s = flt u (fSub f m x y) ∧
    exec (.fmul u d a b f q) s = flt u (fMul f m x y) ∧
    exec (.ffma u d a b f q) s = flt u (fFma f m x y z) ∧
    exec (.fmin u d a b f) s = flt u (fMinMax f false x y) ∧
    exec (.fmax u d a b f) s = flt u (fMinMax f true x y) ∧
    exec (.fabs u d a f) s = flt u (fAbs f x, 0) ∧
    exec (.fneg u d a f) s = flt u (fNeg f x, 0) ∧
    (∀ c, exec (.fcmp u d a b f c) s =
      out u (if (fCmp f c x y).1 then 1 else 0, (fCmp f c x y).2)) ∧
    exec (.fclass u d a f) s = flt u (fClass f x, 0) ∧
    exec (.fdiv d a b f q) s = flt .sb (fDiv f m x y) ∧
    exec (.fsqrt d a f q) s = flt .sb (fSqrt f m x) ∧
    (∀ w : IntW, exec (.fcvt u d a (.int w) (.flt f) q) s =
      out u ((BitVec.ofNat w.bits (cvtFI w.bits f m x).1).signExtend 64, (cvtFI w.bits f m x).2)) ∧
    (∀ w : IntW, exec (.fcvt u d a (.flt f) (.int w) q) s =
      flt u (cvtIF f m ((s.cx.sval a).setWidth w.bits).toInt)) ∧
    (∀ g : FFmt, exec (.fcvt u d a (.flt g) (.flt f) q) s = flt u (cvtFF g f m x))

/-! ### Rounding and K-blocks -/

/-- R82, R84, R85, R86, R137: sums, products, fused sums, quotients, square roots and conversions of finite numbers are the
exact result rounded once in the mode, with the flags of R85; a NaN operand gives the default NaN, with NV where one
signals, and so with NV do ∞ − ∞, 0 × ∞ whatever is added, 0 / 0, ∞ / ∞ and the root of a number below 0; a number that is
not 0 divided by 0 gives ∞ with DZ, and the other results of infinities are exact. A conversion to an integer rounds to a
whole number and clamps it, with NV where it clamps, and gives 0 for a NaN. These are the operations that the
scalar, vector and matrix statements name.
R91, R92, R178: one K-block applied to row i of a tile. An FP32 or FP64 element becomes the element plus the exact
products of the block, rounded once; an int32 element takes the exact integer sum modulo 2^32; a block product enters as
the exact integer sum of the mantissas times the rounded scale, rounded once, as the default NaN of a NaN block or scale,
and as +0 where the integer sum is 0. Its pair takes the exact sums of the row's decoded elements times the FP64 sums
of the decoded elements of B, and of their magnitudes, rounded once. -/
def Obligations.RoundedOnceAndKBlocks : Prop :=
 (∀ (f : FFmt) (mode : RMode) (a b d : Nat),
    let A := unpack f a
    let B := unpack f b
    let D := unpack f d
    let is := fun (x : Rat) (zneg : Bool) (r : Nat × FFlags) => Rounded f mode x zneg r
    let zero := fun (x y : FVal) => if x.isZero && y.isZero && (x.neg == y.neg) then x.neg else decide (mode = .rdn)
    let inf := fun (n : Bool) => (signBit f n + infBits f, (0 : FFlags))
    let invalid := (nanBits f, flagNV)
    let times := fun (x y : FVal) => x.neg != y.neg
    (A.isFin = true → B.isFin = true →
      is (A.rat + B.rat) (zero A B) (fAdd f mode a b) ∧ is (A.rat - B.rat) (zero A B.negate) (fSub f mode a b) ∧
      is (A.rat * B.rat) (times A B) (fMul f mode a b) ∧
      (B.isZero = false → is (A.rat / B.rat) (times A B) (fDiv f mode a b)) ∧
      (B.isZero = true → A.isZero = false → fDiv f mode a b = (signBit f (times A B) + infBits f, flagDZ)) ∧
      (B.isZero = true → A.isZero = true → fDiv f mode a b = invalid) ∧
      (D.isFin = true →
        let p := FVal.fin (times A B) (if A.isZero || B.isZero then 0 else 1) 0
        is (A.rat * B.rat + D.rat) (zero p D) (fFma f mode a b d))) ∧
    (A.isFin = true → (A.neg = false ∨ A.isZero = true) →
      RoundedCut f mode (fun v => 0 ≤ v ∧ A.rat ≤ v * v) (fun v => v ≤ 0 ∨ v * v ≤ A.rat) A.neg (fSqrt f mode a)) ∧
    (A.neg = true → A.isNan = false → A.isZero = false → fSqrt f mode a = invalid) ∧
    (A = .inf false → fSqrt f mode a = inf false) ∧
    (∀ g, A.isFin = true → Rounded g mode A.rat A.neg (cvtFF g f mode a)) ∧
    (∀ x : Int, is x false (cvtIF f mode x)) ∧
    (A.isNan = true ∨ B.isNan = true →
      ∀ r ∈ [fAdd f mode a b, fSub f mode a b, fMul f mode a b, fDiv f mode a b],
        r = (nanBits f, flagIf (A.isSnan || B.isSnan) flagNV)) ∧
    (A.isNan = true ∨ B.isNan = true ∨ D.isNan = true →
      fFma f mode a b d = (nanBits f, flagIf (A.isSnan || B.isSnan || D.isSnan || (mulVal A B).isNone) flagNV)) ∧
    (∀ g, A.isNan = true → cvtFF g f mode a = (nanBits g, flagIf A.isSnan flagNV) ∧
      fSqrt f mode a = (nanBits f, flagIf A.isSnan flagNV)) ∧
    (∀ n, A = .inf n →
      (∀ g, cvtFF g f mode a = (signBit g n + infBits g, 0)) ∧
      (B.isFin = true → fAdd f mode a b = inf n ∧ fAdd f mode b a = inf n ∧ fSub f mode a b = inf n ∧
        fSub f mode b a = inf !n ∧ fDiv f mode a b = inf (n != B.neg) ∧
        fDiv f mode b a = (signBit f (n != B.neg), 0) ∧
        (B.isZero = false → fMul f mode a b = inf (n != B.neg) ∧ fMul f mode b a = inf (n != B.neg)) ∧
        (B.isZero = true → fMul f mode a b = invalid ∧ fMul f mode b a = invalid ∧ fFma f mode a b d = invalid ∧
          fFma f mode b a d = invalid)) ∧
      (∀ k, B = .inf k →
        fAdd f mode a b = (if n = k then inf n else invalid) ∧ fSub f mode a b = (if n = k then invalid else inf n) ∧
        fMul f mode a b = inf (n != k) ∧ fDiv f mode a b = invalid) ∧
      (B.isNan = false → B.isZero = false → ∀ r ∈ [fFma f mode a b d, fFma f mode b a d],
        (D.isFin = true → r = inf (n != B.neg)) ∧
        ∀ k, D = .inf k → r = if (n != B.neg) = k then inf k else invalid)) ∧
    (∀ k, A.isFin = true → B.isFin = true → D = .inf k → fFma f mode a b d = inf k) ∧
    (∀ w : IntW,
      let top : Int := 2 ^ (w.bits - 1)
      let bits := fun (k : Int) => (BitVec.ofInt w.bits k).toNat
      (A.isNan = true → cvtFI w.bits f mode a = (0, flagNV)) ∧
      (∀ n, A = .inf n → cvtFI w.bits f mode a = (bits (if n then -top else top - 1), flagNV)) ∧
      (A.isFin = true → ∃ k : Int, RoundedInt mode A.rat k ∧
        cvtFI w.bits f mode a = if k < -top then (bits (-top), flagNV) else if top ≤ k then (bits (top - 1), flagNV)
          else (bits k, flagIf (decide (A.rat ≠ k)) flagNX)))) ∧
 (∀ (t : Tile) (blk : Bool) (i : Fin 32) (xs : List MElt) (cols : List (List MElt)) (sa : FVal) (sb : List FVal),
    cols.length = t.mode.cols → sb.length = t.mode.cols → (∀ ys ∈ cols, ys.length = xs.length) → xs ≠ [] →
    let u := t.applyRow blk i xs cols sa sb
    let z := fun (r : Tile) (j : Nat) => (t.mode.row (r.rows.get i)).getD j 0
    let x := fun k => xs.getD k MElt.zero
    let y := fun k j => (cols.getD j []).getD k MElt.zero
    let s := fun j => sb.getD j (.fin false 1 0)
    let ks := List.range xs.length
    let js := List.range t.mode.cols
    (∀ k, k ≠ i → u.rows.get k = t.rows.get k ∧ u.cs.get k = t.cs.get k ∧ u.ms.get k = t.ms.get k) ∧
    u.mode = t.mode ∧ u.poison = t.poison ∧ u.outl = t.outl ∧
    (∀ j, j < t.mode.cols →
      let sum := (ks.map fun k => (x k).m * (y k j).m).sum
      let same := fun (v w : FVal) => v = w ∨ (v.isFin = true ∧ w.isFin = true ∧ v.rat = w.rat ∧ v.neg = w.neg)
      let plain := fun (f : FFmt) =>
        ((unpack f (z t j)).isFin = true → (∀ k, k < xs.length → (x k).v.isFin = true ∧ (y k j).v.isFin = true) →
          Nearest f ((unpack f (z t j)).rat + (ks.map fun k => (x k).v.rat * (y k j).v.rat).sum) (z u j)) ∧
        ((unpack f (z t j)).isNan = true ∨ (∃ k, k < xs.length ∧ ((x k).v.isNan = true ∨ (y k j).v.isNan = true)) →
          z u j = nanBits f)
      (t.mode = .int32 → z u j = (BitVec.ofInt 32 (signedOf 32 (z t j) + sum)).toNat) ∧
      (t.mode = .fp64 → plain .f64) ∧ (t.mode = .fp32 → blk = false → plain .f32) ∧
      (t.mode = .fp32 → blk = true →
        ((∃ k, k < xs.length ∧ ((x k).v.isNan = true ∨ (y k j).v.isNan = true)) → z u j = nanBits .f32) ∧
        (∀ (ea eb : Int) (p q : Nat), same (unpack .f32 p) sa → same (unpack .f32 q) (s j) →
          (∀ k, k < xs.length → x k = MElt.int (x k).m ea ∧ y k j = MElt.int (y k j).m eb) →
          let sc := unpack .f32 (fMul .f32 .rne p q).1
          ∃ tb, tb < 2 ^ 32 ∧ z u j = (fAdd .f32 .rne (z t j) tb).1 ∧
            (sc.isNan = true → tb = nanBits .f32) ∧ (sc.isNan = false → sum = 0 → tb = 0) ∧
            (sum ≠ 0 → sc.isFin = true → Nearest .f32 (sum * 2 ^ (ea + eb) * sc.rat) tb) ∧
            (sum ≠ 0 → ∀ n, sc = .inf n → tb = signBit .f32 (n != decide (sum < 0)) + infBits .f32)))) ∧
    ((∀ k j, k < xs.length → j < t.mode.cols → (x k).v.isFin = true ∧ (y k j).v.isFin = true ∧ (s j).isFin = true) →
      sa.isFin = true →
      let a := fun k => (x k).v.rat * sa.rat
      let adds := fun (w : Nat → Nat) => (js.drop 1).foldl (fun acc j => (fAdd .f64 .rne acc (w j)).1) (w 0)
      (∀ k j, k < xs.length → j < t.mode.cols → numberOf .f64 ((y k j).v.rat * (s j).rat)) →
      ∃ w : Nat → Nat → Nat,
        (∀ k j, k < xs.length → j < t.mode.cols → w k j < 2 ^ 64 ∧ (unpack .f64 (w k j)).isFin = true ∧
          (unpack .f64 (w k j)).rat = (y k j).v.rat * (s j).rat) ∧
        let r := fun k => unpack .f64 (adds (w k))
        let m := fun k => unpack .f64 (adds fun j => fAbs .f64 (w k j))
        let cs := unpack .f64 (t.cs.get i).toNat
        let ms := unpack .f64 (t.ms.get i).toNat
        (cs.isFin = true → (∀ k, k < xs.length → (r k).isFin = true) →
          Nearest .f64 (cs.rat + (ks.map fun k => a k * (r k).rat).sum) (u.cs.get i).toNat) ∧
        (ms.isFin = true → (∀ k, k < xs.length → (m k).isFin = true) →
          Nearest .f64 (ms.rat + (ks.map fun k => (if a k < 0 then -a k else a k) * (m k).rat).sum) (u.ms.get i).toNat)))

/-! ### Control registers, branches and loops -/

/-- R148 to R150, R4: CTLR of registers 0 to 23 copies the register to DST and the latch, and of a number from 24 on
traps ACCESS; CTLW writes the registers that R148 marks writable, and of any other traps ACCESS. -/
def Obligations.ControlRegisters : Prop :=
  ∀ (s : State) (u : SUnit) (d : Dst) (a : Src) (n : Fin 64), s.issues →
    (n.val < 24 → exec (.ctlr u d n) s = .next (s.bundleCtx fun c => c.outS u.latch d (s.ctlRead n))) ∧
    (24 ≤ n.val → exec (.ctlr u d n) s = .next (s.trapAt { cause := .access, slot := u.slot.num })) ∧
    (s.cx.holds [a] → (6 ≤ n.val ∧ n.val ≤ 9 ∨ 13 ≤ n.val ∧ n.val ≤ 23) →
      exec (.ctlw u a n) s = .next (s.bundleCtx fun c => { c with ctl := c.ctl.write n (s.cx.sval a) })) ∧
    (s.cx.holds [a] → ¬(6 ≤ n.val ∧ n.val ≤ 9 ∨ 13 ≤ n.val ∧ n.val ≤ 23) →
      exec (.ctlw u a n) s = .next (s.trapAt { cause := .access, slot := u.slot.num })) ∧
    (∀ (c : Ctl) (x : Dword), (c.write 6 x).rnd = x.setWidth 2 ∧ (c.write 7 x).fflags = x.setWidth 5 ∧
      (c.write 8 x).stkb = (x.setWidth 19).setWidth 64 ∧ (c.write 9 x).stkl = (x.setWidth 19).setWidth 64 ∧
      (c.write 13 x).lcnt = x ∧ (c.write 14 x).lbeg = x ∧ (c.write 15 x).lend = x ∧
      (c.write 16 x).lstep = x.setWidth 8 ∧ (c.write 17 x).tvec = x ∧ (c.write 18 x).tcause = x ∧
      (c.write 19 x).tpc = x ∧ (c.write 20 x).tinfo0 = x ∧ (c.write 21 x).tinfo1 = x ∧
      (c.write 22 x).tinfo2 = x ∧ (c.write 23 x).tinfo3 = x)

/-- R142, R143: the branches: the transfer they take, its condition on the registers before the bundle, the link that
CALL and CALLR leave in DST and b1, and the traps of a register target that is not 4-byte aligned (ALIGN) or has bits
[63:57] set (ACCESS).
R144, R145: LOOP sets the loop registers, and with a count of zero goes on after the bundle at the loop's end, whose
header it reads as a DRAM request that writes corrected words back (R395); the bundle at ctl.lend, without a taken
transfer, steps the address registers that ctl.lstep names and goes to ctl.lbeg while ctl.lcnt is above 1, else goes
on with ctl.lcnt 0; and a NOP bundle, of one word, does no more than that test. -/
def Obligations.ControlFlowResults : Prop :=
 (∀ (s : State) (off : Imm16), s.issues →
    let target := s.cx.pc + off.sx * 4
    let go := fun (c : Prop) [Decidable c] => Host.Outcome.next
      (if c then s.bundleTo (fun t => t) target else s.bundle fun t => t)
    exec (.br off) s = go True ∧
    (∀ r, s.cx.holds [r] → exec (.bz r off) s = go (s.cx.sval r = 0) ∧
      exec (.bnz r off) s = go (s.cx.sval r ≠ 0)) ∧
    (∀ p, exec (.bp p .any off) s = go (s.cx.pval p ≠ 0) ∧
      exec (.bp p .all off) s = go (s.cx.pval p = BitVec.allOnes 256) ∧
      exec (.bp p .none off) s = go (s.cx.pval p = 0) ∧
      exec (.bp p .lane0 off) s = go ((s.cx.pval p).getLsbD 0 = true)) ∧
    (∀ n, exec (.call n off) s =
      .next (s.bundleTo (fun t => { t with cx := t.cx.outS 1 (some n) s.nextPc }) target)) ∧
    (∀ (a : Src) (d : Dst) (fmt : Fin 1), s.cx.holds [a] →
      let t := s.cx.sval a
      (t.toNat % 4 = 0 → t.toNat < 2 ^ 57 →
        exec (.jmp a fmt) s = .next (s.bundleTo (fun t => t) t) ∧
        exec (.ret a fmt) s = .next (s.bundleTo (fun t => t) t) ∧
        exec (.callr d a fmt) s = .next (s.bundleTo (fun x => { x with cx := x.cx.outS 1 d s.nextPc }) t)) ∧
      (t.toNat % 4 ≠ 0 → ∀ i ∈ [Instr.jmp a fmt, .ret a fmt, .callr d a fmt],
        exec i s = .next (s.trapAt { cause := .align, slot := 2 })) ∧
      (t.toNat % 4 = 0 → 2 ^ 57 ≤ t.toNat → ∀ i ∈ [Instr.jmp a fmt, .ret a fmt, .callr d a fmt],
        exec i s = .next (s.trapAt { cause := .access, slot := 2 })))) ∧
 (∀ (s : State) (count : Src) (off : Imm16), s.issues →
    (s.cx.holds [count] → s.cx.sval count ≠ 0 →
      exec (.loop count off) s = .next (s.bundleCtx fun c => { c with ctl := { c.ctl with
        lbeg := s.nextPc, lend := s.cx.pc + off.sx * 4, lcnt := s.cx.sval count } })) ∧
    (s.cx.holds [count] → s.cx.sval count = 0 → ∀ h, let e := (s.cx.pc + off.sx * 4).toNat
      s.dvaHeld s.cur.die e 4 .fetch = false → s.fetchWord s.cur.die e = .ok h →
      exec (.loop count off) s = .next (s.bundleTo (fun u => let t := u.dvaScrub s.cur.die e 4 false
        { t with cx := { t.cx with ctl := { t.cx.ctl with
          lbeg := s.nextPc, lend := s.cx.pc + off.sx * 4, lcnt := 0 } } })
        (s.cx.pc + off.sx * 4 + BitVec.ofNat 64 (4 * (headerSyls h + 1))))) ∧
    (∀ (c : Ctx) (n : Nat), c.ctl.lcnt = 0 → (c.advance c.pc n none).pc = c.pc + BitVec.ofNat 64 (4 * n)) ∧
    (∀ (c : Ctx) (n : Nat), c.ctl.lend ≠ c.pc → (c.advance c.pc n none).pc = c.pc + BitVec.ofNat 64 (4 * n)) ∧
    (∀ (c : Ctx) (n : Nat), c.ctl.lend = c.pc → c.ctl.lcnt ≠ 0 →
      let t := c.advance c.pc n none
      (∀ k : Fin 8, t.a.get k = if c.ctl.lstep.getLsbD k.val then
        { c.a.get k with base := (c.a.get k).base + (c.a.get k).stride } else c.a.get k) ∧
      (1 < c.ctl.lcnt.toNat → t.pc = c.ctl.lbeg ∧ t.ctl.lcnt = c.ctl.lcnt - 1) ∧
      (c.ctl.lcnt.toNat = 1 → t.pc = c.pc + BitVec.ofNat 64 (4 * n) ∧ t.ctl.lcnt = 0)) ∧
    (∀ stop, exec (.nopBundle stop) s = .next { s.begun with cx := s.begun.cx.advance s.cx.pc 1 none }))

/-! ### Vector instructions -/

/-- R156, R157, R159, R161, R162: the arithmetic vector instructions under role M: each governed lane receives the exact
result of the lanes of A, B and the earlier DST, clamped under SAT or SATU or reduced, or the rounded floating result,
with its flags; each other lane keeps the earlier value; nothing but DST, the latch, the flags and the program counter
changes. -/
def Obligations.VectorArithmetic : Prop :=
  ∀ (s : State) (u : VUnit) (d : Dst) (a b : Src) (p : Fin 16) (x : Option VMod), s.issues → s.vectors →
    s.cx.holds [a, b] → s.cx.fits [a, b] d →
    (∀ w : IntW,
      let n := w.bits
      let sg := fun (v : Nat) => (BitVec.ofNat n v).toInt
      let rd := fun (v : Nat) => if vsat x = .satu then (v : Int) else sg v
      let A := fun i => laneAt (s.cx.vval (.int w) a) n i
      let B := fun i => laneAt (s.cx.vval (.int w) b) n i
      let D := fun i => laneAt (s.cx.dstVec d) n i
      let sub := fun (v k : Nat) => if vsat x = .satu then (v / 2 ^ (n / 4 * k) % 2 ^ (n / 4) : Int)
        else (BitVec.ofNat (n / 4) (v / 2 ^ (n / 4 * k))).toInt
      let out := fun (t : Sat) (r : Nat → Int) (i : Instr) =>
        s.merges u d p n (fun k => ((BitVec.ofInt n (clampW w t (r k))).toNat, 0)) (exec i s)
      out (vsat x) (fun i => rd (A i) + rd (B i)) (.vadd u d a b p (.int w) x) ∧
      out (vsat x) (fun i => rd (A i) - rd (B i)) (.vsub u d a b p (.int w) x) ∧
      out (vsat x) (fun i => rd (A i) * rd (B i)) (.vmul u d a b p (.int w) x) ∧
      out (vsat x) (fun i => rd (A i) * rd (B i) + rd (D i)) (.vfma u d a b p (.int w) x) ∧
      out (vsat x) (fun i => rd (A i) * rd (B i) - rd (D i)) (.vfms u d a b p (.int w) x) ∧
      out .none (fun i => sg (A i) * sg (B i) / 2 ^ n) (.vmulh u d a b p w x) ∧
      out .none (fun i => min (sg (A i)) (sg (B i))) (.vmin u d a b p (.int w) x) ∧
      out .none (fun i => max (sg (A i)) (sg (B i))) (.vmax u d a b p (.int w) x) ∧
      out (vsat x) (fun i => rd (D i) + (sub (A i) 0 * sub (B i) 0 + sub (A i) 1 * sub (B i) 1 +
        sub (A i) 2 * sub (B i) 2 + sub (A i) 3 * sub (B i) 3)) (.vdot4 u d a b p w x) ∧
      (s.cx.fits [a] d → out (vsat x) (fun i => -sg (A i)) (.vneg u d a p (.int w) x) ∧
        out (vsat x) (fun i => ((sg (A i)).natAbs : Int)) (.vabs u d a p (.int w) x))) ∧
    (∀ g : FFmt,
      let m := s.cx.vmode x
      let A := fun i => laneAt (s.cx.vval (.flt g) a) g.bits i
      let B := fun i => laneAt (s.cx.vval (.flt g) b) g.bits i
      let D := fun i => laneAt (s.cx.dstVec d) g.bits i
      let out := fun (r : Nat → Nat × FFlags) (i : Instr) => s.merges u d p g.bits r (exec i s)
      out (fun i => fAdd g m (A i) (B i)) (.vadd u d a b p (.flt g) x) ∧
      out (fun i => fSub g m (A i) (B i)) (.vsub u d a b p (.flt g) x) ∧
      out (fun i => fMul g m (A i) (B i)) (.vmul u d a b p (.flt g) x) ∧
      out (fun i => fFma g m (A i) (B i) (D i)) (.vfma u d a b p (.flt g) x) ∧
      out (fun i => fmaVal g m (unpack g (A i)) (unpack g (B i)) (unpack g (D i)).negate)
        (.vfms u d a b p (.flt g) x) ∧
      out (fun i => fMinMax g false (A i) (B i)) (.vmin u d a b p (.flt g) x) ∧
      out (fun i => fMinMax g true (A i) (B i)) (.vmax u d a b p (.flt g) x) ∧
      (s.cx.fits [a] d → out (fun i => (fNeg g (A i), 0)) (.vneg u d a p (.flt g) x) ∧
        out (fun i => (fAbs g (A i), 0)) (.vabs u d a p (.flt g) x)))

/-- R131, R161: the bitwise vector instructions and the vector shifts, bit by bit of each governed lane, the count read
unsigned from the lane of B. -/
def Obligations.VectorBitwiseAndShifts : Prop :=
  ∀ (s : State) (u : VUnit) (d : Dst) (a b : Src) (p : Fin 16) (w : IntW) (x : Option VMod), s.issues → s.vectors →
    s.cx.holds [a, b] → s.cx.fits [a, b] d →
    let A := fun i => laneAt (s.cx.vval (.int w) a) w.bits i
    let B := fun i => laneAt (s.cx.vval (.int w) b) w.bits i
    let out := fun (r : Nat → Nat → Bool) (i : Instr) => ∃ f : Nat → Nat,
      (∀ k j, j < w.bits → (f k).testBit j = r k j) ∧ (∀ k, f k < 2 ^ w.bits) ∧
        s.merges u d p w.bits (fun k => (f k, 0)) (exec i s)
    out (fun k j => (A k).testBit j && (B k).testBit j) (.vand u d a b p w x) ∧
    out (fun k j => (A k).testBit j || (B k).testBit j) (.vor u d a b p w x) ∧
    out (fun k j => Bool.xor ((A k).testBit j) ((B k).testBit j)) (.vxor u d a b p w x) ∧
    out (fun k j => (A k).testBit j && !(B k).testBit j) (.vandn u d a b p w x) ∧
    out (fun k j => decide (B k ≤ j) && (A k).testBit (j - B k)) (.vshl u d a b p w x) ∧
    out (fun k j => (A k).testBit (j + B k)) (.vshr u d a b p w x) ∧
    out (fun k j => (A k).testBit (min (j + B k) (w.bits - 1))) (.vsra u d a b p w x)

/-- R109, R134, R138, R163: VCMP writes every bit of the byte group of each lane with the outcome of its comparison (a
write to p0 is discarded, its latch is written), and raises the flags of the lanes' comparisons.
R174: VCHK changes nothing but the program counter where every governed lane of A equals that of B bit for bit, and
traps CHECK_MISMATCH at issue where one differs, with the lowest differing lane, its two values and the number of
differing lanes. -/
def Obligations.VectorCompareAndCheck : Prop :=
 (∀ (s : State) (u : VUnit) (d : PDst) (a b : Src) (c : Cond) (f : Fmt) (x : Option VMod), s.issues → s.vectors →
    s.cx.holds [a, b] → s.cx.within (vregsOf [a, b]) →
    let A := fun i => laneAt (s.cx.vval f a) f.bits i
    let B := fun i => laneAt (s.cx.vval f b) f.bits i
    let one := fun i => match f with
      | .int w => (condInt w.bits c (BitVec.ofNat _ (A i)) (BitVec.ofNat _ (B i)), (0 : FFlags))
      | .flt g => fCmp g c (A i) (B i)
    ∃ (q : Pred) (fl : FFlags),
      exec (.vcmp u d a b c f x) s = .next (s.bundleCtx fun t => (t.outP u.latch d q).raiseFlags fl) ∧
      (∀ j, j < 256 → q.getLsbD j = (one (j / (f.bits / 8))).1) ∧
      (∀ k, fl.getLsbD k = true ↔ ∃ i, i < 2048 / f.bits ∧ (one i).2.getLsbD k = true)) ∧
 (∀ (s : State) (u : VUnit) (a b : Src) (p : Fin 16) (f : Fmt) (x : Option VMod), s.issues → s.vectors →
    s.cx.holds [a, b] → s.cx.within (vregsOf [a, b]) →
    let A := fun i => laneAt (s.cx.vval f a) f.bits i
    let B := fun i => laneAt (s.cx.vval f b) f.bits i
    let bad := fun i => decide (A i ≠ B i) && (s.cx.pval p).getLsbD (f.bits / 8 * i)
    ((∀ i, i < 2048 / f.bits → bad i = false) →
      exec (.vchk u a b p f x) s = .next (s.bundleCtx fun c => c)) ∧
    (∀ i, i < 2048 / f.bits → bad i = true → (∀ j, j < i → bad j = false) →
      exec (.vchk u a b p f x) s = .next (s.trapAt {
        cause := .checkMismatch, slot := u.slot.num
        info := some {
          t0 := BitVec.ofNat 64 i, t1 := BitVec.ofNat 64 (A i), t2 := BitVec.ofNat 64 (B i)
          t3 := BitVec.ofNat 64 ((List.range (2048 / f.bits)).filter bad).length } })))

/-- R66, R164: the vector instructions that move bits, lane by lane; none raises a flag. Only the operands of the vector
file are held to its cap: the scalar sources of VBCAST, VEXTR, VINS and VSLIDE are any registers.
R164: VIOTA gives lane i the value a + (i + IMM11) × b, exact and reduced for integers, rounded once for floating
formats. -/
def Obligations.VectorMovement : Prop :=
 (∀ (s : State) (u : VUnit) (d : Dst) (a b : Src) (p : Fin 16) (f : Fmt) (w : IntW) (x : Option VMod), s.issues →
    s.vectors → s.cx.holds [a, b] →
    let n := 2048 / f.bits
    let m := 2048 / w.bits
    let g := fun i => (s.cx.pval p).getLsbD (f.bits / 8 * i)
    let A := fun i => laneAt (s.cx.vval f a) f.bits i
    let B := fun i => laneAt (s.cx.vval f b) f.bits i
    let D := fun i => laneAt (s.cx.dstVec d) f.bits i
    let Aw := fun i => laneAt (s.cx.vval (.int w) a) w.bits i
    let Bw := fun i => laneAt (s.cx.vval (.int w) b) w.bits i
    let Dw := fun i => laneAt (s.cx.dstVec d) w.bits i
    let k := ((s.cx.sval b).toNat + vimm x) % n
    let sl := fun (i : Nat) => (i : Int) + ((s.cx.sval b).toInt + vimm x)
    (s.cx.fits [a, b] d →
      s.writes u d f.bits (fun i => if g i then A i else B i) (exec (.vsel u d a b p f x) s) ∧
      s.merges u d p w.bits (fun i => (Aw (Bw i % m), 0)) (exec (.vperm u d a b p w x) s) ∧
      s.merges u d p w.bits
        (fun i => (if Bw i % (2 * m) < m then Aw (Bw i % (2 * m)) else Dw (Bw i % (2 * m) - m), 0))
        (exec (.vshuf u d a b p w x) s)) ∧
    (s.cx.fits [a] d →
      s.merges u d p f.bits (fun i => (A i, 0)) (exec (.vmov u d a p f x) s) ∧
      s.merges u d p f.bits (fun i => (if 0 ≤ sl i ∧ sl i < n then A (sl i).toNat else 0, 0))
        (exec (.vslide u d a b p f x) s) ∧
      s.writes u d f.bits (fun j => (((List.range n).filter g).map A).getD j 0) (exec (.vcompr u d a p f x) s) ∧
      s.writes u d f.bits (fun i => if g i then A ((List.range i).filter g).length else D i)
        (exec (.vexpand u d a p f x) s)) ∧
    (s.cx.within (vregsOf [a]) →
      exec (.vextr u d a b f x) s = .next (s.bundleCtx fun c => c.outS u.latch d (match f with
        | .int v => (BitVec.ofNat v.bits (A k)).signExtend 64
        | .flt _ => BitVec.ofNat 64 (A k)))) ∧
    (s.cx.fits [] d →
      s.merges u d p f.bits (fun _ => ((s.cx.sval a).toNat, 0)) (exec (.vbcast u d a p f x) s) ∧
      s.writes u d f.bits (fun i => if i = k then (s.cx.sval a).toNat else D i) (exec (.vins u d a b f x) s))) ∧
 (∀ (s : State) (u : VUnit) (d : Dst) (a b : Src) (p : Fin 16) (x : Option VMod), s.issues → s.vectors →
    s.cx.holds [a, b] → s.cx.fits [] d →
    (∀ w : IntW, s.merges u d p w.bits
      (fun i => ((BitVec.ofInt w.bits (((s.cx.sval a).setWidth w.bits).toInt +
        ((i + vimm x : Nat) : Int) * ((s.cx.sval b).setWidth w.bits).toInt)).toNat, 0))
      (exec (.viota u d a b p (.int w) x) s)) ∧
    (∀ g : FFmt, s.merges u d p g.bits
      (fun i => fmaVal g (s.cx.vmode x) (.fin false (i + vimm x) 0) (unpack g ((s.cx.sval b).toNat % 2 ^ g.bits))
        (unpack g ((s.cx.sval a).toNat % 2 ^ g.bits))) (exec (.viota u d a b p (.flt g) x) s)))

/-- R86 to R89, R165, R166: VCVT converts the first m elements under M and leaves the lanes from m on; VBFPK writes the
blocks of its governed lanes, the others entering as +0, and zero bytes after them; VBFUP decodes element i mod 32 of
block i div 32 into each governed lane. -/
def Obligations.VectorConversions : Prop :=
  ∀ (s : State) (u : VUnit) (d : Dst) (a : Src) (rq : Rq) (p : Fin 16) (x : Option VMod), s.issues → s.vectors →
    s.cx.holds [a] → s.cx.fits [a] d →
    (∀ src f : Fmt, src ≠ f → ∃ r fl, exec (.vcvt u d a src rq p f x) s = s.vecOut u d r fl ∧
      let m := 2048 / max src.bits f.bits
      let one := fun i => vcvtOne f src (vsat x) (s.cx.mode rq) (laneAt (s.cx.vval src a) src.bits i)
      (∀ i, i < m → s.cx.governed p f.bits i → laneAt r f.bits i = (one i).1 % 2 ^ f.bits) ∧
      (∀ i, i < m → ¬ s.cx.governed p f.bits i → laneAt r f.bits i = laneAt (s.cx.dstVec d) f.bits i) ∧
      (∀ i, m ≤ i → i < 2048 / f.bits → laneAt r f.bits i = laneAt (s.cx.dstVec d) f.bits i) ∧
      (∀ k, fl.getLsbD k = true ↔ ∃ i, i < m ∧ s.cx.governed p f.bits i ∧ (one i).2.getLsbD k = true)) ∧
    (∀ (g : FFmt) (wm1 : Fin 8),
      let w := wm1.val + 1
      let elem := fun i => if (s.cx.pval p).getLsbD (g.bits / 8 * i)
        then unpack g (laneAt (s.cx.vval (.flt g) a) g.bits i) else .fin false 0 0
      let blk := fun b => quantise w (s.cx.mode rq) ((List.range 32).map fun j => elem (32 * b + j))
      ∃ r fl, exec (.vbfpk u d a wm1 rq p g x) s = s.vecOut u d r fl ∧
        (∀ b t, b < 2048 / g.bits / 32 → t < 4 * w + 1 →
          laneAt r 8 (b * (4 * w + 1) + t) = ((blockBytes w (blk b).1 (blk b).2.1).getD t 0).toNat) ∧
        (∀ t, 2048 / g.bits / 32 * (4 * w + 1) ≤ t → t < 256 → laneAt r 8 t = 0) ∧
        (∀ k, fl.getLsbD k = true ↔ ∃ b, b < 2048 / g.bits / 32 ∧ (blk b).2.2.getLsbD k = true)) ∧
    (∀ (g : FFmt) (wm1 : Fin 8),
      let w := wm1.val + 1
      let bytes := fun b => (List.range (4 * w + 1)).map fun t =>
        BitVec.ofNat 8 (laneAt (s.cx.vval (.flt g) a) 8 (b * (4 * w + 1) + t))
      s.merges u d p g.bits
        (fun i => match blockElem w (bytes (i / 32)) (i % 32) with
          | .nan _ => (nanBits g, 0)
          | v => roundVal g (s.cx.mode rq) v) (exec (.vbfup u d a wm1 rq p g x) s))

/-- R93, R167: the reductions write lane 0 and clear the other lanes: the tree sum of the lanes, or the exact sum of the
governed lanes; the maximum and minimum of the governed lanes, with the values for none; VSCAN gives each governed lane
its inclusive prefix, with the flags of the additions that make the governed lanes' results. -/
def Obligations.VectorReductions : Prop :=
  ∀ (s : State) (u : VUnit) (d : Dst) (a : Src) (p : Fin 16) (x : Option VMod), s.issues → s.vectors →
    s.cx.holds [a] → s.cx.fits [a] d →
    (∀ w : IntW,
      let n := 2048 / w.bits
      let g := fun i => (s.cx.pval p).getLsbD (w.bits / 8 * i)
      let A := fun i => laneAt (s.cx.vval (.int w) a) w.bits i
      let sg := fun (v : Nat) => (BitVec.ofNat w.bits v).toInt
      let rd := fun (v : Nat) => if vsat x = .satu then (v : Int) else sg v
      let low := fun (t : Sat) (r : Int) => fun i =>
        if i = 0 then (BitVec.ofInt w.bits (clampW w t r)).toNat else 0
      let sum := fun (k : Nat) => (((List.range k).filter g).map fun i => rd (A i)).sum
      s.writes u d w.bits (low (vsat x) (sum n)) (exec (.vrsum u d a p (.int w) x) s) ∧
      (∃ r : Int, s.writes u d w.bits (low .none r) (exec (.vrmax u d a p (.int w) x) s) ∧
        (∀ i, i < n → g i = true → sg (A i) ≤ r) ∧
        (r = -(2 ^ (w.bits - 1)) ∨ ∃ i, i < n ∧ g i = true ∧ sg (A i) = r)) ∧
      (∃ r : Int, s.writes u d w.bits (low .none r) (exec (.vrmin u d a p (.int w) x) s) ∧
        (∀ i, i < n → g i = true → r ≤ sg (A i)) ∧
        (r = 2 ^ (w.bits - 1) - 1 ∨ ∃ i, i < n ∧ g i = true ∧ sg (A i) = r)) ∧
      s.merges u d p w.bits (fun i => ((BitVec.ofInt w.bits (clampW w (vsat x) (sum (i + 1)))).toNat, 0))
        (exec (.vscan u d a p (.int w) x) s)) ∧
    (∀ h : FFmt,
      let n := 2048 / h.bits
      let g := fun i => (s.cx.pval p).getLsbD (h.bits / 8 * i)
      let A := fun i => laneAt (s.cx.vval (.flt h) a) h.bits i
      let X := fun i => if g i then A i else 0
      let add := fAdd h (s.cx.vmode x)
      let nums := ((List.range n).filter fun i => g i && !(unpack h (A i)).isNan).map A
      let at0 := fun (v : Nat) (r : Vec) => ∀ i, i < n → laneAt r h.bits i = if i = 0 then v % 2 ^ h.bits else 0
      (∃ r, exec (.vrsum u d a p (.flt h) x) s = s.vecOut u d r (treeSum add (Nat.log2 n) X).2 ∧
        at0 (treeSum add (Nat.log2 n) X).1 r) ∧
      (∀ mx : Bool, ∃ r v fl,
        exec (if mx then .vrmax u d a p (.flt h) x else .vrmin u d a p (.flt h) x) s = s.vecOut u d r fl ∧ at0 v r ∧
        (nums = [] → v = nanBits h) ∧
        (nums ≠ [] → v ∈ nums ∧ ∀ y ∈ nums, (fMinMax h mx v y).1 = v) ∧
        fl = if (List.range n).any (fun i => g i && (unpack h (A i)).isSnan) then flagNV else 0) ∧
      s.merges u d p h.bits (fun i => addLeft h add (prefixParts add X (i + 1) 9 0)) (exec (.vscan u d a p (.flt h) x) s))

/-- R168, R169: the special functions and VSQRT and VDIV of VB under M, lane by lane: the special inputs give the values
and flags of R169, and VSQRT and VDIV round in ctl.rnd.MODE.
R170, R171: the lane-private histogram counters and their merge, and sorting and searching in key order: VSORT and
VSORTKV move lanes by one permutation, which puts the governed lanes first in key order, equal keys in lane order, and
the other lanes after them in their order. -/
def Obligations.SpecialFunctionsAndSorting : Prop :=
 ((∀ (s : State) (d : Dst) (a b : Src) (p : Fin 16) (f : FFmt), s.issues → s.vectors →
    s.cx.holds [a, b] → s.cx.fits [a] d →
    let A := fun i => laneAt (s.cx.vval (.flt f) a) f.bits i
    let B := fun i => laneAt (s.cx.vval (.flt f) b) f.bits i
    let m := modeOf s.cx.ctl.rnd
    let out := fun (r : Nat → LaneRes) (i : Instr) => s.merges .vb d p f.bits r (exec i s)
    out (fun i => specFn .rcp f (A i)) (.vrcp d a p f) ∧ out (fun i => specFn .rsq f (A i)) (.vrsq d a p f) ∧
    out (fun i => specFn .exp2 f (A i)) (.vexp2 d a p f) ∧ out (fun i => specFn .log2 f (A i)) (.vlog2 d a p f) ∧
    out (fun i => specFn .sin f (A i)) (.vsin d a p f) ∧ out (fun i => specFn .cos f (A i)) (.vcos d a p f) ∧
    out (fun i => specFn .tanh f (A i)) (.vtanh d a p f) ∧
    out (fun i => fSqrt f m (A i)) (.vsqrt d a p f) ∧
    (s.cx.fits [a, b] d → out (fun i => fDiv f m (A i) (B i)) (.vdiv d a b p f))) ∧
  (∀ f ∈ [FFmt.bf16, .f16, .f32],
    let top := 2 ^ (f.bits - 1)
    let inf := infBits f
    let one := (cvtIF f .rne 1).1
    let invalid := (nanBits f, flagNV)
    specFn .rcp f 0 = (inf, flagDZ) ∧ specFn .rcp f top = (top + inf, flagDZ) ∧
    specFn .rcp f inf = (0, 0) ∧ specFn .rcp f (top + inf) = (top, 0) ∧
    specFn .rsq f 0 = (inf, flagDZ) ∧ specFn .rsq f top = (top + inf, flagDZ) ∧
    specFn .rsq f inf = (0, 0) ∧ specFn .rsq f (top + inf) = invalid ∧ specFn .rsq f (top + one) = invalid ∧
    specFn .exp2 f 0 = (one, 0) ∧ specFn .exp2 f top = (one, 0) ∧
    specFn .exp2 f inf = (inf, 0) ∧ specFn .exp2 f (top + inf) = (0, 0) ∧
    specFn .log2 f 0 = (top + inf, flagDZ) ∧ specFn .log2 f top = (top + inf, flagDZ) ∧
    specFn .log2 f inf = (inf, 0) ∧ specFn .log2 f (top + inf) = invalid ∧ specFn .log2 f (top + one) = invalid ∧
    specFn .sin f 0 = (0, 0) ∧ specFn .sin f top = (top, 0) ∧ specFn .sin f inf = invalid ∧
    specFn .sin f (top + inf) = invalid ∧ specFn .cos f 0 = (one, 0) ∧ specFn .cos f top = (one, 0) ∧
    specFn .cos f inf = invalid ∧ specFn .cos f (top + inf) = invalid ∧
    specFn .tanh f 0 = (0, 0) ∧ specFn .tanh f top = (top, 0) ∧
    specFn .tanh f inf = (one, 0) ∧ specFn .tanh f (top + inf) = (top + one, 0) ∧
    ∀ g, specFn g f (nanBits f) = (nanBits f, 0))) ∧
 (∀ (s : State) (d : Dst) (a b : Src) (p : Fin 16) (w : IntW) (f : Fmt), s.issues → s.vectors →
    s.cx.holds [a, b] → s.cx.fits [a] d →
    let n := 2048 / f.bits
    let g := fun i => (s.cx.pval p).getLsbD (f.bits / 8 * i)
    let A := fun i => laneAt (s.cx.vval f a) f.bits i
    let B := fun i => laneAt (s.cx.vval f b) f.bits i
    let Aw := fun i => laneAt (s.cx.vval (.int w) a) w.bits i
    let sh := (s.cx.sval b).toNat
    let hit := fun i => if sh ≥ w.bits then 0 else Aw i / 2 ^ sh % (w.bits / 8)
    let ctr := fun (v j : Nat) => v / 2 ^ (8 * j) % 256
    let D := fun i => laneAt (s.cx.dstVec d) w.bits i
    (∃ h : Nat → Nat, s.merges .vb d p w.bits (fun i => (h i, 0)) (exec (.vhist d a b p w) s) ∧
      ∀ i j, i < 2048 / w.bits → j < w.bits / 8 →
        ctr (h i) j = if j = hit i then min (ctr (D i) j + 1) 255 else ctr (D i) j) ∧
    s.writes .vb d 32
      (fun j => if j < w.bits / 8 then ((List.range (2048 / w.bits)).map fun i => ctr (Aw i) j).sum else 0)
      (exec (.vhmerge d a w) s) ∧
    (∃ π : List Nat, ((List.range n).filter g).Perm (π.take ((List.range n).filter g).length) ∧
      π.drop ((List.range n).filter g).length = (List.range n).filter (fun i => !g i) ∧
      (π.take ((List.range n).filter g).length).Pairwise
        (fun i j => keyLe f (A i) (A j) = true ∧ (keyLe f (A j) (A i) = true → i < j)) ∧
      s.writes .vb d f.bits (fun t => A (π.getD t 0)) (exec (.vsort d a p f) s) ∧
      (s.cx.fits [a, b] d → s.writes .vb d f.bits (fun t => B (π.getD t 0)) (exec (.vsortkv d a b p f) s))) ∧
    (s.cx.fits [a, b] d → s.merges .vb d p f.bits (fun i => (((List.range n).filter fun j => keyLe f (A j) (B i)).length, 0))
      (exec (.vsrch d a b p f) s)))

/-- R65, R172, R173: the predicate instructions work bit by bit under the governing predicate; PCNT and PFIRST count and
find the elements set in both predicates; PPACK and PUNPK move eight predicates, a write to p0 being discarded. -/
def Obligations.PredicateResults : Prop :=
  ∀ (s : State) (u : VUnit) (pd : PDst) (d : Dst) (a b p : Fin 16) (w : IntW) (o : OctBase) (v : Src) (x : Option VMod),
    s.issues → s.vectors → s.cx.fits [] d → s.cx.holds [v] → s.cx.within (vregsOf [v]) →
    let P := fun q => s.cx.pval q
    let out := fun (r : Pred) (i : Instr) =>
      exec i s = .next (s.bundleCtx fun c => c.outP u.latch pd ((r &&& P p) ||| (P (pd.getD 0) &&& ~~~ P p)))
    let hits := (List.range (2048 / w.bits)).filter fun i => (P a).getLsbD (w.bits / 8 * i) && (P p).getLsbD (w.bits / 8 * i)
    out (P a &&& P b) (.pand u pd a b p x) ∧ out (P a ||| P b) (.por u pd a b p x) ∧
    out (P a ^^^ P b) (.pxor u pd a b p x) ∧ out (~~~ P a) (.pnot u pd a p x) ∧ out (P a) (.pmov u pd a p x) ∧
    exec (.pcnt u d a p w x) s = .next (s.bundleCtx fun c => c.outS u.latch d (BitVec.ofNat 64 hits.length)) ∧
    exec (.pfirst u d a p w x) s =
      .next (s.bundleCtx fun c => c.outS u.latch d (BitVec.ofNat 64 (hits.headD (2048 / w.bits)))) ∧
    (∃ r : Vec, exec (.ppack u d o x) s = .next (s.bundleCtx fun c => c.outV u.latch d r) ∧
      ∀ (k : Fin 8) (j : Nat), j < 256 → r.getLsbD (256 * k.val + j) = (P (octAt o k)).getLsbD j) ∧
    (∀ nw, ∃ t, exec (.punpk u o nw v x) s = .next (s.bundleCtx fun _ => t) ∧
      (nw = true → t = s.begun.cx.setLatch u.latch (s.cx.vval (.int .i8) v)) ∧
      (nw = false → t.b = (s.begun.cx.setLatch u.latch (s.cx.vval (.int .i8) v)).b ∧ t.p.get 0 = s.cx.p.get 0 ∧
        (∀ (k : Fin 8), octAt o k ≠ 0 → t.p.get (octAt o k) = slice (s.cx.vval (.int .i8) v) (256 * k.val) 256) ∧
        (∀ q, (∀ k, octAt o k ≠ q) → t.p.get q = s.cx.p.get q) ∧
        t.s = s.cx.s ∧ t.v = s.cx.v ∧ t.a = s.cx.a ∧ t.ctl = s.begun.cx.ctl))

/-! ### The matrix unit -/

/-- R97, R100, R185, R190, R196, R197, R199, R202, R203 (that the later issues of a repeat run with the operands of the
first is the model's choice, log 24, and which mode a check at acceptance takes log 30's): the queued MX instructions enter the core's matrix queue with
their operands; a repeat count of 0 does nothing, and one above 1 leaves a repeat of the issues still to come; MST empties
its destination granules at acceptance; MWAIT goes on once the context has no operation in the queue and no repeat runs, and
waits before.
R198, R200: once no queued operation names the tile, MRD reads two rows or sixteen checksum pairs, MWR writes two
rows and resets their pairs and keeps the others, MCHK changes nothing and MCSR resets every pair where every row
passes, a repeat count of 0 performs nothing and one above 1 leaves a repeat of the issues still to come, and both trap ACC_CHECKSUM with the tile, the first failing row, its sum and the number of failing rows; all
four trap ECC_UNCORRECTABLE on a poisoned tile. -/
def Obligations.MatrixInstructions : Prop :=
 (∀ (s : State) (z : Fin 8) (rpt : Rpt) (a : Src), s.issues → s.computes → s.owns z → s.mxRoom →
    let n := s.cx.rptCount rpt
    let entry := fun (op : MxOp) (t : State) => t.modCore s.cur.die s.cur.core fun k =>
      { k with queue := k.queue ++ [{ ctx := s.cur.ctx, tpc := s.cx.pc, op := op, node := s.cx.inNode }] }
    let repeats := fun (g : MxAgain) (t : State) => if n = 1 then t else t.modCore s.cur.die s.cur.core fun k =>
      { k with rept := some { ctx := s.cur.ctx, tpc := s.cx.pc, again := g, left := n - 1, node := s.cx.inNode } }
    let accepted := fun (i : Instr) (op : MxOp) (f : State → State) =>
      exec i s = .next (s.bundle fun t => if n = 0 then t else repeats (.op op) (f (entry op t)))
    let v := s.cx.sval a
    let key := fun (form i : Nat) => s.ownSp s.cur.die s.cur.core (mstAddr v i) (mstBytes form)
    (∀ mode, accepted (.mzero z mode rpt) (.mzero z.val mode) fun t => t) ∧
    (∀ form : Fin 4, s.cx.holds [a] → s.noNode → v.toNat < 2 ^ 48 →
      (form.val = 1 ∨ form.val = 2 → s.myCore.modeAfter z = .fp32) → (form.val = 3 → s.myCore.modeAfter z = .fp64) →
      v.toNat % 4294967296 % 16 = 0 → v.toNat / 4294967296 % 16 = 0 → (∀ i, i < 32 → (key form.val i).isSome) →
      accepted (.mst z form a rpt) (.mst z.val form.val v) fun t => t.setEmpty
        (((List.range 32).filterMap (key form.val)).flatMap fun k => granulesOf k (mstBytes form.val))) ∧
    (∀ nm1 : Fin 256, s.cx.holds [a] → s.myCore.modeAfter z = .fp32 → v.toNat % 8 = 0 →
      (s.ownSp s.cur.die s.cur.core v.toNat (8 * (nm1.val + 1))).isSome →
      accepted (.mout z nm1 a rpt) (.mout z.val { offset := v.toNat % 524288, count := nm1.val + 1 }) fun t => t) ∧
    (∀ (r : Fin 256) (mh : Fin 4) (sw : Bool), s.cx.holds [a] →
      let h := s.cx.shape (mhIdx mh) sw
      let args : MxArgs := { sreg := v, m := s.cx.m, a := s.cx.a, mh := h }
      (s.mxEnv h v).check z r.val (s.cx.a.get 0).base.toNat (s.cx.a.get 1).base.toNat = none →
      exec (.mcall z r mh sw a rpt) s = .next (s.bundle fun t =>
        let t1 := if sw then { t with cx := t.cx.swapShape (mhIdx mh) } else t
        if n = 0 then t1
        else repeats (.mcall z.val r.val v h [args]) (entry (.mcall z.val r.val args [] (n = 1)) t1))) ∧
    (s.mxBusy s.cur = false → exec (.mwait rpt) s = .next (s.bundle fun t => t)) ∧
    (s.mxBusy s.cur = true →
      exec (.mwait rpt) s = .next { s.tick with cx := { s.tick.cx with st := .stalled } })) ∧
 (∀ (s : State) (z : Fin 8) (rpt : Rpt) (d a : Fin 48) (q : Fin 18) (h : Fin 16), s.issues → s.computes → s.owns z →
    s.mxFree z → d.val < s.cx.cap → a.val < s.cx.cap →
    let n := s.cx.rptCount rpt
    let t := s.myTile z
    let bad := (List.finRange 32).filter fun i => !t.passes i
    let does := fun (o : MxLock) (f : State → State) => Host.Outcome.next (s.bundle fun u =>
      if n = 0 then u else if n = 1 then f u else (f u).modCore s.cur.die s.cur.core fun k => { k with
        rept := some { ctx := s.cur.ctx, tpc := s.cx.pc, again := .lock o, left := n - 1, node := s.cx.inNode } })
    let tile := fun (o : MxLock) (t2 : Tile) => does o fun u => u.setTile s.cur.die s.cur.core z.val t2
    (t.poison = false →
      (∃ r : Vec, exec (.mrd d z q rpt) s =
          does (.mrd d.val z.val q.val) (fun u => { u with cx := { u.cx with v := u.cx.v.set d r } }) ∧
        (∀ (i : Fin 32), i.val / 2 = q.val → slice r (1024 * (i.val % 2)) 1024 = t.rows.get i) ∧
        (∀ (i : Fin 32), 16 + i.val / 16 = q.val →
          slice r (128 * (i.val % 16)) 64 = t.cs.get i ∧ slice r (128 * (i.val % 16) + 64) 64 = t.ms.get i)) ∧
      (∃ t2 : Tile, exec (.mwr z h a rpt) s = tile (.mwr z.val h.val (s.cx.v.get a)) t2 ∧
        t2.mode = t.mode ∧ t2.poison = t.poison ∧ t2.outl = t.outl ∧
        ∀ i : Fin 32, (i.val / 2 = h.val → t2.rows.get i = slice (s.cx.v.get a) (1024 * (i.val % 2)) 1024 ∧
            t2.cs.get i = BitVec.ofNat 64 (foldRound (t2.vals i)) ∧
            t2.ms.get i = BitVec.ofNat 64 (foldRound ((t2.vals i).map FVal.abs))) ∧
          (i.val / 2 ≠ h.val → t2.rows.get i = t.rows.get i ∧ t2.cs.get i = t.cs.get i ∧ t2.ms.get i = t.ms.get i)) ∧
      (bad = [] → exec (.mchk z rpt) s = does (.mchk z.val) (fun u => u) ∧
        ∃ t2 : Tile, exec (.mcsr z rpt) s = tile (.mcsr z.val) t2 ∧ t2.rows = t.rows ∧
          t2.mode = t.mode ∧ t2.poison = t.poison ∧ t2.outl = t.outl ∧
          ∀ i : Fin 32, t2.cs.get i = BitVec.ofNat 64 (foldRound (t.vals i)) ∧
            t2.ms.get i = BitVec.ofNat 64 (foldRound ((t.vals i).map FVal.abs))) ∧
      (∀ i l, bad = i :: l → ∀ x ∈ [Instr.mchk z rpt, .mcsr z rpt],
        exec x s = .next (s.trapAt {
          cause := .accChecksum, slot := 5
          info := some {
            t0 := BitVec.ofNat 64 z.val, t1 := BitVec.ofNat 64 i.val
            t2 := BitVec.ofNat 64 (sumRound .f64 (t.vals i)), t3 := BitVec.ofNat 64 bad.length } }))) ∧
    (t.poison = true → ∀ x ∈ [Instr.mrd d z q rpt, .mwr z h a rpt, .mchk z rpt, .mcsr z rpt],
      exec x s = .next (s.trapAt { cause := .eccUncorrectable, slot := 5 })))

/-- R191, R193, R201: MULD, with the matrix queue empty, loads LEN valid microwords from the own scratchpad into the
microword store from START on and enters the routine in the table, a repeat count above 1 leaving a repeat of it; a word
that is not valid traps RESERVED_ENCODING with its index. -/
def Obligations.MicrocodeLoad : Prop :=
  ∀ (s : State) (r : Fin 256) (a : Src) (rpt : Rpt) (k : Nat), s.issues → s.computes → s.cx.holds [a] →
    s.myCore.rept = none → s.myCore.queue = [] → s.noWindows →
    let n := s.cx.rptCount rpt
    let v := (s.cx.sval a).toNat
    let addr := v % 2 ^ 32
    let start := v / 2 ^ 32 % 2 ^ 12
    let len := v / 2 ^ 44 % 2 ^ 13
    let word := fun i => BitVec.ofNat 64 (s.rd (k + 8 * i) 8)
    v < 2 ^ 57 → 0 < len → len ≤ 4096 → start + len ≤ 4096 → addr % 8 = 0 →
    s.ownSp s.cur.die s.cur.core addr (8 * len) = some k → s.badRead k (8 * len) = false →
    ((∀ i, i < len → uwValid (word i) len = true) →
      ∃ f : Core → Core, exec (.muld r a rpt) s = .next (s.bundle fun t =>
          if n = 0 then t else if n = 1 then t.modCore s.cur.die s.cur.core f
          else (t.modCore s.cur.die s.cur.core f).modCore s.cur.die s.cur.core fun k => { k with
            rept := some { ctx := s.cur.ctx, tpc := s.cx.pc, again := .lock (.muld r.val (s.cx.sval a)), left := n - 1, node := s.cx.inNode } }) ∧
        ∀ c, tabGet (f c).routines r = some (start, len) ∧ (∀ j, j ≠ r.val → tabGet (f c).routines j = tabGet c.routines j) ∧
          (∀ i, i < len → tabGet (f c).ucode (start + i) = some (word i)) ∧
          (∀ j, j < start ∨ start + len ≤ j → tabGet (f c).ucode j = tabGet c.ucode j) ∧
          (f c).tiles = c.tiles ∧ (f c).queue = c.queue ∧ (f c).rept = c.rept ∧ (f c).running = c.running) ∧
    (∀ i, i < len → uwValid (word i) len = false → (∀ j, j < i → uwValid (word j) len = true) →
      exec (.muld r a rpt) s = .next (s.trapAt {
        cause := .reservedEncoding, slot := 5, info := some { t0 := BitVec.ofNat 64 i } }))

/-- R29, R185 to R188, R196, R197, R199, R202, R203, R355: completion of the operation at the head of a core's queue: MZERO
clears its tile in its mode, MOUT attaches its list, MST stores its rows, and an MCALL replaces its tile and nothing else,
or, where it faults, changes no memory and leaves one more deferred fault with its context unless that is Idle. An
operation waits where it meets a carry window, and where its fault finds no room. (That it completes, and
waits, whole is the model's choice, log 31; what a fault leaves of the issues after it log 33's; that it waits for room
for its fault log 37's; and the later issues of a repeat that is not MCALL's log 24's.)
R100, R188, R355, R441: a later issue of a repeated MCALL steps a0 and a1, makes the checks again with them, and enters
the queue with the registers of its time, beside those of the issues before it; the last issue ends the repeat; a check that
fails ends it with a deferred fault and detaches the list, or waits where no more fault can be held. A later issue of another
repeated operation enters the queue as the first did, and a later issue of an interlocked one performs again on the tile as
it then stands; none comes while the die's clocks stand (R427). -/
def Obligations.MatrixHappenings : Prop :=
 (∀ (s : State) (d c : Nat) (h : MxEntry) (rest : List MxEntry), (s.core d c).queue = h :: rest → (s.die d).th.stopped = false →
    let done := fun (t : State) => exec (.matrixOpComplete d c) s = .next t
    let base := s.modCore d c fun k => { k with queue := rest }
    let tile := fun z => (s.core d c).tiles[z]?.getD Tile.zero
    (∀ z md, h.op = .mzero z md → done (base.setTile d c z { Tile.zero with mode := md })) ∧
    (∀ z l, h.op = .mout z l → done (base.setTile d c z { tile z with outl := some l })) ∧
    (∀ z, h.op = .detach z → done (base.setTile d c z { tile z with outl := none })) ∧
    (∀ z form v, h.op = .mst z form v → (∃ k ∈ s.mstKeys d c form v, s.windowMeets d k (mstBytes form) = true) → done s) ∧
    (∀ z form v, h.op = .mst z form v → (∀ k ∈ s.mstKeys d c form v, s.windowMeets d k (mstBytes form) = false) →
      ∃ t, done t ∧ t.cx = s.cx ∧ t.ctxs = s.ctxs ∧ t.dies = base.dies ∧
      (∀ a, (∀ k ∈ s.mstKeys d c form v, a < k ∨ k + mstBytes form ≤ a) → t.byte a = s.byte a) ∧
      ((s.mstKeys d c form v).length = 32 → ∀ (i : Fin 32) (k : Nat), (s.mstKeys d c form v)[i.val]? = some k →
        (∀ (j : Nat) (k2 : Nat), i.val < j → (s.mstKeys d c form v)[j]? = some k2 →
          k2 + mstBytes form ≤ k ∨ k + mstBytes form ≤ k2) →
        t.bytes k (mstBytes form) = (tile z).mstRow form i)) ∧
    (∀ z r args before last, h.op = .mcall z r args before last →
      let x := mcallRun (s.mxEnvOf d c args) (tile z) r args before last
      (x.2 = none → done (base.setTile d c z x.1).tickFree) ∧
      (∀ f, x.2 = some f → f.2 = .held ∨ s.canFault ⟨d, c, h.ctx⟩ = false → done s) ∧
      (∀ f, x.2 = some f → f.2 ≠ .held → s.canFault ⟨d, c, h.ctx⟩ = true → (s.ctx ⟨d, c, h.ctx⟩).st ≠ .idle →
        ∃ t df, done t ∧ t.mem = s.mem ∧
          (t.ctx ⟨d, c, h.ctx⟩).held = (s.ctx ⟨d, c, h.ctx⟩).held ++ [df] ∧ df.tpc = h.tpc ∧ df.node = h.node))) ∧
 (∀ (s : State) (d c : Nat) (r : MxRepeat), (s.core d c).rept = some r → (s.core d c).queue.length < 16 →
    ((s.die d).th.stopped = true → exec (.mcallRepeatIssue d c) s = .next s) ∧
    ((s.die d).th.stopped = false →
    let goes := fun (t : State) => exec (.mcallRepeatIssue d c) s = .next t
    let queued := fun (g : MxAgain) (op : MxOp) (t : State) => t.modCore d c fun k => { k with
      rept := if r.left = 1 then none else some { r with again := g, left := r.left - 1 }
      queue := k.queue ++ [{ ctx := r.ctx, tpc := r.tpc, op := op, node := r.node }] }
    (∀ op, r.again = .op op → (∀ z form v, op ≠ .mst z form v) → goes (queued r.again op s)) ∧
    (∀ z form v, r.again = .op (.mst z form v) →
      goes ((queued r.again (.mst z form v) s).setEmpty
        ((s.mstKeys d c form v).flatMap fun k => granulesOf k (mstBytes form)))) ∧
    (∀ z rn sreg mh before, r.again = .mcall z rn sreg mh before → z < 8 →
      let g : CtxId := ⟨d, c, r.ctx⟩
      let x := s.ctx g
      ∃ (a : Vector AReg 8) (s1 : State), s1 = s.setCtx g { x with a := a } ∧
        (∀ i : Fin 8, a.get i = if i.val < 2 then { x.a.get i with base := (x.a.get i).base + (x.a.get i).stride } else x.a.get i) ∧
        let args : MxArgs := { sreg := sreg, m := x.m, a := a, mh := mh }
        let e : MxEnv := { s := s1, die := d, core := c, mh := mh, m := x.m, mask := sreg.setWidth 32 }
        let fails := e.check ⟨z % 8, by omega⟩ rn (a.get 0).base.toNat (a.get 1).base.toNat
        (fails = none →
          goes (queued (.mcall z rn sreg mh (before ++ [args])) (.mcall z rn args before (r.left = 1)) s1)) ∧
        (fails.isSome = true → s.canFault g = false → goes s) ∧
        (∀ f, fails = some f → s.canFault g = true →
          goes ((s1.modCore d c fun k => { k with
            rept := none, queue := k.queue ++ [{ ctx := r.ctx, tpc := r.tpc, op := .detach z, node := r.node }] }).raiseFault g
            { cause := f.1, tpc := r.tpc, xfer := none, node := r.node
              info := { t0 := BitVec.ofNat 64 z, t1 := BitVec.ofNat 64 before.length, t2 := BitVec.ofNat 64 f.2 } }))) ∧
    (let g : CtxId := ⟨d, c, r.ctx⟩
     let less := fun (t : State) => goes (t.modCore d c fun k => { k with
       rept := if r.left = 1 then none else some { r with left := r.left - 1 } })
     (∀ (v : Fin 48) (z : Fin 8) (q : Fin 18), r.again = .lock (.mrd v.val z.val q.val) →
       less (s.modCtx g fun x => { x with v := x.v.set v (((s.core d c).tiles.get z).read q.val) })) ∧
     (∀ (z : Fin 8) (q : Fin 16) (v : Vec), r.again = .lock (.mwr z.val q.val v) →
       less (s.setTile d c z.val (((s.core d c).tiles.get z).write q v))) ∧
     (∀ z, r.again = .lock (.mchk z) → less s) ∧
     (∀ z : Fin 8, r.again = .lock (.mcsr z.val) →
       less (s.setTile d c z.val ((List.finRange 32).foldl Tile.resetPair ((s.core d c).tiles.get z)))) ∧
     (∀ n v, r.again = .lock (.muld n v) → (s.focus g).muldBad v = none →
       less (((s.focus g).muld n v).focus s.cur)) ∧
     (∀ n v x, r.again = .lock (.muld n v) → (s.focus g).muldBad v = some x → s.canFault g = true →
       goes ((s.modCore d c fun k => { k with rept := none }).raiseFault g
         { cause := x.cause, tpc := r.tpc, info := x.tinfo, xfer := none, node := r.node })))))

/-! ### Loads, stores and granule instructions -/

/-- R78, R113, R207 to R209, R327: a load of form M from an aligned address that its port maps, outside carry windows,
reads the bytes at that address: a scalar load zero-extended, LDP all 32 bytes, a V form the bytes its predicate governs;
.c empties the touched granules, .w acquires, and nothing else changes; of those that wait for one granule under .w.c, the
one that began first goes first (the model's reading of R79, log 62). -/
def Obligations.LoadResults : Prop :=
  ∀ (s : State) (d : Fin 48) (pd : Fin 16) (base : Src) (off : MOff) (p : Fin 8) (w c : Bool), s.issues →
    s.cx.holds [base] → s.noWindows →
    let addr := fun (n : Nat) => (s.cx.sval base + off.bytes n).toNat
    let all := fun (_ : Nat) => true
    let key := fun (k n : Nat) (on : Nat → Bool) (i : Nat) => if i < n && on i then some (k + i) else none
    let ready := fun (pt : LsPort) (n al k : Nat) (on : Nat → Bool) =>
      addr n % al = 0 ∧ s.portKey pt (addr n) n = some k ∧ s.lsOk pt base false [(addr n, n)] ∧
        (∀ i, i < n → on i = true → s.badRead (k + i) 1 = false) ∧
        (w = true → ∀ i, i < n → on i = true → s.full ((k + i) / 16) = true) ∧
        (w = true → c = true → s.behind (touchedGranules n (key k n on)) = false)
    let marked := fun (k n : Nat) (on : Nat → Bool) (t : State) =>
      if c then t.setEmpty (touchedGranules n (key k n on)) else t
    (∀ x ∈ [(Instr.ldb d base off w c, LsPort.ls, 1), (.ldh d base off w c, .ls, 2), (.ldw d base off w c, .ls, 4),
        (.ldd d base off w c, .ls, 8), (.wldw d base off w c, .wy, 4), (.wldd d base off w c, .wy, 8)],
      ∀ k, ready x.2.1 x.2.2 x.2.2 k all →
        exec x.1 s = .next ((s.under w).bundle fun t =>
          marked k x.2.2 all { t with cx := t.cx.outS x.2.1.latch (some d) (BitVec.ofNat 64 (s.rd k x.2.2)) })) ∧
    (∀ k, ready .ls 32 16 k all → exec (.ldp pd base off w c) s = .next ((s.under w).bundle fun t =>
      marked k 32 all { t with cx := t.cx.outP 4 (some pd) (BitVec.ofNat 256 (s.rd k 32)) })) ∧
    (d.val < s.cx.cap → ∀ x ∈ [(Instr.ldv d base off p w c, LsPort.ls), (.wldv d base off p w c, .wy)],
      let on := fun (i : Nat) => (s.cx.pval (lowPred p)).getLsbD i
      ∀ k, ready x.2 256 16 k on →
        s.loads x.2 d w c none (key k 256 on) (fun i => vbyte (s.cx.v.get d) i) (exec x.1 s))

/-- R73, R78, R104, R113, R208, R209, R253, R327: a store of form M to an aligned address that its port maps, outside
carry windows, replayable nodes and filling frames, .f while no write of the context is parked, writes the low bytes of its
value there, .f setting the touched granules full, and changes no other byte and no register but the program counter. What a store through WY makes of
a WRITING block of the Trellis (Way.stored) is the model's choice (log 32). -/
def Obligations.StoreResults : Prop :=
  ∀ (s : State) (v base : Src) (off : MOff) (p : Fin 8) (q : Fin 16) (f : Bool), s.issues → s.noWindows → s.noNode →
    (f = true → s.myParked = false) →
    let addr := fun (n : Nat) => (s.cx.sval base + off.bytes n).toNat
    let ready := fun (pt : LsPort) (n al k : Nat) (on : Nat → Bool) =>
      addr n % al = 0 ∧ s.portKey pt (addr n) n = some k ∧ s.lsOk pt base false [(addr n, n)] ∧
        (pt = .wy → ∀ i, i < n → on i = true → s.fillingAt s.cur.die (k + i) 1 = false)
    let all := fun (_ : Nat) => true
    let key := fun (k n : Nat) (on : Nat → Bool) (i : Nat) => if i < n && on i then some (k + i) else none
    let data := fun (x i : Nat) => BitVec.ofNat 8 (x / 2 ^ (8 * i))
    (s.cx.holds [v, base] → ∀ x ∈ [(Instr.stb v base off f, LsPort.ls, 1), (.sth v base off f, .ls, 2),
        (.stw v base off f, .ls, 4), (.std v base off f, .ls, 8), (.wstw v base off f, .wy, 4),
        (.wstd v base off f, .wy, 8)],
      ∀ k, ready x.2.1 x.2.2 x.2.2 k all →
        s.stores x.2.1 f none x.2.2 (key k x.2.2 all) (data (s.cx.sval v).toNat) (exec x.1 s)) ∧
    (s.cx.holds [base] → ∀ k, ready .ls 32 16 k all →
      s.stores .ls f none 32 (key k 32 all) (data (s.cx.pval q).toNat) (exec (.stp q base off f) s)) ∧
    (s.cx.holds [v, base] → s.cx.within (vregsOf [v]) →
      ∀ x ∈ [(Instr.stv v base off p f, LsPort.ls), (.wstv v base off p f, .wy)],
      let on := fun (i : Nat) => (s.cx.pval (lowPred p)).getLsbD i
      ∀ k, ready x.2 256 16 k on →
        s.stores x.2 f none 256 (key k 256 on) (data (s.cx.vvalInt 8 v).toNat) (exec x.1 s))

/-- R152, R213, R214: a tile access reads its shape register after its own swap; byte t belongs to row t div RB, at the
row's address plus t mod RB; rows at or beyond ROWLIM are not touched, and a load writes zero to their governed bytes;
where rows of a store meet, the later row's bytes remain. What a store through WY makes of a WRITING block of the Trellis
(Way.stored) is the model's choice (log 32), as is the order of those that wait under .w.c (log 62). -/
def Obligations.TileAccessResults : Prop :=
  ∀ (s : State) (pt : LsPort) (d : Fin 48) (v base : Src) (h : Fin 4) (p : Fin 16) (w c f sw : Bool) (k : Nat → Nat),
    s.issues → s.noWindows →
    let x := s.cx.shape (pt.shapeIdx h) sw
    let rb := 16 * 2 ^ fieldAt x 0 3
    let lim := if fieldAt x 32 5 = 0 then 256 / rb else fieldAt x 32 5
    let row := fun (r : Nat) => ((s.cx.sval base).toNat : Int) + r * sfieldAt x 8 24
    let on := fun (i : Nat) => (s.cx.pval p).getLsbD i
    let key := fun (i : Nat) => if i < 256 && on i && i / rb < lim then some (k (i / rb) + i % rb) else none
    let swap := if sw then some (pt.shapeIdx h) else none
    fieldAt x 0 3 ≤ 4 → fieldAt x 32 5 ≤ 256 / rb →
    (x.getLsbD 60 = true → let e := s.tid s.cur.die (fieldAt x 48 12)
      tidValid e = true ∧ tidLay e = fieldAt x 64 8 ∧ tidVer e % 65536 = fieldAt x 80 16) →
    (∀ r, r < lim → row r % 16 = 0 ∧ 0 ≤ row r ∧ s.portKey pt (row r).toNat rb = some (k r)) →
    s.lsOk pt base false ((List.range lim).map fun r => ((row r).toNat, rb)) →
    (s.cx.holds [base] → d.val < s.cx.cap → (∀ i a, key i = some a → s.badRead a 1 = false) →
      (w = true → ∀ i a, key i = some a → s.full (a / 16) = true) →
      (w = true → c = true → s.behind (touchedGranules 256 key) = false) →
      s.loads pt d w c swap key (fun i => if on i then 0 else vbyte (s.cx.v.get d) i)
        (exec (match pt with | .ls => .ldt d base h p w c sw | .wy => .wldt d base h p w c sw) s)) ∧
    (s.cx.holds [v, base] → s.cx.within (vregsOf [v]) → s.noNode → (f = true → s.myParked = false) →
      (pt = .wy → ∀ i a, key i = some a → s.fillingAt s.cur.die a 1 = false) →
      s.stores pt f swap 256 key (fun i => vbyte (s.cx.vvalInt 8 v) i)
        (exec (match pt with | .ls => .stt v base h p f sw | .wy => .wstt v base h p f sw) s))

/-- R156, R215: a gather or scatter moves the governed lanes at BASE plus the sign-extended lane offsets; lanes not
governed are kept, and of lanes stored at one address the highest remains. What a store through WY makes of a WRITING block of the
Trellis (Way.stored) is the model's choice (log 32), as is the order of those that wait under .w.c (log 62). -/
def Obligations.GatherScatterResults : Prop :=
  ∀ (s : State) (pt : LsPort) (d idx : Fin 48) (v base : Src) (p : Fin 16) (w c f : Bool) (k : Nat → Nat),
    s.issues → s.noWindows → idx.val < s.cx.cap →
    let on := fun (i : Nat) => (s.cx.pval p).getLsbD (4 * i)
    let ea := fun (i : Nat) => (s.cx.sval base + (BitVec.ofNat 32 (laneAt (s.cx.v.get idx) 32 i)).signExtend 64).toNat
    let key := fun (i : Nat) => if i < 256 && on (i / 4) then some (k (i / 4) + i % 4) else none
    let moves := (∀ i, i < 64 → on i = true → ea i % 4 = 0 ∧ s.portKey pt (ea i) 4 = some (k i)) ∧
      s.lsOk pt base false (((List.range 64).filter on).map fun i => (ea i, 4))
    let load := match pt with | .ls => Instr.ldg d base idx p w c | .wy => .wldg d base idx p w c
    let store := match pt with | .ls => Instr.stg v base idx p f | .wy => .wstg v base idx p f
    (moves → s.cx.holds [base] → d.val < s.cx.cap → (∀ i a, key i = some a → s.badRead a 1 = false) →
      (w = true → ∀ i a, key i = some a → s.full (a / 16) = true) →
      (w = true → c = true → s.behind (touchedGranules 256 key) = false) →
      s.loads pt d w c none key (fun i => vbyte (s.cx.v.get d) i) (exec load s)) ∧
    (moves → s.cx.holds [v, base] → s.cx.within (vregsOf [v]) → s.noNode → (f = true → s.myParked = false) →
      (pt = .wy → ∀ i a, key i = some a → s.fillingAt s.cur.die a 1 = false) →
      s.stores pt f none 256 key (fun i => vbyte (s.cx.vvalInt 32 v) i) (exec store s)) ∧
    (∀ i, i < 64 → on i = true → (∀ j, j < i → on j = true → ea j % 4 = 0 ∧ (s.portKey pt (ea j) 4).isSome) →
      s.computes → s.cx.holds [v, base] → s.cx.within (vregsOf [v]) → d.val < s.cx.cap → ∀ x ∈ [load, store],
      (ea i % 4 ≠ 0 → exec x s = .next (s.trapAt {
        cause := .align, slot := pt.slot.num, info := some { t0 := BitVec.ofNat 64 i } })) ∧
      (ea i % 4 = 0 → s.portKey pt (ea i) 4 = none → exec x s = .next (s.trapAt {
        cause := .access, slot := pt.slot.num, info := some { t0 := BitVec.ofNat 64 i } })))

/-- R77, R78, R212: FESET and WFESET set the granule at their address full, FECLR and WFECLR empty, no byte of memory
changing; FETST gives whether it is full, also inside a carry window.
R24, R29, R78, R113, R207, R208, R278, R327, R370: where a scalar LS or WY access does not complete: a misaligned address traps
ALIGN, whatever else it breaks; an aligned one that its port does not map traps ACCESS; a load .w of an empty granule
waits, under .c with a place in the order of those that wait for it (log 62: the model's reading of R79); a plain load of an empty destination granule of a carry window traps CARRY_EARLY, and a load of an uncorrectable
word ECC_UNCORRECTABLE; a store .f waits, keeping the width, for the context's parked writes; any access in an exchange
superstep traps PHASE_ILLEGAL. That CARRY_EARLY comes before the checks of filling frames and of nodes is the model's choice
(log 36), as is that a store .f which waits keeps the width (log 57); which writes are parked rests on log 41. -/
def Obligations.GranulesAndAccessTraps : Prop :=
 (∀ (s : State) (d : Fin 48) (base : Src) (off : MOff) (k : Nat), s.issues → s.computes → s.cx.holds [base] →
    let a := (s.cx.sval base + off.bytes 16).toNat
    let at16 := fun (pt : LsPort) =>
      a % 16 = 0 ∧ s.portKey pt a 16 = some k ∧ k % 16 = 0 ∧ s.lsOk pt base true [(a, 16)]
    let changing := fun (pt : LsPort) => at16 pt ∧ s.noWindows ∧ s.noNode ∧
      (pt = .wy → ∀ i, i < 16 → s.fillingAt s.cur.die (k + i) 1 = false)
    (changing .ls → exec (.feset base off) s = .next (s.bundle fun t => t.setFull [k / 16]) ∧
      exec (.feclr base off) s = .next (s.bundle fun t => t.setEmpty [k / 16])) ∧
    (changing .wy → exec (.wfeset base off) s = .next (s.bundle fun t => t.setFull [k / 16]) ∧
      exec (.wfeclr base off) s = .next (s.bundle fun t => t.setEmpty [k / 16])) ∧
    (at16 .ls → exec (.fetst d base off) s =
      .next (s.bundleCtx fun c => c.outS 4 (some d) (if s.full (k / 16) then 1 else 0)))) ∧
 (∀ (s : State) (d : Fin 48) (v base : Src) (off : MOff) (w c f : Bool), s.issues → s.cx.holds [v, base] →
    s.cx.ballast = none →
    ∀ x ∈ [(Instr.ldb d base off w c, LsPort.ls, 1, true), (.ldh d base off w c, .ls, 2, true), (.ldw d base off w c, .ls, 4, true),
        (.ldd d base off w c, .ls, 8, true), (.wldw d base off w c, .wy, 4, true), (.wldd d base off w c, .wy, 8, true),
        (.stb v base off f, .ls, 1, false), (.sth v base off f, .ls, 2, false), (.stw v base off f, .ls, 4, false),
        (.std v base off f, .ls, 8, false), (.wstw v base off f, .wy, 4, false), (.wstd v base off f, .wy, 8, false)],
      let pt := x.2.1
      let n := x.2.2.1
      let load := x.2.2.2
      let a := (s.cx.sval base + off.bytes n).toNat
      let traps := fun (k : Cause) => exec x.1 s = .next (s.trapAt { cause := k, slot := pt.slot.num })
      (s.exchange = true → traps .phaseIllegal) ∧
      (s.exchange = false → a % n ≠ 0 → traps .align) ∧
      (s.exchange = false → a % n = 0 → s.portKey pt a n = none → traps .access) ∧
      (∀ k, s.exchange = false → a % n = 0 → s.portKey pt a n = some k → s.lsOk pt base false [(a, n)] →
        (load = true → w = true → c = false → s.full (k / 16) = false →
          exec x.1 s = .next { s.tick with cx := { s.tick.cx with st := .stalled } }) ∧
        (load = true → w = true → c = true → s.noWindows → s.full (k / 16) = false ∨ s.behind [k / 16] = true →
          exec x.1 s = .next { s.tick with cx := { s.tick.cx with
            st := .stalled, fills := some ((s.cx.fills.map (·.1)).getD s.nowCyc, [k / 16]) } }) ∧
        (load = true → w = false → c = false → s.inWindow s.cur.die true (k / 16) = true →
          s.full (k / 16) = false → traps .carryEarly) ∧
        (load = false → s.inWindow s.cur.die true (k / 16) = true → traps .carryEarly) ∧
        (load = false → f = true → s.noWindows → s.noNode → (pt = .wy → ∀ i, i < n → s.fillingAt s.cur.die (k + i) 1 = false) →
          s.myParked = true → exec x.1 s = .next s.tick) ∧
        (load = true → w = false → s.noWindows → s.badRead k n = true → traps .eccUncorrectable)))

/-! ### The Trellis -/

/-- R71, R74, R114, R216, R217, R442: PROBE and FILL of a block complete in every case: a valid block gives its frame's
address and becomes the most recently used of its set; a filling one gives a JOINED ticket and changes nothing; a FAILED one,
and an absent one with a way to take, with queue entries free, starts a fill into its way, behind the write-back of a dirty
block (a FAILED way whose write-back is queued already queues no second one: the model's choice, log 32), and gives a ticket; with no way, NOWAY; PROBE branches unless it hits, and waits for queue entries, where FILL gives
NOWAY. -/
def Obligations.TrellisProbeFill : Prop :=
  ∀ (s : State) (r : Fin 48) (a : Src) (off : POff), s.issues → s.computes → s.cx.holds [a] →
    (s.cx.sval a).toNat < 2 ^ 57 → s.myDie.tr.p ≠ 0 → s.myDie.tr.mask ≠ 0 →
    let d := s.cur.die
    let b := (s.cx.sval a).toNat / 2048
    let home := s.myDie.tr.home b
    let set := s.myDie.tr.setOf b
    let word := fun (f : State → State) (x : Dword) (t : State) =>
      let u := f t
      { u with cx := u.cx.outS 6 (some r) x }
    let probes := fun (f : State → State) (x : Dword) =>
      exec (.probe r a off) s = .next (s.bundleTo (word f x) (off.target s.cx.pc))
    let fills := fun (f : State → State) (x : Dword) => exec (.fill r a) s = .next (s.bundle (word f x))
    let noway := ticket 0 0 false true
    let room := 64 - s.myDie.tr.jobs.length
    let starts := fun (w : Nat) =>
      let y := s.way d w
      let seq := tabGetD s.myDie.tr.counters (w / 2048) 0 + 1
      let x := ticket (s.frameAddr d w) seq.toNat false false
      let old := if y.st = .failed then y.pending else if y.st = .dirty then some y.block else none
      let job := fun (wb : Bool) (n : Nat) => ({
        way := w, wb := wb, block := n, ctx := s.cur.inDie, tpc := s.cx.pc, landed := 0, parked := false
        node := s.cx.inNode } : FillJob)
      let u := s.startFill d w b s.cx.pc
      probes (fun t => t.startFill d w b s.cx.pc) x ∧ fills (fun t => t.startFill d w b s.cx.pc) x ∧
        u.way d w = {
          st := .filling, pin := y.st = .failed && y.pin, seq := seq, block := b, evict := false, again := false
          pending := old } ∧
        u.myDie.tr.jobs = s.myDie.tr.jobs ++
          (match old with | none => [] | some o => if s.wbQueued d w then [] else [job true o]) ++ [job false b] ∧
        (∀ g, u.full g = (s.full g && !(s.frameGranules d w).contains g)) ∧ u.mem = s.mem
    (∀ w, s.findWay d b = some w →
      ((s.way d w).st = .clean ∨ (s.way d w).st = .dirty ∨ (s.way d w).st = .writing →
        exec (.probe r a off) s =
          .next (s.bundle (word (fun t => t.touchWay d w) (BitVec.ofNat 64 (s.frameAddr d w)))) ∧
        fills (fun t => t.touchWay d w) (BitVec.ofNat 64 (s.frameAddr d w))) ∧
      ((s.way d w).st = .filling →
        let x := ticket (s.frameAddr d w) (s.way d w).seq.toNat true false
        probes (fun t => t) x ∧ fills (fun t => t) x) ∧
      ((s.way d w).st = .failed → s.fillNeeds d b ≤ room → starts w)) ∧
    (s.findWay d b = none → s.vaultAlive d home = true → ∀ w, s.victim d set = some w → s.fillNeeds d b ≤ room →
      starts w) ∧
    (s.findWay d b = none → s.vaultAlive d home = false ∨ s.victim d set = none →
      probes (fun t => t) noway ∧ fills (fun t => t) noway) ∧
    (s.fillNeeds d b > room →
      exec (.probe r a off) s = .next { s.tick with cx := { s.tick.cx with st := .stalled } } ∧
      fills (fun t => t) noway)

/-- R218, R442: EVICT, WBACK, PIN, UNPIN, TGINV and TGSTAT by the state of the block's way: what they start or change,
where they wait, and that an absent block leaves each without effect. That TGINV sets every granule of the frame of a CLEAN
or DIRTY block full too is the model's reading of R218's row beside R77 (log 32).
R73, R219, R370, R442: a granule of a running fill lands at its place of the frame and becomes full; a fill whose 128
granules have landed leaves the way CLEAN, one with a granule that cannot be read leaves it FAILED and its fault with
the context that started it; a write-back that may be written puts the frame's bytes at the block's device address, or, where
they fall under a swap of DVA pages, parks them, waiting for room; performed, it leaves the way CLEAN, INVALID after EVICT, or
DIRTY where the block was stored to meanwhile (the model's choice, log 32). Which write of another path a granule's read
finds is a free value (log 5); what parks rests on log 41. -/
def Obligations.TrellisManagement : Prop :=
 (∀ (s : State) (r : Fin 48) (a : Src), s.issues → s.computes → s.cx.holds [a] →
    (s.cx.sval a).toNat < 2 ^ 57 → s.myDie.tr.p ≠ 0 → s.myDie.tr.mask ≠ 0 →
    let d := s.cur.die
    let b := (s.cx.sval a).toNat / 2048
    let same := fun (i : Instr) => exec i s = .next (s.bundle fun t => t)
    let waits := fun (i : Instr) => exec i s = .next { s.tick with cx := { s.tick.cx with st := .stalled } }
    let gives := fun (i : Instr) (f : State → State) (x : Dword) => exec i s = .next (s.bundle fun t =>
      { f t with cx := (f t).cx.outS 6 (some r) x })
    let room := s.myDie.tr.jobs.length < 64
    let job := fun (w n : Nat) (t : State) => t.modTr d fun x => { x with jobs := x.jobs ++ [{
      way := w, wb := true, block := n, ctx := s.cur.inDie, tpc := s.cx.pc, landed := 0, parked := false, node := s.cx.inNode }] }
    (s.findWay d b = none →
      same (.evict a) ∧ same (.wback a) ∧ same (.unpin a) ∧ same (.tginv a) ∧
        gives (.pin r a) (fun t => t) 0 ∧ gives (.tgstat r a) (fun t => t) 0) ∧
    (∀ w, s.findWay d b = some w →
      let y := s.way d w
      let pins := ((numsFrom (8 * (w / 8)) 8).filter fun x => (s.way d x).pin).length
      (y.st = .filling ∨ y.st = .writing → waits (.evict a) ∧ waits (.wback a) ∧ waits (.unpin a)) ∧
      (y.st = .writing ∨ y.st = .filling ∧ y.pending.isSome = true → waits (.tginv a)) ∧
      (y.st = .failed → y.pending.isSome = true → s.wbQueued d w = true →
        waits (.evict a) ∧ waits (.tginv a)) ∧
      (y.st = .clean → exec (.evict a) s = .next (s.bundle fun t => t.dropWay d w false) ∧ same (.wback a)) ∧
      (y.st = .dirty → y.pending = none → room →
        exec (.evict a) s = .next (s.bundle fun t =>
          job w y.block (t.setWay d w { y with st := .writing, evict := true, pin := false })) ∧
        exec (.wback a) s = .next (s.bundle fun t =>
          job w y.block (t.setWay d w { y with st := .writing, evict := false }))) ∧
      (y.st = .failed → y.pending = none →
        exec (.evict a) s = .next (s.bundle fun t => t.dropWay d w true)) ∧
      (y.st = .failed → same (.wback a)) ∧
      (∀ o, y.st = .failed → y.pending = some o → s.wbQueued d w = false →
        (room → ∀ i ∈ [Instr.evict a, .tginv a], exec i s = .next (s.bundle fun t =>
          job w o (t.setWay d w { y with pin := false, evict := true })))) ∧
      (y.st = .clean ∨ y.st = .dirty ∨ y.st = .filling ∧ y.pending = none ∨ y.st = .failed ∧ y.pending = none →
        exec (.tginv a) s = .next (s.bundle fun t =>
          (t.modTr d fun x => { x with jobs := x.jobs.filter fun j => !(j.way = w && !j.wb) }).dropWay d w true)) ∧
      (y.st = .clean ∨ y.st = .dirty ∨ y.st = .failed →
        exec (.unpin a) s = .next (s.bundle fun t => t.setWay d w { y with pin := false })) ∧
      (y.st = .failed → gives (.pin r a) (fun t => t) 0) ∧
      (y.st ≠ .failed → y.pin = false → 7 ≤ pins → gives (.pin r a) (fun t => t) 2) ∧
      (y.st ≠ .failed → y.pin = true ∨ pins < 7 →
        gives (.pin r a) (fun t => (t.setWay d w { y with pin := true }).touchWay d w) 1) ∧
      gives (.tgstat r a) (fun t => t) (BitVec.ofNat 64 (
        (match y.st with | .invalid => 0 | .filling => 1 | .clean => 2 | .dirty => 3 | .writing => 4 | .failed => 5) +
        (if y.pin then 8 else 0) + 16 * (w % 8) + 65536 * y.seq.toNat + 4294967296 * s.frameAddr d w)))) ∧
 (∀ (s : State) (d w : Nat),
    (∀ j g bs, s.fillJob d w = some j → g < 128 → j.landed / 2 ^ g % 2 = 0 →
      s.blockHeld d w (j.block * 2048 + 16 * g) 16 .read = false →
      s.dvaGet d (j.block * 2048 + 16 * g) 16 = .ok bs →
      let k := s.frameKey d w + 16 * g
      exec (.trellisFillGranule d w g) s =
        .next ((((s.looked.dvaScrub d (j.block * 2048 + 16 * g) 16 (g % 4 = 0)).putBy 2 d k
          (s.dvaSeen 2 d (j.block * 2048 + 16 * g) bs)).setFull [k / 16]).modTr d fun t => { t with
          jobs := t.jobs.map fun x => if x.way = w && !x.wb then { x with landed := x.landed + 2 ^ g } else x })) ∧
    (∀ j, s.fillJob d w = some j → j.landed = 2 ^ 128 - 1 →
      exec (.trellisFillEnd d w) s =
        .next ((s.setWay d w { s.way d w with st := .clean }).endJob d w false)) ∧
    (∀ j c, s.fillJob d w = some j → j.landed ≠ 2 ^ 128 - 1 → s.fillCause d j = some c → s.jobCanFault d j = true →
      exec (.trellisFillEnd d w) s =
        .next (((s.setWay d w { s.way d w with st := .failed }).endJob d w false).raiseFault (ctxIn d j.ctx) {
          cause := c, tpc := j.tpc, info := { t0 := BitVec.ofNat 64 (j.block * 2048) }, xfer := none, node := j.node })) ∧
    (∀ j x, ((s.die d).tr.jobs.find? fun j => j.way = w && j.wb) = some j → j.parked = false →
      s.blockHeld d w (j.block * 2048) 2048 .write = false → s.badRead (s.frameKey d w) 2048 = false →
      s.dvaCanPut d (j.block * 2048) 2048 = .ok x →
      let need := s.parkNeed d (j.block * 2048) 2048
      let t := s.dvaPut d (j.block * 2048) (s.bytes (s.frameKey d w) 2048) (.writeBack w)
      let ends := fun (u : State) => exec (.trellisWritebackEnd d w) s = .next u
      (need = 0 → ends (t.wbDone d w)) ∧
      (need ≠ 0 → s.parkRoom d need = false → ends s) ∧
      (need ≠ 0 → s.parkRoom d need = true → ends (t.modTr d fun x => { x with
        jobs := x.jobs.map fun k => if k.way = w && k.wb then { k with parked := true } else k }))) ∧
    (d < 8 → (s.way d w).pending = none → (s.way d w).st = .writing →
      ((s.way d w).again = true →
        (s.wbDone d w).way d w = { s.way d w with st := .dirty, evict := false, again := false }) ∧
      ((s.way d w).again = false → (s.way d w).evict = false →
        (s.wbDone d w).way d w = { s.way d w with st := .clean }) ∧
      ((s.way d w).again = false → (s.way d w).evict = true → (s.wbDone d w).way d w = Way.empty)))

/-! ### Copies, tensor entries, layouts -/

/-- R225, R228, R229, R230: an admitted CPY takes the lowest free handle and becomes a copy of its context with the
entries, the record and the shape register as they stand, in chunks of the least size that needs at most 512; its
destination granules are emptied, and windows opened under .carry. CWAIT goes on once every valid chunk of its mask has
landed or the copy has ended, and waits before; CTEST never waits; both give the status word and free the handle of an
ended copy; CCANCEL stops a copy. That DREM = 1 with the issuer's own die is legal in a compute superstep is the model's
reading (log 59), as is that NW stands on CPY, CWAIT and CTEST (log 17), and what the entry of another package's die holds is
a free value (log 12).
R223, R224, R290, R302: TIDW of a map that passes its checks writes the entry with VALID set and clears its shard
version, and traps TID_RANGE with the offset of a field that breaks them; TIDR gives eight bytes of an entry; TIDINV
clears one and its shard version; LAYSET writes a layout with the next version, or raises or reads a shard version. -/
def Obligations.CopyAndTensorInstructions : Prop :=
 (∀ (s : State) (d : Dst) (a b : Src) (h : Fin 4) (carry sw : Bool), s.issues → s.isBallast = false →
    s.cx.holds [a, b] → s.cx.within (vregsOf [b]) →
    let die := s.cur.die
    let hv := (s.cx.sval a).toNat
    let waits := fun (i : Instr) => exec i s = .next { s.tick with cx := { s.tick.cx with st := .stalled } }
    (let eh := s.cx.shape (ehIdx h) sw
      let x := s.cpyIn a h sw
      s.exchange = true ∨ (carry = false ∧ eh.getLsbD 189 = false ∧ eh.getLsbD 190 = false ∧
        (eh.getLsbD 188 = true → s.dieOfFabric (fieldAt eh 176 12) = some die)) →
      cpyCheck a h sw s = none →
      ((∀ n, n < 16 → n ∈ s.myHandles) → waits (.cpy d a h carry sw)) ∧
      (∀ n, n < 16 → n ∉ s.myHandles → (∀ m, m < n → m ∈ s.myHandles) →
        (carry = true → s.cpyEnds x = false → s.carryRoom (x.ddie.getD 0) (!x.dstHost) (!x.srcHost) = true) →
        let owner := if carry && !s.cpyEnds x then some (s.nextOwner die) else none
        let c := s.newCopy x n owner
        exec (.cpy d a h carry sw) s = .next (s.bundle fun t =>
          let t0 := if c.dstDie < 8 then t else t.tickFree
          let t1 := t0.modXf die fun y => { y with copies := y.copies ++ [c] }
          let t2 := match owner with
            | some k => (t1.copyWindows die c k).useOwner die
            | none => if c.ended || c.remote || c.dstHost then t1 else t1.setEmpty c.granules
          let cx := t2.cx.outS 7 d (BitVec.ofNat 64 n)
          { t2 with cx := if sw then cx.swapShape (ehIdx h) else cx }) ∧
        c.ctx = s.cur.inDie ∧ c.handle = n ∧ c.srcEnt = s.tid die (fieldAt eh 0 12) ∧ c.eh = eh ∧ c.landed = [] ∧
        c.ended = s.cpyEnds x ∧ c.len ≤ 512 * c.chunk ∧ (c.shift ≠ 0 → 512 * c.chunk / 2 < c.len))) ∧
    (hv < 16 →
      let gives := fun (i : Instr) (f : State → State) (x : Dword) => exec i s = .next (s.bundle fun t =>
        { f t with cx := (f t).cx.outS 7 d x })
      (s.myCopy hv = none → ∀ i ∈ [Instr.cwait d a b, .ctest d a b],
        gives i (fun t => t) 0x8000000000000000) ∧
      (s.myCopy hv = none → exec (.ccancel a) s = .next (s.bundle fun t => t)) ∧
      (∀ c, s.myCopy hv = some c →
        let sel := (List.range c.chunks).filter fun q => q < 512 && (s.cx.vvalInt 64 b).getLsbD q
        let word := BitVec.ofNat 64 ((sel.filter fun q => c.landed.contains q).length + 65536 * sel.length +
          4294967296 * c.chunks + 2 ^ 48 * c.shift + (if c.lost then 2 ^ 60 else 0) + (if c.skipped then 2 ^ 61 else 0) +
          (if c.cancelled then 2 ^ 62 else 0) + (if c.ended then 2 ^ 63 else 0))
        let frees := fun (t : State) => if c.ended then t.modXf die fun x => { x with
          copies := dropWhere x.copies fun y => y.ctx = s.cur.inDie && y.handle = hv } else t
        gives (.ctest d a b) frees word ∧
        (c.ended = true ∨ (∀ q ∈ sel, q ∈ c.landed) → gives (.cwait d a b) frees word) ∧
        (c.ended = false → (∃ q ∈ sel, q ∉ c.landed) → waits (.cwait d a b)) ∧
        (c.ended = false → exec (.ccancel a) s = .next (s.bundle fun t =>
          (t.modXf die fun x => { x with
            copies := x.copies.map fun y => if y.ctx = s.cur.inDie && y.handle = hv then
              { y with cancelled := true, fault := none, ended := y.parked.isEmpty } else y }).closeWindows
            (if c.parked.isEmpty then c.carry else none)))))) ∧
 (∀ (s : State) (d : Dst) (d2 : Fin 48) (a : Src) (b : EnB) (k : Fin 8), s.issues → s.isBallast = false →
    (∀ l ∈ latchesOf [a] ++ b.latches, (s.cx.b.get l).isSome = true) →
    let die := s.cur.die
    let n := (s.cx.sval a).toNat
    let v := s.cx.enval b
    (n < 4096 → exec (.tidr d a k) s =
      .next (s.bundleCtx fun c => c.outS 7 d (slice (s.tid die n) (64 * k.val) 64))) ∧
    (s.exchange = false → n < 4096 → exec (.tidinv a) s =
      .next (s.bundle fun t => t.modTables die fun x => { x with
      tids := tabErase x.tids n, shards := tabErase x.shards n })) ∧
    (s.exchange = false → n < 4096 → ∀ m, s.ownKey v.toNat 64 = some m → s.badRead m 64 = false →
      let e := BitVec.ofNat 512 (s.rd m 64)
      (mapFault e = none → exec (.tidw a b) s = .next (s.bundle fun t => t.modTables die fun x => { x with
        tids := tabSet x.tids n (e ||| (1 <<< 88)), shards := tabErase x.shards n })) ∧
      (∀ o, mapFault e = some o → exec (.tidw a b) s = .next (s.trapAt {
        cause := .tidRange, slot := 9, info := some { t0 := BitVec.ofNat 64 o } }))) ∧
    (4096 ≤ n → exec (.tidr d a k) s = .next (s.trapAt { cause := .access, slot := 9 })) ∧
    (s.exchange = false →
      (∀ m, n < 2 ^ 40 → s.ownKey (n % 2 ^ 32) 32 = some m → s.badRead m 32 = false →
        layBad (BitVec.ofNat 256 (s.rd m 32)) false = none →
        let i := n / 2 ^ 32
        ∃ r : BitVec 256, slice r 32 32 = slice (s.layout die i) 32 32 + 1 ∧
          (∀ j, j < 256 → j < 32 ∨ 64 ≤ j → r.getLsbD j = (BitVec.ofNat 256 (s.rd m 32)).getLsbD j) ∧
          exec (.layset d2 a 0) s = .next (s.bundle fun t =>
            let u := t.modTables die fun x => { x with layouts := tabSet x.layouts i r }
            { u with cx := u.cx.outS 7 (some d2) 0 })) ∧
      (n < 4096 → ∀ f : Fin 3, f ≠ 0 →
        let ver := if f = 1 then s.shardVer die n + 1 else s.shardVer die n
        exec (.layset d2 a f) s = .next (s.bundle fun t =>
          let u := if f = 1 then t.modTables die fun x => { x with shards := tabSet x.shards n ver } else t
          { u with cx := u.cx.outS 7 (some d2) (ver.setWidth 64) }))))

/-- R226 to R229, R231, R238, R370: a chunk of a copy that no window holds back lands with the bytes of its units, changing
no register and, between local memories, no byte outside its destination, or is parked where a byte falls under a swap of DVA
pages, waiting for room; the chunk that has landed joins the bitmap, its finished
granules fill, and the copy ends with its last chunk. To a lost die it counts as landed with LOST. That a chunk for which the park
buffer has no room waits whole is the model's choice (log 41), and which write of another path it reads is a free value
(log 5). A chunk that meets a
fault stops the copy and gives its context ENGINE_ASYNC; the same of a piece of an RPUT. -/
def Obligations.CopyHappenings : Prop :=
  ∀ (s : State) (die ctx n q : Nat), die < 8 →
    (∀ c, ((s.die die).xf.copies.find? fun c => c.ctx = ctx && c.handle = n) = some c →
      q < c.chunks → q ∉ c.landed → q ∉ c.parked → c.fault = none → c.ended = false → c.cancelled = false →
      let lands := fun (t : State) => exec (.copyChunkLand die ctx n q) s = .next t
      (c.remote = true → s.dieGone c.dstDie = true → lands (s.copyLanded die { c with lost := true } q)) ∧
      (c.remote = false ∨ s.dieGone c.dstDie = false →
        (∀ ws, s.chunkHeld die c q = false → s.chunkWrites die c q = .ok ws →
          let puts := c.puts s q ws
          let t := (s.engScrubAll ((c.unitsOf q).flatMap fun u => c.reads die (c.pos u))).engPutAll puts (.copy die ctx n q)
          (s.parkFits puts = false → lands s) ∧
          (s.parkFits puts = true → t.ownerParked (.copy die ctx n q) = false → lands (t.copyLanded die c q)) ∧
          (s.parkFits puts = true → t.ownerParked (.copy die ctx n q) = true →
            lands (t.setCopy die { c with parked := setIns c.parked q })) ∧
          t.cx = s.cx ∧ t.ctxs = s.ctxs ∧
          ((c.srcHost = true ∨ tidSpace c.srcEnt ≠ 0) → (c.dstHost = true ∨ tidSpace c.dstEnt ≠ 0) →
            ∀ k, (∀ u ∈ c.unitsOf q, ∀ p x, c.target u = some p → s.placeKey p = some x →
              k < x ∨ x + tidUnit c.dstEnt ≤ k) → t.byte k = s.byte k)) ∧
        (∀ f, s.chunkWrites die c q = .error f → s.roomFor (ctxIn die ctx) = true →
          exec (.engineTransferFault die ctx none n q) s =
            .next ((s.setCopy die { c with fault := some q }).raiseFault (ctxIn die ctx) {
              cause := .engineAsync, tpc := c.tpc, info := c.faultInfo f, xfer := some (.cpy n) }))) ∧
      (let u := s.copyLanded die c q
        let c2 := { c with
          landed := setIns c.landed q, parked := []
          ended := decide ((setIns c.landed q).length ≥ c.chunks) }
        c.parked = [] → u.mem = s.mem ∧ u.cx = s.cx ∧
          ((u.die die).xf.copies.find? fun y => y.ctx = ctx && y.handle = n) = some c2 ∧
          (∀ g, u.full g = (s.full g || (c.readyGranules s q).contains g)))) ∧
    (∀ r, ((s.die die).xf.rputs.find? fun r => r.ctx = ctx && r.place = n) = some r →
      q < r.pieces → q ∉ r.landed → r.fault = none → r.stopped = false → s.dieGone r.die = false →
      ∀ f, s.pieceFault r q = some f → s.roomFor (ctxIn die ctx) = true →
      exec (.engineTransferFault die ctx (some .rput) n q) s =
        .next ((s.setRput die { r with fault := some q }).raiseFault (ctxIn die ctx) {
          cause := .engineAsync, tpc := r.tpc, xfer := some (.rput n)
          info := {
            t0 := BitVec.ofNat 64 (16 + 256 * f.1 + 512 * f.2.reason), t1 := BitVec.ofNat 64 (512 * q)
            t3 := BitVec.ofNat 64 f.2.addr } }))

/-! ### Remote writes, halos, collectives -/

/-- R232 to R237: in an exchange superstep, RPUT of a record that names two places and RFLAG of a flag word that names one
join the transfers of their die in the lowest free of eight places, and wait where none is free; RFENCE goes on once
the context has no RPUT or RFLAG left that is not .carry, and holds its place before; HALO of an entry that passes its
checks takes the lowest of four handles, with the faces it does not exchange marked; HWAIT gives the status word of an
ended halo and frees its handle, and waits before. That an RFENCE which waits keeps the width (log 57) and that NW stands on
HALO and HWAIT (log 17) are the model's choices. -/
def Obligations.RemoteInstructions : Prop :=
  ∀ (s : State) (d : Dst) (a : Src) (b : EnB) (h : Fin 4) (carry ord sw : Bool), s.issues → s.isBallast = false →
    (∀ l ∈ latchesOf [a] ++ b.latches, (s.cx.b.get l).isSome = true) →
    let die := s.cur.die
    let v := (s.cx.sval a).toNat
    let waits := fun (i : Instr) => exec i s = .next { s.tick with cx := { s.tick.cx with st := .stalled } }
    let least := fun (n m : Nat) (used : List Nat) => n < m ∧ n ∉ used ∧ ∀ k, k < n → k ∈ used
    let owner := if carry then some (s.nextOwner die) else none
    (s.exchange = true →
      (∀ k src dst len dd paths, s.ownKey v 32 = some k → s.badRead k 32 = false →
        s.putArgs (BitVec.ofNat 256 (s.rd k 32)) = some (src, dst, len, dd, paths) →
        (8 ≤ s.myPuts.length → waits (.rput a carry)) ∧
        (∀ n, least n 8 s.myPuts → s.myPuts.length < 8 → (carry = true → s.carryRoom dd true true = true) →
          exec (.rput a carry) s = .next (s.bundle fun t =>
            let t1 := (t.modXf die fun x => { x with rputs := x.rputs ++ [{
              ctx := s.cur.inDie, place := n, tpc := s.cx.pc, src := src, dst := dst, len := len, die := dd
              paths := paths, landed := [], acked := [], fault := none, stopped := false, carry := owner
              phase := s.hy.phc.toNat, seq := s.myDie.xf.nextKey }] }).useOwner die
            match owner with | none => t1 | some k => t1.putWindows die k (some src) dst dd len))) ∧
      (∀ dst dd, s.flagPlace v = some (dst, dd) →
        (8 ≤ s.myFlags.length → waits (.rflag a b carry ord)) ∧
        (∀ n, least n 8 s.myFlags → s.myFlags.length < 8 → (carry = true → s.carryRoom dd true false = true) →
          exec (.rflag a b carry ord) s = .next (s.bundle fun t =>
            let t1 := (t.modXf die fun x => { x with rflags := x.rflags ++ [{
              ctx := s.cur.inDie, place := n, tpc := s.cx.pc, dst := dst, die := dd, value := s.cx.enval b
              ord := ord, landed := false, carry := owner, phase := s.hy.phc.toNat
              seq := s.myDie.xf.nextKey }] }).useOwner die
            match owner with | none => t1 | some k => t1.putWindows die k none dst dd 8))) ∧
      (let busy : Prop := (∃ r ∈ s.myDie.xf.rputs, r.ctx = s.cur.inDie ∧ r.carry = none) ∨
          (∃ r ∈ s.myDie.xf.rflags, r.ctx = s.cur.inDie ∧ r.carry = none);
        (¬ busy → exec .rfence s = .next (s.bundle fun t => t)) ∧ (busy → exec .rfence s = .next s.tick)) ∧
      (let eh := s.cx.shape (ehIdx h) sw
        let x := s.newHalo eh 0
        x.dx ≤ 8 → x.dy ≤ 8 → x.dz ≤ 8 → tidValid x.entry = true → tidRank x.entry = 4 → tidSpace x.entry ≤ 2 →
        3 * x.dx ≤ tidExt x.entry 1 → 3 * x.dy ≤ tidExt x.entry 2 → 3 * x.dz ≤ tidExt x.entry 3 →
        ((∀ n, n < 4 → n ∈ s.myHalos) → waits (.halo d h carry sw)) ∧
        (∀ n, least n 4 s.myHalos → (carry = true → s.haloRoom die x = true) →
          exec (.halo d h carry sw) s = .next (s.bundle fun t =>
            let t1 := t.haloAccept eh n carry
            let c := t1.cx.outS 7 d (BitVec.ofNat 64 n)
            { t1 with cx := if sw then c.swapShape (ehIdx h) else c }) ∧
          (die < 8 → ∃ y : Halo, (s.haloAccept eh n carry).haloOf die s.cur.inDie n = some y ∧ y.entry = x.entry ∧ y.bar = x.bar ∧
            y.acked = y.sent ∧ (∀ f, f < 6 →
              let far := s.faceDie die f
              (x.depth f = 0 ∨ s.faceIn far = false ∨ s.dieGone far = true ↔ y.sent.getLsbD f = true) ∧
              (y.edge.getLsbD f = true ↔ x.depth f ≠ 0 ∧ s.faceIn far = false)))))) ∧
    (v < 4 →
      (s.haloOf die s.cur.inDie v = none →
        exec (.hwait d a) s = .next (s.bundleCtx fun c => c.outS 7 d 0x8000000000000000)) ∧
      (∀ y, s.haloOf die s.cur.inDie v = some y →
        (y.ended = false → waits (.hwait d a)) ∧
        (y.ended = true → exec (.hwait d a) s = .next (s.bundle fun t =>
          let u := t.modXf die fun x => { x with
            halos := x.halos.filter fun z => !(z.ctx = s.cur.inDie && z.handle = v) }
          let w := BitVec.ofNat 64 (y.inn.toNat + 2 ^ 6 * y.edge.toNat + 2 ^ 12 * y.abort.toNat + 2 ^ 63)
          { u with cx := u.cx.outS 7 d w }))))

/-- R11, R28, R232, R233, R236, R237, R238, R370: a piece of an RPUT that nothing holds back or faults writes its bytes at its
destination and fills the granules it completes; an RFLAG, after the earlier RPUTs it is ordered behind, writes its eight
bytes and fills its granule; acknowledgements end a transfer with the last piece; to a lost die a piece counts as
acknowledged without landing. A face that may be read lands in the opposite margin of the die at the other end of its link
with one arrival at the barrier, or leaves the package, or is parked under a swap of DVA pages, and its acknowledgement is
recorded; a face whose packets have come from another package lands alike. A piece or face for which the park buffer has no
room waits whole (log 41), a face counts at the barrier that its sender's HALO names and marks the receiver's halo of its own
identifier (log 42), the faces of one exchange do not wait for its windows (log 58), a face of another package is known by the
fields of its packets (log 12), and which write of another path is read is a free value (log 5): these are the model's
choices. -/
def Obligations.RemoteHappenings : Prop :=
  ∀ (s : State) (die ctx n k : Nat), die < 8 →
    let lands := fun (kind : RemoteKind) (t : State) => exec (.remotePieceLand die ctx kind n k) s = .next t
    let acks := fun (kind : RemoteKind) (t : State) => exec (.remoteAck die ctx kind n k) s = .next t
    (∀ r, ((s.die die).xf.rputs.find? fun r => r.ctx = ctx && r.place = n) = some r →
      let n1 := Nat.min 512 (r.len - 512 * k)
      let src := r.src.plus (512 * k)
      let dst := r.dst.plus (512 * k)
      let done := fun (x : Rput) => if x.acked.length ≥ ceilDiv r.len 512 then s.endRput die x else s.setRput die x
      (k < ceilDiv r.len 512 → k ∉ r.landed → r.fault = none → r.stopped = false →
        (s.dieGone r.die = true → lands .rput
          (done { r with landed := setIns r.landed k, acked := setIns r.acked k })) ∧
        (s.dieGone r.die = false → s.engHeld (ownWindows r.carry) src n1 .read = false →
          s.engHeld (ownWindows r.carry) dst n1 .write = false → s.engParked src n1 ParkOwner.isRput = false →
          ∀ bs, s.engGet 3 src n1 = .ok bs → s.engCan dst n1 = .ok () →
          (s.parkFits [(dst, bs)] = false → lands .rput s) ∧
          (s.parkFits [(dst, bs)] = true →
            lands .rput ((((s.looked.engScrub src n1).engPut dst bs (.rput die ctx n k)).setFull (r.ready k)).setRput die
              { r with landed := setIns r.landed k })))) ∧
      (k ∈ r.landed → k ∉ r.acked → s.pieceParked die r k = false → r.stopped = false →
        acks .rput (done { r with acked := setIns r.acked k }))) ∧
    (∀ f, ((s.die die).xf.rflags.find? fun f => f.ctx = ctx && f.place = n) = some f →
      (f.landed = false → s.dieGone f.die = true → lands .rflag (s.endRflag die f)) ∧
      (f.landed = false → s.dieGone f.die = false → s.engHeld (ownWindows f.carry) f.dst 8 .write = false →
        ((f.ord = true → ∀ r ∈ (s.die die).xf.rputs, r.ctx = ctx → r.die = f.die → f.seq ≤ r.seq) →
          ∃ t, lands .rflag t ∧ t.cx = s.cx ∧ (∀ x, s.placeKey f.dst = some x →
            t.rd x 8 = f.value.toNat ∧ sameBytesBut x 8 s t ∧ ∀ g ∈ placeGranules f.dst 8, t.full g = true)) ∧
        (f.ord = true → (∃ r ∈ (s.die die).xf.rputs, r.ctx = ctx ∧ r.die = f.die ∧ r.seq < f.seq) → lands .rflag s)) ∧
      (f.landed = true → acks .rflag (s.endRflag die f))) ∧
    (∀ h, s.haloOf die ctx n = some h → k < 6 →
      let r := s.faceDie die k
      let e := s.tid r h.tid
      let u := tidUnit h.entry
      let own := s.haloWindows h.tid
      let src := h.srcPlaces die k
      let dst := h.dstPlaces r k e
      let sent := { h with sent := h.sent ||| (1 <<< k) }
      let face := fun (t : State) => exec (.haloFaceLand die ctx n k) s = .next t
      let scrubbed := s.engScrubAll (src.map fun p => (p, u))
      (h.depth k ≠ 0 → h.ready k = true → s.ownerParked (.face die ctx n k) = false →
        (r < 8 → faceFits h.entry e = false → face ((s.setHalo die sent).markMargin r h.tid (k ^^^ 1) true)) ∧
        ((∀ p ∈ src, s.engHeld own p u .read = false ∧ s.engParked p u ParkOwner.isFace = false) →
          ∀ bs, s.readAll 5 u src = .ok bs →
          (8 ≤ r → face ((scrubbed.sendFace die h k bs.flatten).setHalo die sent)) ∧
          (r < 8 → faceFits h.entry e = true → (∀ p ∈ dst, s.engHeld own p u .write = false) → s.canAll u dst = none →
            let puts := joinWrites (dst.zip bs)
            let t := scrubbed.engPutAll puts (.face die ctx n k)
            let gs := t.faceGranules die h k
            (s.parkFits puts = false → face s) ∧
            (s.parkFits puts = true → t.ownerParked (.face die ctx n k) = true → face t) ∧
            (s.parkFits puts = true → t.ownerParked (.face die ctx n k) = false →
              face ((((t.setFull gs).barArrive r h.bar 1 0).setHalo die sent).markMargin r h.tid (k ^^^ 1) false)) ∧
            (h.carry = none → gs = dst.flatMap fun p => placeGranules p u)))) ∧
      (h.sent.getLsbD k = true → h.acked.getLsbD k = false →
        let h1 := { h with acked := h.acked ||| (1 <<< k) }
        exec (.haloFaceAck die ctx n k) s =
          .next (if h1.acked = BitVec.allOnes 6 then (s.setHalo die { h1 with carry := none }).closeWindows h.carry
            else s.setHalo die h1))) ∧
    (∀ src r h bs, s.faceWaits src ctx n k = some (r, h) → k < 6 → h.depth k ≠ 0 →
      let e := s.tid r h.tid
      let u := tidUnit h.entry
      let dst := h.dstPlaces r k e
      let puts := joinWrites (dst.zipIdx.map fun p => (p.1, (bs.drop (u * p.2)).take u))
      let who := ParkOwner.face (8 + src) h.ctx h.handle k
      let t := s.engPutAll puts who
      faceFits h.entry e = true → (∀ p ∈ dst, s.engHeld (s.haloWindows h.tid) p u .write = false) → s.ownerParked who = false →
      faceBytes ((s.die r).inbox.filter fun x => x.ofFace src h.ctx h.handle k) (dst.length * u) = some bs →
      s.parkFits puts = true → s.canAll u dst = none → t.ownerParked who = false →
      exec (.haloFaceLand (8 + src) ctx n k) s = .next (((((t.setFull (dst.flatMap fun p => placeGranules p u)).barArrive r h.bar 1
        0).markMargin r h.tid (k ^^^ 1) false).faceTaken r src h.ctx h.handle k)))

/-- R28, R54, R294, R297 to R299, R301, R303: an admitted COLL, GATHJ or RESHARD takes the lowest of four handles and
joins the operations of its die with the record, group and entries as they stand, and its tag counts as used; it waits
for a handle and, under .carry, for two windows. CLWAIT gives 0 for a completed and ABORTED for an aborted collective,
writes the report where one is asked for and frees the handle, gives 0 for a free handle, and waits before the end.
COLL and GATHJ keep the width while the read of GMAP waits for a write of their own that is parked or for a diagnostic packet
(log 41).
R33, R293, R295, R296, R299, R300, R304, R370: a transfer of a running collective that nothing holds back is applied at its
destination die in its turn, or aborts the collective where the receiver does not take it, and is counted once no write of
it is parked; a re-shard
steps on once its send is applied and its receive has landed; a collective ends once every rank's transfers are applied,
at every rank then complete, a completed re-shard giving both entries the next layout version. That a transfer waits whole for
room in the park buffer (log 41), the windows that the transfers of one collective do not wait for (log 58), the ends of the
chain and the checks at application (log 46), and which write of another path is read (log 5) are the model's choices or free
values. -/
def Obligations.Collectives : Prop :=
 (∀ (s : State) (d : Fin 48) (a : Src) (b : EnB) (carry : Bool), s.issues → s.isBallast = false →
    (∀ l ∈ latchesOf [a] ++ b.latches, (s.cx.b.get l).isSome = true) →
    let die := s.cur.die
    let waits := fun (i : Instr) => exec i s = .next { s.tick with cx := { s.tick.cx with st := .stalled } }
    (s.exchange = true →
      ∀ x ∈ [(Instr.coll d a b carry, collCheck a b false, collOf a b false),
          (.gathj d a b carry, collCheck a b true, collOf a b true),
          (.reshard d a b carry, reshardCheck a b, reshardOf a b)],
        (∀ t, x.2.1 s = some t → exec x.1 s = .next (s.trapAt t)) ∧
        (x.2.1 s = none → (x.2.2 s).kind ≠ .reshard → s.gmapWaits (x.2.2 s).record = true → exec x.1 s = .next s.tick) ∧
        (x.2.1 s = none → (x.2.2 s).kind = .reshard ∨ s.gmapWaits (x.2.2 s).record = false →
          ((∀ n, n < 4 → n ∈ s.myColls) ∨ carry = true ∧ s.freeWindows die < 2 → waits x.1) ∧
          (∀ n, n < 4 → n ∉ s.myColls → (∀ m, m < n → m ∈ s.myColls) → (carry = true → 2 ≤ s.freeWindows die) →
            let c := { x.2.2 s with handle := n }
            exec x.1 s = .next (s.bundle fun t =>
              let u := (t.gmapScrub c).collAccept c carry
              { u with cx := u.cx.outS 7 (some d) (BitVec.ofNat 64 n) }) ∧
            c.ctx = s.cur.inDie ∧ c.phase = s.hy.phc.toNat ∧ c.aborted = false ∧ c.complete = false ∧ c.ended = false ∧
            c.applied = [] ∧
            c.srcEnt = s.tid die c.srcId ∧ c.dstEnt = s.tid die c.dstId ∧
            (die < 8 → ((s.collAccept c carry).die die).xf.tags = s.myDie.xf.tags ++ [c.tag] ∧
              (s.collAccept c carry).cx = s.cx)))) ∧
    (let v := (s.cx.sval a).toNat
      let area := (s.cx.enval b).toNat
      v < 4 → area = 0 ∨ (s.ownKey area 4096).isSome = true →
      let own := s.myDie.xf.colls.find? fun c => c.ctx = s.cur.inDie && c.handle = v
      (own = none → exec (.clwait d a b) s = .next (s.bundleCtx fun c => c.outS 7 (some d) 0)) ∧
      (∀ c, own = some c →
        (c.ended = false → waits (.clwait d a b)) ∧
        (c.ended = true → exec (.clwait d a b) s = .next (s.bundle fun t =>
          let t1 := match if area = 0 then none else s.ownKey area 4096 with
            | none => t
            | some k => t.put k (t.report die c)
          let t2 := t1.modXf die fun y => { y with
            colls := y.colls.map fun o => if o.ctx = s.cur.inDie && o.handle = v then { o with handle := 4 } else o }
          { t2 with cx := t2.cx.outS 7 (some d) (if c.aborted then 0x8000000000000005 else 0) })) ∧
        (s.report die c).length = 4096))) ∧
 (∀ (s : State) (die ctx n i : Nat) (c : Coll), die < 8 → s.collAt die ctx n = some c →
    let goes := fun (t : State) => exec (.collTransferApply die ctx n i) s = .next t
    (s.collRuns c = true → i < s.collCount die c → (c.kind = .reshard → c.step = i) →
      ∀ x r rc, s.xferAt die c i = some x → c.group[x.peer]? = some r → s.collOp r c.phase c.tag = some rc →
      let de := s.tid r x.dtid
      let u := tidUnit c.srcEnt
      let src := (lamsFrom c.srcEnt x.src x.n).map (lamPlace die c.srcEnt)
      let dst := (lamsFrom c.srcEnt x.dst x.n).map (lamPlace r de)
      let own := fun k => ownWindows c.carry k || ownWindows rc.carry k
      let owner := ParkOwner.coll die c.phase c.tag i
      ((x.rank, x.index) ∈ rc.applied ∨ s.ownerParked owner = true → goes s) ∧
      ((x.rank, x.index) ∉ rc.applied → s.ownerParked owner = false → (c.kind = .reshard → i ≤ rc.step) →
        (c.kind = .coll → recOp c.record ≠ 0 →
          chainWaits (s.xfersTo c x.peer) rc.applied c.group.length x = false) →
        (c.kind = .gathj → c.shard ≠ rc.shard → goes (s.abortColl c 3 die)) ∧
        (c.kind ≠ .reshard → (c.kind = .gathj → c.shard = rc.shard) →
          (xferFits c.srcEnt de x = false → goes (s.abortColl c 4 r)) ∧
          (xferFits c.srcEnt de x = true →
            (∀ p ∈ src, s.engHeld own p u .read = false ∧ s.engParked p u ParkOwner.isColl = false) →
            (∀ p ∈ dst, s.engHeld own p u .write = false ∧ (c.reduces = true → s.engParked p u ParkOwner.isColl = false)) →
            s.canAll u dst = none → ∀ vs olds, s.readAll 6 u src = .ok vs →
            s.prefixes c (s.xfersTo c x.peer) x r de u (lamsFrom c.srcEnt x.dst x.n) = .ok olds →
            let s1 := s.engScrubAll (src.map fun p => (p, u))
            let lams := lamsFrom de x.dst x.n
            let puts := joinWrites
              ((lams.map (lamPlace r de)).zip (s1.xferBytes c (s1.xfersTo c x.peer) x (lams.zip (vs.zip olds))))
            let t := s1.xferPut die c rc r de x vs olds
            goes t ∧ t.cx = s.cx ∧ (s1.parkFits puts = false → t = s1) ∧
            (r < 8 → s1.parkFits puts = true → t.ownerParked owner = false →
              (t.collOp r c.phase c.tag).map (·.applied) = some (rc.applied ++ [(x.rank, x.index)])) ∧
            (tidSpace c.srcEnt ≠ 0 → tidSpace de ≠ 0 →
              ∀ k, (∀ p ∈ dst, ∀ y, s.placeKey p = some y → k < y ∨ y + tidUnit de ≤ k) →
              (∀ v ∈ vs, v.length ≤ tidUnit de) → t.byte k = s.byte k))))) ∧
    (c.kind = .reshard → s.collRuns c = true → s.stepDone die c = true →
      exec (.reshardStep die ctx n) s = .next (s.modXf die fun y => { y with
        colls := y.colls.map fun o => if o.ctx = ctx && o.handle = n then { o with step := o.step + 1 } else o })) ∧
    (c.ended = false → c.aborted = true ∨ c.complete = true ∨ s.collDone c = true →
      let t := (if c.aborted || c.complete then s else s.sealColl c).endColl die c
      exec (.collEnd die ctx n) s = .next t ∧ (∀ k, t.byte k = s.byte k) ∧
        (c.kind = .reshard → c.aborted = false → c.carry = none → c.undo = false → c.srcId ≠ c.dstId →
          let v := (tidVer c.srcEnt + 1) % 2 ^ 32
          tidVer (t.tid die c.srcId) = v ∧ tidVer (t.tid die c.dstId) = v ∧
            tidLay (t.tid die c.srcId) = tidLay c.srcEnt ∧
            tidLay (t.tid die c.dstId) = fieldAt (s.schedOf die c).header 8 8 ∧
            tidAux (t.tid die c.dstId) = tidAux c.srcEnt)))

/-! ### The Cleat -/

/-- R240 to R247, R254, R278, R370: the Cleat instructions complete. Outside nodes, at a word that the context may address
and that reads, with no write of the context parked before a release, and with its position given to a .sc form, an atomic
writes the new word of its operation and gives the old one; ARED rounds to nearest; ALOCK takes a free word, gives SELF on its
own and waits behind another holder; AUNLK frees a lock that the context holds and traps ACCESS with the word otherwise; BARC
counts arrivals and gives the generation before; BARW goes on once the generation differs; a misaligned address traps ALIGN; a
.sc form without its position joins those that wait. That the replies come within the issuing step (log 26), that an overflow
word waits for parked writes (log 44), and that an operation whose scope is not none orders what the engines of the die wrote
(log 5) are the model's choices.
R54, R241, R245, R283: the reply to a Stalled context whose Cleat instruction no longer waits performs that instruction
where it waits and leaves the context Ready; one that still waits keeps what its wait leaves; the slot wheel of 1,024
positions steps on and counts its revolutions, and the oldest waiting .sc operation of the core that holds the position is
given it and issues there, as at a reply, keeping it only among the waiters of a lock. That the reply makes the context perform
where it stands and leaves it Ready (log 26), and what a position given and not used becomes (log 48), are the model's
choices. -/
def Obligations.CleatInstructions : Prop :=
 (∀ (s : State) (d : Dst) (a : Src) (b : EnB) (sc : Bool) (scope : Fin 4), s.issues → s.computes →
    s.cx.inNode = false → (∀ l ∈ latchesOf [a] ++ b.latches, (s.cx.b.get l).isSome = true) →
    (sc = true → s.wheelHas = true) → (scope ≠ 0 → s.myParked = false) →
    let die := s.cur.die
    let v := (s.cx.sval a).toNat
    let x := s.cx.enval b
    let n := s.cur.inDie
    let given := sc = true → s.scGiven = true
    let waits := fun (i : Instr) (t : State) => exec i s = .next { t with cx := { t.cx with st := .stalled } }
    let answers := fun (i : Instr) (f : State → State) (w : Dword) => exec i s = .next (
      ((s.under (scope ≠ 0)).bundle fun t => let u := f t; { u with cx := u.cx.outS 7 d w }).modCore die s.cur.core fun c =>
        { c with offer := true })
    let replies := fun (i : Instr) (f : State → State) (w : Dword) => answers i (fun t => (f t).scUse) w
    (∀ pure, v % 8 = 0 → v < 0x300000 → s.cleatKeyOf v 8 false pure = .ok v) ∧
    (∀ y ∈ [(Instr.aadd d a b sc scope, false, fun (w y _ : Dword) => w + y),
        (.amin d a b sc scope, false, fun w y _ => if w.toInt ≤ y.toInt then w else y),
        (.amax d a b sc scope, false, fun w y _ => if w.toInt ≤ y.toInt then y else w),
        (.aand d a b sc scope, false, fun w y _ => w &&& y),
        (.aor d a b sc scope, decide (x = 0), fun w y _ => w ||| y),
        (.axor d a b sc scope, false, fun w y _ => w ^^^ y), (.aswp d a b sc scope, false, fun _ y _ => y),
        (.acas d a b sc scope, false, fun w y z => if w = z then y else w)],
      (v % 8 ≠ 0 → exec y.1 s = .next (s.trapAt { cause := .align, slot := 9 })) ∧
      (v % 8 = 0 → v < 0x300000 → s.badRead (cleatKey die v) 8 = false → given →
        let w := BitVec.ofNat 64 (s.rd (cleatKey die v) 8)
        let new := y.2.2 w x (s.cx.s.get (d.getD 0))
        replies y.1 (fun t => if new = w then t else t.wr (cleatKey die v) 8 new.toNat) w) ∧
      (∀ k w, s.cleatKeyOf v 8 false y.2.1 = .ok k → s.cleatParked (.ok k) = false → s.cleatGet die k 8 = .ok w →
        let old := BitVec.ofNat 64 w
        let new := y.2.2 old x (s.cx.s.get (d.getD 0))
        (given → replies y.1 (fun t => if new = old then t.cleatRead k 8 else (t.cleatRead k 8).cleatPut die k 8 new.toNat n) old) ∧
        (¬ given → waits y.1 s.scJoin.tick))) ∧
    (let key := s.cleatKeyOf v (if v.testBit 58 then 4 else 8) true false
      let f : FFmt := if v.testBit 58 then .f32 else .f64
      ∀ k, key = .ok k → s.cleatParked key = false → ∀ w, s.cleatGet die k (if v.testBit 58 then 4 else 8) = .ok w →
        let y := x.toNat % 2 ^ f.bits
        let new := if v / 2 ^ 56 % 4 = 0 then (fAdd f .rne w y).1
          else (fMinMax f (decide (v / 2 ^ 56 % 4 = 2)) w y).1
        exec (.ared a b scope) s = .next ((s.under (scope ≠ 0)).bundle fun t =>
          (t.cleatRead k (if v.testBit 58 then 4 else 8)).cleatPut die k (if v.testBit 58 then 4 else 8) new n)) ∧
    (∀ k w, s.cleatKeyOf v 8 false false = .ok k → s.cleatParked (.ok k) = false → s.cleatGet die k 8 = .ok w → given →
      let locks := fun (f : LockRec → LockRec) (t : State) => t.modTables die fun u => { u with
        locks := u.locks.map fun l => if l.addr = k then f l else l }
      (s.lockRec k = none → w = 0 → s.myLocks.length < 16 →
        replies (.alock d a sc scope) (fun t =>
          ((t.cleatRead k 8).modTables die fun u => { u with
            locks := u.locks ++ [{ addr := k, owner := n, waiters := [], granted := false, dropping := false }] }).cleatPut die k 8
            (0x8000000000000000 + n) n) 0) ∧
      (s.lockRec k = none → w ≠ 0 → s.myLocks.length < 16 → waits (.alock d a sc scope) s.tick) ∧
      (∀ l, s.lockRec k = some l → l.owner = n → l.dropping = false → l.granted = false →
        replies (.alock d a sc scope) (fun t => t) 0x8000000000000003) ∧
      (∀ l, s.lockRec k = some l → l.owner = n → l.dropping = false → l.granted = true →
        replies (.alock d a sc scope) (locks fun l => { l with granted := false }) 0) ∧
      (∀ l, s.lockRec k = some l → l.owner ≠ n ∨ l.dropping = true → s.myLocks.length < 16 →
        waits (.alock d a sc scope)
          (locks (fun l => { l with waiters := if l.waiters.contains n then l.waiters else l.waiters ++ [n] }) s).tick) ∧
      (∀ l, s.lockRec k = some l → l.owner = n → l.dropping = false → w = 0x8000000000000000 + n →
        exec (.aunlk a sc scope) s =
          .next ((s.under (scope ≠ 0)).bundle fun t => ((t.cleatRead k 8).releaseLock die l).scUse) ∧
        (∀ t : State, t.releaseLock die l = match l.waiters with
          | [] => (t.modTables die fun u => { u with locks := u.locks.filter fun y => !(decide (y.addr = l.addr)) }).cleatPut
              die l.addr 8 0 l.owner
          | g :: gs => (t.modTables die fun u => { u with
              locks := u.locks.map fun y =>
                if y.addr = l.addr then { y with owner := g, waiters := gs, granted := true, dropping := false } else y }).cleatPut
              die l.addr 8 (0x8000000000000000 + g) l.owner)) ∧
      ((∀ l, s.lockRec k = some l → l.owner ≠ n ∨ l.dropping = true) ∨ w ≠ 0x8000000000000000 + n →
        exec (.aunlk a sc scope) s =
          .next (s.trapAt { cause := .access, slot := 9, info := some { t0 := BitVec.ofNat 64 w } }))) ∧
    (v < 4096 →
      let y := s.barrier die v
      let target := if x.extractLsb' 32 32 ≠ 0 then (x.extractLsb' 32 32).toNat else y.target.toNat
      let sum := y.count.toNat + x.toNat % 2 ^ 32
      let z : Barrier := {
        target := BitVec.ofNat 32 target
        count := BitVec.ofNat 32 (if target = 0 then Nat.min sum (2 ^ 32 - 1) else sum % target)
        gen := if target = 0 then y.gen else BitVec.ofNat 32 (y.gen.toNat + sum / target) }
      answers (.barc d a b scope) (fun t => t.modTables die fun u => { u with barriers := tabSet u.barriers v z })
        (y.gen.setWidth 64) ∧
      (y.gen ≠ x.setWidth 32 → answers (.barw d a b scope) (fun t => t) (y.gen.setWidth 64)) ∧
      (y.gen = x.setWidth 32 → waits (.barw d a b scope) s.tick))) ∧
 (∀ (s : State) (die ctx : Nat),
    let g := ctxIn die ctx
    ((s.ctx g).st ≠ .stalled ∨ (s.die g.die).th.stopped = true → exec (.cleatReply die ctx) s = .next s) ∧
    ((s.ctx g).st = .stalled → (s.die g.die).th.stopped = false → s.stillBlocked g = true →
      exec (.cleatReply die ctx) s = .next (s.retryWait g)) ∧
    ((s.ctx g).st = .stalled → (s.die g.die).th.stopped = false → s.stillBlocked g = false →
      let s1 := s.focus g
      let x := s.core g.die g.core
      (s1.onReply = false → exec (.cleatReply die ctx) s = .next s) ∧
      (∀ ws i, s1.cx.rollback = false → s1.beforeTrap = none → s1.nextWords = .ok ws → decodeOne ws = some i →
        waitsReply i = true →
        ∃ t, exec i { s1 with cx := { s1.cx with st := .running } } = .next t ∧
          exec (.cleatReply die ctx) s = .next ((t.modCtx g fun c =>
            let y : Ctx := if x.running = some g.ctx then c else { c with b := Vector.replicate 8 none }
            if c.st = .running then { y with st := .ready, woken := true } else y).modCore g.die g.core fun y =>
              { y with offer := x.offer }))) ∧
    (let tb := (s.die die).tables
      let moved := s.modTables die fun t => { t with
        wheelPos := (t.wheelPos + 1) % 1024
        wheelRev := if t.wheelPos % 1024 = 1023 then t.wheelRev + 1 else t.wheelRev }
      let issues := fun (t : State) => exec (.scWheelIssue die) s = .next t
      (tabGet tb.wheel tb.wheelPos = none → issues moved) ∧
      (∀ core, tabGet tb.wheel tb.wheelPos = some core →
        ((∀ w ∈ tb.scWait, w < 4096 → w / 4 ≠ core.toNat) → issues moved) ∧
        (∀ w, (tb.scWait.find? fun w => w < 4096 && w / 4 = core.toNat) = some w →
          ∃ u, exec (.cleatReply die w) (moved.modTables die fun t => { t with
              scWait := t.scWait.map fun x => if x = w then w + 4096 else x }) = .next u ∧
            issues (if (u.die die).tables.locks.any fun l => l.waiters.contains w then u
              else u.modTables die fun t => { t with scWait := t.scWait.map fun x => if x = w + 4096 then w else x })))))

/-! ### Tasks and queues -/

/-- R48, R60, R61, R248 to R252, R254, R255, R267, R279, R309, R343: the task and queue instructions complete. Outside table
rebuilds, and with no write of the context parked where they release: TSPAWN of a template that passes its checks gives DEPTH,
POOLFULL or the lowest free record, which receives the template with its count and depth; TDEC decrements an ARMED record,
which becomes READY at 0, and sets TASKSTRAY on any other; TDONE retires the item held; QPOP retires it and then takes an item
of its launch's queues, or waits for a record that is parked, or sleeps; QPUSH appends a record or gives QFULL; QSTAT gives a queue's status word. In a replayable
node TSPAWN reserves its record, and TSPAWN, TDEC, QPUSH and ARED are staged in the log. What QPOP takes and skips where
R47 to R52 leave an order open, and the bits of a template that TSPAWN ignores (log 44), the trap of a staged reduction that
cannot be read (log 43), that waits for room, parked records or counters leave a context Stalled (log 57), and that what
releases or acquires orders all that the engines of the die wrote (log 5), are the model's choices. -/
def Obligations.TaskInstructions : Prop :=
  ∀ (s : State) (d : Dst) (a : Src) (b : EnB) (scope : Fin 4), s.issues → s.computes →
    s.myDie.sched.rebuilding = false → (∀ l ∈ latchesOf [a] ++ b.latches, (s.cx.b.get l).isSome = true) →
    let die := s.cur.die
    let v := (s.cx.sval a).toNat
    let x := (s.cx.enval b).toNat
    let direct := s.cx.inNode = false ∧ s.myParked = false
    let staged := s.cx.inNode = true ∧ s.cx.logFull = false
    let rel := !s.cx.inNode
    let answers := fun (i : Instr) (rel : Bool) (f : State → State) (w : Dword) => exec i s = .next (
      ((s.under rel).bundle fun t => let u := f t; { u with cx := u.cx.outS 7 d w }).modCore die s.cur.core fun c =>
        { c with offer := true })
    let same := fun (t : State) => t
    let logs := fun (o : LogOp) (t : State) => { t with cx := { t.cx with item := t.cx.item.map fun it =>
      { it with log := it.log ++ [o] } } }
    (∀ r, s.recAt v = .ok r → tspawnCheck a b s = none → direct ∨ s.cx.inNode = true →
      let work := fieldAt r 0 4 = 0
      let deep := (s.myLaunch.map Launch.depth).getD 0 < s.cx.ctl.wdep.toNat + 1
      let c := x % 2 ^ 32
      (work → deep → answers (.tspawn d a b) rel same 0x8000000000000002) ∧
      (¬ (work ∧ deep) → (∀ t, t < 65536 → s.taskState die t ≠ 0 ∨ t ∈ s.myDie.sched.reserved) →
        answers (.tspawn d a b) rel same 0x8000000000000001) ∧
      (∀ t, ¬ (work ∧ deep) → t < 65536 → s.taskState die t = 0 → t ∉ s.myDie.sched.reserved →
        (∀ k, k < t → s.taskState die k ≠ 0 ∨ k ∈ s.myDie.sched.reserved) →
        ∃ f : State → State, answers (.tspawn d a b) rel f (BitVec.ofNat 64 t) ∧
          let u := f (s.under rel).begun
          u.ctxs = s.ctxs ∧ (direct → u.cx = s.begun.cx) ∧
          (s.cx.inNode = true → u.cx = (logs (.arm t (BitVec.ofNat 32 c)) s.begun).cx) ∧
          (∀ k, k < cleatKey die (0x400000 + 64 * t) ∨ cleatKey die (0x400000 + 64 * t) + 64 ≤ k → u.byte k = s.byte k) ∧
          u.taskState die t = (if s.cx.inNode then 0 else if c = 0 then 2 else 1) ∧ u.taskFld die t 4 4 = c ∧
          u.taskFld die t 0x38 1 = (if fieldAt r 0 4 = 0 then (s.cx.ctl.wdep.toNat + 1) % 256 else fieldAt r 448 8) ∧
          (∀ o, o < 64 → o = 0 ∨ o = 2 ∨ o = 3 ∨ (8 ≤ o ∧ o ≠ 0x38) → u.taskFld die t o 1 = fieldAt r (8 * o) 8) ∧
          (die < 8 → (u.die die).sched.ready =
              s.myDie.sched.ready ++ (if s.cx.inNode = false ∧ c = 0 then [.task t] else []) ∧
            (u.die die).sched.reserved = s.myDie.sched.reserved ++ (if s.cx.inNode then [t] else [])))) ∧
    (let t := v % 2 ^ 32
      let does := fun (f : State → State) => direct → exec (.tdec a) s = .next ((s.under true).bundle f)
      (staged → t < 65536 → exec (.tdec a) s = .next (s.bundle (logs (.tdec t)))) ∧
      (t = 0xFFFFFFFF → does same) ∧
      (t < 65536 → s.taskState die t ≠ 1 → does fun u => u.raiseJob die .taskstray (some (BitVec.ofNat 64 t)) none) ∧
      (t < 65536 → s.taskState die t = 1 →
        let n := s.taskFld die t 4 4 - 1
        (n ≠ 0 → does fun u => u.taskPut die t 4 4 n) ∧
        (n = 0 → does fun u => ((u.taskPut die t 4 4 0).taskPut die t 1 1 2).readyPush die (.task t))) ∧
      (65536 ≤ t → t ≠ 0xFFFFFFFF → exec (.tdec a) s = .next (s.trapAt { cause := .access, slot := 9 }))) ∧
    (s.logBad = none → s.retireBlocks = none → exec .tdone s = .next ((s.under true).bundle fun t => t.retire)) ∧
    (∀ u w, s.logBad = none → s.retireBlocks = some (u, w) →
      exec .tdone s = .next { u.tick with cx := { u.tick.cx with st := .stalled } }) ∧
    (s.cx.item = none → exec .tdone s = .next ((s.under true).bundle same)) ∧
    (∀ l, s.myLaunch = some l → qpopCheck a s = none → s.logBad = none → s.retireBlocks = none →
      let r := s.retire.pick l
      (r.2 = none → exec (.qpop d a) s = .next { r.1.tick with
        cx := { r.1.tick.cx with st := .sleepQueue, resume := none, sleepRec := r.1.cx.resume } }) ∧
      (∀ q e, r.2 = some (q, e, .wait) →
        exec (.qpop d a) s = .next { r.1.tick with cx := { r.1.tick.cx with st := .stalled } }) ∧
      (∀ k, ((s.under true).begun.retire.pick l).2 = some k → qpopBlocks s = none →
        exec (.qpop d a) s = .next (((s.under true).bundle fun t =>
          let y := (t.retire.pick l).1.deliver l k (s.newItem a)
          { y with cx := y.cx.outS 7 d y.cx.ctl.wid }).modCore die s.cur.core fun c =>
            { c with offer := true }))) ∧
    (s.queueOk die v true = true → ∀ r, s.recAt x = .ok r →
      (direct → s.pushRoom die v = true → (s.queueAt die v).room = 0 → answers (.qpush d a b) rel same 0x8000000000000004) ∧
      (direct → s.pushRoom die v = true → (s.queueAt die v).room ≠ 0 →
        answers (.qpush d a b) rel (fun t => t.qAppend die v (leBytes 64 r.toNat) (.cleat s.cur.inDie)) 0) ∧
      (staged → answers (.qpush d a b) rel (logs (.qpush v r)) 0)) ∧
    (staged → (scope ≠ 0 → s.myParked = false) → ∀ k, aredKey v s = .ok k → s.cleatParked (.ok k) = false →
      exec (.ared a b scope) s = .next (s.bundle (logs (.ared (s.cx.sval a) (s.cx.enval b))))) ∧
    (s.cx.inNode = false → s.queueOk die v false = true →
      let base := match s.holder die v with | none => 0 | some l => l.prio
      let sleeps : Bool := match s.holder die v with
        | none => false
        | some l => l.ctxs.any fun n => (s.ctx (ctxIn die n)).st = .sleepQueue
      answers (.qstat d a) false same (BitVec.ofNat 64 ((s.queueAt die v).count + 2 ^ 32 * base +
        2 ^ 35 * s.eprio die v + (if sleeps then 2 ^ 38 else 0))))

/-- R49, R53, R61, R370: the scheduler serves the oldest entry of the ready queue: a WORK task is issued to its queue, kept at
the tail where the queue is full, or faulted where it has no ring or holder; COND, LOOP and SWITCH compare or index the
word they read and decrement a successor; JOIN completes; a continuation is pushed; an entry that waits on a swap of DVA pages stays. A queue whose wait reaches another
2^20 cycles rises one level, up to 7, unless its base priority is 0. -/
def Obligations.TaskHappenings : Prop :=
  ∀ (s : State) (d q : Nat),
    let serves := fun (t : State) => exec (.taskServe d) s = .next t
    let base := match s.holder d q with | none => 0 | some l => l.prio
    let x := s.queueAt d q
    ((s.die d).sched.ready = [] → serves s) ∧
    (∀ r rs, (s.die d).sched.ready = r :: rs → s.serveHeld d r = true → serves s) ∧
    (∀ r rs, (s.die d).sched.ready = r :: rs → s.serveHeld d r = false →
      let u := s.modSched d fun x => { x with ready := rs }
      (∀ tmpl first l o, r = .cont tmpl first l o → serves (u.pushCont d tmpl first l o)) ∧
      (∀ t, r = .task t → s.taskState d t = 2 →
        let kind := s.taskFld d t 0 1 % 16
        let va := s.taskFld d t 0x10 8
        let w := u.dvaGet d va 8
        let x := u.dvaScrub d va 8 true
        let bound := x.taskFld d t 0x18 8
        let faults := (u.taskPut d t 1 1 4).raiseJob d .taskfault (some (BitVec.ofNat 64 t)) none
        (kind = 4 → serves ((u.taskDec d (s.taskFld d t 8 4)).taskPut d t 1 1 0)) ∧
        (kind = 0 →
          let k := s.taskFld d t 2 2
          let y := u.queueAt d k
          (y.log2n = 0 ∨ y.held = false → serves faults) ∧
          (y.log2n ≠ 0 → y.held = true → y.room = 0 → serves (u.readyPush d (.task t))) ∧
          (y.log2n ≠ 0 → y.held = true → y.room ≠ 0 →
            let bs := s.bytes (taskKey d t 0x20) 24 ++ leBytes 4 0xFFFFFFFF ++ s.bytes (taskKey d t 0x38) 2 ++
              List.replicate 34 0
            serves (((u.taskPut d t 1 1 3).modSched d fun z => { z with
              links := z.links ++ [(k, y.tail.toNat, t)] }).qAppend d k bs .sched))) ∧
        (kind = 1 ∨ kind = 2 ∨ kind = 3 → ∀ e, w = .error e → serves faults) ∧
        (∀ bs, w = .ok bs →
          (kind = 1 → leNat bs < bound → serves ((x.taskDec d (x.taskFld d t 0x20 4)).taskComplete d t)) ∧
          (kind = 1 → bound ≤ leNat bs → serves ((x.taskDec d (x.taskFld d t 0x24 4)).taskComplete d t)) ∧
          (kind = 2 → leNat bs < bound →
            serves (((x.taskPut d t 4 4 (x.taskFld d t 0x0C 4)).taskPut d t 1 1 1).taskDec d (x.taskFld d t 0x20 4))) ∧
          (kind = 2 → bound ≤ leNat bs → serves ((x.taskDec d (x.taskFld d t 0x24 4)).taskComplete d t)) ∧
          (kind = 3 → ∀ es, let ea := x.taskFld d t 0x20 8 + 4 * Nat.min (leNat bs) (bound % 32 - 1);
            u.dvaGet d ea 4 = .ok es →
            serves (((x.dvaScrub d ea 4 true).taskDec d (leNat es)).taskComplete d t))))) ∧
    (s.queueEmpty d q = false → base ≠ 0 → base + x.aged < 7 → x.since + 1048576 * (x.aged + 1) ≤ s.nowCyc →
      exec (.queueAgeing d q) s = .next (s.modQueue d q fun y => { y with aged := y.aged + 1 })) ∧
    (s.queueEmpty d q = true ∨ base = 0 ∨ 7 ≤ base + x.aged ∨ s.nowCyc < x.since + 1048576 * (x.aged + 1) →
      exec (.queueAgeing d q) s = .next s)

/-! ### System instructions, traps and returns -/

/-- R39, R257 to R260, R263, R405, R406, R408: PHEND puts a member to sleep until the boundary with its bundle to be
resumed behind it, waits in its place for the context's matrix operations, and acts as YIELD for ballast; RMACK
acknowledges a version between ctl.rmv and ctl.rmp and traps ACCESS outside; DRAIN advances once no write
of the context is parked, and XFENCE orders the writes of one path class of the die before the reads of another; HALT retires the item and leaves the context Idle; BDPKT queues a diagnostic packet; BDRSP
gives the oldest reply, 0 where none is due, and waits for one that is. Which write of another path class a read finds before
such an order is a free value (log 5); that a HALT which waits for matrix operations (log 47), and a PHEND, DRAIN or XFENCE that
waits (log 57), keeps the width, that a retirement which waits for parked writes is Stalled (log 57), and the trap of a staged
reduction that cannot be read (log 43), are the model's choices. -/
def Obligations.SystemInstructions : Prop :=
  ∀ (s : State) (d : Fin 48) (a : Src) (scope : Fin 4) (f t : Fin 8), s.issues → s.cx.holds [a] →
    let die := s.cur.die
    let v := s.cx.sval a
    let stalls := fun (i : Instr) (u : State) => exec i s = .next { u.tick with cx := { u.tick.cx with st := .stalled } }
    let offers := fun (u : State) => u.modCore die s.cur.core fun c => { c with offer := true }
    (s.isBallast = false →
      (s.mxBusy s.cur = false → exec .phend s = .next { s.begun with
        cx := { s.begun.cx.settle with
          st := .sleepBoundary, resume := none
          sleepRec := some { rpc := s.cx.pc, words := s.bundleWords, perf := 0, pend := none } } }) ∧
      (s.mxBusy s.cur = true → exec .phend s = .next s.tick) ∧
      (s.cx.ctl.rmv ≤ v → v ≤ s.cx.ctl.rmp →
        exec (.rmack a) s = .next (s.bundleCtx fun c => { c with ctl := { c.ctl with rmv := v } })) ∧
      (v < s.cx.ctl.rmv ∨ s.cx.ctl.rmp < v → exec (.rmack a) s =
        .next (s.trapAt { cause := .access, slot := 9, info := some { t0 := s.cx.ctl.rmp } })) ∧
      (scope = 0 ∨ s.myParked = false → exec (.drain scope) s = .next (s.bundle fun u => u)) ∧
      (scope ≠ 0 → s.myParked = true → exec (.drain scope) s = .next s.tick) ∧
      (f = 7 → t ≠ 7 → s.myParked = true → exec (.xfence f t) s = .next s.tick) ∧
      (f ≠ 7 ∨ t = 7 ∨ s.myParked = false → exec (.xfence f t) s = .next (s.bundle fun u => u.fence die f.val t.val)) ∧
      (∀ y ∈ (s.fence die f.val t.val).unseen, y.die = die → y.path = f.val → t.val ∉ y.blind)) ∧
    (s.isBallast = true → exec .phend s = .next (offers (s.bundleCtx fun c =>
      { c with ctl := { c.ctl with wdog := BitVec.ofNat 64 s.cx.budget } }))) ∧
    (s.logBad = none → s.retireBlocks = none →
      (s.mxBusy s.cur = true → exec .halt s = .next s.retire.tick) ∧
      (s.mxBusy s.cur = false →
        let r := (s.under true).begun.retire
        let u := (s.under true).bundle State.retire
        r.mxBusy r.cur = false →
        exec .halt s = .next (u.becomeIdle u.cur) ∧
          (u.becomeIdle u.cur).cx.st = .idle ∧ (u.becomeIdle u.cur).cx.s = u.cx.s ∧
          (u.becomeIdle u.cur).cx.v = u.cx.v)) ∧
    (∀ u w, s.logBad = none → s.retireBlocks = some (u, w) → stalls .halt u) ∧
    (∀ t, s.logBad = some t → exec .halt s = .next (s.trapAt t)) ∧
    (s.cx.priv = false → ∀ i ∈ [Instr.bdpkt a, .bdrsp d a],
      exec i s = .next (s.trapAt { cause := .illegalOpcode, slot := 9 })) ∧
    (s.cx.priv = true → s.computes →
      (∀ k, s.ownKey v.toNat 96 = some k → s.badRead k 96 = false →
        let r := BitVec.ofNat 768 (s.rd k 96)
        (∀ o, bdFieldBad r = some o → exec (.bdpkt a) s =
          .next (s.trapAt { cause := .access, slot := 9, info := some { t0 := BitVec.ofNat 64 o } })) ∧
        (bdFieldBad r = none → (r.getLsbD 0 = true → s.slotBarred die (r.getLsbD 7) (fieldAt r 64 64) = false) →
          let addr := fieldAt r 64 64
          let used := ∃ p ∈ s.myDie.tiers.diag, p.arrived = false ∧ p.hdr.toNat / 16 % 8 = fieldAt r 4 3 ∧
            p.addr / 256 % 16 = addr / 256 % 16
          (¬ used → s.myDie.tiers.diag.length < 16 → s.moving die (addr / 65536 % 1048576) = false →
            exec (.bdpkt a) s = .next (s.bundle fun u => u.modTiers die fun x => { x with diag := x.diag ++ [{
              ctx := s.cur.inDie, hdr := r.extractLsb' 0 64, addr := addr, mask := r.extractLsb' 128 64
              check := r.extractLsb' 192 32, data := r.extractLsb' 256 512, reply := none, arrived := false
              orphan := false }] })) ∧
          (used ∨ 16 ≤ s.myDie.tiers.diag.length ∨ s.moving die (addr / 65536 % 1048576) = true →
            stalls (.bdpkt a) s))) ∧
      (∀ k, s.ownKey v.toNat 96 = some k →
        (s.myReply = none → s.myPending = true → stalls (.bdrsp d a) s) ∧
        (s.myReply = none → s.myPending = false →
          exec (.bdrsp d a) s = .next (offers (s.bundleCtx fun c => c.outS 7 (some d) 0))) ∧
        (∀ p r, s.myReply = some p → p.reply = some r →
          exec (.bdrsp d a) s = .next (offers (s.bundle fun u =>
            let w := (u.wr k 96 r.toNat).modTiers die fun x => { x with
              diag := dropFirst (fun y => y.ctx = s.cur.inDie && !y.orphan && y.arrived) x.diag }
            { w with cx := w.cx.outS 7 (some d) (r.extractLsb' 0 64) })))))

/-- R56, R105, R206, R261, R262, R348 to R350, R352, R354: TRAP ends its bundle and takes SOFTWARE; a Running context takes
its oldest deferred fault at level 0, and WATCHDOG at a budget of 0. Taking a trap that is handled saves the bundle,
the latches and, at level 1, the information registers in the record of the next level, and continues at ctl.tvec; one
that is unhandled leaves the context Idle. XRET restores the level below, the latches and, from level 2, the information
registers, and reissues the bundle of its record; with SKIP or ABORT it acts on the transfer of an ENGINE_ASYNC record;
outside a handler it traps ACCESS. That the
record of TRAP holds no performed slots and continues at the next bundle is the model's choice (log 20). -/
def Obligations.TrapsAndReturns : Prop :=
  (∀ (s : State) (a : Src) (n : Fin 64) (act : Fin 3), s.issues →
    let u := s.bundle fun t => t
    (s.cx.holds [a] → exec (.trap a n) s = .next (u.takeTrap s.cur {
      cause := .software, slot := 9, info := some { t0 := s.cx.sval a, t1 := BitVec.ofNat 64 n.val } } s.cx.pc {
      rpc := u.cx.pc, words := u.bundleWords, perf := 0, pend := none })) ∧
    (s.cx.level = 0 → exec (.xret act) s = .next (s.trapAt { cause := .access, slot := 9 })) ∧
    (∀ r, (s.cx.level = 1 ∧ s.cx.rec1 = some r ∨ s.cx.level = 2 ∧ s.cx.rec2 = some r) →
      (act ≠ 0 → r.cause ≠ .engineAsync → exec (.xret act) s = .next (s.trapAt { cause := .access, slot := 9 })) ∧
      (act = 0 ∨ r.cause = .engineAsync →
        let t := if r.cause ≠ .engineAsync then u
          else if act = 0 then u.retryXfer s.cur false r.xfer
          else if act = 1 then (s.bundle fun t => t.skipXfer r.xfer).retryXfer s.cur true r.xfer
          else u.abortXfer s.cur r.xfer
        exec (.xret act) s = .next { t with cx := { t.cx with
          level := s.cx.level - 1, b := r.aside, lapsed := false, pc := r.bundle.rpc, resume := some r.bundle
          rec1 := if s.cx.level = 1 then none else t.cx.rec1, rec2 := none
          ctl := match r.saved with
            | none => t.cx.ctl
            | some o => { t.cx.ctl with
                tcause := o.tcause, tpc := o.tpc, tinfo0 := o.tinfo0, tinfo1 := o.tinfo1, tinfo2 := o.tinfo2,
                tinfo3 := o.tinfo3 } } }))) ∧
  (∀ (s : State) (t : Trap) (tpc : Dword) (r : Resume),
    let c := s.cx
    let info : TInfo := t.info.getD { t0 := BitVec.ofNat 64 t.slot }
    let handled := c.level < 2 ∧ c.ctl.tvec ≠ 0 ∧ c.ctl.tvec.toNat % 4 = 0 ∧ c.ctl.tvec.toNat < 2 ^ 57
    s.consumes s.cur t = false →
      (¬ handled → s.takeTrap s.cur t tpc r =
        (s.becomeIdle s.cur).recordFault s.cur { cause := t.cause, tpc := tpc, info := info, xfer := t.xfer }) ∧
      (handled → ∃ rec_ : TrapRec, s.takeTrap s.cur t tpc r = { s.scLeave s.cur with cx := { c with
          rec1 := if c.level = 0 then some rec_ else c.rec1, rec2 := if c.level = 1 then some rec_ else c.rec2
          b := Vector.replicate 8 none, lapsed := false, woken := false, fills := none, tmpl := none, level := c.level + 1, pc := c.ctl.tvec, resume := none, sleepRec := none
          sailPend := if t.cause = .sailplanUnacked then false else c.sailPend
          ctl := { c.ctl with
            tcause := BitVec.ofNat 64 t.cause.code, tpc := tpc, tinfo0 := info.t0, tinfo1 := info.t1
            tinfo2 := info.t2, tinfo3 := info.t3, wdog := BitVec.ofNat 64 c.budget } } } ∧
        rec_.bundle = r ∧ rec_.slot = t.slot ∧ rec_.cause = t.cause ∧ rec_.xfer = t.xfer ∧ rec_.defer = t.defer ∧
        rec_.aside = (if c.lapsed then Vector.replicate 8 none else c.b) ∧
        (c.level = 1 → rec_.saved = some {
          tcause := c.ctl.tcause, tpc := c.ctl.tpc, tinfo0 := c.ctl.tinfo0, tinfo1 := c.ctl.tinfo1
          tinfo2 := c.ctl.tinfo2, tinfo3 := c.ctl.tinfo3 }))) ∧
  (∀ (s : State) (die ctx : Nat),
    let g := ctxIn die ctx
    let s1 := s.focus g
    let c := s.ctx g
    c.st = .running → c.rollback = false → c.sailPend = false →
      (∀ f fs, c.level = 0 → c.held = f :: fs →
        exec (.deferredFaultDelivery die ctx) s = .next ({ s1 with cx := { c with held := fs } }.takeTrap g
          { cause := f.cause, slot := 15, info := some f.info, xfer := f.xfer, defer := true } f.tpc (s1.bundleRec c.perf c.pend))) ∧
      (c.ctl.wdog = 0 → c.level ≠ 0 ∨ c.held = [] →
        exec (.watchdog die ctx) s =
          .next (s1.takeTrap g { cause := .watchdog, slot := 15 } c.pc (s1.bundleRec c.perf c.pend))) ∧
      (c.ctl.wdog ≠ 0 → exec (.watchdog die ctx) s = .next s))

/-! ### Phases, the sail plan, errors -/

/-- R16, R17, R20 to R22, R30, R31, R32, R34, R35, R40, R56: a die of a job that has launched, whose members rest, and where the transfers due are done
and landed, arrives, and the first starts the straggler timer; once every die of the domain has arrived the counter goes up by one, and the
members asleep after PHEND go on behind it with a fresh watchdog budget, or freeze at a marked boundary; past the last
count the job is faulted. At the time-out STRAG is set and a Belvedere applies the policy: EXTEND restarts the timer
once, LOSE declares the late dies lost. A write of HY_CTL keeps the time-out in its limits, and a mark not above the
counter sets PREMISS. -/
def Obligations.PhaseBoundary : Prop :=
  (∀ (s : State) (d : Nat), d < 8 →
    let ready := (s.die d).job.isSome = true ∧ s.dieAlive d = true ∧ (∃ e ∈ s.members, (s.die e).launched = true) ∧
      s.hy.frozen = false ∧
      (∀ g ∈ s.placedOn d, (s.ctx g).ballast.isSome = true ∨
        (s.ctx g).st ≠ .ready ∧ (s.ctx g).st ≠ .running ∧ (s.ctx g).st ≠ .stalled) ∧
      s.owes d (s.hy.phc.toNat + 1) = false
    (ready → s.hy.arrived.getLsbD d = false →
      let u := (s.overdue d).foldl State.suspendCtx s
      ∃ t, exec (.dieArrive d) s = .next t ∧ t.cx = u.cx ∧ t.ctxs = u.ctxs ∧ t.mem = u.mem ∧
        t.hy = { s.hy with
          arrived := s.hy.arrived ||| (1 <<< d), timer := if s.hy.arrived = 0 then some 0 else s.hy.timer }) ∧
    (¬ ready ∨ s.hy.arrived.getLsbD d = true → exec (.dieArrive d) s = .next s)) ∧
  (∀ s : State,
    let mark := s.hy.preen && decide (s.hy.target.toNat = s.hy.phc.toNat + 1)
    let all := s.domain ≠ [] ∧ (∀ p ∈ s.hy.pkgs, p = s.pkg) ∧ (mark = true → s.carriesLanded = true) ∧
      ∀ d ∈ s.domain, s.hy.arrived.getLsbD d = true ∧ s.mayArrive d = true ∧ s.overdue d = [] ∧
        s.parkedBy d ParkOwner.isCleat = false
    (¬ all → exec .domainCross s = .next s) ∧
    (all → s.hy.phc = BitVec.allOnes 64 → exec .domainCross s = .next s.faultJob) ∧
    (all → s.hy.phc ≠ BitVec.allOnes 64 → ∃ t, exec .domainCross s = .next t ∧
      t.hy = { s.hy with
        phc := s.hy.phc + 1, arrived := 0, timer := none, extended := false, expiries := 0
        preen := s.hy.preen && !mark, frozen := mark } ∧
      (s.cur ∈ s.placed → s.cur.die ∈ s.domain → s.cx.st = .sleepBoundary → s.cx.ballast = none →
        ∀ r, s.cx.sleepRec = some r →
          let c := s.cx.advance r.rpc r.words.length r.pend
          t.cx = { c with
            st := if mark then .frozen else .ready, sleepRec := none, woken := true
            ctl := { c.ctl with wdog := BitVec.ofNat 64 s.cx.budget } }))) ∧
  (∀ s : State,
    (∀ t, s.hy.timer = some t → t < s.hy.tmo → exec .stragglerTimeout s = .next s) ∧
    (s.hy.timer = none → exec .stragglerTimeout s = .next s) ∧
    (∀ t, s.hy.timer = some t → s.hy.tmo ≤ t → ∃ u, exec .stragglerTimeout s = .next u ∧
      (s.acting = none →
        u.hy = { s.hy with strag := true, timer := none, expiries := s.hy.expiries + 1 } ∧ u.plan = s.plan) ∧
      (s.acting ≠ none → s.hy.extend = true → s.hy.extended = false →
        u.hy = { s.hy with strag := true, timer := some 0, extended := true, expiries := 0 } ∧ u.plan = s.plan) ∧
      (s.acting ≠ none → s.hy.extend = false ∨ s.hy.extended = true →
        ∃ w, w.hy = { s.hy with strag := true, timer := none, expiries := 0 } ∧ w.plan = s.plan ∧
          u = (s.domain.filter fun d => !s.hy.arrived.getLsbD d).foldl (fun x d => x.loseDie d none 0 0) w))) ∧
  (∀ (s0 : State) (v : Dword),
    let s := s0.settleHost
    let n := v.toNat % 2 ^ 24
    let miss := v.getLsbD 25 && decide (s.hy.target.toNat ≤ s.hy.phc.toNat)
    let t := { s with hy := { s.hy with
      tmo := if n = 0 then 1 else if n ≤ 10000000 then n else 10000000, extend := v.getLsbD 24
      preen := v.getLsbD 25 && !miss, premiss := s.hy.premiss || miss } }
    exec (.hyCtlWrite v) s0 = .next (if miss && !s.hy.premiss then t.sendVec 1 else t))

/-- R33, R37, R373 to R376, R378 to R380, R388, R389: the acting Belvedere publishes the change of the oldest report as the next
version, whose record stands in the plan and which every member context is to acknowledge; a lodge core that finds no
live lease at five mailboxes claims the role in the next term once its wait is over, and has it where its compare-and-swap
succeeds at five, renews it each millisecond, and stops 3.5 ms after its last renewal; 100 ms without a Belvedere while fewer
than five mailboxes can be written fault every job; a halted lodge core is reloaded, or reported after 20 ms or at a second
halt within 24 h; a re-plan that is due reports the figures that change. Which mailboxes a lodge core can write, and what the
monitors report, are inputs and free values (log 13, log 50). -/
def Obligations.SailPlanAndLodge : Prop :=
  ∀ (s : State) (d k : Nat), d < 8 →
    let l := s.lodgeAt d
    let same := fun (i : Instr) => exec i s = .next s
    let halted := s.modLodge d fun l =>
      { l with running := false, acting := none, haltedAt := some s.nowUs, lastHalt := some s.nowUs }
    (s.acting = none → same .sailplanPublish) ∧
    (∀ r rs, s.acting ≠ none → s.changes = r :: rs →
      (s.changeWaits r.change = true → same .sailplanPublish) ∧
      (s.changeWaits r.change = false → s.changes? r.change = false →
        exec .sailplanPublish s = .next { s with changes := rs }) ∧
      (s.changeWaits r.change = false → s.changes? r.change = true →
        let u := { s with changes := rs }.planStep r
        exec .sailplanPublish s = .next (u.planEffect r (s.planDie r.change.die)) ∧
        u.plan.version = s.plan.version + 1 ∧ u.plan.cdie = r.change.die ∧ u.plan.cunit = r.change.cunit ∧
        u.planDie r.change.die = r.change.apply (s.planDie r.change.die) ∧
        (∀ e, e ≠ r.change.die → u.planDie e = s.planDie e) ∧
        (s.cur ∈ s.placed → u.dieAlive s.cur.die = true → s.cx.ballast = none →
          u.cx.ctl.rmp = BitVec.ofNat 64 (s.plan.version + 1)))) ∧
    (let hit := s.outside.mail
      let dead := ((numsFrom 0 8).filter fun e => !s.leaseLive e).length
      let term := (s.lastLease.2.1 + 1) % 2 ^ 56
      let wins := ((numsFrom 0 8).filter fun e => hit.getLsbD e).length
      (l.running = false ∨ s.dieAlive d = false ∨ dead < 5 ∨ s.nowUs < s.claimAt d → same (.leaseClaim d)) ∧
      (l.running = true → s.dieAlive d = true → 5 ≤ dead → s.claimAt d ≤ s.nowUs → wins < 5 ∨ s.hy.expiries = 0 →
        ∃ t, exec (.leaseClaim d) s = .next t ∧ t.plan = s.plan ∧
          (∀ e, e < 8 → t.mailAt e = if hit.getLsbD e then { holder := d, term := term, stamp := s.nowUs } else s.mailAt e) ∧
          (5 ≤ wins → t.belv = (d, term) ∧ t.unmanaged = false ∧
            t.lodgeAt d = { l with acting := some term, renewed := s.nowUs, again := false }) ∧
          (wins < 5 → t.belv = s.belv ∧ t.lodgeAt d = { l with again := true }))) ∧
    (∀ term, l.acting = some term →
      (let can := s.outside.mail
        let mine := fun (e : Nat) => can.getLsbD e && (s.mailAt e).holder = d && (s.mailAt e).term = term
        (s.actsNow d = false ∨ s.nowUs < l.renewed + 1000 → same (.leaseRenew d)) ∧
        (s.actsNow d = true → l.renewed + 1000 ≤ s.nowUs →
          ∃ t, exec (.leaseRenew d) s = .next t ∧ t.plan = s.plan ∧ t.belv = s.belv ∧
            (∀ e, e < 8 → t.mailAt e =
              if mine e then { holder := d, term := term, stamp := s.nowUs } else s.mailAt e) ∧
            t.lodgeAt d = if 5 ≤ ((numsFrom 0 8).filter mine).length then { l with renewed := s.nowUs } else l)) ∧
      (l.renewed + 3500 ≤ s.nowUs → exec (.belvedereLapse d) s = .next (s.modLodge d fun l => { l with acting := none })) ∧
      (s.nowUs < l.renewed + 3500 → same (.belvedereLapse d))) ∧
    (let can := s.outside.mail
      let last := (s.lodge.toList.map Lodge.actsUntil).foldl Nat.max 0
      let few := ((numsFrom 0 8).filter fun e => can.getLsbD e).length < 5
      (few → s.acting = none → last + 100000 ≤ s.nowUs →
        exec .packageUnmanaged s = .next { s.faultJob with unmanaged := true }) ∧
      (¬ few ∨ s.acting ≠ none ∨ s.nowUs < last + 100000 → same .packageUnmanaged)) ∧
    ((l.running = true → (∀ t, l.lastHalt = some t → t + 86400000000 ≤ s.nowUs) → exec (.lodgeHalt d) s = .next halted) ∧
      (∀ t, l.running = true → l.lastHalt = some t → s.nowUs < t + 86400000000 →
        exec (.lodgeHalt d) s = .next ((halted.logEvent d 9 1 0 0).post (.lodge d 2) (some 9) 0 0))) ∧
    (∀ t, l.haltedAt = some t →
      (t + 20000 ≤ s.nowUs → (s.planDie d).lodge = 0 → (∀ r ∈ s.changes, r.change ≠ .lodge d 1) →
        exec (.lodgeReloadTimeout d) s = .next (s.post (.lodge d 1) none 0 0)) ∧
      (s.nowUs < t + 20000 → same (.lodgeReloadTimeout d)) ∧
      (let errA := s.outside.errA.getLsbD d
       let errB := s.outside.errB.getLsbD d
       s.acting ≠ none → (s.planDie d).lodge ≠ 2 →
        ∃ u, exec (.lodgeReloadComplete d) s = .next u ∧ u.plan = s.plan ∧
          (s.boot.pick errA errB = none → u.lodgeAt d = l ∧
            u.changes = s.changes ++ [{ change := .lodge d 2, cls := some 9, unit := 0, addr := 0 }]) ∧
          (∀ slot, s.boot.pick errA errB = some slot →
            let told := (s.planDie d).lodge = 1 ∨ ∃ r ∈ s.changes, r.change = .lodge d 1
            let back : Report := { change := .lodge d 0, cls := some 9, unit := 0, addr := 0 }
            u.lodgeAt d = { l with running := true, haltedAt := none } ∧
            (told → u.changes = s.changes ++ [back]) ∧
            (¬ told → t + 20000 ≤ s.nowUs →
              u.changes = s.changes ++ [{ change := .lodge d 1, cls := none, unit := 0, addr := 0 }, back]) ∧
            (¬ told → s.nowUs < t + 20000 → u.changes = s.changes)))) ∧
    (∀ c, k < 6 → s.dieAlive d = true → (s.planDie d).clusters[k]? = some c → ∃ u, exec (.clusterReplan d k) s = .next u ∧
      u.plan = s.plan ∧ u.changes = s.changes ++
        if s.replanDue d k c = false then [] else match s.replan d k c with
        | none => [{ change := .clusterOff d k, cls := some 15, unit := k, addr := 0 }]
        | some x =>
          (if x.1 < c.mhz then [{ change := .clock d k x.1, cls := none, unit := 0, addr := 0 }] else []) ++
          (if x.2 ≠ c.mv then [{ change := .volt d k x.2, cls := none, unit := 0, addr := 0 }] else []))

/-! ### Errors -/

/-- R382 to R384, R387, R397, R439: an error that its second attempt does not show is logged as transient; one that it
shows again is logged as lasting and has its unit retired: SRAM words and lines, register files, the matrix unit, the
scheduler, lodge cores, ports and DRAM rows, sixteen corrected errors of a line or row within 24 h counting as a lasting
one, as do two nodes within 24 h that failed on a core and succeeded on another. The model's choice: a line of a weight
buffer or of the Cleat always finds a spare, and what a second attempt shows is the happening's operand (log 50).
R384, R387, R388: a suspect line whose failing words have all been written whole again is cleared, or moved to a spare
line with its bytes, or retires its core or vault once no spare is left; the scheduler's tables are rebuilt from the
mirror, or the job is faulted, and the tail writes held back meanwhile take effect. A line move is an event and a version
(R440), whose event names it once it is published. -/
def Obligations.ErrorHandling : Prop :=
 (∀ (s : State) (d cls unit addr : Nat) (corrected lasting : Bool), d < 8 →
    let e := fun co la => exec (.errorRetryClassify d cls unit addr co la) s
    let log := fun k => s.logEvent d cls k unit addr
    let past := fun c u => (((s.against.find? fun a => a.die = d && a.cls = c && a.unit = u).map (·.times)).getD []).filter
      fun t => s.nowUs < t + 86400000000
    let retires := fun c => e corrected false = .next (log 0) ∧ e corrected true = .next ((log 1).post c (some cls) unit 0)
    (s.dieAlive d = false → e corrected lasting = .next s) ∧
    (s.dieAlive d = true →
      (cls < 16 → ∀ kind, s.life.get evTotal < 2 ^ 64 - 1 →
        let n := s.life.get evTotal
        let l := (log kind).life
        l.get evTotal = n + 1 ∧ l.get (eventAt n) = s.nowUs / 1000 % 2 ^ 44 + 2 ^ 44 * (s.life.get 0x10 % 2 ^ 20) ∧
          l.get (eventAt n + 8) = (d + 256 * cls + 65536 * kind + 2 ^ 32 * unit) % 2 ^ 64 ∧
          l.get (eventAt n + 16) = addr % 2 ^ 64 ∧ l.get (eventAt n + 24) = s.plan.version % 2 ^ 64) ∧
      (cls ≤ 3 →
        let k := sramKey d cls unit addr
        e false false = .next (log 0) ∧
        (∃ u, e false true = .next u ∧ u.life = s.life ∧ u.mem = s.mem ∧ u.bad = setIns s.bad (k / 8) ∧
          (u.die d).suspects = setIns (s.die d).suspects (k / 128)) ∧
        ((past (100 + cls) (k / 128)).length < 15 → ∃ u, e true lasting = .next u ∧ u.life = (log 0).life ∧
          u.changes = s.changes ∧ u.mem = s.mem) ∧
        (15 ≤ (past (100 + cls) (k / 128)).length → ∃ u : State, e true lasting = .next (u.moveLine d (k / 128)) ∧
          u.life = s.life ∧ u.changes = s.changes ∧ u.mem = s.mem ∧ u.dies = s.dies)) ∧
      (cls = 4 ∨ cls = 5 → e corrected lasting = .next (log (if lasting then 1 else 0))) ∧
      (cls = 6 → e corrected false = .next (log 0) ∧
        e corrected true = .next (((log 1).post (.coreOff d unit) (some 6) unit 0).loseContext ⟨d, unit, addr % 4⟩)) ∧
      (cls = 7 → retires (.coreOff d unit)) ∧
      (cls = 8 → e corrected false = .next (log 0) ∧ ∃ u, e corrected true = .next u ∧
        u.changes = s.changes ++ [{ change := .spares d, cls := some 8, unit := unit, addr := addr }] ∧
        (u.die d).sched = { (s.die d).sched with rebuilding := true }) ∧
      (cls = 9 → retires (.lodge d 2)) ∧
      (cls = 10 ∨ cls = 11 → retires (.portMode d unit 0)) ∧
      (cls = 12 ∨ cls = 13 →
        let cap := decide (cls = 13)
        let row := Config.dramRow cap addr
        e false false = .next (log 0) ∧
        ((past (100 + cls) row).length < 15 → ∃ u, e true lasting = .next u ∧ u.life = (log 0).life ∧ u.mem = s.mem) ∧
        (s.rowsUsed d cap unit < 4 →
          e false true = .next ((s.repairRow d cap unit addr).logEvent d cls 3 unit addr)) ∧
        (4 ≤ s.rowsUsed d cap unit → e false true = .next (s.post (.memOff d cap) (some cls) unit addr)) ∧
        (15 ≤ (past (100 + cls) row).length → s.rowsUsed d cap unit < 4 → ∃ u : State, u.mem = s.mem ∧ u.life = s.life ∧
          u.dies = s.dies ∧ e true lasting = .next ((u.repairRow d cap unit addr).logEvent d cls 3 unit addr))) ∧
      (cls = 14 → e corrected lasting = .next (log (if lasting then 1 else 0)))) ∧
    (s.cur.die = d → unit ≠ s.cur.core →
      let t := s.replayDone [(unit, cls)]
      (past 4 unit = [] → t.life = (s.logEvent d cls 0 unit 0).life ∧ t.changes = s.changes) ∧
      (past 4 unit ≠ [] → t.life = (s.logEvent d cls 1 unit 0).life ∧
        t.changes = s.changes ++ [{ change := .coreOff d unit, cls := some cls, unit := unit, addr := 0 }]))) ∧
 ((∀ (s : State) (d line : Nat) (clean : Bool), d < 8 →
    let waits := line ∉ (s.die d).suspects ∨ ∃ w, w / 16 = line ∧ w ∈ s.bad
    let u := sramUnit (128 * line)
    (waits → exec (.sramLineRetest d line clean) s = .next s) ∧
    (¬ waits → ∃ t : State, t.mem = s.mem ∧ t.changes = s.changes ∧ t.bad = s.bad ∧
      (∀ x ∈ (t.die d).suspects, x ∈ (s.die d).suspects) ∧
      t.life = (if clean then s.logEvent d u.1 0 u.2.1 u.2.2 else s).life ∧
      (t.die d).spareLines = (s.die d).spareLines ∧
      exec (.sramLineRetest d line clean) s = .next (if clean then t else t.moveLine d line))) ∧
  (∀ (s : State) (d line : Nat), d < 8 →
    let u := sramUnit (128 * line)
    let key := if u.1 = 1 then 1000 + u.2.1 else u.2.1
    let used := tabGetD (s.die d).spareLines key 0
    let t := s.moveLine d line
    let full := (u.1 = 0 ∧ 32 ≤ used) ∨ (u.1 = 1 ∧ 256 ≤ used)
    t.mem = s.mem ∧
    (full → t.dies = s.dies ∧ t.life = (s.logEvent d u.1 1 u.2.1 u.2.2).life ∧ t.changes = s.changes ++ [{
      change := if u.1 = 0 then .coreOff d u.2.1 else .vaultOff d u.2.1, cls := some u.1, unit := u.2.1, addr := 0 }]) ∧
    (¬ full → t.changes = s.changes ++ [{ change := .spares d, cls := some u.1, unit := u.2.1, addr := u.2.2 }] ∧
      (u.1 ≤ 1 → tabGetD (t.die d).spareLines key 0 = used + 1))) ∧
  (∀ (s : State) (d : Nat) (ok : Bool), d < 8 →
    let u := s.modSched d fun x => { x with rebuilding := false, tails := [] }
    ((s.die d).sched.rebuilding = false → exec (.schedTableRebuild d ok) s = .next s) ∧
    ((s.die d).sched.rebuilding = true → exec (.schedTableRebuild d ok) s = .next
      ((s.die d).sched.tails.foldl (fun s t => s.setQtail d t.1 t.2) (if ok then u else u.faultJob)))))

/-! ### Host commands -/

/-- R340, R341: the command ring. With EN = 0, before READY, or with TAIL at HEAD no command executes; the record at HEAD
executes as its OPC says, and an unknown OPC, reserved flags, PRIV outside LAUNCH or a die that is not alive complete
BADCMD, and a command on a die without a job NOJOB. Completing writes STATUS, moves HEAD, and with NOTIFY sends
vector 0. The model's choice: PRIV on a command other than LAUNCH completes BADCMD, and commands wait for READY (log 53);
a command whose writes or reads must wait is performed later (R370, R393). -/
def Obligations.CommandRing : Prop :=
  (∀ s : State, s.nextCmd = none ↔ s.host.cmdEn = false ∨ s.boot.ready = false ∨ s.host.cmdHead = s.host.cmdTail) ∧
  (∀ (s : State) (c : Cmd) (f : CmdFail),
    let t := s.complete c f
    t.host.cmdHead = s.host.cmdHead + 1 ∧ t.dies = s.dies ∧ t.cx = s.cx ∧ t.ctxs = s.ctxs ∧
      (c.flags % 2 = 0 → t.host.sent = s.host.sent ∧ sameBytesBut (hostKey (c.addr + 8)) 8 s t ∧
        (f.code < 2 ^ 16 → t.rd (hostKey (c.addr + 8)) 8 = f.code + 2 ^ 16 * (f.detail % 2 ^ 16) + 2 ^ 63)) ∧
      (c.flags % 2 = 1 → (tabGetD s.host.msix 0 MsixEntry.reset).masked = false → t.host.sent = s.host.sent ++ [0])) ∧
  (∀ (s : State) (i : Instr) (opc : Nat), (i, opc) ∈ [(.jobOpen, 1), (.jobClose, 2), (.pageroot, 3), (.trellis, 4),
      (.wheel, 5), (.layouts, 6), (.sched, 7), (.tids, 8), (.image, 9), (.queues, 10), (.launch, 11),
      (.resumeSuspended, 12), (.resumeJob, 12), (.switchOut, 13)] →
    let now := fun (c : Cmd) => s.nextCmd = some c
    let mine := fun (c : Cmd) => (i = .resumeSuspended → c.arg 0x10 1 % 2 = 0) ∧ (i = .resumeJob → c.arg 0x10 1 % 2 = 1 ∧ s.resumeHeld c = false) ∧
      (i = .jobClose → s.closeFits c = true) ∧ (i = .pageroot → s.rootWaits c = false) ∧
      (i = .switchOut → s.parkedOn c = false)
    (s.nextCmd = none → exec i s = .next s) ∧
    (∀ c, now c → (c.opc = 0 ∨ 13 < c.opc) → exec i s = .next (s.complete c { code := 1, detail := 0 })) ∧
    (∀ c, now c → 0 < c.opc → c.opc ≤ 13 → c.opc ≠ opc → exec i s = .next s) ∧
    (∀ c, now c → c.opc = opc → mine c → (c.flags / 4 ≠ 0 ∨ (c.priv = true ∧ opc ≠ 11) ∨ ∃ d ∈ c.dies, s.dieAlive d = false) →
      exec i s = .next (s.complete c { code := 1, detail := 0 })) ∧
    (∀ c, now c → c.opc = opc → mine c → c.flags / 4 = 0 → (c.priv = true → opc = 11) → (∀ d ∈ c.dies, s.dieAlive d = true) →
      i ≠ .jobOpen → i ≠ .resumeJob → (∃ d ∈ c.dies, (s.die d).job = none) →
      exec i s = .next (s.complete c { code := 3, detail := 0 })))

/-- R71, R224, R283, R286, R299, R342, R343, R399: what the commands that set up a die do. JOB_OPEN claims free dies and
gives them the state of a job's start, JOB_CLOSE frees them, PAGEROOT sets the translation root, TRELLIS, WHEEL, LAYOUTS,
SCHED, TIDS and QUEUES set their tables, IMAGE writes an SRAM; the first field or entry that a rule shuts out is refused
with its offset, a die in the way or a package out of reach is BUSY, and an argument block that cannot be read is FAULT. The
order of the checks and the offsets of FIRST and COUNT are the model's choice where the rules name none (log 53). -/
def Obligations.SetupCommands : Prop :=
  ∀ (s : State) (c : Cmd), s.nextCmd = some c → c.flags / 4 = 0 → c.priv = false → (∀ d ∈ c.dies, s.dieAlive d = true) →
    let is := fun n => c.opc = n ∧ ∀ d ∈ c.dies, (s.die d).job.isSome = true
    let done := fun (t : State) => Host.Outcome.next (t.complete c { code := 0, detail := 0 })
    let fails := fun code detail => Host.Outcome.next (s.complete c { code := code, detail := detail })
    let each := fun (f : State → Nat → State) => c.dies.foldl f s
    let launched := c.dies.find? fun d => (s.die d).launched
    let src := c.arg 0x10 8
    (c.opc = 1 →
      let job : Dword := BitVec.ofNat 64 src
      let inWay := (c.dies ++ numsFrom 0 8).find? fun d => (s.die d).job.isSome && (s.die d).job ≠ some job
      (2 ≤ c.arg 0x24 4 → exec .jobOpen s = fails 1 0) ∧
      (c.arg 0x24 4 < 2 → s.reads c .jobOpen (s.dmaRecs (c.arg 0x18 8) 8 (c.arg 0x20 4)) fun rs =>
        let pkgs := rs.map fun r => pkgOf r.2
        (∀ d, inWay = some d → exec .jobOpen s = fails 2 d) ∧
        (inWay = none → (∃ p ∈ pkgs, s.reaches p = false) → exec .jobOpen s = fails 2 0xFFFF) ∧
        (inWay = none → (∀ p ∈ pkgs, s.reaches p = true) → ∃ t, exec .jobOpen s = done t ∧
          (∀ d ∈ c.dies, (t.die d).job = some job ∧ (t.die d).diag = (c.arg 0x24 4 == 1) ∧ (t.die d).launched = false ∧
            (t.die d).xl.root = none ∧ (t.die d).sched = Die.reset.sched ∧ (t.die d).tables = Die.reset.tables) ∧
          t.hy.phc = 0 ∧ t.hy.arrived = 0 ∧ t.hy.frozen = false ∧ t.hy.pkgs = pkgs))) ∧
    (is 2 → s.closeFits c = true → ∃ t, exec .jobClose s = done t ∧
      ∀ d ∈ c.dies, (t.die d).job = none ∧ (t.die d).cores = [] ∧ (t.die d).sched = Die.reset.sched) ∧
    (is 3 → s.rootWaits c = false →
      let r : Root := { troot := src, imga := c.arg 0x18 8, imgb := c.arg 0x20 8, own := BitVec.ofNat 64 (c.arg 0x28 8) }
      let bad := c.dies.findSome? fun d => s.rootBad d r
      (∀ o, bad = some o → exec .pageroot s = fails 4 o) ∧
      (bad = none → ∃ t, exec .pageroot s = done t ∧
        ∀ d ∈ c.dies, (t.die d).xl.root = some r ∧ (t.die d).xl.tlb = [] ∧ (t.die d).job = (s.die d).job)) ∧
    (is 4 →
      let p := c.arg 0x18 16
      (16 < src → exec .trellis s = fails 4 0x10) ∧ (src ≤ 16 → 2 ^ 72 ≤ p → exec .trellis s = fails 4 0x18) ∧
      (∀ d, src ≤ 16 → p < 2 ^ 72 → launched = some d → exec .trellis s = fails 2 d) ∧
      (src ≤ 16 → p < 2 ^ 72 → launched = none → exec .trellis s = done (each fun s d => s.modTr d fun _ =>
        { Die.reset.tr with p := src, mask := BitVec.ofNat 72 p }))) ∧
    (is 5 → s.reads c .wheel (s.dmaRecs src 2 1024) fun es =>
      let bad := es.find? fun e => 575 < e.2 && e.2 ≠ 0xFFFF
      (∀ e, bad = some e → exec .wheel s = fails 4 (2 * e.1)) ∧
      (∀ d, bad = none → launched = some d → exec .wheel s = fails 2 d) ∧
      (bad = none → launched = none → exec .wheel s = done (each fun s d => s.modTables d fun t => { t with
        wheel := (es.filter fun e => e.2 ≠ 0xFFFF).map fun e => (e.1, BitVec.ofNat 16 e.2) }))) ∧
    (is 6 →
      let first := c.arg 0x18 4
      let count := c.arg 0x1C 4
      (256 ≤ first → exec .layouts s = fails 4 0x18) ∧
      (first < 256 → 256 < first + count → exec .layouts s = fails 4 0x1C) ∧
      (first < 256 → first + count ≤ 256 → s.reads c .layouts (s.dmaRecs src 32 count) fun raw =>
        let rs := raw.map fun r => (r.1, BitVec.ofNat 256 r.2)
        (∀ k v o, rs.find? (fun r => (layBad r.2 true).isSome) = some (k, v) → layBad v true = some o →
          exec .layouts s = fails 4 (32 * k + o)) ∧
        ((∀ r ∈ rs, layBad r.2 true = none) → exec .layouts s = done (each fun s d => s.modTables d fun t => { t with
          layouts := rs.foldl (fun l r => tabSet l (first + r.1) r.2) t.layouts })))) ∧
    (is 7 →
      let slot := c.arg 0x18 4
      (15 < slot → exec .sched s = fails 4 0x18) ∧
      (slot ≤ 15 → s.reads c .sched (s.dmaNat src 64) fun hdr =>
        let h : BitVec 512 := BitVec.ofNat 512 hdr
        let n := fieldAt h 16 16
        (n = 0 ∨ 64 < n → exec .sched s = fails 4 2) ∧
        (0 < n → n ≤ 64 → s.reads c .sched (s.dmaRecs (src + 64) 32 n) fun raw =>
          let k : Schedule := { header := h, steps := raw.map fun r => stepOf r.2 }
          (∀ o, schedBad h raw = some o → exec .sched s = fails 4 o) ∧
          (∀ t, schedBad h raw = none → s.schedMeets slot c.dies k = some t → exec .sched s = fails 4 (0x40 + 32 * t)) ∧
          (schedBad h raw = none → s.schedMeets slot c.dies k = none →
            exec .sched s = done (each fun s d => s.modTables d fun t => { t with scheds := tabSet t.scheds slot k }))))) ∧
    (is 8 →
      let first := c.arg 0x18 4
      let count := c.arg 0x1C 4
      (4096 ≤ first → exec .tids s = fails 4 0x18) ∧
      (first < 4096 → 4096 < first + count → exec .tids s = fails 4 0x1C) ∧
      (first < 4096 → first + count ≤ 4096 → s.reads c .tids (s.dmaRecs src 64 count) fun raw =>
        let rs := raw.map fun r => (r.1, BitVec.ofNat 512 r.2)
        (∀ k v o, rs.find? (fun r => (mapFault r.2).isSome) = some (k, v) → mapFault v = some o →
          exec .tids s = fails 5 (64 * k + o)) ∧
        ((∀ r ∈ rs, mapFault r.2 = none) →
          exec .tids s = done (each fun s d => rs.foldl (fun (s : State) r => s.tidWrite d (first + r.1) r.2) s)))) ∧
    (is 9 →
      let n := c.arg 0x18 4
      let sel := c.arg 0x1C 4
      let off := c.arg 0x20 8
      let v := sel / 256 % 128
      let cores := (numsFrom 0 576).filter fun k => sel / 2 ^ (1 + k / 96) % 2 = 1
      let size := if sel % 2 = 1 then 4194304 else spBytes
      let extra := if sel % 2 = 1 then sel / 2 % 128 ≠ 0 ∨ 32768 ≤ sel else 128 ≤ sel
      let full := ∃ d ∈ c.dies, ∃ k ∈ cores, s.spLimit d k < off + n
      (extra → exec .image s = fails 1 0) ∧
      (¬ extra → sel % 2 = 1 → 72 ≤ v → exec .image s = fails 4 0x1C) ∧
      (¬ extra → (sel % 2 = 1 → v < 72) →
        (size < n → exec .image s = fails 4 0x18) ∧
        (n ≤ size → size < off + n ∨ (sel % 2 = 0 ∧ full) → exec .image s = fails 4 0x20) ∧
        (off + n ≤ size → (sel % 2 = 0 → ¬ full) → s.reads c .image (s.dma src n) fun bs =>
          exec .image s = done (each fun s d => if sel % 2 = 1 then State.imagePut bs s (vaultKey d v off)
            else cores.foldl (fun s k => State.imagePut bs s (spKey d k off)) s)))) ∧
    (is 10 →
      let first := c.arg 0x18 4
      let count := c.arg 0x1C 4
      let held := c.dies.find? fun d => (numsFrom first count).any fun q => (s.queueAt d q).held
      (1024 ≤ first → exec .queues s = fails 4 0x18) ∧
      (first < 1024 → 1024 < first + count → exec .queues s = fails 4 0x1C) ∧
      (∀ d, first < 1024 → first + count ≤ 1024 → held = some d → exec .queues s = fails 2 d) ∧
      (first < 1024 → first + count ≤ 1024 → held = none → s.reads c .queues (s.dmaRecs src 32 count) fun rs =>
        ∃ t, exec .queues s = done t ∧ ∀ d ∈ c.dies,
          (∀ r ∈ rs, t.queueAt d (first + r.1) = Queue.ofDesc r.2 s.nowCyc) ∧
          (∀ q, q < first ∨ first + count ≤ q → t.queueAt d q = s.queueAt d q)))

/-- R36, R38, R41 to R44, R59, R342, R356, R363: LAUNCH is refused whole with the lowest offset at fault, or places a
context on every selected core of each named die with its registers set; RESUME lets suspended contexts go on with the cause
SAILPLAN_UNACKED, or thaws a frozen job, or restores dies from their images, whose memories and registers they then hold,
both copies bad losing the job; SWITCH_OUT saves a frozen job and frees its dies. A job resumed in place has the granules of
former carry destinations full, and its wheel counts afresh. The offset of a refusal that R42 names no offset for is the
model's choice (log 55), as are the waits of SWITCH_OUT (log 54) and what of a die is
kept beside its image (log 56). -/
def Obligations.LaunchAndResume : Prop :=
  ∀ (s : State) (c : Cmd), s.nextCmd = some c → c.flags / 4 = 0 → (∀ d ∈ c.dies, s.dieAlive d = true) →
    let jobs := ∀ d ∈ c.dies, (s.die d).job.isSome = true
    let done := fun (t : State) => Host.Outcome.next (t.complete c { code := 0, detail := 0 })
    let fails := fun code detail => Host.Outcome.next (s.complete c { code := code, detail := detail })
    let mode := c.arg 0x10 8
    (c.opc = 11 → jobs →
      let allowed := c.priv = true → ∀ d ∈ c.dies, (s.die d).diag = true
      (¬ allowed → exec .launch s = fails 7 0) ∧
      (allowed → s.reads c .launch (s.dmaNat (c.arg 0x10 8) 128) fun hdr =>
      let l : Launch := { id := 0, header := BitVec.ofNat 1024 hdr, ctxs := [], priv := c.priv }
      let faults := c.dies.flatMap fun d => s.launchFaults d l
      (∀ o os, faults = o :: os → ∃ m ∈ faults, (∀ x ∈ faults, m ≤ x) ∧ exec .launch s = fails 4 m) ∧
      (faults = [] → ∃ t, exec .launch s = done t ∧
        ∀ d ∈ c.dies, (t.die d).launched = true ∧
          (∃ y, (t.die d).sched.launches = (s.die d).sched.launches ++ [y] ∧ y.header = l.header ∧ y.priv = c.priv ∧
            y.ctxs = (s.coresOf d l).flatMap fun core => l.picks.map fun k => 4 * core + k) ∧
          (∀ q ∈ l.queues, q < 1024 → (t.queueAt d q).held = true) ∧ ∀ core ∈ s.coresOf d l, ∀ k ∈ l.picks,
          let x := t.ctx ⟨d, core, k⟩
          x.st = .ready ∧ x.pc = BitVec.ofNat 64 (l.fld 0 8) ∧ x.s.get 1 = BitVec.ofNat 64 (l.fld 0x70 8) ∧
            x.s.get 2 = BitVec.ofNat 64 (4 * core + k) ∧ x.prio = l.prio ∧ x.cap = l.cap ∧ x.level = 0 ∧ x.resume = none ∧
            x.tiles = BitVec.ofNat 8 (l.acc k) ∧ x.p0Ones))) ∧
    (c.opc = 12 → c.priv = false → c.arg 0x10 1 % 2 = 0 → jobs →
      (2 ≤ mode → exec .resumeSuspended s = fails 1 0) ∧
      (mode < 2 → ∃ t, exec .resumeSuspended s = done t ∧ t.mem = s.mem ∧ t.dies = s.dies ∧
        (s.cur ∈ s.placed → s.cur.die ∈ c.dies → s.cx.st = .suspended →
          t.cx.st = .ready ∧ t.cx.sailPend = true ∧ t.cx.s = s.cx.s ∧ t.cx.pc = s.cx.pc) ∧
        (s.cx.st ≠ .suspended → t.cx = s.cx))) ∧
    (c.opc = 12 → c.priv = false → c.arg 0x10 1 % 2 = 1 →
      let e := exec .resumeJob s
      let held := c.dies.find? fun d => (s.die d).job.isSome
      let free := c.dies.find? fun d => (s.die d).job.isNone
      let first := fun d => (s.die d).xl.dir.head?
      let other := s.otherJob (s.restorable c.dies)
      let bad := ∃ d ∈ c.dies, ∃ x, first d = some x ∧ s.bestImage d x = none
      let lacking := ∃ d ∈ c.dies, ∃ x, first d = some x ∧ s.lacks d x.saved = true
      (s.resumeHeld c = true → e = .next s) ∧
      (s.resumeHeld c = false →
        (2 ≤ mode → e = fails 1 0) ∧
        (∀ d, mode = 1 → held = some d → s.hy.frozen = false → e = fails 2 d) ∧
        (∀ d f, mode = 1 → held = some d → s.hy.frozen = true → free = some f → e = fails 2 f) ∧
        (∀ d, mode = 1 → held = some d → s.hy.frozen = true → free = none → ∃ t, e = done t ∧
          t.hy = { s.hy with frozen := false } ∧ t.mem = s.mem ∧
          t.empty = (c.dies.flatMap fun d => (s.die d).xf.former.flatMap Window.granules).foldl setDel s.empty ∧
          (∀ d ∈ c.dies, (t.die d).xf.former = [] ∧ (t.die d).tables.wheelPos = 0 ∧ (t.die d).tables.wheelRev = 0) ∧
          (s.cur ∈ s.placed → s.cur.die ∈ c.dies → s.cx.st = .frozen →
            t.cx.st = .ready ∧ t.cx.s = s.cx.s ∧ t.cx.pc = s.cx.pc)) ∧
        (mode = 1 → held = none → (∃ d ∈ c.dies, first d = none) → e = fails 3 0) ∧
        (mode = 1 → held = none → (∀ d ∈ c.dies, first d ≠ none) →
          (∀ d, other = some d → e = fails 2 d) ∧
          (other = none → bad → ¬ lacking → e = .next ((c.dies.foldl State.dropEntry s).complete c { code := 4, detail := 0xFFFF })) ∧
          (other = none → lacking → e = fails 4 0xFFFE) ∧
          (other = none → ¬ bad → ¬ lacking → s.memOk → ∃ t, e = done t ∧
            (∀ d x, c.dies.head? = some d → first d = some x → t.hy.phc = BitVec.ofNat 64 x.phc ∧ t.hy.frozen = false) ∧
            ∀ d ∈ c.dies, ∀ x m, first d = some x → s.bestImage d x = some m →
              let f := fun off n => Img.nat m off n
              (t.die d).job = some x.job ∧ (t.die d).xl.root = some x.root ∧ (t.die d).xl.dir = (s.die d).xl.dir.drop 1 ∧
              (t.die d).xl.tlb = [] ∧ (t.die d).tables.wheelPos = 0 ∧
              (∀ o, o < 8388608 → (t.byte (cleatKey d o)).toNat = f (0x80000 + o) 1) ∧
              (∀ v o, v < 72 → o < 4194304 → (t.byte (vaultKey d v o)).toNat = f (0x880000 + 4194304 * v + o) 1) ∧
              (∀ k, k < 576 →
                let b := 0x12AC0000 + k * 0xA3000
                (∀ o, o < 393216 → (t.byte (spKey d k o)).toNat = f (b + o) 1) ∧
                (∀ o, o < 131072 → (t.byte (wbKey d k o)).toNat = f (b + 0x60000 + o) 1)) ∧
              ∀ y ∈ x.saved.ctxs,
                let g := ctxIn d y.1
                let w := 0x12AC0000 + g.core * 0xA3000 + 0x93000 + 16384 * g.ctx
                let z := t.ctx g
                z.pc = BitVec.ofNat 64 (f (w + 8) 8) ∧ z.level = f w 8 / 8 % 4 ∧ z.cap = codeCap (f w 8 / 32 % 4) ∧
                  (∀ i : Fin 48, z.s.get i = BitVec.ofNat 64 (f (w + 0x40 + 8 * i.val) 8)) ∧
                  (∀ i : Fin 48, i.val < z.cap → z.v.get i = BitVec.ofNat 2048 (f (w + 0xB00 + 256 * i.val) 256)) ∧
                  (∀ i : Fin 16, i ≠ 0 → z.p.get i = BitVec.ofNat 256 (f (w + 0x380 + 32 * i.val) 32)) ∧ z.p0Ones ∧
                  (∀ i : Fin 8, z.m.get i = BitVec.ofNat 64 (f (w + 0x340 + 8 * i.val) 8)) ∧
                  z.b = Vector.replicate 8 none ∧ z.ctl.rmp = BitVec.ofNat 64 s.plan.version)))) ∧
    (c.opc = 13 → c.priv = false → jobs → s.parkedOn c = false →
      let inWay := c.dies.find? fun d => !s.hy.frozen || (s.die d).xl.dir.length ≥ 16 || (s.die d).xl.root.isNone
      (∀ d, inWay = some d → exec .switchOut s = fails 2 d) ∧
      (inWay = none → ∃ t, exec .switchOut s = done t ∧ t.power.duty = 0 ∧
        ∀ d ∈ c.dies, (t.die d).job = none ∧ (t.die d).xl.dir.length = (s.die d).xl.dir.length + 1 ∧
          (∃ e ∈ (t.die d).xl.dir, some e.job = (s.die d).job ∧ some e.root = (s.die d).xl.root ∧ e.phc = s.hy.phc.toNat)))

/-! ### Host registers and windows -/

/-- R336, R339, R340, R344, R369, R387, R403, R427, R432, R437: the host writes that act at once, after the moves that park
an earlier BAR4 write have ended. A CMD_TAIL that would hold more
records than the ring is ignored with CMDFAULT; EN rising takes BASE and LOG2N, unless LOG2N is outside 6 to 12; a QTAIL
write publishes records or is refused, and is held while the scheduler's tables are rebuilt; invalidations drop cached translations, XL_STATUS reading BUSY while a parked write holds one; TC_CTL, TH_LIMITS and PW_CTL keep their
fields in range; unmasking sends a pending message; SNAP asks for a snapshot and LR_DATA is read at OFFS, which goes on. That such a write
ends the moves that hold the host's own is the model's reading of R339 and R370 (log 51). -/
def Obligations.HostRegisters : Prop :=
  ∀ (s0 : State) (v : Dword) (d : Nat), d < 8 →
    let s := s0.settleHost
    let host := fun (h : HostPort) => Host.Outcome.next { s with host := h }
    let next := fun (t : State) => Host.Outcome.next t
    let t : BitVec 32 := v.setWidth 32
    (2 ^ s.host.ringLog2n < (t - s.host.cmdHead).toNat →
      exec (.cmdTailWrite v) s0 = host { s.host with err := s.host.err ||| 4 }) ∧
    ((t - s.host.cmdHead).toNat ≤ 2 ^ s.host.ringLog2n → exec (.cmdTailWrite v) s0 = host { s.host with cmdTail := t }) ∧
    (let n := v.toNat % 16;
      (v.getLsbD 4 = true → s.host.cmdEn = false → 6 ≤ n → n ≤ 12 → exec (.cmdCtlWrite v) s0 = host { s.host with
        cmdLog2n := n, cmdEn := true, ringBase := s.host.cmdBase, ringLog2n := n, cmdHead := 0, cmdTail := 0 }) ∧
      (v.getLsbD 4 = true → s.host.cmdEn = false → n < 6 ∨ 12 < n →
        exec (.cmdCtlWrite v) s0 = host { s.host with cmdLog2n := n }) ∧
      (v.getLsbD 4 = false → exec (.cmdCtlWrite v) s0 = host { s.host with cmdLog2n := n, cmdEn := false }) ∧
      (v.getLsbD 4 = true → s.host.cmdEn = true → exec (.cmdCtlWrite v) s0 = host { s.host with cmdLog2n := n })) ∧
    (∀ q, (s.die d).sched.rebuilding = true → exec (.qtail d q v) s0 = next (s.modDie d fun x =>
      { x with sched := { x.sched with tails := x.sched.tails ++ [(q, v)] } })) ∧
    (∀ q, q < 1024 → (s.die d).sched.rebuilding = false →
      let x := s.queueAt d q
      let n := (t - x.tail).toNat
      let bad := x.log2n = 0 ∨ x.prod = true ∨ x.room < n
      let m : Dword := v &&& 0xFFFFFFFF
      exec (.qtail d q (v ||| 0x100000000)) s0 = next s ∧
      (bad → (x.note = 2 → 16 ≤ x.vec → x.vec < 2048 → exec (.qtail d q m) s0 = next (s.sendVec x.vec)) ∧
        (x.note ≠ 2 ∨ x.vec < 16 ∨ 2048 ≤ x.vec → exec (.qtail d q m) s0 = next s)) ∧
      (¬ bad → n = 0 → exec (.qtail d q m) s0 = next s) ∧
      (¬ bad → n ≠ 0 → ∃ u : State, exec (.qtail d q m) s0 = next (u.wakeQueue d q) ∧ u.cx = s.cx ∧ u.ctxs = s.ctxs ∧ u.mem = s.mem ∧
        (u.queueAt d q).tail = t ∧ (u.queueAt d q).head = x.head ∧ ∀ r, r ≠ q → u.queueAt d r = s.queueAt d r)) ∧
    (∃ u, exec (.xlInvAll d) s0 = next u ∧ (u.die d).xl = { (s.die d).xl with tlb := [] } ∧
      (u.dieReg d 0x108 = if (s.die d).tiers.parked = [] then 0 else 1) ∧
      ∀ e, e ≠ d → u.die e = s.die e) ∧
    (∀ page, ∃ u, exec (.xlInvPage d page) s0 = next u ∧ (∀ e, e ≠ d → u.die e = s.die e) ∧
      ∀ x, x ∈ (u.die d).xl.tlb ↔ x ∈ (s.die d).xl.tlb ∧ page * 65536 / 2 ^ x.bits ≠ x.base / 2 ^ x.bits) ∧
    (∃ u, exec (.tcCtlWrite d v) s0 = next u ∧ (u.die d).tiers = { (s.die d).tiers with
      en := v.getLsbD 0, thresh := Nat.max 1 (v.toNat / 256 % 256), epoch := v.toNat / 65536 % 16
      maxmov := Nat.max 1 (Nat.min 16 (v.toNat / 1048576 % 32)) }) ∧
    (let w := Nat.min (v.toNat % 65536) 864
      let h := Nat.min (v.toNat / 65536 % 65536) 896
      let p := Nat.min (v.toNat / 4294967296 % 65536) 960
      let x := (s.die d).th
      let u := s.modDie d fun y => { y with th := { y.th with warn := w, throt := h, trip := p } }
      (h < w ∨ p < h → exec (.thLimitsWrite d v) s0 = next s) ∧
      (w ≤ h → h ≤ p → s.dieAlive d = false ∨ x.valid = false ∨ x.max < p → exec (.thLimitsWrite d v) s0 = next u) ∧
      (w ≤ h → h ≤ p → s.dieAlive d = true → x.valid = true → p ≤ x.max →
        exec (.thLimitsWrite d v) s0 = next (u.heatLoss d))) ∧
    exec (.pwCtlWrite v) s0 = next { s with power := { s.power with
      en := v.getLsbD 0, set := Nat.max 2400 (Nat.min 3600 (v.toNat / 65536 % 65536))
      duty := if v.getLsbD 0 then s.power.duty else 0 } } ∧
    exec .snap s0 = next { s with life := { s.life with snapping := true, snapshot := none } } ∧
    (∃ u, exec .lrDataRead s0 = next u ∧ u.life = { s0.life with offs := (s0.life.offs + 1) % 2 ^ 21 } ∧ u.mem = s0.mem ∧
      (s0.life.snapshot = none → u.host.readData = 0) ∧
      (∀ i, s0.life.snapshot = some i → 8 * s0.life.offs < 0x133000 → u.host.readData = tabGetD i s0.life.offs 0) ∧
      (0x133000 ≤ 8 * s0.life.offs → u.host.readData = 0)) ∧
    (∀ k, k < 2048 →
      let e := tabGetD s.host.msix k MsixEntry.reset
      let u := { s with host := { s.host with msix := tabSet s.host.msix k { e with masked := false, pending := false } } }
      (e.pending = false → exec (.msixUnmask k) s0 = next u) ∧
      (e.pending = true → ∃ z, exec (.msixUnmask k) s0 = next z ∧ z.host = { u.host with sent := s.host.sent ++ [k] } ∧
        z.rd (hostKey e.addr.toNat) 4 = e.data.toNat)) ∧
    (∀ k, 2048 ≤ k → exec (.msixUnmask k) s0 = next s0)

/-- R3, R4, R40, R334, R337, R339, R347: a host access of BAR0 that is not 4 or 8 bytes and aligned is not carried out and
sets REGSIZE; bits written 1 to a W1C field clear it and the others stay; a 4-byte access reaches its half alone; a
BAR4 access reaches a die's device memory through WINMAP and translation, or reads all ones or is dropped with WINFAULT
and the first one's offset; a write that finds the park buffer full waits for the end of its group's move, and an access
whose lines a diagnostic packet holds back waits. That a read meets the parked writes of the host only is the model's choice
(log 51), as are the offsets of these events. -/
def Obligations.HostAccesses : Prop :=
  ∀ (s0 : State) (v : Dword) (d off : Nat), d < 8 →
    let s := s0.settleHost
    let now := fun (h : HostPort) => Host.Outcome.next { s0 with host := h }
    let host := fun (h : HostPort) => Host.Outcome.next { s with host := h }
    let reg := fun o => 0x4000000 + o
    (∀ size write, (size ≠ 4 ∧ size ≠ 8) ∨ off % size ≠ 0 → exec (.regsizeAccess off size write) s0 = now { s0.host with
      err := s0.host.err ||| 1, readData := if write then s0.host.readData else 0 }) ∧
    (off % 8 = 0 → off ≠ 0x400C018 → exec (.regsizeAccess off 8 false) s0 = now { s0.host with readData := s0.reg off }) ∧
    (off % 8 = 0 → off ≠ 0x400C018 →
      exec (.regsizeAccess off 4 false) s0 = now { s0.host with readData := s0.reg off &&& 0xFFFFFFFF } ∧
      exec (.regsizeAccess (off + 4) 4 false) s0 = now { s0.host with readData := s0.reg off >>> 32 }) ∧
    (off % 8 ≠ 0 → exec (.registerWrite off true v) s0 = now { s0.host with err := s0.host.err ||| 1 }) ∧
    (off % 4 ≠ 0 → exec (.registerWrite off false v) s0 = now { s0.host with err := s0.host.err ||| 1 }) ∧
    (∃ t, exec (.registerWrite (d * 0x800000 + 8) true v) s0 = .next t ∧ t.mem = s.mem ∧
      (t.die d).js = { (s.die d).js with status := (s.die d).js.status &&& ~~~(v.setWidth 8) } ∧
      ∀ e, e ≠ d → t.die e = s.die e) ∧
    exec (.registerWrite (d * 0x800000 + 12) false v) s0 = .next (s.modDie d id) ∧
    exec (.registerWrite (reg 0x10) true v) s0 = host { s.host with err := s.host.err &&& ~~~(v.setWidth 3) } ∧
    exec (.registerWrite (reg 0x800) true v) s0 = host { s.host with cmdBase := v &&& 0xFFFFFFFFFFFFF000 } ∧
    exec (.registerWrite (reg 0x804) false v) s0 =
      host { s.host with cmdBase := ((s.host.cmdBase &&& 0xFFFFFFFF) ||| v <<< 32) &&& 0xFFFFFFFFFFFFF000 } ∧
    exec (.registerWrite (reg 0x808) true v) s0 = exec (.cmdCtlWrite v) s0 ∧
    exec (.registerWrite (reg 0x810) true v) s0 = exec (.cmdTailWrite v) s0 ∧
    exec (.registerWrite (reg 0x1008) true v) s0 = exec (.hyCtlWrite v) s0 ∧
    exec (.registerWrite (reg 0x1010) true v) s0 = .next { s with hy := { s.hy with target := v } } ∧
    exec (.registerWrite (reg 0x1018) true v) s0 = .next { s with hy := { s.hy with
      strag := s.hy.strag && !v.getLsbD 1, premiss := s.hy.premiss && !v.getLsbD 3 } } ∧
    (∀ k (h : k < 32), exec (.registerWrite (reg (0x100 + 8 * k)) true v) s0 = host { s.host with
      winmap := s.host.winmap.set k (v &&& 0x01FFFFFFFE00000F) }) ∧
    (∀ len data, 2 ^ s0.host.bar4Log < off + (match data with | some (bs : List Byte) => bs.length | none => len) →
      exec (.hostWindowAccess off len data) s0 = .next s0) ∧
    (∀ len, 0 < len → off % 65536 + len ≤ 65536 → off + len ≤ 2 ^ s0.host.bar4Log →
      let fault := { s0.host with
        err := s0.host.err ||| 2, winaddr := if s0.host.err.getLsbD 1 then s0.host.winaddr else BitVec.ofNat 64 off }
      (s0.winDpa off false = none → 8 ≤ len →
        exec (.hostWindowAccess off len none) s0 = now { fault with readData := BitVec.allOnes 64 }) ∧
      (∀ write, s0.winHeld off len write = true → ∀ bs : List Byte, bs.length = len →
        exec (.hostWindowAccess off len (if write then some bs else none)) s0 = .next s0) ∧
      (∀ e va dpa bs, s0.winDpa off false = some (e, va, dpa) → s0.winHeld off len false = false → s0.parkedOver e dpa len (fun o => o = .host) = false →
        s0.devGet e dpa len = some bs →
        ∃ t, exec (.hostWindowAccess off len none) s0 = .next t ∧ t.host = { s0.host with
          readData := BitVec.ofNat 64 (leNat (bs.take 8)) }) ∧
      (∀ bs : List Byte, bs.length = len → s0.winDpa off true = none →
        exec (.hostWindowAccess off len (some bs)) s0 = now fault) ∧
      (∀ (bs : List Byte) e va dpa, bs.length = len → s0.winDpa off true = some (e, va, dpa) → s0.winHeld off len true = false →
        let full := s0.moving e (dpaGroup dpa) && !s0.parkRoom e (linesOf dpa len)
        let u := (if full then s0.endMove e (dpaGroup dpa) else s0).walked e va
        exec (.hostWindowAccess off len (some bs)) s0 =
          .next ((u.devPut e dpa (u.pageOf e va) bs .host).heat e dpa (linesOf dpa len)))) ∧
    (∀ write,
      let seg := 2 ^ (s0.host.bar4Log - 5)
      let m := s0.host.winmap[off / seg]?.getD 0
      let e := m.toNat / 2 % 8
      let base := m.toNat / 2 ^ 25 * 2 ^ 25
      (m.getLsbD 0 = false ∨ base % seg ≠ 0 ∨ s0.dieAlive e = false ∨ (s0.die e).job = none → s0.winDpa off write = none) ∧
      (m.getLsbD 0 = true → base % seg = 0 → s0.dieAlive e = true → (s0.die e).job ≠ none →
        (∀ x, s0.xlate e (base + off % seg) (if write then .write else .read) = .error x → s0.winDpa off write = none) ∧
        ∀ a, s0.xlate e (base + off % seg) (if write then .write else .read) = .ok a →
          s0.winDpa off write = if write && decide (sailPage ≤ a) then none else some (e, base + off % seg, a)))

/-! ### Device memory -/

/-- R394, R395: a word stored whole with its fresh code reads clean; any one flipped bit, of the 256 data bits or of the
code's ten, is corrected, any two of them are found uncorrectable; a poisoned word reads poisoned with its bytes as stored;
the five bits of the code that hold nothing decide nothing. -/
def Obligations.CheckCodes : Prop :=
  ∀ x, x < 2 ^ 256 →
    let bit : Nat → BitVec 16 := fun i => 1 <<< i
    eccDecode x (freshCode x) = (0, x) ∧
    (∀ i, i < 256 → eccDecode (x ^^^ 2 ^ i) (freshCode x) = (1, x)) ∧
    (∀ i, i < 10 → eccDecode x (freshCode x ^^^ bit i) = (1, x)) ∧
    (∀ i j, i < j → j < 256 → eccDecode (x ^^^ 2 ^ i ^^^ 2 ^ j) (freshCode x) = (2, x ^^^ 2 ^ i ^^^ 2 ^ j)) ∧
    (∀ i j, i < 256 → j < 10 → eccDecode (x ^^^ 2 ^ i) (freshCode x ^^^ bit j) = (2, x ^^^ 2 ^ i)) ∧
    (∀ i j, i < j → j < 10 → eccDecode x (freshCode x ^^^ bit i ^^^ bit j) = (2, x)) ∧
    (∀ y (c : BitVec 16), c.getLsbD 15 = true → eccDecode y c = (3, y)) ∧
    (∀ y (c u : BitVec 16), (∀ i, i < 10 ∨ i = 15 → u.getLsbD i = false) → eccDecode y (c ^^^ u) = eccDecode y c)

/-- R391 to R393, R395, R396, R405 to R408: a READ of a line, which no diagnostic packet sent earlier holds back, writes back its corrected words; a WRITE merges the masked bytes of
each word, a poisoned or uncorrectable word becoming poisoned unless it is written whole; diagnostic packets are served in
the order of their line, read and write with or without correction, and their replies reach the die in that order. What then goes on is a lock of an Idle context whose release had waited. -/
def Obligations.BaseDieRequests : Prop :=
  ∀ (s : State) (d : Nat), d < 8 →
    (∀ cap line,
      let w := lineWord d cap line
      let outside := fun (t : State) => ∀ k, k / 32 ≠ w → k / 32 ≠ w + 1 → t.byte k = s.byte k
      let fits := (line < if cap then 2 ^ 31 else 2 ^ 30) ∧ s.bdaHeld d (if cap then 1 else 0) (64 * line) 64 = false
      (¬ fits → exec (.dramRead d cap line none) s = .next s ∧
        ∀ mask data, exec (.dramWrite d cap line mask data none) s = .next s) ∧
      (fits → (∃ t, exec (.dramRead d cap line none) s = .next t ∧ outside t ∧ t.dies = s.dies ∧ t.cx = s.cx ∧
          ∀ h, h < 2 →
            ((s.readWord (w + h)).1 = 1 → t.readWord (w + h) = (0, (s.readWord (w + h)).2)) ∧
            ((s.readWord (w + h)).1 ≠ 1 → t.readWord (w + h) = s.readWord (w + h) ∧ t.codeAt (w + h) = s.codeAt (w + h))) ∧
        ∀ (mask : BitVec 64) (data : BitVec 512),
          ∃ t, exec (.dramWrite d cap line mask data none) s = .next t ∧ outside t ∧ t.dies = s.dies ∧ t.cx = s.cx ∧
            ∀ h, h < 2 →
              let m := mask.toNat / 2 ^ (32 * h) % 2 ^ 32
              let r := s.readWord (w + h)
              (m = 0 → t.readWord (w + h) = r) ∧
              (m ≠ 0 → ∃ y, y < 2 ^ 256 ∧ (∀ i, i < 32 → y / 256 ^ i % 256 =
                  (if mask.getLsbD (32 * h + i) then data.toNat / 2 ^ (256 * h) else r.2) / 256 ^ i % 256) ∧
                t.readWord (w + h) = (if m = 2 ^ 32 - 1 ∨ r.1 ≤ 1 then 0 else 3, y)))) ∧
    (∀ k cmd, ∀ p, s.diagAt d k cmd = some p ↔ ((s.die d).tiers.diag[k]? = some p ∧ p.cmd = cmd ∧ p.reply = none ∧
      ∀ q ∈ (s.die d).tiers.diag.take k, q.reply = none → q.addr ≠ p.addr ∨ q.cap ≠ p.cap)) ∧
    (∀ k cap line mask data,
      (s.diagAt d k 0 = none → exec (.dramRead d cap line (some k)) s = .next s) ∧
      (s.diagAt d k 1 = none → exec (.dramWrite d cap line mask data (some k)) s = .next s) ∧
      (s.diagAt d k 2 = none → exec (.bdRawrd d k) s = .next s) ∧
      (s.diagAt d k 3 = none → exec (.bdRawwr d k) s = .next s) ∧
      (∀ p, s.diagAt d k 0 = some p →
        let r0 := s.readWord (p.word d)
        let r1 := s.readWord (p.word d + 1)
        exec (.dramRead d cap line (some k)) s = .next ((s.lineRead (p.word d)).1.setReply d k
          (p.answer r0.1 r1.1 0 (r0.2 + 2 ^ 256 * r1.2)))) ∧
      (∀ p, s.diagAt d k 1 = some p → ∃ st0 st1,
        exec (.dramWrite d cap line mask data (some k)) s =
          .next ((s.lineWrite (p.word d) p.mask p.data).1.setReply d k (p.answer st0 st1 0 0)) ∧
        (p.mask.toNat % 2 ^ 32 ≠ 0 → p.mask.toNat % 2 ^ 32 ≠ 2 ^ 32 - 1 → st0 = (s.readWord (p.word d)).1)) ∧
      (∀ p, s.diagAt d k 2 = some p →
        let w := p.word d
        exec (.bdRawrd d k) s = .next (s.setReply d k (p.answer (s.readWord w).1 (s.readWord (w + 1)).1
          ((s.codeAt w).toNat + 65536 * (s.codeAt (w + 1)).toNat) (s.rd (32 * w) 64)))) ∧
      (∀ p, s.diagAt d k 3 = some p →
        let w := p.word d
        ∃ t, exec (.bdRawwr d k) s = .next (t.setReply d k (p.answer 0 0 0 0)) ∧ t.rd (32 * w) 64 = p.data.toNat ∧
          t.codeAt w = p.check.setWidth 16 ∧ t.codeAt (w + 1) = (p.check >>> 16).setWidth 16 ∧
          sameBytesBut (32 * w) 64 s t ∧ t.dies = s.dies)) ∧
    (∀ k,
      let l := (s.die d).tiers.diag
      let mayCome := fun (p : DiagPkt) => p.reply.isSome = true ∧ p.arrived = false ∧
        ∀ q ∈ l.take k, q.arrived = true ∨ q.addr ≠ p.addr ∨ q.cap ≠ p.cap
      (l.length ≤ k → exec (.bdReplyArrive d k) s = .next s) ∧
      (∀ p, l[k]? = some p → ¬ mayCome p → exec (.bdReplyArrive d k) s = .next s) ∧
      (∀ p, l[k]? = some p → mayCome p → ∃ t : State, exec (.bdReplyArrive d k) s = .next (t.finishDrops d) ∧
        t.mem = s.mem ∧ t.cx = s.cx ∧ (t.die d).tables = (s.die d).tables ∧
        (t.die d).tiers = { (s.die d).tiers with
          diag := l.take k ++ l.drop (k + 1) ++ if p.orphan then [] else [{ p with arrived := true }] }))

/-- R370, R400 to R402, R431: a request makes its group the most recent of the 8 whose remap entries its set caches, and
counts for its member; hotness counters are halved once an epoch has passed; a group whose hotter capacity member leads the fast
member by the threshold is queued to move unless pinned, moving, disabled, at the limit or hot; when the move ends the
two pages have changed places, the remap entry says so, and the writes parked meanwhile are replayed; a move whose lines a
diagnostic packet holds back does not end. The set of a group, by its number, is the model's choice (log 63). -/
def Obligations.TierMoves : Prop :=
  ∀ (s : State) (d g : Nat), d < 8 → g < 2 ^ 20 →
    let x := (s.die d).tiers
    let r := s.remapOf d g
    (∀ dpa n, dpaGroup dpa = g →
      let t := ((s.heat d dpa n).die d).tiers
      let ways := tabGetD x.cache (g % 8192) []
      tabGetD t.cache (g % 8192) [] = (g :: ways.erase g).take 8 ∧
      (ways.length < 8 ∨ g ∈ ways ∧ ways.length = 8 →
        t.heatOf g (dpaMember dpa) = Nat.min 255 (x.heatOf g (dpaMember dpa) + n)) ∧
      ∀ h m, (ways.length < 8 ∨ g ∈ ways ∧ ways.length = 8) → (h, m) ≠ (g, dpaMember dpa) → m < 4 →
        t.heatOf h m = x.heatOf h m) ∧
    (s.nowUs < x.halvedAt + x.period → exec (.hotnessEpoch d) s = .next s) ∧
    (x.halvedAt + x.period ≤ s.nowUs → ∃ t, exec (.hotnessEpoch d) s = .next t ∧ t.mem = s.mem ∧
      (t.die d).tiers = { x with
        hot := (x.hot.filter fun e => 1 < e.2).map fun e => (e.1, e.2 / 2), halvedAt := x.halvedAt + x.period }) ∧
    (∀ m, x.candidate g = some m → m < 3 ∧ m ≠ r.fast ∧ x.heatOf g r.fast + x.thresh ≤ x.heatOf g m ∧
      ∀ j, j < 3 → j ≠ r.fast → j ≠ m → x.heatOf g j < x.heatOf g m ∨ x.heatOf g j = x.heatOf g m ∧ m < j) ∧
    (x.candidate g = none ↔ ∀ j, j < 3 → j ≠ r.fast → x.heatOf g j < x.heatOf g r.fast + x.thresh) ∧
    (let held := g ∉ tabGetD x.cache (g % 8192) [] ∨ r.pin = true ∨ s.moving d g = true ∨ x.en = false ∨ x.maxmov ≤ x.moves.length ∨ (s.die d).th.hot = true;
      (x.candidate g = none ∨ held → exec (.tierMoveStart d g) s = .next s) ∧
      (∀ m, x.candidate g = some m → ¬ held → exec (.tierMoveStart d g) s =
        .next (s.modTiers d fun t => { t with moves := t.moves ++ [{ group := g, member := m }] }))) ∧
    (s.moving d g = false → exec (.tierMoveEnd d g) s = .next s) ∧
    (∀ v, x.moves.find? (fun m => m.group = g) = some v → s.exchangeHeld d g v.member = true →
      exec (.tierMoveEnd d g) s = .next s) ∧
    (∀ v, x.moves.find? (fun m => m.group = g) = some v → s.exchangeHeld d g v.member = false → ∃ u : State,
      exec (.tierMoveEnd d g) s = .next (u.replayParked d g) ∧
      (u.die d).tiers.moves = x.moves.filter (fun m => m.group ≠ g) ∧ (u.die d).tiers.swaps = x.swaps + 1 ∧
      (u.die d).tiers.parked = x.parked ∧
      (v.member = r.fast → u.mem = s.mem) ∧
      (v.member ≠ r.fast →
        u.remapOf d g = { r with fast := v.member, slot0 := if r.slot0 = v.member then r.fast else r.slot0 } ∧
        (s.memOk → s.codes = [] →
          let a := bdaKey d 0 (g * 65536)
          let b := bdaKey d 1 ((if r.slot0 = v.member then 0 else 2 ^ 36) + g * 65536)
          (∀ o, o < 65536 → u.byte (a + o) = s.byte (b + o) ∧ u.byte (b + o) = s.byte (a + o)) ∧
          ∀ k, (k < a ∨ a + 65536 ≤ k) → (k < b ∨ b + 65536 ≤ k) → u.byte k = s.byte k)))

/-- R364 to R369, R379: a translation is that of a cached entry covering the address, else of the walk, whose page the walk
event caches; a write needs W, a fetch X; an entry of the walk must be valid, with its reserved bits zero, aligned and
in owned memory, and an entry that reads uncorrectable stops the walk, whose reads are ordinary DRAM reads: one that a diagnostic packet
holds back waits, and a corrected word is written back. The set of the shared TLB, by the page's number, and that the oldest
entry of a set is replaced are the model's choice (log 63). -/
def Obligations.AddressTranslation : Prop :=
  ∀ (s : State) (d va : Nat), d < 8 →
    let covers := fun (e : TlbEntry) => decide (va / 2 ^ e.bits = e.base / 2 ^ e.bits)
    let tlb := (s.die d).xl.tlb
    let found := tlb.find? covers
    (∀ w f, 2 ^ 57 ≤ va → exec (.translationWalk d va w f) s = .next s) ∧
    (∀ w f, (∃ a ∈ s.walkReads d va, s.dpaHeld d a 8 = true) → exec (.translationWalk d va w f) s = .next s) ∧
    (∀ w f x, va < 2 ^ 57 → (∀ a ∈ s.walkReads d va, s.dpaHeld d a 8 = false) → s.walk d va = .error x →
      ∃ t, exec (.translationWalk d va w f) s = .next t ∧ (s.codes = [] → t.mem = s.mem) ∧ t.cx = s.cx ∧
        (t.die d).xl = (s.die d).xl) ∧
    (∀ w f e, va < 2 ^ 57 → (∀ a ∈ s.walkReads d va, s.dpaHeld d a 8 = false) → s.walk d va = .ok e →
      (found ≠ none → exec (.translationWalk d va w f) s = .next s) ∧
      (found = none → ∃ t, exec (.translationWalk d va w f) s = .next t ∧ (s.codes = [] → t.mem = s.mem) ∧ t.cx = s.cx ∧
        (∀ k, k ≠ d → t.die k = s.die k) ∧
        (t.die d).xl = { (s.die d).xl with tlb := (t.die d).xl.tlb } ∧
        let alike := tlb.filter fun y => y.base / 2 ^ y.bits % 1024 = e.base / 2 ^ e.bits % 1024
        (alike.length < 8 → (t.die d).xl.tlb = e :: tlb) ∧
        (8 ≤ alike.length → ∃ y, alike.getLast? = some y ∧ (t.die d).xl.tlb = e :: tlb.erase y))) ∧
    (∀ u, 2 ^ 57 ≤ va → s.xlate d va u = .error .invalid) ∧
    (∀ u x, va < 2 ^ 57 → found = none → s.walk d va = .error x → s.xlate d va u = .error x) ∧
    (∀ u e, va < 2 ^ 57 → (found = some e ∨ found = none ∧ s.walk d va = .ok e) →
      let denied := (u = .write ∧ e.w = false) ∨ (u = .fetch ∧ e.x = false)
      (denied → s.xlate d va u = .error .invalid) ∧ (¬ denied → s.xlate d va u = .ok (e.dpa + va % 2 ^ e.bits))) ∧
    ((s.die d).xl.root = none → s.walk d va = .error .invalid) ∧
    (∀ r, (s.die d).xl.root = some r →
      (r.owns r.troot = false → s.walk d va = .error .invalid) ∧
      (r.owns r.troot = true → s.walk d va = s.walkFrom d r va 0 r.troot 5) ∧
      ∀ l tab fuel, l ≤ 4 →
        let read := s.devGet d (tab + 8 * (va / 2 ^ walkShift l % (if l = 4 then 32 else 512))) 8
        let at_ := s.walkFrom d r va l tab (fuel + 1)
        (read = none → at_ = .error .ecc) ∧
        (∀ bs, read = some bs →
          let e := leNat bs
          let addr := e / 2 ^ 8 % 2 ^ 30 * 2 ^ 8
          let leaf := e / 2 % 2 = 1
          (e % 2 = 0 ∨ e / 16 % 16 ≠ 0 ∨ e / 2 ^ 38 ≠ 0 ∨ (leaf ∧ l ≤ 1) ∨ (¬ leaf ∧ l = 4) → at_ = .error .invalid) ∧
          (0x3000000000 ≤ addr → at_ = .error .invalid) ∧
          (leaf → addr % 2 ^ walkShift l ≠ 0 → at_ = .error .invalid) ∧
          (¬ leaf → addr % (if l = 3 then 256 else 4096) ≠ 0 → at_ = .error .invalid) ∧
          (r.owns addr = false → ¬ (addr = sailPage ∧ leaf ∧ l = 4 ∧ e / 4 % 2 = 0) → at_ = .error .invalid) ∧
          (leaf → entryOk r l e = true → at_ = .ok {
            base := va / 2 ^ walkShift l * 2 ^ walkShift l, bits := walkShift l, dpa := addr
            w := decide (e / 4 % 2 = 1), x := decide (e / 8 % 2 = 1) }) ∧
          (¬ leaf → entryOk r l e = true → at_ = s.walkFrom d r va (l + 1) addr fuel)))

/-! ### Links, boot and attestation -/

/-- R411, R412, R416 to R419: the next flit of a port joins those received, and one whose CRC fails is re-sent once, logged as
transient, and holds back those behind it; a packet received whole is opened and goes on, one whose tag fails is re-sent once;
a second failure is lasting and has the port retired. A port is brought up for the peer that the plan expects, else it stays
down and is retired; a failed verification leaves it down and is logged as lasting; the keys of both directions are replaced
after 2^32 packets of one or 24 hours. The ciphers are opaque (log 8), a re-send is counted at the port that receives, and
the peer at the fabric's edge is the model's choice (log 12, log 52). -/
def Obligations.LinkHappenings : Prop :=
  ∀ (s : State) (d p : Nat), d < 8 → p < 6 →
    let x := s.portAt d p
    let up := s.dieAlive d = true ∧ s.portMode d p ≠ 0 ∧ x.st = 3
    let tagged := decide (s.portMode d p = 3)
    let lasting := fun (t : State) k => (t.logEvent d k 1 p 0).post (.portMode d p 0) (some k) p 0
    let same := fun (t : State) => t.life = s.life ∧ t.changes = s.changes ∧ t.mem = s.mem
    let again := fun (t : State) k => t.life = (s.logEvent d k 0 p 0).life ∧ t.changes = s.changes ∧ t.mem = s.mem
    (∀ seq flit,
      let e := exec (.linkFlitReceive d p seq flit) s
      let good := Config.flitCrc seq flit.data = flit.crc
      (¬ up ∨ seq ≠ x.seq → e = .next s) ∧
      (up → seq = x.seq → good → ∃ t, e = .next t ∧ same t ∧
        t.portAt d p = { x with seq := x.seq + 1, badFlit := false, rx := x.rx ++ [flit.data] }) ∧
      (up → seq = x.seq → ¬ good → x.badFlit = true → e = .next (lasting s 10)) ∧
      (up → seq = x.seq → ¬ good → x.badFlit = false → ∃ t, e = .next t ∧ again t 10 ∧
        t.portAt d p = { x with resends := Nat.min 0xFFFF (x.resends + 1), badFlit := true })) ∧
    (∀ out ok, ¬ up → exec (.linkPacketReceive d p out ok) s = .next s) ∧
    (up → x.out = [] → ∀ ok, exec (.linkPacketReceive d p true ok) s = .next s) ∧
    (up → ∀ k ks, x.out = k :: ks →
      (∃ t, exec (.linkPacketReceive d p true true) s = .next t ∧ same t ∧
        t.portAt d p = { x with out := ks, badOut := false }) ∧
      (x.badOut = true → exec (.linkPacketReceive d p true false) s = .next (lasting s 11)) ∧
      (x.badOut = false → ∃ t, exec (.linkPacketReceive d p true false) s = .next t ∧ again t 11 ∧
        t.portAt d p = { x with resends := Nat.min 0xFFFF (x.resends + k.2.length), badOut := true })) ∧
    (up → frontPacket x.rx tagged = none → ∀ ok, exec (.linkPacketReceive d p false ok) s = .next s) ∧
    (up → ∀ h n ok, frontPacket x.rx tagged = some (h, n) →
      let e := exec (.linkPacketReceive d p false ok) s
      (∀ data, x.opened tagged n = some data → ∃ u : State, e = .next (u.forward d { head := h, data := data }) ∧ same u ∧
        u.portAt d p = { x with rx := x.rx.drop n, received := x.received + 1, badTag := false }) ∧
      (x.opened tagged n = none → x.badTag = true → ∃ u : State, e = .next (lasting u 11) ∧ same u ∧
        u.portAt d p = { x with rx := x.rx.drop n }) ∧
      (x.opened tagged n = none → x.badTag = false → ∃ t, e = .next t ∧ again t 11 ∧ t.portAt d p = { x with
        rx := x.rx.drop n, resends := Nat.min 0xFFFF (x.resends + n), badTag := true })) ∧
    (∀ peer far,
      let e := exec (.portBringup d p peer far) s
      let m := s.bringMode d p peer
      let own := s.fabricDie d
      let k := far.keying
      let keys := hopKeys own peer s.fresh k
      let may := s.dieAlive d = true ∧ (x.st = 0 ∨ s.portMode d p = 0 ∨ x.stale = true)
      let down := fun (t : State) => t.portAt d p = { x with st := if s.portMode d p = 0 then 4 else 0, stale := false }
      (¬ may → e = .next s) ∧
      (may →
        (peer ≠ s.expectedPeer d p m → ∃ t, e = .next t ∧ down t ∧ t.life = s.life ∧
          t.changes = s.changes ++ if s.portMode d p = 0 then [] else
            [{ change := .portMode d p 0, cls := none, unit := p, addr := 0 }]) ∧
        (peer = s.expectedPeer d p m → m = 3 → keys.verified k = false → ∃ t, e = .next t ∧ down t ∧
          t.life = (s.logEvent d 11 1 p 0).life ∧ t.changes = s.changes) ∧
        (peer = s.expectedPeer d p m → m ≠ 3 ∨ keys.verified k = true → ∃ t, e = .next t ∧
          (let y := { x with st := 3, peer := peer, epoch := 0, ident := far.ident, stale := false, keyedAt := s.nowUs }
           (m ≠ 3 → t.portAt d p = y) ∧
           (m = 3 → t.portAt d p = { y with
             txKey := if own < peer then keys.keys.1 else keys.keys.2
             rxKey := if own < peer then keys.keys.2 else keys.keys.1, sent := 0, received := 0 })) ∧
          t.changes = s.changes ++ if s.portMode d p ≠ 0 then [] else
            [{ change := .portMode d p m, cls := none, unit := p, addr := 0 }]))) ∧
    (∀ k,
      let own := s.fabricDie d
      let keys := hopKeys own x.peer s.fresh k
      let due := 2 ^ 32 ≤ x.sent ∨ 2 ^ 32 ≤ x.received ∨ x.keyedAt + 86400000000 ≤ s.nowUs
      (¬ (up ∧ tagged = true) ∨ ¬ due → exec (.rekey d p k) s = .next s) ∧
      (up → tagged = true → due → keys.verified k = true → ∃ t, exec (.rekey d p k) s = .next t ∧ t.portAt d p = { x with
        epoch := x.epoch + 1, sent := 0, received := 0, keyedAt := s.nowUs
        txKey := if own < x.peer then keys.keys.1 else keys.keys.2
        rxKey := if own < x.peer then keys.keys.2 else keys.keys.1 }) ∧
      (up → tagged = true → due → keys.verified k = false → ∃ t, exec (.rekey d p k) s = .next t ∧
        t.portAt d p = { x with st := 0 } ∧ t.life = (s.logEvent d 11 1 p 0).life))

/-- R373, R374, R377, R378, R420, R435, R440: at power-good each lodge core verifies and starts its image from slot A, else from
slot B, with FALLBACK where one did not start from A; the first that starts is elected once it may claim, in-package and
looped ports come up, the plan's version is recorded in the record and in the history and told by vector 2, and READY is set;
with no good image nothing starts. Activation of an image raises the fused minimum to its SVN. That both reads of a slot fail is
an input (log 13, log 52), and the signature checks are opaque (log 8). -/
def Obligations.PowerGoodAndActivation : Prop :=
  ∀ s : State,
    let errA := s.outside.errA
    let errB := s.outside.errB
    let good := fun (x : Option FlashSlot) => match x with | none => false | some f => f.ok s.boot.minSvn
    let pick := fun d => if good s.boot.slotA && !errA.getLsbD d then some false
      else if good s.boot.slotB && !errB.getLsbD d then some true else none
    let started := s.boot.ready = true ∨ ∃ l ∈ s.lodge.toList, l.running = true
    let e := exec .powerGood s
    (started → e = .next s) ∧
    (¬ started → (∀ d, d < 8 → pick d = none) → e = .next { s with boot := { s.boot with
      fallback := true, dieSlots := Vector.replicate 8 none } }) ∧
    (∀ c, ¬ started → c < 8 → pick c ≠ none → (∀ j, j < c → pick j = none) →
      (s.nowUs < s.claimAt c → e = .next s) ∧
      (s.claimAt c ≤ s.nowUs → ∃ t, e = .next t ∧
        (t.boot.ready = true ∧ (t.boot.fallback = true ↔ ∃ d, d < 8 ∧ pick d ≠ some false) ∧
          (∀ d, d < 8 → t.boot.dieSlots[d]?.getD none = pick d) ∧ t.boot.slotA = s.boot.slotA ∧ t.boot.slotB = s.boot.slotB ∧
          t.boot.minSvn = s.boot.minSvn) ∧
        (∀ d, d < 8 → (t.lodgeAt d).running = (pick d).isSome) ∧ (t.lodgeAt c).acting = some 1 ∧ t.plan = s.plan ∧
        (∀ m ∈ t.mail.toList, m = { holder := c, term := 1, stamp := s.nowUs }) ∧
        (∀ d p, d < 8 → p < 6 → s.dieAlive d = true → (s.portMode d p = 1 ∨ s.portMode d p = 2) →
          (t.portAt d p).st = 3 ∧ (t.portAt d p).peer = s.expectedPeer d p (s.portMode d p)) ∧
        (let l := s.life.powerOn s.nowUs
         let n := l.get histTotal
         n < 2 ^ 64 - 1 → t.life.get histTotal = n + 1 ∧ t.life.get (historyAt n) = l.get 0x10 ∧
           ∀ i, i < 264 → t.life.get (historyAt n + 16 + 8 * i) = leNat ((s.plan.bytes.drop (8 * i)).take 8)) ∧
        ((tabGetD s.host.msix 2 MsixEntry.reset).masked = false → t.host.sent = s.host.sent ++ [2]) ∧
        t.cx = s.cx ∧ t.ctxs = s.ctxs)) ∧
    (∀ f minSvn, FlashSlot.ok f minSvn = true ↔ f.magic = 0x08800001 ∧ f.bodyLen = f.body.length ∧ f.bodyLen ≤ 2 ^ 26 ∧
      Config.edVerify f.head f.edsig = true ∧ Config.mlVerify f.head f.mlsig = true ∧ sha384 f.body = f.digest ∧
      f.svn.toNat ≤ 255 ∧ minSvn.toNat ≤ f.svn.toNat) ∧
    (∀ slot,
      (good (s.boot.slot? slot) = false → exec (.pldmActivate slot) s = .next s) ∧
      (∀ f, s.boot.slot? slot = some f → good (some f) = true →
        exec (.pldmActivate slot) s = .next { s with boot := { s.boot with minSvn := f.svn.setWidth 8 } }))

/-- R421 to R423: once the package has booted, the responder answers GET_VERSION with 1.2 and 1.3, the negotiation in its
order, the digest and the chain of slot 0, challenges and measurements signed by the Ed25519 alias key, DUALREPORT
signed by both, and DUALCERT with the ML-DSA-65 chain; before READY it is silent. (That a request out of its order is
answered with an error is the model's presumption, log 52.) -/
def Obligations.Attestation : Prop :=
  ∀ (s : State) (nonce : BitVec 256),
    let requests := [Instr.getVersion, .getCapabilities, .negotiateAlgorithms, .getDigests, .getCertificate 0,
      .challenge nonce, .getMeasurements 0xFF nonce, .dualreport nonce, .dualcert]
    let gives := fun (t : State) (a : SpdmAnswer) =>
      t.spdm.answer = a ∧ t.mem = s.mem ∧ t.dies = s.dies ∧ t.boot = s.boot ∧ t.plan = s.plan ∧ t.cx = s.cx
    let blocks := (numsFrom 1 6).map fun i => (i, s.measure i)
    (s.boot.ready = false → ∀ r ∈ requests, exec r s = .next s) ∧
    (s.boot.ready = true →
      (∃ t, exec .getVersion s = .next t ∧ gives t (.versions [(1, 2), (1, 3)]) ∧ t.spdm.version = true ∧
        t.spdm.capable = false ∧ t.spdm.negotiated = false) ∧
      (s.spdm.version = true → ∃ t, exec .getCapabilities s = .next t ∧ gives t .capabilities ∧ t.spdm.capable = true) ∧
      (s.spdm.capable = true → ∃ t, exec .negotiateAlgorithms s = .next t ∧ gives t .algorithms ∧
        t.spdm.negotiated = true) ∧
      (s.spdm.negotiated = true →
        (∃ t, exec .getDigests s = .next t ∧ gives t (.digests [sha384 (s.chain false)])) ∧
        (∃ t, exec (.getCertificate 0) s = .next t ∧ gives t (.certificate (s.chain false))) ∧
        (∀ k, k ≠ 0 → ∃ t, exec (.getCertificate k) s = .next t ∧ gives t .error) ∧
        (∃ t, exec (.challenge nonce) s = .next t ∧ gives t (.challengeAuth (sha384 (s.chain false)) nonce
          (s.edSign (leBytes 48 (sha384 (s.chain false)).toNat ++ leBytes 32 nonce.toNat)))) ∧
        (∀ i, 1 ≤ i → i ≤ 6 → ∃ t, exec (.getMeasurements i nonce) s = .next t ∧
          gives t (.measurements [(i, s.measure i)] nonce (s.edSign (signedBytes [(i, s.measure i)] nonce)))) ∧
        (∃ t, exec (.getMeasurements 0xFF nonce) s = .next t ∧
          gives t (.measurements blocks nonce (s.edSign (signedBytes blocks nonce)))) ∧
        (∀ i, (i = 0 ∨ 7 ≤ i) → i ≠ 0xFF → ∃ t, exec (.getMeasurements i nonce) s = .next t ∧ gives t .error)) ∧
      (∃ t, exec (.dualreport nonce) s = .next t ∧
        gives t (.report blocks nonce (s.edSign (signedBytes blocks nonce)) (s.mlSign (signedBytes blocks nonce)))) ∧
      (∃ t, exec .dualcert s = .next t ∧ gives t (.certificate (s.chain true))))

/-! ### Heat, power and lifetime records -/

/-- R427 to R431: a sample gives the die its temperatures, its greatest one and its warn or throttle state with 2 °C of
hysteresis, the refresh steps and memory hot; each change sets its bit of TH_EVENT and, where the bit was clear, sends
vector 3, once; a die at its trip point is lost, a stack or a capacity tier at 110 °C is retired, which loses its die, and a
trip stops the die's clocks. That the change is published at once where a Belvedere acts, and reported otherwise, is the
model's choice (log 49).
R432 to R434: each millisecond the duty moves by half the distance of the power from its set point, within 0 to 1,024,
stands while a die throttles, and is 0 without EN; a die's ballast window is open in the first D cycles of 1,024, counted on
the 1 GHz clock (the model's choice, log 9), the selector gives a ballast context the width in no other, and the window's
event lets cycles pass up to its next edge. -/
def Obligations.HeatAndPower : Prop :=
 ((∀ (s : State) (d : Nat) (temps : List Int) (h c : Int), d < 8 →
    let x := (s.die d).th
    let m := ((List.range 32).map fun i => temps.getD i 0).foldl (fun a b => if a ≥ b then a else b) (temps.getD 0 0)
    let hot := h ≥ 840 ∨ c ≥ 840 ∨ (x.hot = true ∧ (h ≥ 824 ∨ c ≥ 824))
    let st := if m ≥ x.throt ∨ (x.st = 2 ∧ m ≥ (x.throt : Int) - 16) then 2
      else if m ≥ x.warn ∨ (x.st ≥ 1 ∧ m ≥ (x.warn : Int) - 16) then 1 else 0
    let step := fun (old : Nat) (t : Int) => if hot ∨ t ≥ 760 ∨ (old = 2 ∧ t ≥ 736) then 2
      else if t ≥ 680 ∨ (1 ≤ old ∧ t ≥ 656) then 1 else 0
    let lost := m ≥ x.trip ∨ h ≥ 880 ∨ c ≥ 880
    (s.dieAlive d = false → exec (.thermalSample d temps h c) s = .next s) ∧
    (s.dieAlive d = true → ∃ t, exec (.thermalSample d temps h c) s = .next (if lost then t.heatLoss d else t) ∧
      (t.die d).th = { x with
        temps := Vector.ofFn fun i => temps.getD i.val 0, valid := true, htemp := h, ctemp := c, hot := decide hot, max := m
        st := st, hstep := step x.hstep h, cstep := step x.cstep c, event := (t.die d).th.event } ∧
      (let happens := [decide (x.st = 0 ∧ 1 ≤ st), decide (x.st < 2 ∧ st = 2), decide (x.st = 2 ∧ st < 2),
          decide (step x.hstep h ≠ x.hstep ∨ step x.cstep c ≠ x.cstep), decide (x.hot = false ∧ hot)]
        let news := (List.range 5).filter fun i => happens.getD i false && !x.event.getLsbD i
        (∀ i, i < 5 → (t.die d).th.event.getLsbD i = (x.event.getLsbD i || happens.getD i false)) ∧
        ((tabGetD s.host.msix 3 MsixEntry.reset).masked = false → t.host.sent = s.host.sent ++ List.replicate news.length 3) ∧
        ((tabGetD s.host.msix 3 MsixEntry.reset).masked = true → t.host.sent = s.host.sent ∧
          (news ≠ [] → (tabGetD t.host.msix 3 MsixEntry.reset).pending = true))) ∧
      t.plan = s.plan ∧ t.changes = s.changes ∧ t.cx = s.cx ∧ ∀ e, e ≠ d → t.die e = s.die e)) ∧
  (∀ (s : State) (d : Nat), d < 8 →
    let u := s.modDie d fun x => { x with th := { x.th with stopped := x.th.stopped || x.th.trips } }
    let x := (s.die d).th
    let mem := fun (c : Bool) (cls : Nat) => [{ change := .memOff d c, cls := some cls, unit := 0, addr := 0 : Report }]
    (s.acting = none → s.heatLoss d = { u with
      changes := s.changes ++ (if x.htemp ≥ 880 then mem false 12 else []) ++ (if x.ctemp ≥ 880 then mem true 13 else []) ++
        if x.trips then [{ change := .dieLost d, cls := none, unit := 0, addr := 0 }] else [] }) ∧
    (s.acting ≠ none → s.dieAlive d = true →
      x.trips = true ∨ (x.htemp ≥ 880 ∧ (s.planDie d).hbm = true) ∨ (x.ctemp ≥ 880 ∧ (s.planDie d).cap = true) →
      ((s.heatLoss d).planDie d).alive = false ∧ s.plan.version < (s.heatLoss d).plan.version ∧
        (x.htemp ≥ 880 → ((s.heatLoss d).planDie d).hbm = false) ∧
        (x.htemp < 880 → x.ctemp ≥ 880 → ((s.heatLoss d).planDie d).cap = false)))) ∧
 ((∀ (s : State) (w : Nat),
    let p := s.power
    let throttled := ∃ d, d < 8 ∧ s.dieAlive d = true ∧ (s.die d).th.st = 2
    ∃ duty, exec (.powerTick w) s = .next { s with power := { p with watts := w, duty := duty } } ∧
      (p.en = false → duty = 0) ∧
      (p.en = true → throttled → duty = p.duty) ∧
      (p.en = true → ¬ throttled → duty ≤ 1024 ∧
        (w ≤ p.set → p.duty + (p.set - w) / 2 ≤ 1024 → duty = p.duty + (p.set - w) / 2) ∧
        (w ≤ p.set → 1024 < p.duty + (p.set - w) / 2 → duty = 1024) ∧
        (p.set < w → p.duty ≤ 1024 → duty = p.duty - (w - p.set) / 2))) ∧
  (∀ (s : State) (d : Nat), d < 8 →
    let duty := if (s.die d).th.st = 2 then 0 else s.power.duty
    let inside := s.nowCyc % 1024 < duty
    (∃ t, exec (.ballastDutyWindow d) s = .next t ∧ t = { s with nowCyc := t.nowCyc, lag := t.lag } ∧
      t.nowCyc = s.nowCyc - s.nowCyc % 1024 + if inside then duty else 1024) ∧
    (∀ core k, s.chosen d core = some k → (s.ctx ⟨d, core, k⟩).ballast ≠ none → inside ∧
      ∀ j, j < 4 → (s.ctx ⟨d, core, j⟩).ballast = none → (s.ctx ⟨d, core, j⟩).st ≠ .ready) ∧
    (∀ core k, (s.core d core).running = some k → (s.ctx ⟨d, core, k⟩).ballast ≠ none → (s.core d core).offer = true →
      ¬ inside → s.keeps d core = false)))

/-- R435 to R440: the acting Belvedere writes the lifetime image, with STAMP and VERSION, to the flash copy whose turn it is
once an hour and when it has taken the role, its digest beside it, and urgent entries into the newest complete copy, or where
there is none the whole image; a snapshot holds the image with STAMP and VERSION; a loss of power leaves
the flash copies, but for one that it was writing, the firmware slots, the fuses and host memory, and everything else as a
cold reset does. Which events are urgent and what a flush writes of the history are the model's reading of R436 and R439 (log 50). -/
def Obligations.LifetimeRecords : Prop :=
  ∀ s : State,
    let l := s.life
    let due := s.acting ≠ none ∧ (l.owed = true ∨ l.wroteAt + 3600000000 ≤ s.nowUs)
    let writes := fun (i : Instr) => ∃ t : Lifetime, exec i s = .next { s with life := t } ∧
      t.get 8 = Nat.min (2 ^ 64 - 1) (l.get 8 + 1) ∧ t.get 0x20 = s.nowUs / 1000 % 2 ^ 64 ∧
      t.get 0x28 = s.plan.version % 2 ^ 64 ∧ (∀ off, off / 8 ≠ 1 → off / 8 ≠ 4 → off / 8 ≠ 5 → t.get off = l.get off) ∧
      (l.nextB = false → t.copyA = some (.of t.image) ∧ t.copyB = l.copyB) ∧
      (l.nextB = true → t.copyB = some (.of t.image) ∧ t.copyA = l.copyA) ∧
      t.nextB = !l.nextB ∧ t.wroteAt = s.nowUs ∧ t.urgent = [] ∧ t.owed = false ∧ t.snapshot = l.snapshot
    (¬ due → exec .lifetimeFlashWrite s = .next s) ∧
    (due → writes .lifetimeFlashWrite) ∧
    (s.acting = none ∨ l.urgent = [] → exec .urgentEventFlush s = .next s) ∧
    (s.acting ≠ none → l.urgent ≠ [] → l.best = none → writes .urgentEventFlush) ∧
    (∀ t isB, s.acting ≠ none → l.urgent ≠ [] → l.best = some (t, isB) → ∃ u : FlashCopy,
      exec .urgentEventFlush s = .next { s with life := { l with
        copyA := if isB then l.copyA else some u, copyB := if isB then some u else l.copyB, urgent := [] } } ∧
      u.digest = sha384 (imageBytes u.image) ∧
      (∀ n ∈ l.urgent, ∀ k, k < 4 → tabGetD u.image (eventAt n / 8 + k) 0 = tabGetD l.image (eventAt n / 8 + k) 0) ∧
      (∀ k v, (k, v) ∈ l.image → 0x29000 / 8 ≤ k → tabGetD u.image k 0 = tabGetD l.image k 0) ∧
      tabGetD u.image 6 0 = tabGetD l.image 6 0 ∧ tabGetD u.image 7 0 = tabGetD l.image 7 0 ∧
      tabGetD u.image 1 0 = tabGetD t 1 0) ∧
    (∀ c : FlashCopy, FlashCopy.complete? (some c) = if c.digest = sha384 (imageBytes c.image) then some c.image else none) ∧
    (l.snapping = false ∨ s.acting = none → exec .snapshotReady s = .next s) ∧
    (l.snapping = true → s.acting ≠ none → ∃ i, exec .snapshotReady s = .next { s with life := { l with
        snapping := false, snapshot := some i } } ∧
      tabGetD i 4 0 = BitVec.ofNat 64 (s.nowUs / 1000) ∧ tabGetD i 5 0 = BitVec.ofNat 64 s.plan.version ∧
      ∀ k, k ≠ 4 → k ≠ 5 → tabGetD i k 0 = tabGetD l.image k 0) ∧
    (let writing := s.outside.writing
     ∃ t, exec .powerLoss s = .next t ∧ t.cx = Ctx.idle ∧ t.ctxs = [] ∧ t.dies = State.reset.dies ∧ t.hy = State.reset.hy ∧
      t.plan = SailPlan.reset ∧ t.boot = { State.reset.boot with
        slotA := s.boot.slotA, slotB := s.boot.slotB, minSvn := s.boot.minSvn } ∧
      t.life.copyA = (if writing = true ∧ l.nextB = false then none else l.copyA) ∧
      t.life.copyB = (if writing = true ∧ l.nextB = true then none else l.copyB) ∧ t.life.image = [] ∧
      (∀ k, k < hostKey 0 → t.byte k = 0) ∧ ∀ k, hostKey 0 ≤ k → t.byte k = s.byte k)

/-! ### Bundles of several slots -/

/-- R96, R102, R105, R117, R265, R348, R353: a bundle of two syllables. Both slots read the registers and latches before
either writes; two that name one destination trap RESERVED_ENCODING and a latch that is lost traps LATCH_LOST, with nothing
performed. A bundle that is reissued checks the latches and performs only the slots whose bits are clear, and then takes the
transfer that its record keeps. A misaligned load keeps the slot before it from performing; a load of an uncorrectable word
traps in performance, and the record keeps the bit of the slot that has performed. -/
def Obligations.BundleIssue : Prop :=
  ∀ (s : State) (h w1 w2 : Word) (stop : Bool) (d e : Fin 48) (a b c g base : Src) (off : MOff), s.cx.st = .running →
    let two := fun (x y : Slot × Instr) => decodeBundle h [w1, w2] =
      some { nwords := 3, stop := stop, syls := [(x.1, .ok x.2), (y.1, .ok y.2)] }
    let add := (Slot.sa, Instr.add .sa (some d) a b .i64 .none)
    let ws := [h, w1, w2]
    let done := fun (f : Ctx → Ctx) (jump : Option Dword) =>
      s.issueWords ws = { s.begun with cx := (f s.begun.cx).advance s.cx.pc 3 jump }
    let sum := fun (x : Ctx) => x.outS 0 (some d) (s.cx.sval a + s.cx.sval b)
    let dif := fun (x : Ctx) => x.outS 1 (some e) (s.cx.sval c - s.cx.sval g)
    let traps := fun (k : Cause) (slot : Nat) => s.issueWords ws = s.trapAt { cause := k, slot := slot }
    (two add (.sb, .sub .sb (some e) c g .i64 .none) →
      (s.cx.resume = none →
        (s.cx.holds [a, b, c, g] → d ≠ e → done (fun x => dif (sum x)) none) ∧
        (s.cx.holds [a, b, c, g] → d = e → traps .reservedEncoding 2) ∧
        (¬ s.cx.holds [a, b] → traps .latchLost 1) ∧
        (s.cx.holds [a, b] → ¬ s.cx.holds [c, g] → traps .latchLost 2)) ∧
      (∀ r, s.cx.resume = some r → d ≠ e →
        (r.perf.getLsbD 0 = true → r.perf.getLsbD 1 = false → s.cx.holds [c, g] → done dif r.pend) ∧
        (r.perf.getLsbD 0 = false → r.perf.getLsbD 1 = true → s.cx.holds [a, b] → done sum r.pend) ∧
        (r.perf.getLsbD 0 = true → r.perf.getLsbD 1 = true → done (fun x => x) r.pend) ∧
        (r.perf.getLsbD 0 = true → r.perf.getLsbD 1 = false → ¬ s.cx.holds [c, g] → s.issueWords ws =
          s.trapBundle s.begun { cause := .latchLost, slot := 2 } r.perf r.pend))) ∧
    (two add (.ls, .ldd e base off false false) → s.cx.resume = none → s.cx.holds [a, b, base] → d ≠ e →
      s.computes → s.noWindows →
      let at_ := (s.cx.sval base + off.bytes 8).toNat
      (at_ % 8 ≠ 0 → traps .align 6) ∧
      (∀ k, at_ % 8 = 0 → s.portKey .ls at_ 8 = some k → s.lsOk .ls base false [(at_, 8)] →
        (s.badRead k 8 = false →
          done (fun x => (sum x).outS 4 (some e) (BitVec.ofNat 64 (s.rd k 8))) none) ∧
        (s.badRead k 8 = true → s.issueWords ws = s.trapBundle { s.begun with cx := sum s.begun.cx }
          { cause := .eccUncorrectable, slot := 6 } 1 none)))

/-! ### Decoding, stepping and reset -/

/-- R98 to R122: words of the spec's worked examples, header and syllable, decode to the instructions that the examples
give beside them. -/
def Obligations.DecodedWords : Prop :=
  decodeOne [0x80400000, 0x00700017] = some (.addImm .sa (some 7) { lo := 1, ext := none } .i64) ∧
  decodeOne [0x80400000, 0x7134B823] = some (.cmp .sa (some 19) (.reg 18) .zero .i64 .lt) ∧
  decodeOne [0x40400000, 0xDC500040] = some (.loop (.reg 5) { lo := 4, ext := none }) ∧
  decodeOne [0x20400000, 0x48304352] = some (.vcmp .va (some 3) (.reg 1) (.reg 3) .ge (.int .i32) none) ∧
  decodeOne [0x10400000, 0xF4B28062] = some (.vsort (some 11) (.reg 10) 6 (.int .i32)) ∧
  decodeOne [0x08400000, 0x01004EC0] = some (.mcall 0 64 0 true .ones .none) ∧
  decodeOne [0x08400000, 0x14000000] = some (.mchk 0 .none) ∧
  decodeOne [0x04400000, 0x2EABC000] = some (.std (.reg 42) (.reg 47) { lo := 0, ext := none } false) ∧
  decodeOne [0x04400000, 0x1CA6CF60] = some (.ldg 10 (.reg 27) 15 6 false false) ∧
  decodeOne [0x02400000, 0x0CC2C104] = some (.wldd 12 (.reg 11) { lo := 2, ext := none } true false) ∧
  decodeOne [0x01400000, 0x00B28060] = some (.probe 11 (.reg 10) { lo := 6, ext := none }) ∧
  decodeOne [0x00C00000, 0x01454110] = some (.cpy (some 20) (.reg 21) 1 false true) ∧
  decodeOne [0x00C00000, 0x09753900] = some (.ctest (some 23) (.reg 20) .one) ∧
  decodeOne [0x00C00000, 0x1401C8A0] = some (.rflag (.reg 7) (.src (.reg 8)) true true) ∧
  decodeOne [0x00400000] = some (.nopBundle true) ∧
  (decodeBundle 0xA4410001 [0x00323457, 0x00414626, 0x0C711004]).map (·.syls) = some [
    (.sa, .ok (.addImm .sa (some 3) { lo := 0x2345, ext := some 1 } .i64)),
    (.va, .ok (.vadd .va (some 4) (.reg 5) (.reg 6) 2 (.flt .f32) none)),
    (.ls, .ok (.ldd 7 (.reg 4) { lo := 0x20, ext := none } true false))]

/-- R96 to R122: decoding the words that encode a well-formed instruction gives that instruction back, with every operand
at every value the encoding admits (a LOOP ends behind its own bundle, R145). -/
def Obligations.DecodeEncode : Prop :=
  ∀ i : Instr, i.wellFormed = true → encode i ≠ [] → loopLenOk 2 i = true → decodeOne (encode i) = some i

/-- R2, R54, R55, R96, R117, R353, R354, R395, R401, R427: a core's turn ends waits that are over and gives the width to
the context that the selector picks; where no cause comes before issue and the words at its program counter hold one
instruction, the step is that instruction's execution, and otherwise the issue of the bundle; a fetch writes back the words
it corrects and changes nothing where it corrects none, or waits for the base die; the cores of a tripped die stand. A
happening named by an input is executed, and time passes for the clocks, each cluster's at its own rate, the straggler
timer, the hotness counters and the records. (That inputs name the turns, and which turn is taken when none does, is the
model's choice, log 1; that a fetch waits behind a diagnostic packet to its line is log 63's.) -/
def Obligations.StepRunsDecoded : Prop :=
  ∀ (s : State) (rest : List Turn),
    (∀ d c, s.agenda = .core d c :: rest → (s.die d).th.stopped = true → step s = .next { s with agenda := rest }) ∧
    (∀ d c, s.agenda = .core d c :: rest → (s.die d).th.stopped = false →
      let u := { s with agenda := rest }.ready d c
      (u.runningOn d c = none → step s = .next (u.idleCycle d c)) ∧
      (∀ g, u.runningOn d c = some g → u.fetchWaits = true → step s = .next u.tick) ∧
      (∀ g, u.runningOn d c = some g → u.fetchWaits = false →
        ∃ v : State, v.cx = u.cx ∧ v.cur = u.cur ∧ v.ctxs = u.ctxs ∧ v.plan = u.plan ∧ v.hy = u.hy ∧ v.host = u.host ∧
          ((u.cx.rollback = true ∨ u.cx.due = true ∨ (∃ r, u.cx.resume = some r ∧ r.words ≠ [])) → v = u) ∧
          (u.codes = [] → v.mem = u.mem) ∧
          (∀ ws i, v.cx.rollback = false → v.beforeTrap = none → v.nextWords = .ok ws → decodeOne ws = some i →
            step s = exec i v) ∧
          (∀ ws, v.cx.rollback = false → v.beforeTrap = none → v.nextWords = .ok ws → decodeOne ws = none →
            step s = .next (v.issueWords ws)) ∧
          (∀ t, v.cx.rollback = false → v.beforeTrap = some t → step s = .next (v.deliverBefore t)) ∧
          (v.cx.resume = none → v.nextWords = v.fetchBundle v.cur.die v.cx.pc.toNat) ∧
          (∀ r, v.cx.resume = some r → r.words ≠ [] → v.nextWords = .ok r.words))) ∧
    (∀ i, s.agenda = .event i :: rest → isEvent i = true → step s = exec i { s with agenda := rest }) ∧
    (∀ us, s.agenda = .elapse us :: rest → ∃ t, step s = .next t ∧ t.nowUs = s.nowUs + us ∧
      t.nowCyc = s.nowCyc + 1000 * us ∧ t.hy = { s.hy with timer := s.hy.timer.map (· + us) } ∧ t.mem = s.mem ∧
      t.cx = s.cx ∧ t.ctxs = s.ctxs ∧ t.plan = s.plan ∧
      (∀ d, d < 8 → t.die d = { s.die d with tiers := { (s.die d).tiers with
          hot := (t.die d).tiers.hot, halvedAt := (t.die d).tiers.halvedAt } } ∧
        (s.nowUs + us ≤ (s.die d).tiers.halvedAt + (s.die d).tiers.period → t.die d = s.die d)) ∧
      ∀ d c, d < 8 → c < 576 → s.mhzOf d (c / 96) ≤ 1000 → tabGetD s.lag (6 * d + c / 96) 0 ≤ s.nowCyc →
        t.cycOf d c = s.cycOf d c + s.mhzOf d (c / 96) * us) ∧
    (s.agenda = [] → step s = .next s ∨ ∃ m ∈ s.pending ++ s.boundary ++ s.coreMoves ++ s.windowMoves, step s = m s)

/-- R5, R17, R33, R40, R58, R65, R77, R240, R335, R340, R373, R374, R377, R399, R403, R420, R427, R432, R437: what a cold reset leaves where the spec states it: no context holds
a program, p0 reads ones, memory lists nothing, every granule is full, the Halyard, host port, tier, thermal and power
registers at their reset values, no lease held, the power-on plan, and the lodge cores not yet started. (That the bytes of
DRAM and of host memory read 0 is the model's choice, log 4; the stored p0 of a context that no launch has begun is log 3's.)
R65, R77: right after reset the memory is in its canonical form and the stored p0 of the context whose turn it is
reads all ones: the invariants hold at the start. -/
def Obligations.ResetState : Prop :=
 (let s := State.reset
  (∀ g, (s.ctx g).st = .idle ∧ (s.ctx g).p0Ones) ∧ (∀ k, s.byte k = 0) ∧ s.empty = [] ∧
  s.hy.phc = 0 ∧ s.hy.tmo = 50000 ∧ s.hy.extend = false ∧ s.hy.preen = false ∧ s.hy.target = 0 ∧ s.hyStatus = 0 ∧
  (∀ k : Nat, s.host.winmap[k]?.getD 0 = 0) ∧ s.host.bar4Log = 36 ∧ s.host.err = 0 ∧ s.host.cmdEn = false ∧
  s.host.cmdHead = 0 ∧ s.host.cmdTail = 0 ∧ s.boot.ready = false ∧
  (∀ l ∈ s.lodge.toList, l.running = false ∧ l.acting = none) ∧ (∀ m ∈ s.mail.toList, m.holder = 0xFF) ∧
  s.pkgReg 0xC008 = 0 ∧ s.plan.version = 1 ∧ s.power.en = false ∧ s.power.set = 3600 ∧
  ∀ d, d < 8 → s.dieAlive d = true ∧ (s.die d).job = none ∧ (s.die d).js.status = 0 ∧
    (s.die d).th.warn = 864 ∧ (s.die d).th.throt = 896 ∧ (s.die d).th.trip = 960 ∧ (s.die d).th.valid = false ∧
    (s.die d).tiers.en = true ∧ (s.die d).tiers.thresh = 32 ∧ (s.die d).tiers.epoch = 0 ∧ (s.die d).tiers.maxmov = 16 ∧
    (∀ g, g ≠ 0xFFFFF → s.remapOf d g = { fast := 0, slot0 := 1, pin := false }) ∧ (s.die d).xl.root = none ∧
    (∀ c, c < 576 → s.coreAlive d c = true)) ∧
 (State.reset.memOk ∧ State.reset.cx.p0Ones ∧ State.reset.agenda = [])

/-- Every step keeps the canonical form of the memory list: its addresses strictly rising, and no entry equal to what an
unlisted address reads as. So equal memories are equal data in every state that steps reach from such a state. -/
def Obligations.StepKeepsMemory : Prop := ∀ s t : State, s.memOk → step s = .next t → t.memOk

/-- R58: a step never stops: every turn of every state answers a next state, unless the turn is the execution of an
instruction in a context that is not Running, which no turn of a core makes. -/
def Obligations.StepAlwaysNext : Prop :=
  (∀ s : State, runs (step s)) ∧
  ∀ (i : Instr) (s : State), s.cx.st = .running ∨ isEvent i = true → runs (exec i s)
end

