-- ==== Sys2Proof/Laws/State.lean ====
section
/-! SUPPORT. What each update of the state leaves as it was, field by field, and what it writes. -/

namespace Sys2Proof.Machine


/-! ### `modDie` -/

@[simp] theorem State.modDie_cur (s : State) (d : Nat) (f : Die → Die) : (s.modDie d f).cur = s.cur := rfl
@[simp] theorem State.modDie_cx (s : State) (d : Nat) (f : Die → Die) : (s.modDie d f).cx = s.cx := rfl
@[simp] theorem State.modDie_ctxs (s : State) (d : Nat) (f : Die → Die) : (s.modDie d f).ctxs = s.ctxs := rfl
@[simp] theorem State.modDie_mem (s : State) (d : Nat) (f : Die → Die) : (s.modDie d f).mem = s.mem := rfl
@[simp] theorem State.modDie_empty (s : State) (d : Nat) (f : Die → Die) : (s.modDie d f).empty = s.empty := rfl
@[simp] theorem State.modDie_bad (s : State) (d : Nat) (f : Die → Die) : (s.modDie d f).bad = s.bad := rfl
@[simp] theorem State.modDie_unseen (s : State) (d : Nat) (f : Die → Die) : (s.modDie d f).unseen = s.unseen := rfl
@[simp] theorem State.modDie_codes (s : State) (d : Nat) (f : Die → Die) : (s.modDie d f).codes = s.codes := rfl
@[simp] theorem State.modDie_hy (s : State) (d : Nat) (f : Die → Die) : (s.modDie d f).hy = s.hy := rfl
@[simp] theorem State.modDie_host (s : State) (d : Nat) (f : Die → Die) : (s.modDie d f).host = s.host := rfl
@[simp] theorem State.modDie_mail (s : State) (d : Nat) (f : Die → Die) : (s.modDie d f).mail = s.mail := rfl
@[simp] theorem State.modDie_lodge (s : State) (d : Nat) (f : Die → Die) : (s.modDie d f).lodge = s.lodge := rfl
@[simp] theorem State.modDie_plan (s : State) (d : Nat) (f : Die → Die) : (s.modDie d f).plan = s.plan := rfl
@[simp] theorem State.modDie_changes (s : State) (d : Nat) (f : Die → Die) : (s.modDie d f).changes = s.changes := rfl
@[simp] theorem State.modDie_belv (s : State) (d : Nat) (f : Die → Die) : (s.modDie d f).belv = s.belv := rfl
@[simp] theorem State.modDie_unmanaged (s : State) (d : Nat) (f : Die → Die) :
    (s.modDie d f).unmanaged = s.unmanaged := rfl
@[simp] theorem State.modDie_clocks (s : State) (d : Nat) (f : Die → Die) : (s.modDie d f).clocks = s.clocks := rfl
@[simp] theorem State.modDie_against (s : State) (d : Nat) (f : Die → Die) : (s.modDie d f).against = s.against := rfl
@[simp] theorem State.modDie_boot (s : State) (d : Nat) (f : Die → Die) : (s.modDie d f).boot = s.boot := rfl
@[simp] theorem State.modDie_spdm (s : State) (d : Nat) (f : Die → Die) : (s.modDie d f).spdm = s.spdm := rfl
@[simp] theorem State.modDie_power (s : State) (d : Nat) (f : Die → Die) : (s.modDie d f).power = s.power := rfl
@[simp] theorem State.modDie_life (s : State) (d : Nat) (f : Die → Die) : (s.modDie d f).life = s.life := rfl
@[simp] theorem State.modDie_nowUs (s : State) (d : Nat) (f : Die → Die) : (s.modDie d f).nowUs = s.nowUs := rfl
@[simp] theorem State.modDie_nowCyc (s : State) (d : Nat) (f : Die → Die) : (s.modDie d f).nowCyc = s.nowCyc := rfl
@[simp] theorem State.modDie_fresh (s : State) (d : Nat) (f : Die → Die) : (s.modDie d f).fresh = s.fresh := rfl
@[simp] theorem State.modDie_agenda (s : State) (d : Nat) (f : Die → Die) : (s.modDie d f).agenda = s.agenda := rfl
@[simp] theorem State.modDie_lag (s : State) (d : Nat) (f : Die → Die) : (s.modDie d f).lag = s.lag := rfl

/-! ### `modCore` -/

@[simp] theorem State.modCore_cur (s : State) (d c : Nat) (f : Core → Core) : (s.modCore d c f).cur = s.cur := rfl
@[simp] theorem State.modCore_cx (s : State) (d c : Nat) (f : Core → Core) : (s.modCore d c f).cx = s.cx := rfl
@[simp] theorem State.modCore_ctxs (s : State) (d c : Nat) (f : Core → Core) : (s.modCore d c f).ctxs = s.ctxs := rfl
@[simp] theorem State.modCore_mem (s : State) (d c : Nat) (f : Core → Core) : (s.modCore d c f).mem = s.mem := rfl
@[simp] theorem State.modCore_empty (s : State) (d c : Nat) (f : Core → Core) :
    (s.modCore d c f).empty = s.empty := rfl
@[simp] theorem State.modCore_bad (s : State) (d c : Nat) (f : Core → Core) : (s.modCore d c f).bad = s.bad := rfl
@[simp] theorem State.modCore_unseen (s : State) (d c : Nat) (f : Core → Core) : (s.modCore d c f).unseen = s.unseen := rfl
@[simp] theorem State.modCore_codes (s : State) (d c : Nat) (f : Core → Core) :
    (s.modCore d c f).codes = s.codes := rfl
@[simp] theorem State.modCore_hy (s : State) (d c : Nat) (f : Core → Core) : (s.modCore d c f).hy = s.hy := rfl
@[simp] theorem State.modCore_host (s : State) (d c : Nat) (f : Core → Core) : (s.modCore d c f).host = s.host := rfl
@[simp] theorem State.modCore_mail (s : State) (d c : Nat) (f : Core → Core) : (s.modCore d c f).mail = s.mail := rfl
@[simp] theorem State.modCore_lodge (s : State) (d c : Nat) (f : Core → Core) :
    (s.modCore d c f).lodge = s.lodge := rfl
@[simp] theorem State.modCore_plan (s : State) (d c : Nat) (f : Core → Core) : (s.modCore d c f).plan = s.plan := rfl
@[simp] theorem State.modCore_changes (s : State) (d c : Nat) (f : Core → Core) :
    (s.modCore d c f).changes = s.changes := rfl
@[simp] theorem State.modCore_belv (s : State) (d c : Nat) (f : Core → Core) : (s.modCore d c f).belv = s.belv := rfl
@[simp] theorem State.modCore_unmanaged (s : State) (d c : Nat) (f : Core → Core) :
    (s.modCore d c f).unmanaged = s.unmanaged := rfl
@[simp] theorem State.modCore_clocks (s : State) (d c : Nat) (f : Core → Core) :
    (s.modCore d c f).clocks = s.clocks := rfl
@[simp] theorem State.modCore_against (s : State) (d c : Nat) (f : Core → Core) :
    (s.modCore d c f).against = s.against := rfl
@[simp] theorem State.modCore_boot (s : State) (d c : Nat) (f : Core → Core) : (s.modCore d c f).boot = s.boot := rfl
@[simp] theorem State.modCore_spdm (s : State) (d c : Nat) (f : Core → Core) : (s.modCore d c f).spdm = s.spdm := rfl
@[simp] theorem State.modCore_power (s : State) (d c : Nat) (f : Core → Core) :
    (s.modCore d c f).power = s.power := rfl
@[simp] theorem State.modCore_life (s : State) (d c : Nat) (f : Core → Core) : (s.modCore d c f).life = s.life := rfl
@[simp] theorem State.modCore_nowUs (s : State) (d c : Nat) (f : Core → Core) :
    (s.modCore d c f).nowUs = s.nowUs := rfl
@[simp] theorem State.modCore_nowCyc (s : State) (d c : Nat) (f : Core → Core) :
    (s.modCore d c f).nowCyc = s.nowCyc := rfl
@[simp] theorem State.modCore_fresh (s : State) (d c : Nat) (f : Core → Core) :
    (s.modCore d c f).fresh = s.fresh := rfl
@[simp] theorem State.modCore_agenda (s : State) (d c : Nat) (f : Core → Core) :
    (s.modCore d c f).agenda = s.agenda := rfl
@[simp] theorem State.modCore_lag (s : State) (d c : Nat) (f : Core → Core) :
    (s.modCore d c f).lag = s.lag := rfl

/-! ### `modTables` -/

@[simp] theorem State.modTables_cur (s : State) (d : Nat) (f : DieTables → DieTables) :
    (s.modTables d f).cur = s.cur := rfl
@[simp] theorem State.modTables_cx (s : State) (d : Nat) (f : DieTables → DieTables) :
    (s.modTables d f).cx = s.cx := rfl
@[simp] theorem State.modTables_ctxs (s : State) (d : Nat) (f : DieTables → DieTables) :
    (s.modTables d f).ctxs = s.ctxs := rfl
@[simp] theorem State.modTables_mem (s : State) (d : Nat) (f : DieTables → DieTables) :
    (s.modTables d f).mem = s.mem := rfl
@[simp] theorem State.modTables_empty (s : State) (d : Nat) (f : DieTables → DieTables) :
    (s.modTables d f).empty = s.empty := rfl
@[simp] theorem State.modTables_bad (s : State) (d : Nat) (f : DieTables → DieTables) :
    (s.modTables d f).bad = s.bad := rfl
@[simp] theorem State.modTables_unseen (s : State) (d : Nat) (f : DieTables → DieTables) :
    (s.modTables d f).unseen = s.unseen := rfl
@[simp] theorem State.modTables_codes (s : State) (d : Nat) (f : DieTables → DieTables) :
    (s.modTables d f).codes = s.codes := rfl
@[simp] theorem State.modTables_hy (s : State) (d : Nat) (f : DieTables → DieTables) :
    (s.modTables d f).hy = s.hy := rfl
@[simp] theorem State.modTables_host (s : State) (d : Nat) (f : DieTables → DieTables) :
    (s.modTables d f).host = s.host := rfl
@[simp] theorem State.modTables_mail (s : State) (d : Nat) (f : DieTables → DieTables) :
    (s.modTables d f).mail = s.mail := rfl
@[simp] theorem State.modTables_lodge (s : State) (d : Nat) (f : DieTables → DieTables) :
    (s.modTables d f).lodge = s.lodge := rfl
@[simp] theorem State.modTables_plan (s : State) (d : Nat) (f : DieTables → DieTables) :
    (s.modTables d f).plan = s.plan := rfl
@[simp] theorem State.modTables_changes (s : State) (d : Nat) (f : DieTables → DieTables) :
    (s.modTables d f).changes = s.changes := rfl
@[simp] theorem State.modTables_belv (s : State) (d : Nat) (f : DieTables → DieTables) :
    (s.modTables d f).belv = s.belv := rfl
@[simp] theorem State.modTables_unmanaged (s : State) (d : Nat) (f : DieTables → DieTables) :
    (s.modTables d f).unmanaged = s.unmanaged := rfl
@[simp] theorem State.modTables_clocks (s : State) (d : Nat) (f : DieTables → DieTables) :
    (s.modTables d f).clocks = s.clocks := rfl
@[simp] theorem State.modTables_against (s : State) (d : Nat) (f : DieTables → DieTables) :
    (s.modTables d f).against = s.against := rfl
@[simp] theorem State.modTables_boot (s : State) (d : Nat) (f : DieTables → DieTables) :
    (s.modTables d f).boot = s.boot := rfl
@[simp] theorem State.modTables_spdm (s : State) (d : Nat) (f : DieTables → DieTables) :
    (s.modTables d f).spdm = s.spdm := rfl
@[simp] theorem State.modTables_power (s : State) (d : Nat) (f : DieTables → DieTables) :
    (s.modTables d f).power = s.power := rfl
@[simp] theorem State.modTables_life (s : State) (d : Nat) (f : DieTables → DieTables) :
    (s.modTables d f).life = s.life := rfl
@[simp] theorem State.modTables_nowUs (s : State) (d : Nat) (f : DieTables → DieTables) :
    (s.modTables d f).nowUs = s.nowUs := rfl
@[simp] theorem State.modTables_nowCyc (s : State) (d : Nat) (f : DieTables → DieTables) :
    (s.modTables d f).nowCyc = s.nowCyc := rfl
@[simp] theorem State.modTables_fresh (s : State) (d : Nat) (f : DieTables → DieTables) :
    (s.modTables d f).fresh = s.fresh := rfl
@[simp] theorem State.modTables_agenda (s : State) (d : Nat) (f : DieTables → DieTables) :
    (s.modTables d f).agenda = s.agenda := rfl
@[simp] theorem State.modTables_lag (s : State) (d : Nat) (f : DieTables → DieTables) :
    (s.modTables d f).lag = s.lag := rfl

/-! ### `modSched` -/

@[simp] theorem State.modSched_cur (s : State) (d : Nat) (f : DieSched → DieSched) :
    (s.modSched d f).cur = s.cur := rfl
@[simp] theorem State.modSched_cx (s : State) (d : Nat) (f : DieSched → DieSched) : (s.modSched d f).cx = s.cx := rfl
@[simp] theorem State.modSched_ctxs (s : State) (d : Nat) (f : DieSched → DieSched) :
    (s.modSched d f).ctxs = s.ctxs := rfl
@[simp] theorem State.modSched_mem (s : State) (d : Nat) (f : DieSched → DieSched) :
    (s.modSched d f).mem = s.mem := rfl
@[simp] theorem State.modSched_empty (s : State) (d : Nat) (f : DieSched → DieSched) :
    (s.modSched d f).empty = s.empty := rfl
@[simp] theorem State.modSched_bad (s : State) (d : Nat) (f : DieSched → DieSched) :
    (s.modSched d f).bad = s.bad := rfl
@[simp] theorem State.modSched_unseen (s : State) (d : Nat) (f : DieSched → DieSched) :
    (s.modSched d f).unseen = s.unseen := rfl
@[simp] theorem State.modSched_codes (s : State) (d : Nat) (f : DieSched → DieSched) :
    (s.modSched d f).codes = s.codes := rfl
@[simp] theorem State.modSched_hy (s : State) (d : Nat) (f : DieSched → DieSched) : (s.modSched d f).hy = s.hy := rfl
@[simp] theorem State.modSched_host (s : State) (d : Nat) (f : DieSched → DieSched) :
    (s.modSched d f).host = s.host := rfl
@[simp] theorem State.modSched_mail (s : State) (d : Nat) (f : DieSched → DieSched) :
    (s.modSched d f).mail = s.mail := rfl
@[simp] theorem State.modSched_lodge (s : State) (d : Nat) (f : DieSched → DieSched) :
    (s.modSched d f).lodge = s.lodge := rfl
@[simp] theorem State.modSched_plan (s : State) (d : Nat) (f : DieSched → DieSched) :
    (s.modSched d f).plan = s.plan := rfl
@[simp] theorem State.modSched_changes (s : State) (d : Nat) (f : DieSched → DieSched) :
    (s.modSched d f).changes = s.changes := rfl
@[simp] theorem State.modSched_belv (s : State) (d : Nat) (f : DieSched → DieSched) :
    (s.modSched d f).belv = s.belv := rfl
@[simp] theorem State.modSched_unmanaged (s : State) (d : Nat) (f : DieSched → DieSched) :
    (s.modSched d f).unmanaged = s.unmanaged := rfl
@[simp] theorem State.modSched_clocks (s : State) (d : Nat) (f : DieSched → DieSched) :
    (s.modSched d f).clocks = s.clocks := rfl
@[simp] theorem State.modSched_against (s : State) (d : Nat) (f : DieSched → DieSched) :
    (s.modSched d f).against = s.against := rfl
@[simp] theorem State.modSched_boot (s : State) (d : Nat) (f : DieSched → DieSched) :
    (s.modSched d f).boot = s.boot := rfl
@[simp] theorem State.modSched_spdm (s : State) (d : Nat) (f : DieSched → DieSched) :
    (s.modSched d f).spdm = s.spdm := rfl
@[simp] theorem State.modSched_power (s : State) (d : Nat) (f : DieSched → DieSched) :
    (s.modSched d f).power = s.power := rfl
@[simp] theorem State.modSched_life (s : State) (d : Nat) (f : DieSched → DieSched) :
    (s.modSched d f).life = s.life := rfl
@[simp] theorem State.modSched_nowUs (s : State) (d : Nat) (f : DieSched → DieSched) :
    (s.modSched d f).nowUs = s.nowUs := rfl
@[simp] theorem State.modSched_nowCyc (s : State) (d : Nat) (f : DieSched → DieSched) :
    (s.modSched d f).nowCyc = s.nowCyc := rfl
@[simp] theorem State.modSched_fresh (s : State) (d : Nat) (f : DieSched → DieSched) :
    (s.modSched d f).fresh = s.fresh := rfl
@[simp] theorem State.modSched_agenda (s : State) (d : Nat) (f : DieSched → DieSched) :
    (s.modSched d f).agenda = s.agenda := rfl
@[simp] theorem State.modSched_lag (s : State) (d : Nat) (f : DieSched → DieSched) :
    (s.modSched d f).lag = s.lag := rfl

/-! ### `modXf` -/

@[simp] theorem State.modXf_cur (s : State) (d : Nat) (f : DieXfers → DieXfers) : (s.modXf d f).cur = s.cur := rfl
@[simp] theorem State.modXf_cx (s : State) (d : Nat) (f : DieXfers → DieXfers) : (s.modXf d f).cx = s.cx := rfl
@[simp] theorem State.modXf_ctxs (s : State) (d : Nat) (f : DieXfers → DieXfers) : (s.modXf d f).ctxs = s.ctxs := rfl
@[simp] theorem State.modXf_mem (s : State) (d : Nat) (f : DieXfers → DieXfers) : (s.modXf d f).mem = s.mem := rfl
@[simp] theorem State.modXf_empty (s : State) (d : Nat) (f : DieXfers → DieXfers) :
    (s.modXf d f).empty = s.empty := rfl
@[simp] theorem State.modXf_bad (s : State) (d : Nat) (f : DieXfers → DieXfers) : (s.modXf d f).bad = s.bad := rfl
@[simp] theorem State.modXf_unseen (s : State) (d : Nat) (f : DieXfers → DieXfers) : (s.modXf d f).unseen = s.unseen := rfl
@[simp] theorem State.modXf_codes (s : State) (d : Nat) (f : DieXfers → DieXfers) :
    (s.modXf d f).codes = s.codes := rfl
@[simp] theorem State.modXf_hy (s : State) (d : Nat) (f : DieXfers → DieXfers) : (s.modXf d f).hy = s.hy := rfl
@[simp] theorem State.modXf_host (s : State) (d : Nat) (f : DieXfers → DieXfers) : (s.modXf d f).host = s.host := rfl
@[simp] theorem State.modXf_mail (s : State) (d : Nat) (f : DieXfers → DieXfers) : (s.modXf d f).mail = s.mail := rfl
@[simp] theorem State.modXf_lodge (s : State) (d : Nat) (f : DieXfers → DieXfers) :
    (s.modXf d f).lodge = s.lodge := rfl
@[simp] theorem State.modXf_plan (s : State) (d : Nat) (f : DieXfers → DieXfers) : (s.modXf d f).plan = s.plan := rfl
@[simp] theorem State.modXf_changes (s : State) (d : Nat) (f : DieXfers → DieXfers) :
    (s.modXf d f).changes = s.changes := rfl
@[simp] theorem State.modXf_belv (s : State) (d : Nat) (f : DieXfers → DieXfers) : (s.modXf d f).belv = s.belv := rfl
@[simp] theorem State.modXf_unmanaged (s : State) (d : Nat) (f : DieXfers → DieXfers) :
    (s.modXf d f).unmanaged = s.unmanaged := rfl
@[simp] theorem State.modXf_clocks (s : State) (d : Nat) (f : DieXfers → DieXfers) :
    (s.modXf d f).clocks = s.clocks := rfl
@[simp] theorem State.modXf_against (s : State) (d : Nat) (f : DieXfers → DieXfers) :
    (s.modXf d f).against = s.against := rfl
@[simp] theorem State.modXf_boot (s : State) (d : Nat) (f : DieXfers → DieXfers) : (s.modXf d f).boot = s.boot := rfl
@[simp] theorem State.modXf_spdm (s : State) (d : Nat) (f : DieXfers → DieXfers) : (s.modXf d f).spdm = s.spdm := rfl
@[simp] theorem State.modXf_power (s : State) (d : Nat) (f : DieXfers → DieXfers) :
    (s.modXf d f).power = s.power := rfl
@[simp] theorem State.modXf_life (s : State) (d : Nat) (f : DieXfers → DieXfers) : (s.modXf d f).life = s.life := rfl
@[simp] theorem State.modXf_nowUs (s : State) (d : Nat) (f : DieXfers → DieXfers) :
    (s.modXf d f).nowUs = s.nowUs := rfl
@[simp] theorem State.modXf_nowCyc (s : State) (d : Nat) (f : DieXfers → DieXfers) :
    (s.modXf d f).nowCyc = s.nowCyc := rfl
@[simp] theorem State.modXf_fresh (s : State) (d : Nat) (f : DieXfers → DieXfers) :
    (s.modXf d f).fresh = s.fresh := rfl
@[simp] theorem State.modXf_agenda (s : State) (d : Nat) (f : DieXfers → DieXfers) :
    (s.modXf d f).agenda = s.agenda := rfl
@[simp] theorem State.modXf_lag (s : State) (d : Nat) (f : DieXfers → DieXfers) :
    (s.modXf d f).lag = s.lag := rfl

/-! ### `modTr` -/

@[simp] theorem State.modTr_cur (s : State) (d : Nat) (f : DieTrellis → DieTrellis) : (s.modTr d f).cur = s.cur := rfl
@[simp] theorem State.modTr_cx (s : State) (d : Nat) (f : DieTrellis → DieTrellis) : (s.modTr d f).cx = s.cx := rfl
@[simp] theorem State.modTr_ctxs (s : State) (d : Nat) (f : DieTrellis → DieTrellis) :
    (s.modTr d f).ctxs = s.ctxs := rfl
@[simp] theorem State.modTr_mem (s : State) (d : Nat) (f : DieTrellis → DieTrellis) : (s.modTr d f).mem = s.mem := rfl
@[simp] theorem State.modTr_empty (s : State) (d : Nat) (f : DieTrellis → DieTrellis) :
    (s.modTr d f).empty = s.empty := rfl
@[simp] theorem State.modTr_bad (s : State) (d : Nat) (f : DieTrellis → DieTrellis) : (s.modTr d f).bad = s.bad := rfl
@[simp] theorem State.modTr_unseen (s : State) (d : Nat) (f : DieTrellis → DieTrellis) : (s.modTr d f).unseen = s.unseen := rfl
@[simp] theorem State.modTr_codes (s : State) (d : Nat) (f : DieTrellis → DieTrellis) :
    (s.modTr d f).codes = s.codes := rfl
@[simp] theorem State.modTr_hy (s : State) (d : Nat) (f : DieTrellis → DieTrellis) : (s.modTr d f).hy = s.hy := rfl
@[simp] theorem State.modTr_host (s : State) (d : Nat) (f : DieTrellis → DieTrellis) :
    (s.modTr d f).host = s.host := rfl
@[simp] theorem State.modTr_mail (s : State) (d : Nat) (f : DieTrellis → DieTrellis) :
    (s.modTr d f).mail = s.mail := rfl
@[simp] theorem State.modTr_lodge (s : State) (d : Nat) (f : DieTrellis → DieTrellis) :
    (s.modTr d f).lodge = s.lodge := rfl
@[simp] theorem State.modTr_plan (s : State) (d : Nat) (f : DieTrellis → DieTrellis) :
    (s.modTr d f).plan = s.plan := rfl
@[simp] theorem State.modTr_changes (s : State) (d : Nat) (f : DieTrellis → DieTrellis) :
    (s.modTr d f).changes = s.changes := rfl
@[simp] theorem State.modTr_belv (s : State) (d : Nat) (f : DieTrellis → DieTrellis) :
    (s.modTr d f).belv = s.belv := rfl
@[simp] theorem State.modTr_unmanaged (s : State) (d : Nat) (f : DieTrellis → DieTrellis) :
    (s.modTr d f).unmanaged = s.unmanaged := rfl
@[simp] theorem State.modTr_clocks (s : State) (d : Nat) (f : DieTrellis → DieTrellis) :
    (s.modTr d f).clocks = s.clocks := rfl
@[simp] theorem State.modTr_against (s : State) (d : Nat) (f : DieTrellis → DieTrellis) :
    (s.modTr d f).against = s.against := rfl
@[simp] theorem State.modTr_boot (s : State) (d : Nat) (f : DieTrellis → DieTrellis) :
    (s.modTr d f).boot = s.boot := rfl
@[simp] theorem State.modTr_spdm (s : State) (d : Nat) (f : DieTrellis → DieTrellis) :
    (s.modTr d f).spdm = s.spdm := rfl
@[simp] theorem State.modTr_power (s : State) (d : Nat) (f : DieTrellis → DieTrellis) :
    (s.modTr d f).power = s.power := rfl
@[simp] theorem State.modTr_life (s : State) (d : Nat) (f : DieTrellis → DieTrellis) :
    (s.modTr d f).life = s.life := rfl
@[simp] theorem State.modTr_nowUs (s : State) (d : Nat) (f : DieTrellis → DieTrellis) :
    (s.modTr d f).nowUs = s.nowUs := rfl
@[simp] theorem State.modTr_nowCyc (s : State) (d : Nat) (f : DieTrellis → DieTrellis) :
    (s.modTr d f).nowCyc = s.nowCyc := rfl
@[simp] theorem State.modTr_fresh (s : State) (d : Nat) (f : DieTrellis → DieTrellis) :
    (s.modTr d f).fresh = s.fresh := rfl
@[simp] theorem State.modTr_agenda (s : State) (d : Nat) (f : DieTrellis → DieTrellis) :
    (s.modTr d f).agenda = s.agenda := rfl
@[simp] theorem State.modTr_lag (s : State) (d : Nat) (f : DieTrellis → DieTrellis) :
    (s.modTr d f).lag = s.lag := rfl

/-! ### `modTiers` -/

@[simp] theorem State.modTiers_cur (s : State) (d : Nat) (f : DieTiers → DieTiers) :
    (s.modTiers d f).cur = s.cur := rfl
@[simp] theorem State.modTiers_cx (s : State) (d : Nat) (f : DieTiers → DieTiers) : (s.modTiers d f).cx = s.cx := rfl
@[simp] theorem State.modTiers_ctxs (s : State) (d : Nat) (f : DieTiers → DieTiers) :
    (s.modTiers d f).ctxs = s.ctxs := rfl
@[simp] theorem State.modTiers_mem (s : State) (d : Nat) (f : DieTiers → DieTiers) :
    (s.modTiers d f).mem = s.mem := rfl
@[simp] theorem State.modTiers_empty (s : State) (d : Nat) (f : DieTiers → DieTiers) :
    (s.modTiers d f).empty = s.empty := rfl
@[simp] theorem State.modTiers_bad (s : State) (d : Nat) (f : DieTiers → DieTiers) :
    (s.modTiers d f).bad = s.bad := rfl
@[simp] theorem State.modTiers_unseen (s : State) (d : Nat) (f : DieTiers → DieTiers) :
    (s.modTiers d f).unseen = s.unseen := rfl
@[simp] theorem State.modTiers_codes (s : State) (d : Nat) (f : DieTiers → DieTiers) :
    (s.modTiers d f).codes = s.codes := rfl
@[simp] theorem State.modTiers_hy (s : State) (d : Nat) (f : DieTiers → DieTiers) : (s.modTiers d f).hy = s.hy := rfl
@[simp] theorem State.modTiers_host (s : State) (d : Nat) (f : DieTiers → DieTiers) :
    (s.modTiers d f).host = s.host := rfl
@[simp] theorem State.modTiers_mail (s : State) (d : Nat) (f : DieTiers → DieTiers) :
    (s.modTiers d f).mail = s.mail := rfl
@[simp] theorem State.modTiers_lodge (s : State) (d : Nat) (f : DieTiers → DieTiers) :
    (s.modTiers d f).lodge = s.lodge := rfl
@[simp] theorem State.modTiers_plan (s : State) (d : Nat) (f : DieTiers → DieTiers) :
    (s.modTiers d f).plan = s.plan := rfl
@[simp] theorem State.modTiers_changes (s : State) (d : Nat) (f : DieTiers → DieTiers) :
    (s.modTiers d f).changes = s.changes := rfl
@[simp] theorem State.modTiers_belv (s : State) (d : Nat) (f : DieTiers → DieTiers) :
    (s.modTiers d f).belv = s.belv := rfl
@[simp] theorem State.modTiers_unmanaged (s : State) (d : Nat) (f : DieTiers → DieTiers) :
    (s.modTiers d f).unmanaged = s.unmanaged := rfl
@[simp] theorem State.modTiers_clocks (s : State) (d : Nat) (f : DieTiers → DieTiers) :
    (s.modTiers d f).clocks = s.clocks := rfl
@[simp] theorem State.modTiers_against (s : State) (d : Nat) (f : DieTiers → DieTiers) :
    (s.modTiers d f).against = s.against := rfl
@[simp] theorem State.modTiers_boot (s : State) (d : Nat) (f : DieTiers → DieTiers) :
    (s.modTiers d f).boot = s.boot := rfl
@[simp] theorem State.modTiers_spdm (s : State) (d : Nat) (f : DieTiers → DieTiers) :
    (s.modTiers d f).spdm = s.spdm := rfl
@[simp] theorem State.modTiers_power (s : State) (d : Nat) (f : DieTiers → DieTiers) :
    (s.modTiers d f).power = s.power := rfl
@[simp] theorem State.modTiers_life (s : State) (d : Nat) (f : DieTiers → DieTiers) :
    (s.modTiers d f).life = s.life := rfl
@[simp] theorem State.modTiers_nowUs (s : State) (d : Nat) (f : DieTiers → DieTiers) :
    (s.modTiers d f).nowUs = s.nowUs := rfl
@[simp] theorem State.modTiers_nowCyc (s : State) (d : Nat) (f : DieTiers → DieTiers) :
    (s.modTiers d f).nowCyc = s.nowCyc := rfl
@[simp] theorem State.modTiers_fresh (s : State) (d : Nat) (f : DieTiers → DieTiers) :
    (s.modTiers d f).fresh = s.fresh := rfl
@[simp] theorem State.modTiers_agenda (s : State) (d : Nat) (f : DieTiers → DieTiers) :
    (s.modTiers d f).agenda = s.agenda := rfl
@[simp] theorem State.modTiers_lag (s : State) (d : Nat) (f : DieTiers → DieTiers) :
    (s.modTiers d f).lag = s.lag := rfl

/-! ### `put` -/

@[simp] theorem State.put_cur (s : State) (k : Nat) (bs : List Byte) : (s.put k bs).cur = s.cur := rfl
@[simp] theorem State.put_cx (s : State) (k : Nat) (bs : List Byte) : (s.put k bs).cx = s.cx := rfl
@[simp] theorem State.put_ctxs (s : State) (k : Nat) (bs : List Byte) : (s.put k bs).ctxs = s.ctxs := rfl
@[simp] theorem State.put_dies (s : State) (k : Nat) (bs : List Byte) : (s.put k bs).dies = s.dies := rfl
@[simp] theorem State.put_empty (s : State) (k : Nat) (bs : List Byte) : (s.put k bs).empty = s.empty := rfl
@[simp] theorem State.put_codes (s : State) (k : Nat) (bs : List Byte) : (s.put k bs).codes = s.codes := rfl
@[simp] theorem State.put_hy (s : State) (k : Nat) (bs : List Byte) : (s.put k bs).hy = s.hy := rfl
@[simp] theorem State.put_host (s : State) (k : Nat) (bs : List Byte) : (s.put k bs).host = s.host := rfl
@[simp] theorem State.put_mail (s : State) (k : Nat) (bs : List Byte) : (s.put k bs).mail = s.mail := rfl
@[simp] theorem State.put_lodge (s : State) (k : Nat) (bs : List Byte) : (s.put k bs).lodge = s.lodge := rfl
@[simp] theorem State.put_plan (s : State) (k : Nat) (bs : List Byte) : (s.put k bs).plan = s.plan := rfl
@[simp] theorem State.put_changes (s : State) (k : Nat) (bs : List Byte) : (s.put k bs).changes = s.changes := rfl
@[simp] theorem State.put_belv (s : State) (k : Nat) (bs : List Byte) : (s.put k bs).belv = s.belv := rfl
@[simp] theorem State.put_unmanaged (s : State) (k : Nat) (bs : List Byte) :
    (s.put k bs).unmanaged = s.unmanaged := rfl
@[simp] theorem State.put_clocks (s : State) (k : Nat) (bs : List Byte) : (s.put k bs).clocks = s.clocks := rfl
@[simp] theorem State.put_against (s : State) (k : Nat) (bs : List Byte) : (s.put k bs).against = s.against := rfl
@[simp] theorem State.put_boot (s : State) (k : Nat) (bs : List Byte) : (s.put k bs).boot = s.boot := rfl
@[simp] theorem State.put_spdm (s : State) (k : Nat) (bs : List Byte) : (s.put k bs).spdm = s.spdm := rfl
@[simp] theorem State.put_power (s : State) (k : Nat) (bs : List Byte) : (s.put k bs).power = s.power := rfl
@[simp] theorem State.put_life (s : State) (k : Nat) (bs : List Byte) : (s.put k bs).life = s.life := rfl
@[simp] theorem State.put_nowUs (s : State) (k : Nat) (bs : List Byte) : (s.put k bs).nowUs = s.nowUs := rfl
@[simp] theorem State.put_nowCyc (s : State) (k : Nat) (bs : List Byte) : (s.put k bs).nowCyc = s.nowCyc := rfl
@[simp] theorem State.put_fresh (s : State) (k : Nat) (bs : List Byte) : (s.put k bs).fresh = s.fresh := rfl
@[simp] theorem State.put_agenda (s : State) (k : Nat) (bs : List Byte) : (s.put k bs).agenda = s.agenda := rfl
@[simp] theorem State.put_lag (s : State) (k : Nat) (bs : List Byte) : (s.put k bs).lag = s.lag := rfl

/-! ### `wr` -/

@[simp] theorem State.wr_cur (s : State) (k n x : Nat) : (s.wr k n x).cur = s.cur := rfl
@[simp] theorem State.wr_cx (s : State) (k n x : Nat) : (s.wr k n x).cx = s.cx := rfl
@[simp] theorem State.wr_ctxs (s : State) (k n x : Nat) : (s.wr k n x).ctxs = s.ctxs := rfl
@[simp] theorem State.wr_dies (s : State) (k n x : Nat) : (s.wr k n x).dies = s.dies := rfl
@[simp] theorem State.wr_empty (s : State) (k n x : Nat) : (s.wr k n x).empty = s.empty := rfl
@[simp] theorem State.wr_codes (s : State) (k n x : Nat) : (s.wr k n x).codes = s.codes := rfl
@[simp] theorem State.wr_hy (s : State) (k n x : Nat) : (s.wr k n x).hy = s.hy := rfl
@[simp] theorem State.wr_host (s : State) (k n x : Nat) : (s.wr k n x).host = s.host := rfl
@[simp] theorem State.wr_mail (s : State) (k n x : Nat) : (s.wr k n x).mail = s.mail := rfl
@[simp] theorem State.wr_lodge (s : State) (k n x : Nat) : (s.wr k n x).lodge = s.lodge := rfl
@[simp] theorem State.wr_plan (s : State) (k n x : Nat) : (s.wr k n x).plan = s.plan := rfl
@[simp] theorem State.wr_changes (s : State) (k n x : Nat) : (s.wr k n x).changes = s.changes := rfl
@[simp] theorem State.wr_belv (s : State) (k n x : Nat) : (s.wr k n x).belv = s.belv := rfl
@[simp] theorem State.wr_unmanaged (s : State) (k n x : Nat) : (s.wr k n x).unmanaged = s.unmanaged := rfl
@[simp] theorem State.wr_clocks (s : State) (k n x : Nat) : (s.wr k n x).clocks = s.clocks := rfl
@[simp] theorem State.wr_against (s : State) (k n x : Nat) : (s.wr k n x).against = s.against := rfl
@[simp] theorem State.wr_boot (s : State) (k n x : Nat) : (s.wr k n x).boot = s.boot := rfl
@[simp] theorem State.wr_spdm (s : State) (k n x : Nat) : (s.wr k n x).spdm = s.spdm := rfl
@[simp] theorem State.wr_power (s : State) (k n x : Nat) : (s.wr k n x).power = s.power := rfl
@[simp] theorem State.wr_life (s : State) (k n x : Nat) : (s.wr k n x).life = s.life := rfl
@[simp] theorem State.wr_nowUs (s : State) (k n x : Nat) : (s.wr k n x).nowUs = s.nowUs := rfl
@[simp] theorem State.wr_nowCyc (s : State) (k n x : Nat) : (s.wr k n x).nowCyc = s.nowCyc := rfl
@[simp] theorem State.wr_fresh (s : State) (k n x : Nat) : (s.wr k n x).fresh = s.fresh := rfl
@[simp] theorem State.wr_agenda (s : State) (k n x : Nat) : (s.wr k n x).agenda = s.agenda := rfl
@[simp] theorem State.wr_lag (s : State) (k n x : Nat) : (s.wr k n x).lag = s.lag := rfl

/-! ### `setFull` -/

@[simp] theorem State.setFull_cur (s : State) (gs : List Nat) : (s.setFull gs).cur = s.cur := rfl
@[simp] theorem State.setFull_cx (s : State) (gs : List Nat) : (s.setFull gs).cx = s.cx := rfl
@[simp] theorem State.setFull_ctxs (s : State) (gs : List Nat) : (s.setFull gs).ctxs = s.ctxs := rfl
@[simp] theorem State.setFull_dies (s : State) (gs : List Nat) : (s.setFull gs).dies = s.dies := rfl
@[simp] theorem State.setFull_mem (s : State) (gs : List Nat) : (s.setFull gs).mem = s.mem := rfl
@[simp] theorem State.setFull_bad (s : State) (gs : List Nat) : (s.setFull gs).bad = s.bad := rfl
@[simp] theorem State.setFull_unseen (s : State) (gs : List Nat) : (s.setFull gs).unseen = s.unseen := rfl
@[simp] theorem State.setFull_codes (s : State) (gs : List Nat) : (s.setFull gs).codes = s.codes := rfl
@[simp] theorem State.setFull_hy (s : State) (gs : List Nat) : (s.setFull gs).hy = s.hy := rfl
@[simp] theorem State.setFull_host (s : State) (gs : List Nat) : (s.setFull gs).host = s.host := rfl
@[simp] theorem State.setFull_mail (s : State) (gs : List Nat) : (s.setFull gs).mail = s.mail := rfl
@[simp] theorem State.setFull_lodge (s : State) (gs : List Nat) : (s.setFull gs).lodge = s.lodge := rfl
@[simp] theorem State.setFull_plan (s : State) (gs : List Nat) : (s.setFull gs).plan = s.plan := rfl
@[simp] theorem State.setFull_changes (s : State) (gs : List Nat) : (s.setFull gs).changes = s.changes := rfl
@[simp] theorem State.setFull_belv (s : State) (gs : List Nat) : (s.setFull gs).belv = s.belv := rfl
@[simp] theorem State.setFull_unmanaged (s : State) (gs : List Nat) : (s.setFull gs).unmanaged = s.unmanaged := rfl
@[simp] theorem State.setFull_clocks (s : State) (gs : List Nat) : (s.setFull gs).clocks = s.clocks := rfl
@[simp] theorem State.setFull_against (s : State) (gs : List Nat) : (s.setFull gs).against = s.against := rfl
@[simp] theorem State.setFull_boot (s : State) (gs : List Nat) : (s.setFull gs).boot = s.boot := rfl
@[simp] theorem State.setFull_spdm (s : State) (gs : List Nat) : (s.setFull gs).spdm = s.spdm := rfl
@[simp] theorem State.setFull_power (s : State) (gs : List Nat) : (s.setFull gs).power = s.power := rfl
@[simp] theorem State.setFull_life (s : State) (gs : List Nat) : (s.setFull gs).life = s.life := rfl
@[simp] theorem State.setFull_nowUs (s : State) (gs : List Nat) : (s.setFull gs).nowUs = s.nowUs := rfl
@[simp] theorem State.setFull_nowCyc (s : State) (gs : List Nat) : (s.setFull gs).nowCyc = s.nowCyc := rfl
@[simp] theorem State.setFull_fresh (s : State) (gs : List Nat) : (s.setFull gs).fresh = s.fresh := rfl
@[simp] theorem State.setFull_agenda (s : State) (gs : List Nat) : (s.setFull gs).agenda = s.agenda := rfl
@[simp] theorem State.setFull_lag (s : State) (gs : List Nat) : (s.setFull gs).lag = s.lag := rfl

/-! ### `setEmpty` -/

@[simp] theorem State.setEmpty_cur (s : State) (gs : List Nat) : (s.setEmpty gs).cur = s.cur := rfl
@[simp] theorem State.setEmpty_cx (s : State) (gs : List Nat) : (s.setEmpty gs).cx = s.cx := rfl
@[simp] theorem State.setEmpty_ctxs (s : State) (gs : List Nat) : (s.setEmpty gs).ctxs = s.ctxs := rfl
@[simp] theorem State.setEmpty_dies (s : State) (gs : List Nat) : (s.setEmpty gs).dies = s.dies := rfl
@[simp] theorem State.setEmpty_mem (s : State) (gs : List Nat) : (s.setEmpty gs).mem = s.mem := rfl
@[simp] theorem State.setEmpty_bad (s : State) (gs : List Nat) : (s.setEmpty gs).bad = s.bad := rfl
@[simp] theorem State.setEmpty_unseen (s : State) (gs : List Nat) : (s.setEmpty gs).unseen = s.unseen := rfl
@[simp] theorem State.setEmpty_codes (s : State) (gs : List Nat) : (s.setEmpty gs).codes = s.codes := rfl
@[simp] theorem State.setEmpty_hy (s : State) (gs : List Nat) : (s.setEmpty gs).hy = s.hy := rfl
@[simp] theorem State.setEmpty_host (s : State) (gs : List Nat) : (s.setEmpty gs).host = s.host := rfl
@[simp] theorem State.setEmpty_mail (s : State) (gs : List Nat) : (s.setEmpty gs).mail = s.mail := rfl
@[simp] theorem State.setEmpty_lodge (s : State) (gs : List Nat) : (s.setEmpty gs).lodge = s.lodge := rfl
@[simp] theorem State.setEmpty_plan (s : State) (gs : List Nat) : (s.setEmpty gs).plan = s.plan := rfl
@[simp] theorem State.setEmpty_changes (s : State) (gs : List Nat) : (s.setEmpty gs).changes = s.changes := rfl
@[simp] theorem State.setEmpty_belv (s : State) (gs : List Nat) : (s.setEmpty gs).belv = s.belv := rfl
@[simp] theorem State.setEmpty_unmanaged (s : State) (gs : List Nat) : (s.setEmpty gs).unmanaged = s.unmanaged := rfl
@[simp] theorem State.setEmpty_clocks (s : State) (gs : List Nat) : (s.setEmpty gs).clocks = s.clocks := rfl
@[simp] theorem State.setEmpty_against (s : State) (gs : List Nat) : (s.setEmpty gs).against = s.against := rfl
@[simp] theorem State.setEmpty_boot (s : State) (gs : List Nat) : (s.setEmpty gs).boot = s.boot := rfl
@[simp] theorem State.setEmpty_spdm (s : State) (gs : List Nat) : (s.setEmpty gs).spdm = s.spdm := rfl
@[simp] theorem State.setEmpty_power (s : State) (gs : List Nat) : (s.setEmpty gs).power = s.power := rfl
@[simp] theorem State.setEmpty_life (s : State) (gs : List Nat) : (s.setEmpty gs).life = s.life := rfl
@[simp] theorem State.setEmpty_nowUs (s : State) (gs : List Nat) : (s.setEmpty gs).nowUs = s.nowUs := rfl
@[simp] theorem State.setEmpty_nowCyc (s : State) (gs : List Nat) : (s.setEmpty gs).nowCyc = s.nowCyc := rfl
@[simp] theorem State.setEmpty_fresh (s : State) (gs : List Nat) : (s.setEmpty gs).fresh = s.fresh := rfl
@[simp] theorem State.setEmpty_agenda (s : State) (gs : List Nat) : (s.setEmpty gs).agenda = s.agenda := rfl
@[simp] theorem State.setEmpty_lag (s : State) (gs : List Nat) : (s.setEmpty gs).lag = s.lag := rfl

/-! ### `tickFree` -/

@[simp] theorem State.tickFree_cur (s : State) : (s.tickFree).cur = s.cur := rfl
@[simp] theorem State.tickFree_cx (s : State) : (s.tickFree).cx = s.cx := rfl
@[simp] theorem State.tickFree_ctxs (s : State) : (s.tickFree).ctxs = s.ctxs := rfl
@[simp] theorem State.tickFree_dies (s : State) : (s.tickFree).dies = s.dies := rfl
@[simp] theorem State.tickFree_mem (s : State) : (s.tickFree).mem = s.mem := rfl
@[simp] theorem State.tickFree_empty (s : State) : (s.tickFree).empty = s.empty := rfl
@[simp] theorem State.tickFree_bad (s : State) : (s.tickFree).bad = s.bad := rfl
@[simp] theorem State.tickFree_unseen (s : State) : (s.tickFree).unseen = s.unseen := rfl
@[simp] theorem State.tickFree_codes (s : State) : (s.tickFree).codes = s.codes := rfl
@[simp] theorem State.tickFree_hy (s : State) : (s.tickFree).hy = s.hy := rfl
@[simp] theorem State.tickFree_host (s : State) : (s.tickFree).host = s.host := rfl
@[simp] theorem State.tickFree_mail (s : State) : (s.tickFree).mail = s.mail := rfl
@[simp] theorem State.tickFree_lodge (s : State) : (s.tickFree).lodge = s.lodge := rfl
@[simp] theorem State.tickFree_plan (s : State) : (s.tickFree).plan = s.plan := rfl
@[simp] theorem State.tickFree_changes (s : State) : (s.tickFree).changes = s.changes := rfl
@[simp] theorem State.tickFree_belv (s : State) : (s.tickFree).belv = s.belv := rfl
@[simp] theorem State.tickFree_unmanaged (s : State) : (s.tickFree).unmanaged = s.unmanaged := rfl
@[simp] theorem State.tickFree_clocks (s : State) : (s.tickFree).clocks = s.clocks := rfl
@[simp] theorem State.tickFree_against (s : State) : (s.tickFree).against = s.against := rfl
@[simp] theorem State.tickFree_boot (s : State) : (s.tickFree).boot = s.boot := rfl
@[simp] theorem State.tickFree_spdm (s : State) : (s.tickFree).spdm = s.spdm := rfl
@[simp] theorem State.tickFree_power (s : State) : (s.tickFree).power = s.power := rfl
@[simp] theorem State.tickFree_life (s : State) : (s.tickFree).life = s.life := rfl
@[simp] theorem State.tickFree_nowUs (s : State) : (s.tickFree).nowUs = s.nowUs := rfl
@[simp] theorem State.tickFree_nowCyc (s : State) : (s.tickFree).nowCyc = s.nowCyc := rfl
@[simp] theorem State.tickFree_agenda (s : State) : (s.tickFree).agenda = s.agenda := rfl
@[simp] theorem State.tickFree_lag (s : State) : (s.tickFree).lag = s.lag := rfl

/-! ### `tick` -/

@[simp] theorem State.tick_cur (s : State) : (s.tick).cur = s.cur := rfl
@[simp] theorem State.tick_ctxs (s : State) : (s.tick).ctxs = s.ctxs := rfl
@[simp] theorem State.tick_dies (s : State) : (s.tick).dies = s.dies := rfl
@[simp] theorem State.tick_mem (s : State) : (s.tick).mem = s.mem := rfl
@[simp] theorem State.tick_empty (s : State) : (s.tick).empty = s.empty := rfl
@[simp] theorem State.tick_bad (s : State) : (s.tick).bad = s.bad := rfl
@[simp] theorem State.tick_unseen (s : State) : (s.tick).unseen = s.unseen := rfl
@[simp] theorem State.tick_codes (s : State) : (s.tick).codes = s.codes := rfl
@[simp] theorem State.tick_hy (s : State) : (s.tick).hy = s.hy := rfl
@[simp] theorem State.tick_host (s : State) : (s.tick).host = s.host := rfl
@[simp] theorem State.tick_mail (s : State) : (s.tick).mail = s.mail := rfl
@[simp] theorem State.tick_lodge (s : State) : (s.tick).lodge = s.lodge := rfl
@[simp] theorem State.tick_plan (s : State) : (s.tick).plan = s.plan := rfl
@[simp] theorem State.tick_changes (s : State) : (s.tick).changes = s.changes := rfl
@[simp] theorem State.tick_belv (s : State) : (s.tick).belv = s.belv := rfl
@[simp] theorem State.tick_unmanaged (s : State) : (s.tick).unmanaged = s.unmanaged := rfl
@[simp] theorem State.tick_clocks (s : State) : (s.tick).clocks = s.clocks := rfl
@[simp] theorem State.tick_against (s : State) : (s.tick).against = s.against := rfl
@[simp] theorem State.tick_boot (s : State) : (s.tick).boot = s.boot := rfl
@[simp] theorem State.tick_spdm (s : State) : (s.tick).spdm = s.spdm := rfl
@[simp] theorem State.tick_power (s : State) : (s.tick).power = s.power := rfl
@[simp] theorem State.tick_life (s : State) : (s.tick).life = s.life := rfl
@[simp] theorem State.tick_nowUs (s : State) : (s.tick).nowUs = s.nowUs := rfl
@[simp] theorem State.tick_fresh (s : State) : (s.tick).fresh = s.fresh := rfl
@[simp] theorem State.tick_agenda (s : State) : (s.tick).agenda = s.agenda := rfl
@[simp] theorem State.tick_lag (s : State) : (s.tick).lag = s.lag := rfl

/-! ### `begun` -/

@[simp] theorem State.begun_cur (s : State) : (s.begun).cur = s.cur := rfl
@[simp] theorem State.begun_ctxs (s : State) : (s.begun).ctxs = s.ctxs := rfl
@[simp] theorem State.begun_dies (s : State) : (s.begun).dies = s.dies := rfl
@[simp] theorem State.begun_mem (s : State) : (s.begun).mem = s.mem := rfl
@[simp] theorem State.begun_empty (s : State) : (s.begun).empty = s.empty := rfl
@[simp] theorem State.begun_bad (s : State) : (s.begun).bad = s.bad := rfl
@[simp] theorem State.begun_unseen (s : State) : (s.begun).unseen = s.unseen := rfl
@[simp] theorem State.begun_codes (s : State) : (s.begun).codes = s.codes := rfl
@[simp] theorem State.begun_hy (s : State) : (s.begun).hy = s.hy := rfl
@[simp] theorem State.begun_host (s : State) : (s.begun).host = s.host := rfl
@[simp] theorem State.begun_mail (s : State) : (s.begun).mail = s.mail := rfl
@[simp] theorem State.begun_lodge (s : State) : (s.begun).lodge = s.lodge := rfl
@[simp] theorem State.begun_plan (s : State) : (s.begun).plan = s.plan := rfl
@[simp] theorem State.begun_changes (s : State) : (s.begun).changes = s.changes := rfl
@[simp] theorem State.begun_belv (s : State) : (s.begun).belv = s.belv := rfl
@[simp] theorem State.begun_unmanaged (s : State) : (s.begun).unmanaged = s.unmanaged := rfl
@[simp] theorem State.begun_clocks (s : State) : (s.begun).clocks = s.clocks := rfl
@[simp] theorem State.begun_against (s : State) : (s.begun).against = s.against := rfl
@[simp] theorem State.begun_boot (s : State) : (s.begun).boot = s.boot := rfl
@[simp] theorem State.begun_spdm (s : State) : (s.begun).spdm = s.spdm := rfl
@[simp] theorem State.begun_power (s : State) : (s.begun).power = s.power := rfl
@[simp] theorem State.begun_life (s : State) : (s.begun).life = s.life := rfl
@[simp] theorem State.begun_nowUs (s : State) : (s.begun).nowUs = s.nowUs := rfl
@[simp] theorem State.begun_fresh (s : State) : (s.begun).fresh = s.fresh := rfl
@[simp] theorem State.begun_agenda (s : State) : (s.begun).agenda = s.agenda := rfl
@[simp] theorem State.begun_lag (s : State) : (s.begun).lag = s.lag := rfl

/-! ### `setCtx` -/

@[simp] theorem State.setCtx_cur (s : State) (g : CtxId) (c : Ctx) :
    (s.setCtx g c).cur = s.cur := by
  unfold State.setCtx; split <;> rfl
@[simp] theorem State.setCtx_dies (s : State) (g : CtxId) (c : Ctx) :
    (s.setCtx g c).dies = s.dies := by
  unfold State.setCtx; split <;> rfl
@[simp] theorem State.setCtx_mem (s : State) (g : CtxId) (c : Ctx) :
    (s.setCtx g c).mem = s.mem := by
  unfold State.setCtx; split <;> rfl
@[simp] theorem State.setCtx_empty (s : State) (g : CtxId) (c : Ctx) :
    (s.setCtx g c).empty = s.empty := by
  unfold State.setCtx; split <;> rfl
@[simp] theorem State.setCtx_bad (s : State) (g : CtxId) (c : Ctx) :
    (s.setCtx g c).bad = s.bad := by
  unfold State.setCtx; split <;> rfl
@[simp] theorem State.setCtx_unseen (s : State) (g : CtxId) (c : Ctx) :
    (s.setCtx g c).unseen = s.unseen := by
  unfold State.setCtx; split <;> rfl
@[simp] theorem State.setCtx_codes (s : State) (g : CtxId) (c : Ctx) :
    (s.setCtx g c).codes = s.codes := by
  unfold State.setCtx; split <;> rfl
@[simp] theorem State.setCtx_hy (s : State) (g : CtxId) (c : Ctx) :
    (s.setCtx g c).hy = s.hy := by
  unfold State.setCtx; split <;> rfl
@[simp] theorem State.setCtx_host (s : State) (g : CtxId) (c : Ctx) :
    (s.setCtx g c).host = s.host := by
  unfold State.setCtx; split <;> rfl
@[simp] theorem State.setCtx_mail (s : State) (g : CtxId) (c : Ctx) :
    (s.setCtx g c).mail = s.mail := by
  unfold State.setCtx; split <;> rfl
@[simp] theorem State.setCtx_lodge (s : State) (g : CtxId) (c : Ctx) :
    (s.setCtx g c).lodge = s.lodge := by
  unfold State.setCtx; split <;> rfl
@[simp] theorem State.setCtx_plan (s : State) (g : CtxId) (c : Ctx) :
    (s.setCtx g c).plan = s.plan := by
  unfold State.setCtx; split <;> rfl
@[simp] theorem State.setCtx_changes (s : State) (g : CtxId) (c : Ctx) :
    (s.setCtx g c).changes = s.changes := by
  unfold State.setCtx; split <;> rfl
@[simp] theorem State.setCtx_belv (s : State) (g : CtxId) (c : Ctx) :
    (s.setCtx g c).belv = s.belv := by
  unfold State.setCtx; split <;> rfl
@[simp] theorem State.setCtx_unmanaged (s : State) (g : CtxId) (c : Ctx) :
    (s.setCtx g c).unmanaged = s.unmanaged := by
  unfold State.setCtx; split <;> rfl
@[simp] theorem State.setCtx_clocks (s : State) (g : CtxId) (c : Ctx) :
    (s.setCtx g c).clocks = s.clocks := by
  unfold State.setCtx; split <;> rfl
@[simp] theorem State.setCtx_against (s : State) (g : CtxId) (c : Ctx) :
    (s.setCtx g c).against = s.against := by
  unfold State.setCtx; split <;> rfl
@[simp] theorem State.setCtx_boot (s : State) (g : CtxId) (c : Ctx) :
    (s.setCtx g c).boot = s.boot := by
  unfold State.setCtx; split <;> rfl
@[simp] theorem State.setCtx_spdm (s : State) (g : CtxId) (c : Ctx) :
    (s.setCtx g c).spdm = s.spdm := by
  unfold State.setCtx; split <;> rfl
@[simp] theorem State.setCtx_power (s : State) (g : CtxId) (c : Ctx) :
    (s.setCtx g c).power = s.power := by
  unfold State.setCtx; split <;> rfl
@[simp] theorem State.setCtx_life (s : State) (g : CtxId) (c : Ctx) :
    (s.setCtx g c).life = s.life := by
  unfold State.setCtx; split <;> rfl
@[simp] theorem State.setCtx_nowUs (s : State) (g : CtxId) (c : Ctx) :
    (s.setCtx g c).nowUs = s.nowUs := by
  unfold State.setCtx; split <;> rfl
@[simp] theorem State.setCtx_nowCyc (s : State) (g : CtxId) (c : Ctx) :
    (s.setCtx g c).nowCyc = s.nowCyc := by
  unfold State.setCtx; split <;> rfl
@[simp] theorem State.setCtx_fresh (s : State) (g : CtxId) (c : Ctx) :
    (s.setCtx g c).fresh = s.fresh := by
  unfold State.setCtx; split <;> rfl
@[simp] theorem State.setCtx_agenda (s : State) (g : CtxId) (c : Ctx) :
    (s.setCtx g c).agenda = s.agenda := by
  unfold State.setCtx; split <;> rfl
@[simp] theorem State.setCtx_lag (s : State) (g : CtxId) (c : Ctx) :
    (s.setCtx g c).lag = s.lag := by
  unfold State.setCtx; split <;> rfl

/-! ### Registers of a context -/

@[simp] theorem Ctx.setLatch_st (c : Ctx) (k : Fin 8) (x : Vec) : (c.setLatch k x).st = c.st := rfl
@[simp] theorem Ctx.setLatch_pc (c : Ctx) (k : Fin 8) (x : Vec) : (c.setLatch k x).pc = c.pc := rfl
@[simp] theorem Ctx.setLatch_s (c : Ctx) (k : Fin 8) (x : Vec) : (c.setLatch k x).s = c.s := rfl
@[simp] theorem Ctx.setLatch_v (c : Ctx) (k : Fin 8) (x : Vec) : (c.setLatch k x).v = c.v := rfl
@[simp] theorem Ctx.setLatch_p (c : Ctx) (k : Fin 8) (x : Vec) : (c.setLatch k x).p = c.p := rfl
@[simp] theorem Ctx.setLatch_a (c : Ctx) (k : Fin 8) (x : Vec) : (c.setLatch k x).a = c.a := rfl
@[simp] theorem Ctx.setLatch_m (c : Ctx) (k : Fin 8) (x : Vec) : (c.setLatch k x).m = c.m := rfl
@[simp] theorem Ctx.setLatch_live (c : Ctx) (k : Fin 8) (x : Vec) : (c.setLatch k x).live = c.live := rfl
@[simp] theorem Ctx.setLatch_shadow (c : Ctx) (k : Fin 8) (x : Vec) : (c.setLatch k x).shadow = c.shadow := rfl
@[simp] theorem Ctx.setLatch_ctl (c : Ctx) (k : Fin 8) (x : Vec) : (c.setLatch k x).ctl = c.ctl := rfl
@[simp] theorem Ctx.setLatch_level (c : Ctx) (k : Fin 8) (x : Vec) : (c.setLatch k x).level = c.level := rfl
@[simp] theorem Ctx.setLatch_rec1 (c : Ctx) (k : Fin 8) (x : Vec) : (c.setLatch k x).rec1 = c.rec1 := rfl
@[simp] theorem Ctx.setLatch_rec2 (c : Ctx) (k : Fin 8) (x : Vec) : (c.setLatch k x).rec2 = c.rec2 := rfl
@[simp] theorem Ctx.setLatch_resume (c : Ctx) (k : Fin 8) (x : Vec) : (c.setLatch k x).resume = c.resume := rfl
@[simp] theorem Ctx.setLatch_sleepRec (c : Ctx) (k : Fin 8) (x : Vec) : (c.setLatch k x).sleepRec = c.sleepRec := rfl
@[simp] theorem Ctx.setLatch_held (c : Ctx) (k : Fin 8) (x : Vec) : (c.setLatch k x).held = c.held := rfl
@[simp] theorem Ctx.setLatch_item (c : Ctx) (k : Fin 8) (x : Vec) : (c.setLatch k x).item = c.item := rfl
@[simp] theorem Ctx.setLatch_rollback (c : Ctx) (k : Fin 8) (x : Vec) : (c.setLatch k x).rollback = c.rollback := rfl
@[simp] theorem Ctx.setLatch_prio (c : Ctx) (k : Fin 8) (x : Vec) : (c.setLatch k x).prio = c.prio := rfl
@[simp] theorem Ctx.setLatch_lastQ (c : Ctx) (k : Fin 8) (x : Vec) : (c.setLatch k x).lastQ = c.lastQ := rfl
@[simp] theorem Ctx.setLatch_sailPend (c : Ctx) (k : Fin 8) (x : Vec) : (c.setLatch k x).sailPend = c.sailPend := rfl
@[simp] theorem Ctx.setLatch_deadline (c : Ctx) (k : Fin 8) (x : Vec) : (c.setLatch k x).deadline = c.deadline := rfl
@[simp] theorem Ctx.setLatch_launch (c : Ctx) (k : Fin 8) (x : Vec) : (c.setLatch k x).launch = c.launch := rfl
@[simp] theorem Ctx.setLatch_cap (c : Ctx) (k : Fin 8) (x : Vec) : (c.setLatch k x).cap = c.cap := rfl
@[simp] theorem Ctx.setLatch_tiles (c : Ctx) (k : Fin 8) (x : Vec) : (c.setLatch k x).tiles = c.tiles := rfl
@[simp] theorem Ctx.setLatch_ballast (c : Ctx) (k : Fin 8) (x : Vec) : (c.setLatch k x).ballast = c.ballast := rfl
@[simp] theorem Ctx.setLatch_priv (c : Ctx) (k : Fin 8) (x : Vec) : (c.setLatch k x).priv = c.priv := rfl
@[simp] theorem Ctx.setLatch_budget (c : Ctx) (k : Fin 8) (x : Vec) : (c.setLatch k x).budget = c.budget := rfl
@[simp] theorem Ctx.setLatch_lapsed (c : Ctx) (k : Fin 8) (x : Vec) : (c.setLatch k x).lapsed = c.lapsed := rfl
@[simp] theorem Ctx.setLatch_woken (c : Ctx) (k : Fin 8) (x : Vec) : (c.setLatch k x).woken = c.woken := rfl
@[simp] theorem Ctx.setLatch_fills (c : Ctx) (k : Fin 8) (x : Vec) : (c.setLatch k x).fills = c.fills := rfl
@[simp] theorem Ctx.setLatch_tmpl (c : Ctx) (k : Fin 8) (x : Vec) : (c.setLatch k x).tmpl = c.tmpl := rfl

@[simp] theorem Ctx.setS_st (c : Ctx) (d : Dst) (x : Dword) : (c.setS d x).st = c.st := by cases d <;> rfl
@[simp] theorem Ctx.setS_pc (c : Ctx) (d : Dst) (x : Dword) : (c.setS d x).pc = c.pc := by cases d <;> rfl
@[simp] theorem Ctx.setS_v (c : Ctx) (d : Dst) (x : Dword) : (c.setS d x).v = c.v := by cases d <;> rfl
@[simp] theorem Ctx.setS_p (c : Ctx) (d : Dst) (x : Dword) : (c.setS d x).p = c.p := by cases d <;> rfl
@[simp] theorem Ctx.setS_b (c : Ctx) (d : Dst) (x : Dword) : (c.setS d x).b = c.b := by cases d <;> rfl
@[simp] theorem Ctx.setS_a (c : Ctx) (d : Dst) (x : Dword) : (c.setS d x).a = c.a := by cases d <;> rfl
@[simp] theorem Ctx.setS_m (c : Ctx) (d : Dst) (x : Dword) : (c.setS d x).m = c.m := by cases d <;> rfl
@[simp] theorem Ctx.setS_live (c : Ctx) (d : Dst) (x : Dword) : (c.setS d x).live = c.live := by cases d <;> rfl
@[simp] theorem Ctx.setS_shadow (c : Ctx) (d : Dst) (x : Dword) : (c.setS d x).shadow = c.shadow := by cases d <;> rfl
@[simp] theorem Ctx.setS_ctl (c : Ctx) (d : Dst) (x : Dword) : (c.setS d x).ctl = c.ctl := by cases d <;> rfl
@[simp] theorem Ctx.setS_level (c : Ctx) (d : Dst) (x : Dword) : (c.setS d x).level = c.level := by cases d <;> rfl
@[simp] theorem Ctx.setS_rec1 (c : Ctx) (d : Dst) (x : Dword) : (c.setS d x).rec1 = c.rec1 := by cases d <;> rfl
@[simp] theorem Ctx.setS_rec2 (c : Ctx) (d : Dst) (x : Dword) : (c.setS d x).rec2 = c.rec2 := by cases d <;> rfl
@[simp] theorem Ctx.setS_resume (c : Ctx) (d : Dst) (x : Dword) : (c.setS d x).resume = c.resume := by cases d <;> rfl
@[simp] theorem Ctx.setS_sleepRec (c : Ctx) (d : Dst) (x : Dword) :
    (c.setS d x).sleepRec = c.sleepRec := by cases d <;> rfl
@[simp] theorem Ctx.setS_held (c : Ctx) (d : Dst) (x : Dword) : (c.setS d x).held = c.held := by cases d <;> rfl
@[simp] theorem Ctx.setS_item (c : Ctx) (d : Dst) (x : Dword) : (c.setS d x).item = c.item := by cases d <;> rfl
@[simp] theorem Ctx.setS_rollback (c : Ctx) (d : Dst) (x : Dword) :
    (c.setS d x).rollback = c.rollback := by cases d <;> rfl
@[simp] theorem Ctx.setS_prio (c : Ctx) (d : Dst) (x : Dword) : (c.setS d x).prio = c.prio := by cases d <;> rfl
@[simp] theorem Ctx.setS_lastQ (c : Ctx) (d : Dst) (x : Dword) : (c.setS d x).lastQ = c.lastQ := by cases d <;> rfl
@[simp] theorem Ctx.setS_sailPend (c : Ctx) (d : Dst) (x : Dword) :
    (c.setS d x).sailPend = c.sailPend := by cases d <;> rfl
@[simp] theorem Ctx.setS_deadline (c : Ctx) (d : Dst) (x : Dword) :
    (c.setS d x).deadline = c.deadline := by cases d <;> rfl
@[simp] theorem Ctx.setS_launch (c : Ctx) (d : Dst) (x : Dword) : (c.setS d x).launch = c.launch := by cases d <;> rfl
@[simp] theorem Ctx.setS_cap (c : Ctx) (d : Dst) (x : Dword) : (c.setS d x).cap = c.cap := by cases d <;> rfl
@[simp] theorem Ctx.setS_tiles (c : Ctx) (d : Dst) (x : Dword) : (c.setS d x).tiles = c.tiles := by cases d <;> rfl
@[simp] theorem Ctx.setS_ballast (c : Ctx) (d : Dst) (x : Dword) :
    (c.setS d x).ballast = c.ballast := by cases d <;> rfl
@[simp] theorem Ctx.setS_priv (c : Ctx) (d : Dst) (x : Dword) : (c.setS d x).priv = c.priv := by cases d <;> rfl
@[simp] theorem Ctx.setS_budget (c : Ctx) (d : Dst) (x : Dword) : (c.setS d x).budget = c.budget := by cases d <;> rfl
@[simp] theorem Ctx.setS_lapsed (c : Ctx) (d : Dst) (x : Dword) : (c.setS d x).lapsed = c.lapsed := by cases d <;> rfl
@[simp] theorem Ctx.setS_woken (c : Ctx) (d : Dst) (x : Dword) : (c.setS d x).woken = c.woken := by cases d <;> rfl
@[simp] theorem Ctx.setS_fills (c : Ctx) (d : Dst) (x : Dword) : (c.setS d x).fills = c.fills := by cases d <;> rfl
@[simp] theorem Ctx.setS_tmpl (c : Ctx) (d : Dst) (x : Dword) : (c.setS d x).tmpl = c.tmpl := by cases d <;> rfl

@[simp] theorem Ctx.setV_st (c : Ctx) (d : Dst) (x : Vec) : (c.setV d x).st = c.st := by cases d <;> rfl
@[simp] theorem Ctx.setV_pc (c : Ctx) (d : Dst) (x : Vec) : (c.setV d x).pc = c.pc := by cases d <;> rfl
@[simp] theorem Ctx.setV_s (c : Ctx) (d : Dst) (x : Vec) : (c.setV d x).s = c.s := by cases d <;> rfl
@[simp] theorem Ctx.setV_p (c : Ctx) (d : Dst) (x : Vec) : (c.setV d x).p = c.p := by cases d <;> rfl
@[simp] theorem Ctx.setV_b (c : Ctx) (d : Dst) (x : Vec) : (c.setV d x).b = c.b := by cases d <;> rfl
@[simp] theorem Ctx.setV_a (c : Ctx) (d : Dst) (x : Vec) : (c.setV d x).a = c.a := by cases d <;> rfl
@[simp] theorem Ctx.setV_m (c : Ctx) (d : Dst) (x : Vec) : (c.setV d x).m = c.m := by cases d <;> rfl
@[simp] theorem Ctx.setV_live (c : Ctx) (d : Dst) (x : Vec) : (c.setV d x).live = c.live := by cases d <;> rfl
@[simp] theorem Ctx.setV_shadow (c : Ctx) (d : Dst) (x : Vec) : (c.setV d x).shadow = c.shadow := by cases d <;> rfl
@[simp] theorem Ctx.setV_ctl (c : Ctx) (d : Dst) (x : Vec) : (c.setV d x).ctl = c.ctl := by cases d <;> rfl
@[simp] theorem Ctx.setV_level (c : Ctx) (d : Dst) (x : Vec) : (c.setV d x).level = c.level := by cases d <;> rfl
@[simp] theorem Ctx.setV_rec1 (c : Ctx) (d : Dst) (x : Vec) : (c.setV d x).rec1 = c.rec1 := by cases d <;> rfl
@[simp] theorem Ctx.setV_rec2 (c : Ctx) (d : Dst) (x : Vec) : (c.setV d x).rec2 = c.rec2 := by cases d <;> rfl
@[simp] theorem Ctx.setV_resume (c : Ctx) (d : Dst) (x : Vec) : (c.setV d x).resume = c.resume := by cases d <;> rfl
@[simp] theorem Ctx.setV_sleepRec (c : Ctx) (d : Dst) (x : Vec) :
    (c.setV d x).sleepRec = c.sleepRec := by cases d <;> rfl
@[simp] theorem Ctx.setV_held (c : Ctx) (d : Dst) (x : Vec) : (c.setV d x).held = c.held := by cases d <;> rfl
@[simp] theorem Ctx.setV_item (c : Ctx) (d : Dst) (x : Vec) : (c.setV d x).item = c.item := by cases d <;> rfl
@[simp] theorem Ctx.setV_rollback (c : Ctx) (d : Dst) (x : Vec) :
    (c.setV d x).rollback = c.rollback := by cases d <;> rfl
@[simp] theorem Ctx.setV_prio (c : Ctx) (d : Dst) (x : Vec) : (c.setV d x).prio = c.prio := by cases d <;> rfl
@[simp] theorem Ctx.setV_lastQ (c : Ctx) (d : Dst) (x : Vec) : (c.setV d x).lastQ = c.lastQ := by cases d <;> rfl
@[simp] theorem Ctx.setV_sailPend (c : Ctx) (d : Dst) (x : Vec) :
    (c.setV d x).sailPend = c.sailPend := by cases d <;> rfl
@[simp] theorem Ctx.setV_deadline (c : Ctx) (d : Dst) (x : Vec) :
    (c.setV d x).deadline = c.deadline := by cases d <;> rfl
@[simp] theorem Ctx.setV_launch (c : Ctx) (d : Dst) (x : Vec) : (c.setV d x).launch = c.launch := by cases d <;> rfl
@[simp] theorem Ctx.setV_cap (c : Ctx) (d : Dst) (x : Vec) : (c.setV d x).cap = c.cap := by cases d <;> rfl
@[simp] theorem Ctx.setV_tiles (c : Ctx) (d : Dst) (x : Vec) : (c.setV d x).tiles = c.tiles := by cases d <;> rfl
@[simp] theorem Ctx.setV_ballast (c : Ctx) (d : Dst) (x : Vec) :
    (c.setV d x).ballast = c.ballast := by cases d <;> rfl
@[simp] theorem Ctx.setV_priv (c : Ctx) (d : Dst) (x : Vec) : (c.setV d x).priv = c.priv := by cases d <;> rfl
@[simp] theorem Ctx.setV_budget (c : Ctx) (d : Dst) (x : Vec) : (c.setV d x).budget = c.budget := by cases d <;> rfl
@[simp] theorem Ctx.setV_lapsed (c : Ctx) (d : Dst) (x : Vec) : (c.setV d x).lapsed = c.lapsed := by cases d <;> rfl
@[simp] theorem Ctx.setV_woken (c : Ctx) (d : Dst) (x : Vec) : (c.setV d x).woken = c.woken := by cases d <;> rfl
@[simp] theorem Ctx.setV_fills (c : Ctx) (d : Dst) (x : Vec) : (c.setV d x).fills = c.fills := by cases d <;> rfl
@[simp] theorem Ctx.setV_tmpl (c : Ctx) (d : Dst) (x : Vec) : (c.setV d x).tmpl = c.tmpl := by cases d <;> rfl

@[simp] theorem Ctx.setP_st (c : Ctx) (d : PDst) (x : Pred) :
    (c.setP d x).st = c.st := by
  cases d with
  | none => rfl
  | some n => simp only [Ctx.setP]; split <;> rfl
@[simp] theorem Ctx.setP_pc (c : Ctx) (d : PDst) (x : Pred) :
    (c.setP d x).pc = c.pc := by
  cases d with
  | none => rfl
  | some n => simp only [Ctx.setP]; split <;> rfl
@[simp] theorem Ctx.setP_s (c : Ctx) (d : PDst) (x : Pred) :
    (c.setP d x).s = c.s := by
  cases d with
  | none => rfl
  | some n => simp only [Ctx.setP]; split <;> rfl
@[simp] theorem Ctx.setP_v (c : Ctx) (d : PDst) (x : Pred) :
    (c.setP d x).v = c.v := by
  cases d with
  | none => rfl
  | some n => simp only [Ctx.setP]; split <;> rfl
@[simp] theorem Ctx.setP_b (c : Ctx) (d : PDst) (x : Pred) :
    (c.setP d x).b = c.b := by
  cases d with
  | none => rfl
  | some n => simp only [Ctx.setP]; split <;> rfl
@[simp] theorem Ctx.setP_a (c : Ctx) (d : PDst) (x : Pred) :
    (c.setP d x).a = c.a := by
  cases d with
  | none => rfl
  | some n => simp only [Ctx.setP]; split <;> rfl
@[simp] theorem Ctx.setP_m (c : Ctx) (d : PDst) (x : Pred) :
    (c.setP d x).m = c.m := by
  cases d with
  | none => rfl
  | some n => simp only [Ctx.setP]; split <;> rfl
@[simp] theorem Ctx.setP_live (c : Ctx) (d : PDst) (x : Pred) :
    (c.setP d x).live = c.live := by
  cases d with
  | none => rfl
  | some n => simp only [Ctx.setP]; split <;> rfl
@[simp] theorem Ctx.setP_shadow (c : Ctx) (d : PDst) (x : Pred) :
    (c.setP d x).shadow = c.shadow := by
  cases d with
  | none => rfl
  | some n => simp only [Ctx.setP]; split <;> rfl
@[simp] theorem Ctx.setP_ctl (c : Ctx) (d : PDst) (x : Pred) :
    (c.setP d x).ctl = c.ctl := by
  cases d with
  | none => rfl
  | some n => simp only [Ctx.setP]; split <;> rfl
@[simp] theorem Ctx.setP_level (c : Ctx) (d : PDst) (x : Pred) :
    (c.setP d x).level = c.level := by
  cases d with
  | none => rfl
  | some n => simp only [Ctx.setP]; split <;> rfl
@[simp] theorem Ctx.setP_rec1 (c : Ctx) (d : PDst) (x : Pred) :
    (c.setP d x).rec1 = c.rec1 := by
  cases d with
  | none => rfl
  | some n => simp only [Ctx.setP]; split <;> rfl
@[simp] theorem Ctx.setP_rec2 (c : Ctx) (d : PDst) (x : Pred) :
    (c.setP d x).rec2 = c.rec2 := by
  cases d with
  | none => rfl
  | some n => simp only [Ctx.setP]; split <;> rfl
@[simp] theorem Ctx.setP_resume (c : Ctx) (d : PDst) (x : Pred) :
    (c.setP d x).resume = c.resume := by
  cases d with
  | none => rfl
  | some n => simp only [Ctx.setP]; split <;> rfl
@[simp] theorem Ctx.setP_sleepRec (c : Ctx) (d : PDst) (x : Pred) :
    (c.setP d x).sleepRec = c.sleepRec := by
  cases d with
  | none => rfl
  | some n => simp only [Ctx.setP]; split <;> rfl
@[simp] theorem Ctx.setP_held (c : Ctx) (d : PDst) (x : Pred) :
    (c.setP d x).held = c.held := by
  cases d with
  | none => rfl
  | some n => simp only [Ctx.setP]; split <;> rfl
@[simp] theorem Ctx.setP_item (c : Ctx) (d : PDst) (x : Pred) :
    (c.setP d x).item = c.item := by
  cases d with
  | none => rfl
  | some n => simp only [Ctx.setP]; split <;> rfl
@[simp] theorem Ctx.setP_rollback (c : Ctx) (d : PDst) (x : Pred) :
    (c.setP d x).rollback = c.rollback := by
  cases d with
  | none => rfl
  | some n => simp only [Ctx.setP]; split <;> rfl
@[simp] theorem Ctx.setP_prio (c : Ctx) (d : PDst) (x : Pred) :
    (c.setP d x).prio = c.prio := by
  cases d with
  | none => rfl
  | some n => simp only [Ctx.setP]; split <;> rfl
@[simp] theorem Ctx.setP_lastQ (c : Ctx) (d : PDst) (x : Pred) :
    (c.setP d x).lastQ = c.lastQ := by
  cases d with
  | none => rfl
  | some n => simp only [Ctx.setP]; split <;> rfl
@[simp] theorem Ctx.setP_sailPend (c : Ctx) (d : PDst) (x : Pred) :
    (c.setP d x).sailPend = c.sailPend := by
  cases d with
  | none => rfl
  | some n => simp only [Ctx.setP]; split <;> rfl
@[simp] theorem Ctx.setP_deadline (c : Ctx) (d : PDst) (x : Pred) :
    (c.setP d x).deadline = c.deadline := by
  cases d with
  | none => rfl
  | some n => simp only [Ctx.setP]; split <;> rfl
@[simp] theorem Ctx.setP_launch (c : Ctx) (d : PDst) (x : Pred) :
    (c.setP d x).launch = c.launch := by
  cases d with
  | none => rfl
  | some n => simp only [Ctx.setP]; split <;> rfl
@[simp] theorem Ctx.setP_cap (c : Ctx) (d : PDst) (x : Pred) :
    (c.setP d x).cap = c.cap := by
  cases d with
  | none => rfl
  | some n => simp only [Ctx.setP]; split <;> rfl
@[simp] theorem Ctx.setP_tiles (c : Ctx) (d : PDst) (x : Pred) :
    (c.setP d x).tiles = c.tiles := by
  cases d with
  | none => rfl
  | some n => simp only [Ctx.setP]; split <;> rfl
@[simp] theorem Ctx.setP_ballast (c : Ctx) (d : PDst) (x : Pred) :
    (c.setP d x).ballast = c.ballast := by
  cases d with
  | none => rfl
  | some n => simp only [Ctx.setP]; split <;> rfl
@[simp] theorem Ctx.setP_priv (c : Ctx) (d : PDst) (x : Pred) :
    (c.setP d x).priv = c.priv := by
  cases d with
  | none => rfl
  | some n => simp only [Ctx.setP]; split <;> rfl
@[simp] theorem Ctx.setP_budget (c : Ctx) (d : PDst) (x : Pred) :
    (c.setP d x).budget = c.budget := by
  cases d with
  | none => rfl
  | some n => simp only [Ctx.setP]; split <;> rfl
@[simp] theorem Ctx.setP_lapsed (c : Ctx) (d : PDst) (x : Pred) :
    (c.setP d x).lapsed = c.lapsed := by
  cases d with
  | none => rfl
  | some n => simp only [Ctx.setP]; split <;> rfl
@[simp] theorem Ctx.setP_woken (c : Ctx) (d : PDst) (x : Pred) :
    (c.setP d x).woken = c.woken := by
  cases d with
  | none => rfl
  | some n => simp only [Ctx.setP]; split <;> rfl
@[simp] theorem Ctx.setP_fills (c : Ctx) (d : PDst) (x : Pred) :
    (c.setP d x).fills = c.fills := by
  cases d with
  | none => rfl
  | some n => simp only [Ctx.setP]; split <;> rfl
@[simp] theorem Ctx.setP_tmpl (c : Ctx) (d : PDst) (x : Pred) :
    (c.setP d x).tmpl = c.tmpl := by
  cases d with
  | none => rfl
  | some n => simp only [Ctx.setP]; split <;> rfl

@[simp] theorem Ctx.outS_st (c : Ctx) (k : Fin 8) (d : Dst) (x : Dword) :
    (c.outS k d x).st = c.st := by cases d <;> rfl
@[simp] theorem Ctx.outS_pc (c : Ctx) (k : Fin 8) (d : Dst) (x : Dword) :
    (c.outS k d x).pc = c.pc := by cases d <;> rfl
@[simp] theorem Ctx.outS_v (c : Ctx) (k : Fin 8) (d : Dst) (x : Dword) : (c.outS k d x).v = c.v := by cases d <;> rfl
@[simp] theorem Ctx.outS_p (c : Ctx) (k : Fin 8) (d : Dst) (x : Dword) : (c.outS k d x).p = c.p := by cases d <;> rfl
@[simp] theorem Ctx.outS_a (c : Ctx) (k : Fin 8) (d : Dst) (x : Dword) : (c.outS k d x).a = c.a := by cases d <;> rfl
@[simp] theorem Ctx.outS_m (c : Ctx) (k : Fin 8) (d : Dst) (x : Dword) : (c.outS k d x).m = c.m := by cases d <;> rfl
@[simp] theorem Ctx.outS_live (c : Ctx) (k : Fin 8) (d : Dst) (x : Dword) :
    (c.outS k d x).live = c.live := by cases d <;> rfl
@[simp] theorem Ctx.outS_shadow (c : Ctx) (k : Fin 8) (d : Dst) (x : Dword) :
    (c.outS k d x).shadow = c.shadow := by cases d <;> rfl
@[simp] theorem Ctx.outS_ctl (c : Ctx) (k : Fin 8) (d : Dst) (x : Dword) :
    (c.outS k d x).ctl = c.ctl := by cases d <;> rfl
@[simp] theorem Ctx.outS_level (c : Ctx) (k : Fin 8) (d : Dst) (x : Dword) :
    (c.outS k d x).level = c.level := by cases d <;> rfl
@[simp] theorem Ctx.outS_rec1 (c : Ctx) (k : Fin 8) (d : Dst) (x : Dword) :
    (c.outS k d x).rec1 = c.rec1 := by cases d <;> rfl
@[simp] theorem Ctx.outS_rec2 (c : Ctx) (k : Fin 8) (d : Dst) (x : Dword) :
    (c.outS k d x).rec2 = c.rec2 := by cases d <;> rfl
@[simp] theorem Ctx.outS_resume (c : Ctx) (k : Fin 8) (d : Dst) (x : Dword) :
    (c.outS k d x).resume = c.resume := by cases d <;> rfl
@[simp] theorem Ctx.outS_sleepRec (c : Ctx) (k : Fin 8) (d : Dst) (x : Dword) :
    (c.outS k d x).sleepRec = c.sleepRec := by cases d <;> rfl
@[simp] theorem Ctx.outS_held (c : Ctx) (k : Fin 8) (d : Dst) (x : Dword) :
    (c.outS k d x).held = c.held := by cases d <;> rfl
@[simp] theorem Ctx.outS_item (c : Ctx) (k : Fin 8) (d : Dst) (x : Dword) :
    (c.outS k d x).item = c.item := by cases d <;> rfl
@[simp] theorem Ctx.outS_rollback (c : Ctx) (k : Fin 8) (d : Dst) (x : Dword) :
    (c.outS k d x).rollback = c.rollback := by cases d <;> rfl
@[simp] theorem Ctx.outS_prio (c : Ctx) (k : Fin 8) (d : Dst) (x : Dword) :
    (c.outS k d x).prio = c.prio := by cases d <;> rfl
@[simp] theorem Ctx.outS_lastQ (c : Ctx) (k : Fin 8) (d : Dst) (x : Dword) :
    (c.outS k d x).lastQ = c.lastQ := by cases d <;> rfl
@[simp] theorem Ctx.outS_sailPend (c : Ctx) (k : Fin 8) (d : Dst) (x : Dword) :
    (c.outS k d x).sailPend = c.sailPend := by cases d <;> rfl
@[simp] theorem Ctx.outS_deadline (c : Ctx) (k : Fin 8) (d : Dst) (x : Dword) :
    (c.outS k d x).deadline = c.deadline := by cases d <;> rfl
@[simp] theorem Ctx.outS_launch (c : Ctx) (k : Fin 8) (d : Dst) (x : Dword) :
    (c.outS k d x).launch = c.launch := by cases d <;> rfl
@[simp] theorem Ctx.outS_cap (c : Ctx) (k : Fin 8) (d : Dst) (x : Dword) :
    (c.outS k d x).cap = c.cap := by cases d <;> rfl
@[simp] theorem Ctx.outS_tiles (c : Ctx) (k : Fin 8) (d : Dst) (x : Dword) :
    (c.outS k d x).tiles = c.tiles := by cases d <;> rfl
@[simp] theorem Ctx.outS_ballast (c : Ctx) (k : Fin 8) (d : Dst) (x : Dword) :
    (c.outS k d x).ballast = c.ballast := by cases d <;> rfl
@[simp] theorem Ctx.outS_priv (c : Ctx) (k : Fin 8) (d : Dst) (x : Dword) :
    (c.outS k d x).priv = c.priv := by cases d <;> rfl
@[simp] theorem Ctx.outS_budget (c : Ctx) (k : Fin 8) (d : Dst) (x : Dword) :
    (c.outS k d x).budget = c.budget := by cases d <;> rfl
@[simp] theorem Ctx.outS_lapsed (c : Ctx) (k : Fin 8) (d : Dst) (x : Dword) :
    (c.outS k d x).lapsed = c.lapsed := by cases d <;> rfl
@[simp] theorem Ctx.outS_woken (c : Ctx) (k : Fin 8) (d : Dst) (x : Dword) :
    (c.outS k d x).woken = c.woken := by cases d <;> rfl
@[simp] theorem Ctx.outS_fills (c : Ctx) (k : Fin 8) (d : Dst) (x : Dword) :
    (c.outS k d x).fills = c.fills := by cases d <;> rfl
@[simp] theorem Ctx.outS_tmpl (c : Ctx) (k : Fin 8) (d : Dst) (x : Dword) :
    (c.outS k d x).tmpl = c.tmpl := by cases d <;> rfl

@[simp] theorem Ctx.outV_st (c : Ctx) (k : Fin 8) (d : Dst) (x : Vec) : (c.outV k d x).st = c.st := by cases d <;> rfl
@[simp] theorem Ctx.outV_pc (c : Ctx) (k : Fin 8) (d : Dst) (x : Vec) : (c.outV k d x).pc = c.pc := by cases d <;> rfl
@[simp] theorem Ctx.outV_s (c : Ctx) (k : Fin 8) (d : Dst) (x : Vec) : (c.outV k d x).s = c.s := by cases d <;> rfl
@[simp] theorem Ctx.outV_p (c : Ctx) (k : Fin 8) (d : Dst) (x : Vec) : (c.outV k d x).p = c.p := by cases d <;> rfl
@[simp] theorem Ctx.outV_a (c : Ctx) (k : Fin 8) (d : Dst) (x : Vec) : (c.outV k d x).a = c.a := by cases d <;> rfl
@[simp] theorem Ctx.outV_m (c : Ctx) (k : Fin 8) (d : Dst) (x : Vec) : (c.outV k d x).m = c.m := by cases d <;> rfl
@[simp] theorem Ctx.outV_live (c : Ctx) (k : Fin 8) (d : Dst) (x : Vec) :
    (c.outV k d x).live = c.live := by cases d <;> rfl
@[simp] theorem Ctx.outV_shadow (c : Ctx) (k : Fin 8) (d : Dst) (x : Vec) :
    (c.outV k d x).shadow = c.shadow := by cases d <;> rfl
@[simp] theorem Ctx.outV_ctl (c : Ctx) (k : Fin 8) (d : Dst) (x : Vec) :
    (c.outV k d x).ctl = c.ctl := by cases d <;> rfl
@[simp] theorem Ctx.outV_level (c : Ctx) (k : Fin 8) (d : Dst) (x : Vec) :
    (c.outV k d x).level = c.level := by cases d <;> rfl
@[simp] theorem Ctx.outV_rec1 (c : Ctx) (k : Fin 8) (d : Dst) (x : Vec) :
    (c.outV k d x).rec1 = c.rec1 := by cases d <;> rfl
@[simp] theorem Ctx.outV_rec2 (c : Ctx) (k : Fin 8) (d : Dst) (x : Vec) :
    (c.outV k d x).rec2 = c.rec2 := by cases d <;> rfl
@[simp] theorem Ctx.outV_resume (c : Ctx) (k : Fin 8) (d : Dst) (x : Vec) :
    (c.outV k d x).resume = c.resume := by cases d <;> rfl
@[simp] theorem Ctx.outV_sleepRec (c : Ctx) (k : Fin 8) (d : Dst) (x : Vec) :
    (c.outV k d x).sleepRec = c.sleepRec := by cases d <;> rfl
@[simp] theorem Ctx.outV_held (c : Ctx) (k : Fin 8) (d : Dst) (x : Vec) :
    (c.outV k d x).held = c.held := by cases d <;> rfl
@[simp] theorem Ctx.outV_item (c : Ctx) (k : Fin 8) (d : Dst) (x : Vec) :
    (c.outV k d x).item = c.item := by cases d <;> rfl
@[simp] theorem Ctx.outV_rollback (c : Ctx) (k : Fin 8) (d : Dst) (x : Vec) :
    (c.outV k d x).rollback = c.rollback := by cases d <;> rfl
@[simp] theorem Ctx.outV_prio (c : Ctx) (k : Fin 8) (d : Dst) (x : Vec) :
    (c.outV k d x).prio = c.prio := by cases d <;> rfl
@[simp] theorem Ctx.outV_lastQ (c : Ctx) (k : Fin 8) (d : Dst) (x : Vec) :
    (c.outV k d x).lastQ = c.lastQ := by cases d <;> rfl
@[simp] theorem Ctx.outV_sailPend (c : Ctx) (k : Fin 8) (d : Dst) (x : Vec) :
    (c.outV k d x).sailPend = c.sailPend := by cases d <;> rfl
@[simp] theorem Ctx.outV_deadline (c : Ctx) (k : Fin 8) (d : Dst) (x : Vec) :
    (c.outV k d x).deadline = c.deadline := by cases d <;> rfl
@[simp] theorem Ctx.outV_launch (c : Ctx) (k : Fin 8) (d : Dst) (x : Vec) :
    (c.outV k d x).launch = c.launch := by cases d <;> rfl
@[simp] theorem Ctx.outV_cap (c : Ctx) (k : Fin 8) (d : Dst) (x : Vec) :
    (c.outV k d x).cap = c.cap := by cases d <;> rfl
@[simp] theorem Ctx.outV_tiles (c : Ctx) (k : Fin 8) (d : Dst) (x : Vec) :
    (c.outV k d x).tiles = c.tiles := by cases d <;> rfl
@[simp] theorem Ctx.outV_ballast (c : Ctx) (k : Fin 8) (d : Dst) (x : Vec) :
    (c.outV k d x).ballast = c.ballast := by cases d <;> rfl
@[simp] theorem Ctx.outV_priv (c : Ctx) (k : Fin 8) (d : Dst) (x : Vec) :
    (c.outV k d x).priv = c.priv := by cases d <;> rfl
@[simp] theorem Ctx.outV_budget (c : Ctx) (k : Fin 8) (d : Dst) (x : Vec) :
    (c.outV k d x).budget = c.budget := by cases d <;> rfl
@[simp] theorem Ctx.outV_lapsed (c : Ctx) (k : Fin 8) (d : Dst) (x : Vec) :
    (c.outV k d x).lapsed = c.lapsed := by cases d <;> rfl
@[simp] theorem Ctx.outV_woken (c : Ctx) (k : Fin 8) (d : Dst) (x : Vec) :
    (c.outV k d x).woken = c.woken := by cases d <;> rfl
@[simp] theorem Ctx.outV_fills (c : Ctx) (k : Fin 8) (d : Dst) (x : Vec) :
    (c.outV k d x).fills = c.fills := by cases d <;> rfl
@[simp] theorem Ctx.outV_tmpl (c : Ctx) (k : Fin 8) (d : Dst) (x : Vec) :
    (c.outV k d x).tmpl = c.tmpl := by cases d <;> rfl

@[simp] theorem Ctx.outP_st (c : Ctx) (k : Fin 8) (d : PDst) (x : Pred) :
    (c.outP k d x).st = c.st := by simp [Ctx.outP]
@[simp] theorem Ctx.outP_pc (c : Ctx) (k : Fin 8) (d : PDst) (x : Pred) :
    (c.outP k d x).pc = c.pc := by simp [Ctx.outP]
@[simp] theorem Ctx.outP_s (c : Ctx) (k : Fin 8) (d : PDst) (x : Pred) : (c.outP k d x).s = c.s := by simp [Ctx.outP]
@[simp] theorem Ctx.outP_v (c : Ctx) (k : Fin 8) (d : PDst) (x : Pred) : (c.outP k d x).v = c.v := by simp [Ctx.outP]
@[simp] theorem Ctx.outP_a (c : Ctx) (k : Fin 8) (d : PDst) (x : Pred) : (c.outP k d x).a = c.a := by simp [Ctx.outP]
@[simp] theorem Ctx.outP_m (c : Ctx) (k : Fin 8) (d : PDst) (x : Pred) : (c.outP k d x).m = c.m := by simp [Ctx.outP]
@[simp] theorem Ctx.outP_live (c : Ctx) (k : Fin 8) (d : PDst) (x : Pred) :
    (c.outP k d x).live = c.live := by simp [Ctx.outP]
@[simp] theorem Ctx.outP_shadow (c : Ctx) (k : Fin 8) (d : PDst) (x : Pred) :
    (c.outP k d x).shadow = c.shadow := by simp [Ctx.outP]
@[simp] theorem Ctx.outP_ctl (c : Ctx) (k : Fin 8) (d : PDst) (x : Pred) :
    (c.outP k d x).ctl = c.ctl := by simp [Ctx.outP]
@[simp] theorem Ctx.outP_level (c : Ctx) (k : Fin 8) (d : PDst) (x : Pred) :
    (c.outP k d x).level = c.level := by simp [Ctx.outP]
@[simp] theorem Ctx.outP_rec1 (c : Ctx) (k : Fin 8) (d : PDst) (x : Pred) :
    (c.outP k d x).rec1 = c.rec1 := by simp [Ctx.outP]
@[simp] theorem Ctx.outP_rec2 (c : Ctx) (k : Fin 8) (d : PDst) (x : Pred) :
    (c.outP k d x).rec2 = c.rec2 := by simp [Ctx.outP]
@[simp] theorem Ctx.outP_resume (c : Ctx) (k : Fin 8) (d : PDst) (x : Pred) :
    (c.outP k d x).resume = c.resume := by simp [Ctx.outP]
@[simp] theorem Ctx.outP_sleepRec (c : Ctx) (k : Fin 8) (d : PDst) (x : Pred) :
    (c.outP k d x).sleepRec = c.sleepRec := by simp [Ctx.outP]
@[simp] theorem Ctx.outP_held (c : Ctx) (k : Fin 8) (d : PDst) (x : Pred) :
    (c.outP k d x).held = c.held := by simp [Ctx.outP]
@[simp] theorem Ctx.outP_item (c : Ctx) (k : Fin 8) (d : PDst) (x : Pred) :
    (c.outP k d x).item = c.item := by simp [Ctx.outP]
@[simp] theorem Ctx.outP_rollback (c : Ctx) (k : Fin 8) (d : PDst) (x : Pred) :
    (c.outP k d x).rollback = c.rollback := by simp [Ctx.outP]
@[simp] theorem Ctx.outP_prio (c : Ctx) (k : Fin 8) (d : PDst) (x : Pred) :
    (c.outP k d x).prio = c.prio := by simp [Ctx.outP]
@[simp] theorem Ctx.outP_lastQ (c : Ctx) (k : Fin 8) (d : PDst) (x : Pred) :
    (c.outP k d x).lastQ = c.lastQ := by simp [Ctx.outP]
@[simp] theorem Ctx.outP_sailPend (c : Ctx) (k : Fin 8) (d : PDst) (x : Pred) :
    (c.outP k d x).sailPend = c.sailPend := by simp [Ctx.outP]
@[simp] theorem Ctx.outP_deadline (c : Ctx) (k : Fin 8) (d : PDst) (x : Pred) :
    (c.outP k d x).deadline = c.deadline := by simp [Ctx.outP]
@[simp] theorem Ctx.outP_launch (c : Ctx) (k : Fin 8) (d : PDst) (x : Pred) :
    (c.outP k d x).launch = c.launch := by simp [Ctx.outP]
@[simp] theorem Ctx.outP_cap (c : Ctx) (k : Fin 8) (d : PDst) (x : Pred) :
    (c.outP k d x).cap = c.cap := by simp [Ctx.outP]
@[simp] theorem Ctx.outP_tiles (c : Ctx) (k : Fin 8) (d : PDst) (x : Pred) :
    (c.outP k d x).tiles = c.tiles := by simp [Ctx.outP]
@[simp] theorem Ctx.outP_ballast (c : Ctx) (k : Fin 8) (d : PDst) (x : Pred) :
    (c.outP k d x).ballast = c.ballast := by simp [Ctx.outP]
@[simp] theorem Ctx.outP_priv (c : Ctx) (k : Fin 8) (d : PDst) (x : Pred) :
    (c.outP k d x).priv = c.priv := by simp [Ctx.outP]
@[simp] theorem Ctx.outP_budget (c : Ctx) (k : Fin 8) (d : PDst) (x : Pred) :
    (c.outP k d x).budget = c.budget := by simp [Ctx.outP]
@[simp] theorem Ctx.outP_lapsed (c : Ctx) (k : Fin 8) (d : PDst) (x : Pred) :
    (c.outP k d x).lapsed = c.lapsed := by simp [Ctx.outP]
@[simp] theorem Ctx.outP_woken (c : Ctx) (k : Fin 8) (d : PDst) (x : Pred) :
    (c.outP k d x).woken = c.woken := by simp [Ctx.outP]
@[simp] theorem Ctx.outP_fills (c : Ctx) (k : Fin 8) (d : PDst) (x : Pred) :
    (c.outP k d x).fills = c.fills := by simp [Ctx.outP]
@[simp] theorem Ctx.outP_tmpl (c : Ctx) (k : Fin 8) (d : PDst) (x : Pred) :
    (c.outP k d x).tmpl = c.tmpl := by simp [Ctx.outP]

@[simp] theorem Ctx.raiseFlags_st (c : Ctx) (f : BitVec 5) : (c.raiseFlags f).st = c.st := rfl
@[simp] theorem Ctx.raiseFlags_pc (c : Ctx) (f : BitVec 5) : (c.raiseFlags f).pc = c.pc := rfl
@[simp] theorem Ctx.raiseFlags_s (c : Ctx) (f : BitVec 5) : (c.raiseFlags f).s = c.s := rfl
@[simp] theorem Ctx.raiseFlags_v (c : Ctx) (f : BitVec 5) : (c.raiseFlags f).v = c.v := rfl
@[simp] theorem Ctx.raiseFlags_p (c : Ctx) (f : BitVec 5) : (c.raiseFlags f).p = c.p := rfl
@[simp] theorem Ctx.raiseFlags_b (c : Ctx) (f : BitVec 5) : (c.raiseFlags f).b = c.b := rfl
@[simp] theorem Ctx.raiseFlags_a (c : Ctx) (f : BitVec 5) : (c.raiseFlags f).a = c.a := rfl
@[simp] theorem Ctx.raiseFlags_m (c : Ctx) (f : BitVec 5) : (c.raiseFlags f).m = c.m := rfl
@[simp] theorem Ctx.raiseFlags_live (c : Ctx) (f : BitVec 5) : (c.raiseFlags f).live = c.live := rfl
@[simp] theorem Ctx.raiseFlags_shadow (c : Ctx) (f : BitVec 5) : (c.raiseFlags f).shadow = c.shadow := rfl
@[simp] theorem Ctx.raiseFlags_level (c : Ctx) (f : BitVec 5) : (c.raiseFlags f).level = c.level := rfl
@[simp] theorem Ctx.raiseFlags_rec1 (c : Ctx) (f : BitVec 5) : (c.raiseFlags f).rec1 = c.rec1 := rfl
@[simp] theorem Ctx.raiseFlags_rec2 (c : Ctx) (f : BitVec 5) : (c.raiseFlags f).rec2 = c.rec2 := rfl
@[simp] theorem Ctx.raiseFlags_resume (c : Ctx) (f : BitVec 5) : (c.raiseFlags f).resume = c.resume := rfl
@[simp] theorem Ctx.raiseFlags_sleepRec (c : Ctx) (f : BitVec 5) : (c.raiseFlags f).sleepRec = c.sleepRec := rfl
@[simp] theorem Ctx.raiseFlags_held (c : Ctx) (f : BitVec 5) : (c.raiseFlags f).held = c.held := rfl
@[simp] theorem Ctx.raiseFlags_item (c : Ctx) (f : BitVec 5) : (c.raiseFlags f).item = c.item := rfl
@[simp] theorem Ctx.raiseFlags_rollback (c : Ctx) (f : BitVec 5) : (c.raiseFlags f).rollback = c.rollback := rfl
@[simp] theorem Ctx.raiseFlags_prio (c : Ctx) (f : BitVec 5) : (c.raiseFlags f).prio = c.prio := rfl
@[simp] theorem Ctx.raiseFlags_lastQ (c : Ctx) (f : BitVec 5) : (c.raiseFlags f).lastQ = c.lastQ := rfl
@[simp] theorem Ctx.raiseFlags_sailPend (c : Ctx) (f : BitVec 5) : (c.raiseFlags f).sailPend = c.sailPend := rfl
@[simp] theorem Ctx.raiseFlags_deadline (c : Ctx) (f : BitVec 5) : (c.raiseFlags f).deadline = c.deadline := rfl
@[simp] theorem Ctx.raiseFlags_launch (c : Ctx) (f : BitVec 5) : (c.raiseFlags f).launch = c.launch := rfl
@[simp] theorem Ctx.raiseFlags_cap (c : Ctx) (f : BitVec 5) : (c.raiseFlags f).cap = c.cap := rfl
@[simp] theorem Ctx.raiseFlags_tiles (c : Ctx) (f : BitVec 5) : (c.raiseFlags f).tiles = c.tiles := rfl
@[simp] theorem Ctx.raiseFlags_ballast (c : Ctx) (f : BitVec 5) : (c.raiseFlags f).ballast = c.ballast := rfl
@[simp] theorem Ctx.raiseFlags_priv (c : Ctx) (f : BitVec 5) : (c.raiseFlags f).priv = c.priv := rfl
@[simp] theorem Ctx.raiseFlags_budget (c : Ctx) (f : BitVec 5) : (c.raiseFlags f).budget = c.budget := rfl
@[simp] theorem Ctx.raiseFlags_lapsed (c : Ctx) (f : BitVec 5) : (c.raiseFlags f).lapsed = c.lapsed := rfl
@[simp] theorem Ctx.raiseFlags_woken (c : Ctx) (f : BitVec 5) : (c.raiseFlags f).woken = c.woken := rfl
@[simp] theorem Ctx.raiseFlags_fills (c : Ctx) (f : BitVec 5) : (c.raiseFlags f).fills = c.fills := rfl
@[simp] theorem Ctx.raiseFlags_tmpl (c : Ctx) (f : BitVec 5) : (c.raiseFlags f).tmpl = c.tmpl := rfl

@[simp] theorem Ctx.swapShape_st (c : Ctx) (h : Fin 16) : (c.swapShape h).st = c.st := rfl
@[simp] theorem Ctx.swapShape_pc (c : Ctx) (h : Fin 16) : (c.swapShape h).pc = c.pc := rfl
@[simp] theorem Ctx.swapShape_s (c : Ctx) (h : Fin 16) : (c.swapShape h).s = c.s := rfl
@[simp] theorem Ctx.swapShape_v (c : Ctx) (h : Fin 16) : (c.swapShape h).v = c.v := rfl
@[simp] theorem Ctx.swapShape_p (c : Ctx) (h : Fin 16) : (c.swapShape h).p = c.p := rfl
@[simp] theorem Ctx.swapShape_b (c : Ctx) (h : Fin 16) : (c.swapShape h).b = c.b := rfl
@[simp] theorem Ctx.swapShape_a (c : Ctx) (h : Fin 16) : (c.swapShape h).a = c.a := rfl
@[simp] theorem Ctx.swapShape_m (c : Ctx) (h : Fin 16) : (c.swapShape h).m = c.m := rfl
@[simp] theorem Ctx.swapShape_ctl (c : Ctx) (h : Fin 16) : (c.swapShape h).ctl = c.ctl := rfl
@[simp] theorem Ctx.swapShape_level (c : Ctx) (h : Fin 16) : (c.swapShape h).level = c.level := rfl
@[simp] theorem Ctx.swapShape_rec1 (c : Ctx) (h : Fin 16) : (c.swapShape h).rec1 = c.rec1 := rfl
@[simp] theorem Ctx.swapShape_rec2 (c : Ctx) (h : Fin 16) : (c.swapShape h).rec2 = c.rec2 := rfl
@[simp] theorem Ctx.swapShape_resume (c : Ctx) (h : Fin 16) : (c.swapShape h).resume = c.resume := rfl
@[simp] theorem Ctx.swapShape_sleepRec (c : Ctx) (h : Fin 16) : (c.swapShape h).sleepRec = c.sleepRec := rfl
@[simp] theorem Ctx.swapShape_held (c : Ctx) (h : Fin 16) : (c.swapShape h).held = c.held := rfl
@[simp] theorem Ctx.swapShape_item (c : Ctx) (h : Fin 16) : (c.swapShape h).item = c.item := rfl
@[simp] theorem Ctx.swapShape_rollback (c : Ctx) (h : Fin 16) : (c.swapShape h).rollback = c.rollback := rfl
@[simp] theorem Ctx.swapShape_prio (c : Ctx) (h : Fin 16) : (c.swapShape h).prio = c.prio := rfl
@[simp] theorem Ctx.swapShape_lastQ (c : Ctx) (h : Fin 16) : (c.swapShape h).lastQ = c.lastQ := rfl
@[simp] theorem Ctx.swapShape_sailPend (c : Ctx) (h : Fin 16) : (c.swapShape h).sailPend = c.sailPend := rfl
@[simp] theorem Ctx.swapShape_deadline (c : Ctx) (h : Fin 16) : (c.swapShape h).deadline = c.deadline := rfl
@[simp] theorem Ctx.swapShape_launch (c : Ctx) (h : Fin 16) : (c.swapShape h).launch = c.launch := rfl
@[simp] theorem Ctx.swapShape_cap (c : Ctx) (h : Fin 16) : (c.swapShape h).cap = c.cap := rfl
@[simp] theorem Ctx.swapShape_tiles (c : Ctx) (h : Fin 16) : (c.swapShape h).tiles = c.tiles := rfl
@[simp] theorem Ctx.swapShape_ballast (c : Ctx) (h : Fin 16) : (c.swapShape h).ballast = c.ballast := rfl
@[simp] theorem Ctx.swapShape_priv (c : Ctx) (h : Fin 16) : (c.swapShape h).priv = c.priv := rfl
@[simp] theorem Ctx.swapShape_budget (c : Ctx) (h : Fin 16) : (c.swapShape h).budget = c.budget := rfl
@[simp] theorem Ctx.swapShape_lapsed (c : Ctx) (h : Fin 16) : (c.swapShape h).lapsed = c.lapsed := rfl
@[simp] theorem Ctx.swapShape_woken (c : Ctx) (h : Fin 16) : (c.swapShape h).woken = c.woken := rfl
@[simp] theorem Ctx.swapShape_fills (c : Ctx) (h : Fin 16) : (c.swapShape h).fills = c.fills := rfl
@[simp] theorem Ctx.swapShape_tmpl (c : Ctx) (h : Fin 16) : (c.swapShape h).tmpl = c.tmpl := rfl

/-- No flag raised leaves the context as it was. -/
@[simp] theorem Ctx.raiseFlags_zero (c : Ctx) : c.raiseFlags 0 = c := by
  simp [Ctx.raiseFlags]
/-- An s register that a scalar write does not name keeps its value. -/
theorem Ctx.setS_other (c : Ctx) (d : Dst) (x : Dword) (n : Fin 48) (h : d ≠ some n) : (c.setS d x).s.get n = c.s.get n := by
  cases d with
  | none => rfl
  | some m =>
    have hn : m.val ≠ n.val := fun e => h (by rw [Fin.ext e])
    simp only [Ctx.setS]
    exact Vector.getElem_set_ne _ _ hn
/-- The s register that a scalar write names holds its value. -/
theorem Ctx.setS_same (c : Ctx) (n : Fin 48) (x : Dword) : (c.setS (some n) x).s.get n = x := by
  simp only [Ctx.setS]
  exact Vector.getElem_set_self _
/-- A predicate write leaves p0 (R65). -/
@[simp] theorem Ctx.setP_zero (c : Ctx) (d : PDst) (x : Pred) : (c.setP d x).p.get 0 = c.p.get 0 := by
  cases d with
  | none => rfl
  | some n =>
    by_cases h : n = 0
    · simp [Ctx.setP, h]
    · have hn : n.val ≠ 0 := fun e => h (Fin.ext e)
      simp only [Ctx.setP, if_neg h]
      exact Vector.getElem_set_ne _ _ hn
/-- Setting the current context's registers. -/
theorem State.setCtx_same (s : State) (c : Ctx) : s.setCtx s.cur c = { s with cx := c } := by simp [State.setCtx]
/-- The current context's registers. -/
@[simp] theorem State.ctx_cur (s : State) : s.ctx s.cur = s.cx := by simp [State.ctx]

end Sys2Proof.Machine
end

