-- ==== Sys2Proof/Laws/Tables.lean ====
section
/-! SUPPORT. Sparse tables and sets read back after a change, and a die, core or table read back after the operation that
changes it. -/

namespace Sys2Proof.Machine

/-! ### Sparse tables -/

@[simp] theorem tabGet_tabSet_same {α : Type} (t : Tab α) (k : Nat) (v : α) : tabGet (tabSet t k v) k = some v := by
  induction t with
  | nil => simp [tabSet, tabGet]
  | cons e r ih =>
    obtain ⟨j, w⟩ := e
    unfold tabSet
    split
    · simp [tabGet]
    · split
      · simp [tabGet]
      · rename_i h; simp only [tabGet, if_neg h, ih]
theorem tabGet_tabSet_other {α : Type} (t : Tab α) {k a : Nat} (v : α) (h : a ≠ k) :
    tabGet (tabSet t k v) a = tabGet t a := by
  induction t with
  | nil => simp [tabSet, tabGet, h]
  | cons e r ih =>
    obtain ⟨j, w⟩ := e
    unfold tabSet
    split
    · simp only [tabGet, if_neg h]
    · split
      · rename_i h2; subst h2; simp only [tabGet, if_neg h]
      · simp only [tabGet, ih]
@[simp] theorem tabSet_tabSet {α : Type} (t : Tab α) (k : Nat) (v w : α) : tabSet (tabSet t k v) k w = tabSet t k w := by
  induction t with
  | nil => simp [tabSet]
  | cons e t ih =>
    obtain ⟨j, x⟩ := e
    simp only [tabSet]
    split
    · simp [tabSet]
    · split
      · simp [tabSet]
      · rename_i h1 h2; simp only [tabSet, if_neg h1, if_neg h2, ih]
@[simp] theorem tabGetD_tabSet_same {α : Type} (t : Tab α) (k : Nat) (v d : α) : tabGetD (tabSet t k v) k d = v := by
  simp [tabGetD]
theorem tabGetD_tabSet_other {α : Type} (t : Tab α) {k a : Nat} (v d : α) (h : a ≠ k) :
    tabGetD (tabSet t k v) a d = tabGetD t a d := by
  simp [tabGetD, tabGet_tabSet_other t v h]
@[simp] theorem tabGet_tabErase_same {α : Type} (t : Tab α) (k : Nat) : tabGet (tabErase t k) k = none := by
  induction t with
  | nil => rfl
  | cons e r ih =>
    obtain ⟨j, w⟩ := e
    unfold tabErase
    split
    · exact ih
    · rename_i h; simp only [tabGet, if_neg h, ih]
theorem tabGet_tabErase_other {α : Type} (t : Tab α) {k a : Nat} (h : a ≠ k) :
    tabGet (tabErase t k) a = tabGet t a := by
  induction t with
  | nil => rfl
  | cons e r ih =>
    obtain ⟨j, w⟩ := e
    unfold tabErase
    split
    · rename_i h2; subst h2; simp only [tabGet, if_neg h, ih]
    · simp only [tabGet, ih]

/-! ### Sets -/

theorem mem_setIns (l : List Nat) (k a : Nat) : a ∈ setIns l k ↔ a = k ∨ a ∈ l := by
  induction l with
  | nil => simp [setIns]
  | cons j r ih =>
    unfold setIns
    split
    · simp
    · split
      · rename_i h; subst h; simp
      · simp only [List.mem_cons, ih]; constructor <;> (intro h; rcases h with h | h | h <;> simp [h])
theorem mem_setDel (l : List Nat) (k a : Nat) : a ∈ setDel l k ↔ a ∈ l ∧ a ≠ k := by
  induction l with
  | nil => simp [setDel]
  | cons j r ih =>
    unfold setDel
    split
    · rename_i h; subst h; rw [ih]; simp only [List.mem_cons]
      constructor
      · rintro ⟨h1, h2⟩; exact ⟨.inr h1, h2⟩
      · rintro ⟨h1 | h1, h2⟩
        · exact absurd h1 h2
        · exact ⟨h1, h2⟩
    · rename_i h; simp only [List.mem_cons, ih]
      constructor
      · rintro (rfl | ⟨h1, h2⟩)
        · exact ⟨.inl rfl, fun e => h e.symm⟩
        · exact ⟨.inr h1, h2⟩
      · rintro ⟨h1 | h1, h2⟩
        · exact .inl h1
        · exact .inr ⟨h1, h2⟩
theorem mem_foldl_setIns (gs l : List Nat) (a : Nat) : a ∈ gs.foldl setIns l ↔ a ∈ gs ∨ a ∈ l := by
  induction gs generalizing l with
  | nil => simp
  | cons g gs ih =>
    rw [List.foldl_cons, ih, mem_setIns, List.mem_cons]
    constructor
    · rintro (h | h | h)
      · exact .inl (.inr h)
      · exact .inl (.inl h)
      · exact .inr h
    · rintro ((h | h) | h)
      · exact .inr (.inl h)
      · exact .inl h
      · exact .inr (.inr h)
theorem mem_foldl_setDel (gs l : List Nat) (a : Nat) : a ∈ gs.foldl setDel l ↔ a ∈ l ∧ a ∉ gs := by
  induction gs generalizing l with
  | nil => simp
  | cons g gs ih => rw [List.foldl_cons, ih, mem_setDel, List.mem_cons, not_or, and_assoc]
theorem mem_numsFrom (k n a : Nat) : a ∈ numsFrom k n ↔ k ≤ a ∧ a < k + n := by
  induction n generalizing k with
  | zero => simp [numsFrom]
  | succ n ih => rw [numsFrom, List.mem_cons, ih]; omega

/-! ### Dies and cores -/

@[simp] theorem State.die_modDie_same (s : State) {d : Nat} (f : Die → Die) (h : d < 8) :
    (s.modDie d f).die d = f (s.die d) := by
  simp [State.die, State.modDie, h]
theorem State.die_modDie_other (s : State) {d e : Nat} (f : Die → Die) (h : e ≠ d) :
    (s.modDie d f).die e = s.die e := by
  simp [State.die, State.modDie, Vector.getElem?_setIfInBounds, Ne.symm h]
theorem State.modDie_modDie (s : State) (d : Nat) (f g : Die → Die) :
    (s.modDie d f).modDie d g = s.modDie d fun x => g (f x) := by
  by_cases h : d < 8
  · simp only [State.modDie, State.die, Vector.setIfInBounds_setIfInBounds, Vector.getElem?_setIfInBounds, h, if_true,
      Option.getD_some]
  · have e : ∀ (t : State) (k : Die → Die), t.modDie d k = t := by
      intro t k; simp only [State.modDie]; rw [Vector.setIfInBounds_eq_of_size_le (by omega)]
    rw [e, e, e]
theorem State.modCore_modCore (s : State) (d c : Nat) (f g : Core → Core) :
    (s.modCore d c f).modCore d c g = s.modCore d c fun k => g (f k) := by
  simp only [State.modCore, State.modDie_modDie, tabSet_tabSet, tabGetD_tabSet_same]
@[simp] theorem State.core_modCore_same (s : State) {d : Nat} (c : Nat) (f : Core → Core) (h : d < 8) :
    (s.modCore d c f).core d c = f (s.core d c) := by
  simp [State.core, State.modCore, h]
@[simp] theorem State.die_modXf_same (s : State) {d : Nat} (f : DieXfers → DieXfers) (h : d < 8) :
    (s.modXf d f).die d = { s.die d with xf := f (s.die d).xf } := State.die_modDie_same s _ h
@[simp] theorem State.die_modTr_same (s : State) {d : Nat} (f : DieTrellis → DieTrellis) (h : d < 8) :
    (s.modTr d f).die d = { s.die d with tr := f (s.die d).tr } := State.die_modDie_same s _ h
@[simp] theorem State.die_modTables_same (s : State) {d : Nat} (f : DieTables → DieTables) (h : d < 8) :
    (s.modTables d f).die d = { s.die d with tables := f (s.die d).tables } := State.die_modDie_same s _ h
@[simp] theorem State.die_modSched_same (s : State) {d : Nat} (f : DieSched → DieSched) (h : d < 8) :
    (s.modSched d f).die d = { s.die d with sched := f (s.die d).sched } := State.die_modDie_same s _ h
@[simp] theorem State.die_modTiers_same (s : State) {d : Nat} (f : DieTiers → DieTiers) (h : d < 8) :
    (s.modTiers d f).die d = { s.die d with tiers := f (s.die d).tiers } := State.die_modDie_same s _ h

end Sys2Proof.Machine
end

