-- ==== Sys2Proof/Laws/Memory.lean ====
section
/-! SUPPORT. The memory list: a read after a write, writes that do not meet, and the canonical form, which every write
keeps. -/

namespace Sys2Proof.Machine

/-! ### The canonical form -/

/-- Every listed key is above `k`. -/
def keysAbove (k : Nat) (m : List Host.Cell) : Prop := ∀ c ∈ m, k < c.1

theorem wf_nil : Memory.wf [] = true := rfl
/-- A canonical list is a byte that is not zero before a canonical list of higher keys. -/
theorem wf_cons (j : Nat) (b : Byte) (r : List Host.Cell) :
    Memory.wf ((j, b) :: r) = true ↔ b ≠ 0 ∧ keysAbove j r ∧ Memory.wf r = true := by
  induction r generalizing j b with
  | nil => simp [Memory.wf, keysAbove]
  | cons c r ih =>
    obtain ⟨k, x⟩ := c
    have h := ih k x
    simp only [Memory.wf, Bool.and_eq_true, decide_eq_true_eq]
    constructor
    · rintro ⟨⟨hb, hj⟩, hw⟩
      refine ⟨hb, ?_, hw⟩
      intro c hc
      rcases List.mem_cons.mp hc with e | e
      · rw [e]; exact hj
      · exact Nat.lt_trans hj ((h.mp hw).2.1 c e)
    · rintro ⟨hb, ha, hw⟩
      exact ⟨⟨hb, ha (k, x) (List.mem_cons_self ..)⟩, hw⟩

theorem keysAbove_del {k j : Nat} {m : List Host.Cell} (h : keysAbove k m) : keysAbove k (memDel m j) := by
  induction m with
  | nil => exact h
  | cons c r ih =>
    obtain ⟨i, b⟩ := c
    have hr : keysAbove k r := fun c hc => h c (List.mem_cons_of_mem _ hc)
    simp only [memDel]
    split
    · exact ih hr
    · intro c hc
      rcases List.mem_cons.mp hc with e | e
      · rw [e]; exact h (i, b) (List.mem_cons_self ..)
      · exact ih hr c e
theorem keysAbove_ins {k j : Nat} {v : Byte} {m : List Host.Cell} (h : keysAbove k m) (hj : k < j) :
    keysAbove k (memIns m j v) := by
  induction m with
  | nil => intro c hc; simp only [memIns, List.mem_singleton] at hc; rw [hc]; exact hj
  | cons c r ih =>
    obtain ⟨i, b⟩ := c
    have hr : keysAbove k r := fun c hc => h c (List.mem_cons_of_mem _ hc)
    have hi : k < i := h (i, b) (List.mem_cons_self ..)
    simp only [memIns]
    split
    · intro c hc
      rcases List.mem_cons.mp hc with e | e
      · rw [e]; exact hj
      · exact h c e
    · split
      · intro c hc
        rcases List.mem_cons.mp hc with e | e
        · rw [e]; exact hj
        · exact hr c e
      · intro c hc
        rcases List.mem_cons.mp hc with e | e
        · rw [e]; exact hi
        · exact ih hr c e

theorem wf_del (m : List Host.Cell) (k : Nat) (h : Memory.wf m = true) : Memory.wf (memDel m k) = true := by
  induction m with
  | nil => rfl
  | cons c r ih =>
    obtain ⟨j, b⟩ := c
    obtain ⟨hb, ha, hr⟩ := (wf_cons j b r).mp h
    simp only [memDel]
    split
    · exact ih hr
    · exact (wf_cons j b _).mpr ⟨hb, keysAbove_del ha, ih hr⟩
theorem wf_ins (m : List Host.Cell) (k : Nat) (v : Byte) (hv : v ≠ 0) (h : Memory.wf m = true) :
    Memory.wf (memIns m k v) = true := by
  induction m with
  | nil => exact (wf_cons k v []).mpr ⟨hv, fun _ hc => (List.not_mem_nil hc).elim, rfl⟩
  | cons c r ih =>
    obtain ⟨j, b⟩ := c
    obtain ⟨hb, ha, hr⟩ := (wf_cons j b r).mp h
    simp only [memIns]
    split
    · rename_i hk
      refine (wf_cons k v _).mpr ⟨hv, ?_, h⟩
      intro c hc
      rcases List.mem_cons.mp hc with e | e
      · rw [e]; exact hk
      · exact Nat.lt_trans hk (ha c e)
    · split
      · rename_i _ hk; subst hk; exact (wf_cons k v r).mpr ⟨hv, ha, hr⟩
      · rename_i h1 h2
        exact (wf_cons j b _).mpr ⟨hb, keysAbove_ins ha (by omega), ih hr⟩
/-- Writing one byte keeps the canonical form. -/
theorem wf_memSet (m : List Host.Cell) (k : Nat) (v : Byte) (h : Memory.wf m = true) :
    Memory.wf (memSet m k v) = true := by
  unfold memSet; split
  · exact wf_del m k h
  · rename_i hv; exact wf_ins m k v hv h
/-- Writing bytes keeps the canonical form. -/
theorem wf_memPut (m : List Host.Cell) (k : Nat) (bs : List Byte) (h : Memory.wf m = true) :
    Memory.wf (memPut m k bs) = true := by
  induction bs generalizing m k with
  | nil => exact h
  | cons b bs ih => exact ih _ _ (wf_memSet m k b h)
/-- Writing the cells of a list at chosen keys keeps the canonical form. -/
theorem wf_foldl_memSet {α : Type} (l : List α) (k : α → Nat) (v : α → Byte) (m : List Host.Cell)
    (h : Memory.wf m = true) : Memory.wf (l.foldl (fun t c => memSet t (k c) (v c)) m) = true := by
  induction l generalizing m with
  | nil => exact h
  | cons c l ih => exact ih _ (wf_memSet m _ _ h)
/-- Keeping some cells keeps the canonical form. -/
theorem wf_filter (m : List Host.Cell) (f : Host.Cell → Bool) (h : Memory.wf m = true) :
    Memory.wf (m.filter f) = true := by
  induction m with
  | nil => rfl
  | cons c r ih =>
    obtain ⟨j, b⟩ := c
    obtain ⟨hb, ha, hr⟩ := (wf_cons j b r).mp h
    simp only [List.filter_cons]
    split
    · exact (wf_cons j b _).mpr ⟨hb, fun c hc => ha c (List.mem_filter.mp hc).1, ih hr⟩
    · exact ih hr

/-! ### Reads after writes -/

theorem memGet_del_same (m : List Host.Cell) (k : Nat) : memGet (memDel m k) k = 0 := by
  induction m with
  | nil => rfl
  | cons c r ih =>
    obtain ⟨j, b⟩ := c
    simp only [memDel]; split
    · exact ih
    · rename_i h; simp only [memGet, if_neg h]; exact ih
theorem memGet_del_other (m : List Host.Cell) {k a : Nat} (h : a ≠ k) : memGet (memDel m k) a = memGet m a := by
  induction m with
  | nil => rfl
  | cons c r ih =>
    obtain ⟨j, b⟩ := c
    simp only [memDel]; split
    · rename_i e; subst e; simp only [memGet, if_neg h]; exact ih
    · simp only [memGet]; split
      · rfl
      · exact ih
theorem memGet_ins_same (m : List Host.Cell) (k : Nat) (v : Byte) : memGet (memIns m k v) k = v := by
  induction m with
  | nil => simp [memIns, memGet]
  | cons c r ih =>
    obtain ⟨j, b⟩ := c
    simp only [memIns]; split
    · simp [memGet]
    · split
      · simp [memGet]
      · rename_i h; simp only [memGet, if_neg h]; exact ih
theorem memGet_ins_other (m : List Host.Cell) {k a : Nat} (v : Byte) (h : a ≠ k) :
    memGet (memIns m k v) a = memGet m a := by
  induction m with
  | nil => simp [memIns, memGet, h]
  | cons c r ih =>
    obtain ⟨j, b⟩ := c
    simp only [memIns]; split
    · simp [memGet, h]
    · split
      · rename_i e; subst e; simp [memGet, h]
      · simp only [memGet]; split
        · rfl
        · exact ih
/-- A byte written reads back. -/
@[simp] theorem memGet_memSet_same (m : List Host.Cell) (k : Nat) (v : Byte) : memGet (memSet m k v) k = v := by
  unfold memSet; split
  · rename_i h; rw [h]; exact memGet_del_same m k
  · exact memGet_ins_same m k v
/-- A byte not written keeps its value. -/
theorem memGet_memSet_other (m : List Host.Cell) {k a : Nat} (v : Byte) (h : a ≠ k) :
    memGet (memSet m k v) a = memGet m a := by
  unfold memSet; split
  · exact memGet_del_other m h
  · exact memGet_ins_other m v h
/-- A byte below the bytes written keeps its value. -/
theorem memGet_memPut_below (m : List Host.Cell) (k a : Nat) (bs : List Byte) (h : a < k) :
    memGet (memPut m k bs) a = memGet m a := by
  induction bs generalizing m k with
  | nil => rfl
  | cons b bs ih =>
    simp only [memPut]
    rw [ih _ _ (by omega), memGet_memSet_other _ _ (by omega)]
/-- A byte outside the bytes written keeps its value. -/
theorem memGet_memPut_other (m : List Host.Cell) (k a : Nat) (bs : List Byte) (h : a < k ∨ k + bs.length ≤ a) :
    memGet (memPut m k bs) a = memGet m a := by
  induction bs generalizing m k with
  | nil => rfl
  | cons b bs ih =>
    simp only [memPut, List.length_cons] at *
    rcases h with h | h
    · rw [memGet_memPut_below _ _ _ _ (by omega), memGet_memSet_other _ _ (by omega)]
    · rw [ih _ _ (Or.inr (by omega)), memGet_memSet_other _ _ (by omega)]
/-- Bytes written read back. -/
theorem memBytes_memPut (m : List Host.Cell) (k : Nat) (bs : List Byte) :
    memBytes (memPut m k bs) k bs.length = bs := by
  induction bs generalizing m k with
  | nil => rfl
  | cons b bs ih =>
    simp only [memPut, List.length_cons, memBytes]
    rw [ih, memGet_memPut_below _ _ _ _ (by omega), memGet_memSet_same]

@[simp] theorem leBytes_length (n x : Nat) : (leBytes n x).length = n := by
  induction n generalizing x with
  | zero => rfl
  | succ n ih => simp [leBytes, ih]
/-- The value of a number's little-endian bytes (R1). -/
theorem leNat_leBytes (n x : Nat) : leNat (leBytes n x) = x % 256 ^ n := by
  induction n generalizing x with
  | zero => simp [leBytes, leNat, Nat.mod_one]
  | succ n ih =>
    have e : 256 ^ (n + 1) = 256 * 256 ^ n := by rw [Nat.pow_succ, Nat.mul_comm]
    rw [e, Nat.mod_mul]
    simp only [leBytes, leNat, ih, BitVec.toNat_ofNat]

/-- A byte outside the bytes that `put` writes keeps its value. -/
theorem State.byte_put_other (s : State) (k a : Nat) (bs : List Byte) (h : a < k ∨ k + bs.length ≤ a) :
    (s.put k bs).byte a = s.byte a := memGet_memPut_other s.mem k a bs h
/-- A byte outside the bytes that `wr` writes keeps its value. -/
theorem State.byte_wr_other (s : State) (k n x a : Nat) (h : a < k ∨ k + n ≤ a) : (s.wr k n x).byte a = s.byte a :=
  State.byte_put_other s k a _ (by simpa using h)
/-- A value written reads back, at its width (R1). -/
theorem State.rd_wr (s : State) (k n x : Nat) : (s.wr k n x).rd k n = x % 256 ^ n := by
  have h := memBytes_memPut s.mem k (leBytes n x)
  rw [leBytes_length] at h
  simp only [State.rd, State.wr, State.put, memNat, h, leNat_leBytes]

end Sys2Proof.Machine
end

