-- ==== Sys2Proof/Laws/Issue.lean ====
section
/-! SUPPORT. What issuing a bundle of one syllable can do: which trap of the checks of R117 it takes, that it waits, or
what its performance leaves. -/

namespace Sys2Proof.Machine

/-- No check of R117 stands in the way of a syllable. -/
structure Syl.Clear (x : Syl) (s : State) : Prop where
  legal : x.illegal s = false
  caps : ∀ n ∈ x.vregs, n < s.cx.cap
  held : ∀ k ∈ x.latches, (s.cx.b.get k).isSome = true
  plain : (x.branch && x.probe) = false
  owned : ∀ z, x.tile = some z → s.cx.tiles.getLsbD z = true
  inPhase : x.phase s = false
  checked : x.check s = none

theorem bitOf_zero (k : Slot) : bitOf 0 k = false := by simp [bitOf]

/-- A context without a bundle to reissue keeps no performed bit. -/
theorem Ctx.perf_none {c : Ctx} (h : c.resume = none) : c.perf = 0 := by simp [Ctx.perf, h]
theorem Ctx.pend_none {c : Ctx} (h : c.resume = none) : c.pend = none := by simp [Ctx.pend, h]

/-- The checks of R117 pass for a clear syllable. -/
theorem checkIssue_clear {x : Syl} {s : State} (hr : s.cx.resume = none) (h : x.Clear s) :
    checkIssue s [(x.slot, .ok x)] = none := by
  have hp := Ctx.perf_none hr
  have h1 : checkSyl s (x.slot, .ok x) = none := by
    have c1 : ¬ (x.vregs.any fun n => n ≥ s.cx.cap) = true := by
      simp only [List.any_eq_true, decide_eq_true_eq, not_exists, not_and]
      intro n hn; have := h.caps n hn; omega
    have c2 : ¬ (!bitOf s.cx.perf x.slot && x.latches.any fun k => (s.cx.b.get k).isNone) = true := by
      simp only [Bool.and_eq_true, List.any_eq_true, not_and, not_exists]
      intro _ k hk hn
      have := h.held k hk
      simp_all
    simp only [checkSyl, h.legal, Bool.false_eq_true, if_false, if_neg c1, if_neg c2]
  have h2 : checkBundle [x] = none := by
    have e : dupDest [x] [] = none := by
      simp only [dupDest]; cases x.dest <;> simp [dupDest]
    simp only [checkBundle, e, List.any_cons, List.any_nil, Bool.or_false, h.plain, Bool.false_eq_true, if_false]
  have h3 : checkTile s x = none := by
    unfold checkTile
    cases ht : x.tile with
    | none => rfl
    | some z => simp [h.owned z ht]
  have h4 : ([x].filter fun y => !bitOf s.cx.perf y.slot) = [x] := by simp [hp, bitOf]
  simp only [checkIssue, sylsOf, firstTrap, h1, h2, h3, h4, h.inPhase, Bool.false_eq_true, if_false, h.checked]

/-- A clear syllable that does not block performs, and the bundle ends. -/
theorem issueOne_performs {x : Syl} {s : State} {r : Eff} (hi : s.issues) (h : x.Clear s) (hb : x.blocks s = none)
    (hp : x.perform { pre := s, swaps := x.swap.toList, next := s.cx.pc + 8 } (s.under (x.orders s)).begun = .ok r) :
    issueOne x s = .next (s.endBundle 2
      { st := r.st, bits := withBit 0 x.slot, jump := r.jump, posts := r.post.toList, trap := none }) := by
  have hf := Ctx.perf_none hi.2
  have h4 : ([x].filter fun y => !bitOf 0 y.slot) = [x] := by simp [bitOf]
  have h5 : ([x].filterMap fun y => y.swap) = x.swap.toList := by cases hx : x.swap <;> simp [hx]
  have e8 : (BitVec.ofNat 64 (4 * 2) : Dword) = 8 := rfl
  have h6 : s.beginWith [x] = (s.under (x.orders s)).begun := by simp [State.beginWith]
  simp only [issueOne, hi.1, if_true, issueBundle, checkIssue_clear hi.2 h, sylsOf, h4, firstWait, hb, byRank, insRank,
    performAll, h5, e8, h6, hp, hf]
  cases r.jump <;> cases r.post <;> rfl

/-- The end of a bundle that takes no transfer and that nothing follows. -/
theorem endBundle_plain {s t : State} {b : BitVec 9} (hr : s.cx.resume = none) :
    s.endBundle 2 { st := t, bits := b, jump := none, posts := [], trap := none } =
      { t with cx := t.cx.advance s.cx.pc 2 none } := by
  simp [State.endBundle, Perf.restless, Ctx.pend_none hr, State.afterAll]
/-- The end of a bundle that takes a transfer. -/
theorem endBundle_jump {s t : State} {b : BitVec 9} {j : Dword} :
    s.endBundle 2 { st := t, bits := b, jump := some j, posts := [], trap := none } =
      { t with cx := t.cx.advance s.cx.pc 2 (some j) } := by
  simp [State.endBundle, Perf.restless, State.afterAll]

/-- What a release or an acquire orders changes nothing but what engine paths may still read. -/
@[simp] theorem State.under_cx (s : State) (o : Bool) : (s.under o).cx = s.cx := by cases o <;> rfl
@[simp] theorem State.under_cur (s : State) (o : Bool) : (s.under o).cur = s.cur := by cases o <;> rfl
@[simp] theorem State.under_ctxs (s : State) (o : Bool) : (s.under o).ctxs = s.ctxs := by cases o <;> rfl
@[simp] theorem State.under_dies (s : State) (o : Bool) : (s.under o).dies = s.dies := by cases o <;> rfl
@[simp] theorem State.under_mem (s : State) (o : Bool) : (s.under o).mem = s.mem := by cases o <;> rfl
@[simp] theorem State.under_empty (s : State) (o : Bool) : (s.under o).empty = s.empty := by cases o <;> rfl
@[simp] theorem State.under_bad (s : State) (o : Bool) : (s.under o).bad = s.bad := by cases o <;> rfl
@[simp] theorem State.under_false (s : State) : s.under false = s := rfl

/-- A clear syllable that neither blocks nor takes a transfer, and that nothing follows. -/
theorem issueOne_under {x : Syl} {s : State} {g : State → State} (hi : s.issues) (h : x.Clear s)
    (hb : x.blocks s = none)
    (hp : x.perform { pre := s, swaps := x.swap.toList, next := s.cx.pc + 8 } (s.under (x.orders s)).begun =
      .ok { st := g (s.under (x.orders s)).begun }) :
    issueOne x s = .next ((s.under (x.orders s)).bundle g) := by
  rw [issueOne_performs hi h hb hp]
  simp only [Option.toList_none, endBundle_plain hi.2, State.bundle, State.under_cx]
/-- The same of one that is no release and no acquire. -/
theorem issueOne_bundle {x : Syl} {s : State} {g : State → State} (hi : s.issues) (h : x.Clear s)
    (hb : x.blocks s = none)
    (hp : x.perform { pre := s, swaps := x.swap.toList, next := s.cx.pc + 8 } s.begun = .ok { st := g s.begun })
    (ho : x.orders s = false := by rfl) :
    issueOne x s = .next (s.bundle g) := by
  have k := issueOne_under (g := g) hi h hb (by rw [ho]; exact hp)
  rwa [ho] at k
/-- A clear syllable that takes a transfer. -/
theorem issueOne_bundleTo {x : Syl} {s : State} {g : State → State} {j : Dword} (hi : s.issues) (h : x.Clear s)
    (hb : x.blocks s = none)
    (hp : x.perform { pre := s, swaps := x.swap.toList, next := s.cx.pc + 8 } s.begun =
      .ok { st := g s.begun, jump := some j })
    (ho : x.orders s = false := by rfl) :
    issueOne x s = .next (s.bundleTo g j) := by
  rw [issueOne_performs hi h hb (by rw [ho]; exact hp)]
  simp only [Option.toList_none, endBundle_jump]; rfl

/-- A syllable whose own check raises a trap, with nothing before it in the order of R117, takes that trap and performs
nothing. -/
theorem issueOne_traps {x : Syl} {s : State} {t : Trap} (hi : s.issues) (h1 : x.illegal s = false)
    (h2 : ∀ n ∈ x.vregs, n < s.cx.cap) (h3 : ∀ k ∈ x.latches, (s.cx.b.get k).isSome = true)
    (h4 : (x.branch && x.probe) = false) (h5 : ∀ z, x.tile = some z → s.cx.tiles.getLsbD z = true)
    (h6 : x.phase s = false) (h7 : x.check s = some t) : issueOne x s = .next (s.trapAt t) := by
  have hf := Ctx.perf_none hi.2
  have hc : checkIssue s [(x.slot, .ok x)] = some t := by
    have k := checkIssue_clear (x := { x with check := fun _ => none }) hi.2 ⟨h1, h2, h3, h4, h5, h6, rfl⟩
    have h8 : ([x].filter fun y => !bitOf s.cx.perf y.slot) = [x] := by simp [hf, bitOf]
    have e1 : checkSyl s (x.slot, .ok x) = checkSyl s (x.slot, .ok { x with check := fun _ => none }) := rfl
    have e2 : checkBundle [x] = checkBundle [{ x with check := fun _ => none }] := rfl
    have e3 : checkTile s x = checkTile s { x with check := fun _ => none } := rfl
    simp only [checkIssue, sylsOf, firstTrap] at k
    rw [← e1, ← e2, ← e3] at k
    simp only [checkIssue, sylsOf, firstTrap, h8, h6, h7, Bool.false_eq_true, if_false]
    revert k
    cases checkSyl s (x.slot, .ok x) <;> cases checkBundle [x] <;> cases checkTile s x <;> simp
  simp only [issueOne, hi.1, if_true, issueBundle, hc, hf, Ctx.pend_none hi.2]; rfl
/-- A syllable outside its superstep raises PHASE_ILL, with nothing before it in the order of R117. -/
theorem issueOne_phase {x : Syl} {s : State} (hi : s.issues) (h1 : x.illegal s = false)
    (h2 : ∀ n ∈ x.vregs, n < s.cx.cap) (h3 : ∀ k ∈ x.latches, (s.cx.b.get k).isSome = true)
    (h4 : (x.branch && x.probe) = false) (h5 : ∀ z, x.tile = some z → s.cx.tiles.getLsbD z = true)
    (h6 : x.phase s = true) :
    issueOne x s = .next (s.trapAt { cause := .phaseIllegal, slot := x.slot.num }) := by
  have hf := Ctx.perf_none hi.2
  have hc : checkIssue s [(x.slot, .ok x)] = some { cause := .phaseIllegal, slot := x.slot.num } := by
    have k := checkIssue_clear (x := { x with check := fun _ => none, phase := fun _ => false }) hi.2
      ⟨h1, h2, h3, h4, h5, rfl, rfl⟩
    have h8 : ([x].filter fun y => !bitOf s.cx.perf y.slot) = [x] := by simp [hf, bitOf]
    have e1 : checkSyl s (x.slot, .ok x) =
      checkSyl s (x.slot, .ok { x with check := fun _ => none, phase := fun _ => false }) := rfl
    have e2 : checkBundle [x] = checkBundle [{ x with check := fun _ => none, phase := fun _ => false }] := rfl
    have e3 : checkTile s x = checkTile s { x with check := fun _ => none, phase := fun _ => false } := rfl
    simp only [checkIssue, sylsOf, firstTrap] at k
    rw [← e1, ← e2, ← e3] at k
    simp only [checkIssue, sylsOf, firstTrap, h8, h6, if_true]
    revert k
    cases checkSyl s (x.slot, .ok x) <;> cases checkBundle [x] <;> cases checkTile s x <;> simp
  simp only [issueOne, hi.1, if_true, issueBundle, hc, hf, Ctx.pend_none hi.2]; rfl
/-- A clear syllable that blocks leaves a waiting context (R54). -/
theorem issueOne_waits {x : Syl} {s t : State} {w : Wait} (hi : s.issues) (h : x.Clear s)
    (hb : x.blocks s = some (t, w)) : issueOne x s = .next (t.tick.wait w) := by
  have hf := Ctx.perf_none hi.2
  have h4 : ([x].filter fun y => !bitOf 0 y.slot) = [x] := by simp [bitOf]
  simp only [issueOne, hi.1, if_true, issueBundle, checkIssue_clear hi.2 h, sylsOf, hf, h4, firstWait, hb]

/-! ### What a bundle of one syllable keeps -/

@[simp] theorem Ctx.settle_ctl (c : Ctx) : c.settle.ctl = c.ctl := rfl
@[simp] theorem Ctx.settle_s (c : Ctx) : c.settle.s = c.s := rfl
@[simp] theorem Ctx.settle_v (c : Ctx) : c.settle.v = c.v := rfl
@[simp] theorem Ctx.settle_p (c : Ctx) : c.settle.p = c.p := rfl
@[simp] theorem Ctx.settle_st (c : Ctx) : c.settle.st = c.st := rfl
@[simp] theorem Ctx.settle_item (c : Ctx) : c.settle.item = c.item := rfl
@[simp] theorem Ctx.advance_s (c : Ctx) (pc : Dword) (n : Nat) (j : Option Dword) : (c.advance pc n j).s = c.s := by
  unfold Ctx.advance Ctx.loopTest; cases j <;> simp only <;> (repeat' split) <;> rfl
@[simp] theorem Ctx.advance_v (c : Ctx) (pc : Dword) (n : Nat) (j : Option Dword) : (c.advance pc n j).v = c.v := by
  unfold Ctx.advance Ctx.loopTest; cases j <;> simp only <;> (repeat' split) <;> rfl
@[simp] theorem Ctx.advance_p (c : Ctx) (pc : Dword) (n : Nat) (j : Option Dword) : (c.advance pc n j).p = c.p := by
  unfold Ctx.advance Ctx.loopTest; cases j <;> simp only <;> (repeat' split) <;> rfl
/-- The latches stay, unless the context lost the width while the bundle waited (R55). -/
theorem Ctx.advance_b {c : Ctx} (h : c.lapsed = false) (pc : Dword) (n : Nat) (j : Option Dword) :
    (c.advance pc n j).b = c.b := by
  have k : c.settle.b = c.b := by simp [Ctx.settle, h]
  unfold Ctx.advance Ctx.loopTest; cases j <;> simp only <;> (repeat' split) <;> exact k
@[simp] theorem Ctx.advance_m (c : Ctx) (pc : Dword) (n : Nat) (j : Option Dword) :
    (c.advance pc n j).m = c.m := by
  unfold Ctx.advance Ctx.loopTest; cases j <;> simp only <;> (repeat' split) <;> rfl
@[simp] theorem Ctx.advance_live (c : Ctx) (pc : Dword) (n : Nat) (j : Option Dword) :
    (c.advance pc n j).live = c.live := by
  unfold Ctx.advance Ctx.loopTest; cases j <;> simp only <;> (repeat' split) <;> rfl
@[simp] theorem Ctx.advance_shadow (c : Ctx) (pc : Dword) (n : Nat) (j : Option Dword) :
    (c.advance pc n j).shadow = c.shadow := by
  unfold Ctx.advance Ctx.loopTest; cases j <;> simp only <;> (repeat' split) <;> rfl
@[simp] theorem Ctx.advance_st (c : Ctx) (pc : Dword) (n : Nat) (j : Option Dword) :
    (c.advance pc n j).st = c.st := by
  unfold Ctx.advance Ctx.loopTest; cases j <;> simp only <;> (repeat' split) <;> rfl
@[simp] theorem Ctx.advance_level (c : Ctx) (pc : Dword) (n : Nat) (j : Option Dword) :
    (c.advance pc n j).level = c.level := by
  unfold Ctx.advance Ctx.loopTest; cases j <;> simp only <;> (repeat' split) <;> rfl
@[simp] theorem Ctx.advance_rec1 (c : Ctx) (pc : Dword) (n : Nat) (j : Option Dword) :
    (c.advance pc n j).rec1 = c.rec1 := by
  unfold Ctx.advance Ctx.loopTest; cases j <;> simp only <;> (repeat' split) <;> rfl
@[simp] theorem Ctx.advance_rec2 (c : Ctx) (pc : Dword) (n : Nat) (j : Option Dword) :
    (c.advance pc n j).rec2 = c.rec2 := by
  unfold Ctx.advance Ctx.loopTest; cases j <;> simp only <;> (repeat' split) <;> rfl
@[simp] theorem Ctx.advance_held (c : Ctx) (pc : Dword) (n : Nat) (j : Option Dword) :
    (c.advance pc n j).held = c.held := by
  unfold Ctx.advance Ctx.loopTest; cases j <;> simp only <;> (repeat' split) <;> rfl
@[simp] theorem Ctx.advance_item (c : Ctx) (pc : Dword) (n : Nat) (j : Option Dword) :
    (c.advance pc n j).item = c.item := by
  unfold Ctx.advance Ctx.loopTest; cases j <;> simp only <;> (repeat' split) <;> rfl
@[simp] theorem Ctx.advance_prio (c : Ctx) (pc : Dword) (n : Nat) (j : Option Dword) :
    (c.advance pc n j).prio = c.prio := by
  unfold Ctx.advance Ctx.loopTest; cases j <;> simp only <;> (repeat' split) <;> rfl
@[simp] theorem Ctx.advance_launch (c : Ctx) (pc : Dword) (n : Nat) (j : Option Dword) :
    (c.advance pc n j).launch = c.launch := by
  unfold Ctx.advance Ctx.loopTest; cases j <;> simp only <;> (repeat' split) <;> rfl
@[simp] theorem Ctx.advance_cap (c : Ctx) (pc : Dword) (n : Nat) (j : Option Dword) :
    (c.advance pc n j).cap = c.cap := by
  unfold Ctx.advance Ctx.loopTest; cases j <;> simp only <;> (repeat' split) <;> rfl
@[simp] theorem Ctx.advance_tiles (c : Ctx) (pc : Dword) (n : Nat) (j : Option Dword) :
    (c.advance pc n j).tiles = c.tiles := by
  unfold Ctx.advance Ctx.loopTest; cases j <;> simp only <;> (repeat' split) <;> rfl
@[simp] theorem Ctx.advance_ballast (c : Ctx) (pc : Dword) (n : Nat) (j : Option Dword) :
    (c.advance pc n j).ballast = c.ballast := by
  unfold Ctx.advance Ctx.loopTest; cases j <;> simp only <;> (repeat' split) <;> rfl
@[simp] theorem Ctx.advance_priv (c : Ctx) (pc : Dword) (n : Nat) (j : Option Dword) :
    (c.advance pc n j).priv = c.priv := by
  unfold Ctx.advance Ctx.loopTest; cases j <;> simp only <;> (repeat' split) <;> rfl
@[simp] theorem Ctx.advance_budget (c : Ctx) (pc : Dword) (n : Nat) (j : Option Dword) :
    (c.advance pc n j).budget = c.budget := by
  unfold Ctx.advance Ctx.loopTest; cases j <;> simp only <;> (repeat' split) <;> rfl
@[simp] theorem Ctx.advance_sailPend (c : Ctx) (pc : Dword) (n : Nat) (j : Option Dword) :
    (c.advance pc n j).sailPend = c.sailPend := by
  unfold Ctx.advance Ctx.loopTest; cases j <;> simp only <;> (repeat' split) <;> rfl
/-- An instruction's end changes no control register but ctl.lcnt. -/
theorem Ctx.advance_ctl (c : Ctx) (pc : Dword) (n : Nat) (j : Option Dword) :
    (c.advance pc n j).ctl = { c.ctl with lcnt := (c.advance pc n j).ctl.lcnt } := by
  unfold Ctx.advance Ctx.loopTest; cases j <;> simp only <;> (repeat' split) <;> rfl
/-- The program counter after a bundle depends on the loop registers alone. -/
theorem Ctx.advance_pc_congr {c e : Ctx} {pc : Dword} {n : Nat} {j : Option Dword} (h1 : c.ctl.lend = e.ctl.lend)
    (h2 : c.ctl.lcnt = e.ctl.lcnt) (h3 : c.ctl.lbeg = e.ctl.lbeg) : (c.advance pc n j).pc = (e.advance pc n j).pc := by
  unfold Ctx.advance Ctx.loopTest
  cases j with
  | some _ => rfl
  | none =>
    by_cases k1 : e.ctl.lend = pc ∧ e.ctl.lcnt ≠ 0 <;> by_cases k2 : e.ctl.lcnt.toNat > 1 <;>
      simp only [Ctx.settle_ctl, h1, h2, h3, k1, k2, if_true, if_false, and_self, ne_eq, not_false_eq_true]
@[simp] theorem State.bundle_mem (s : State) (g : State → State) : (s.bundle g).mem = (g s.begun).mem := rfl
@[simp] theorem State.bundleTo_mem (s : State) (g : State → State) (j : Dword) :
    (s.bundleTo g j).mem = (g s.begun).mem := rfl
@[simp] theorem State.bundle_dies (s : State) (g : State → State) : (s.bundle g).dies = (g s.begun).dies := rfl

end Sys2Proof.Machine
end

