-- ==== Sys2Proof/Laws/Scalar.lean ====
section
/-! SUPPORT. What the shared syllable forms of the scalar and vector slots leave. -/

namespace Sys2Proof.Machine

/-- A scalar syllable whose latches are valid writes its result, raises its flags, and ends its bundle (R128). -/
theorem scalarSyl_runs {s : State} {u : SUnit} {srcs : List Src} {d : Dst} {f : Ctx → Dword × BitVec 5}
    (hi : s.issues) (hl : s.cx.holds srcs) :
    issueOne (scalarSyl u srcs d f) s =
      .next (s.bundleCtx fun c => (c.outS u.latch d (f s.cx).1).raiseFlags (f s.cx).2) :=
  issueOne_bundle (x := scalarSyl u srcs d f)
    (g := fun t => { t with cx := (t.cx.outS u.latch d (f s.cx).1).raiseFlags (f s.cx).2 }) hi
    ⟨rfl, fun _ h => absurd h (List.not_mem_nil), hl, rfl, (fun _ h => by cases h), rfl, rfl⟩ rfl rfl
/-- The same of a syllable that raises no flag. -/
theorem scalarSyl_quiet {s : State} {u : SUnit} {srcs : List Src} {d : Dst} {f : Ctx → Dword × BitVec 5}
    (hi : s.issues) (hl : s.cx.holds srcs) (h0 : (f s.cx).2 = 0) :
    issueOne (scalarSyl u srcs d f) s = .next (s.bundleCtx fun c => c.outS u.latch d (f s.cx).1) := by
  rw [scalarSyl_runs hi hl, h0]; simp only [Ctx.raiseFlags_zero]

theorem Ctx.holds_nil (c : Ctx) : c.holds [] := fun _ h => absurd h (List.not_mem_nil)
theorem Ctx.holds_left {c : Ctx} {a b : Src} (h : c.holds [a, b]) : c.holds [a] := by
  intro k hk; apply h
  cases a <;> simp_all [latchesOf]

end Sys2Proof.Machine
end

