-- ==== Sys2Proof/Laws/Vector.lean ====
section
/-! SUPPORT. Lanes: what packing and merging lanes leave at each lane, and what the shared vector syllables answer. -/

namespace Sys2Proof.Machine

/-! ### Lanes -/

theorem lanesOf_lane (w : Nat) (xs : List Nat) (i : Nat) :
    lanesOf w xs / 2 ^ (w * i) % 2 ^ w = xs.getD i 0 % 2 ^ w := by
  induction xs generalizing i with
  | nil => simp [lanesOf]
  | cons x xs ih =>
    cases i with
    | zero => simp [lanesOf, Nat.add_mul_mod_self_left]
    | succ i =>
      have h : 0 < 2 ^ w := Nat.two_pow_pos w
      have e : 2 ^ (w * (i + 1)) = 2 ^ w * 2 ^ (w * i) := by rw [← Nat.pow_add]; congr 1; rw [Nat.mul_succ]; omega
      rw [lanesOf, e, ← Nat.div_div_eq_div_mul, Nat.add_mul_div_left _ _ h, Nat.div_eq_of_lt (Nat.mod_lt _ h), Nat.zero_add, ih]
      simp
/-- A part of a number cut at 2,048 bits. -/
theorem mod_div_mod (x w i : Nat) (h : w * i + w ≤ 2048) :
    x % 2 ^ 2048 / 2 ^ (w * i) % 2 ^ w = x / 2 ^ (w * i) % 2 ^ w := by
  have e : (2 : Nat) ^ 2048 = 2 ^ (w * i) * 2 ^ (2048 - w * i) := by rw [← Nat.pow_add]; congr 1; omega
  rw [e, Nat.mod_mul_right_div_self, Nat.mod_mod_of_dvd _ (Nat.pow_dvd_pow 2 (by omega))]
theorem lane_fits {w i : Nat} (h : i < 2048 / w) : w * i + w ≤ 2048 := by
  have h1 : 0 < w := by rcases Nat.eq_zero_or_pos w with h0 | h0 <;> simp_all
  have h2 : w * (i + 1) ≤ w * (2048 / w) := Nat.mul_le_mul_left _ h
  have h3 : w * (2048 / w) ≤ 2048 := Nat.mul_div_le _ _
  rw [Nat.mul_succ] at h2; omega
/-- Each lane of a vector formed from a list holds the list's element. -/
theorem laneAt_ofLanes {w i : Nat} (xs : List Nat) (h : i < 2048 / w) :
    laneAt (Vec.ofLanes w xs) w i = xs.getD i 0 % 2 ^ w := by
  unfold laneAt Vec.ofLanes
  rw [BitVec.toNat_ofNat, mod_div_mod _ _ _ (lane_fits h), lanesOf_lane]
theorem splitLanes_length (w n x : Nat) : (splitLanes w n x).length = n := by
  induction n generalizing x with
  | zero => rfl
  | succ n ih => simp [splitLanes, ih]
theorem splitLanes_get (w n x i : Nat) (h : i < n) : (splitLanes w n x).getD i 0 = x / 2 ^ (w * i) % 2 ^ w := by
  induction n generalizing x i with
  | zero => omega
  | succ n ih =>
    cases i with
    | zero => simp [splitLanes]
    | succ i =>
      have := ih (x / 2 ^ w) i (by omega)
      simp only [splitLanes, List.getD_cons_succ, this]
      rw [Nat.div_div_eq_div_mul, ← Nat.pow_add, Nat.mul_succ, Nat.add_comm w]
@[simp] theorem Vec.lanes_length (v : Vec) (w : Nat) : (Vec.lanes v w).length = 2048 / w := splitLanes_length ..
/-- The lanes of a vector, one by one. -/
theorem Vec.lanes_get (v : Vec) {w i : Nat} (h : i < 2048 / w) : (Vec.lanes v w).getD i 0 = laneAt v w i :=
  splitLanes_get _ _ _ _ h
theorem laneAt_lt (v : Vec) (w i : Nat) : laneAt v w i < 2 ^ w := Nat.mod_lt _ (Nat.two_pow_pos w)
theorem laneAt_mod (v : Vec) (w i : Nat) : laneAt v w i % 2 ^ w = laneAt v w i := Nat.mod_eq_of_lt (laneAt_lt ..)
@[simp] theorem governs_length (w : Nat) (p : Pred) : (governs w p).length = 2048 / w := by simp [governs]
theorem governs_get {w i : Nat} (p : Pred) (h : i < 2048 / w) : (governs w p).getD i false = p.getLsbD (w / 8 * i) := by
  simp [governs, List.getD_eq_getElem?_getD, h]

/-! ### Flags of lanes -/

theorem foldl_or_get (fs : List FFlags) (a : FFlags) (k : Nat) :
    (fs.foldl (fun a b => a ||| b) a).getLsbD k = true ↔ a.getLsbD k = true ∨ ∃ f ∈ fs, f.getLsbD k = true := by
  induction fs generalizing a with
  | nil => simp
  | cons f fs ih => simp [ih, or_assoc]
/-- A flag is in a union exactly when some member holds it. -/
theorem orFlags_get (fs : List FFlags) (k : Nat) :
    (orFlags fs).getLsbD k = true ↔ ∃ f ∈ fs, f.getLsbD k = true := by
  unfold orFlags; rw [foldl_or_get]; simp

/-! ### Merging -/

theorem laneMerge_length (op : Nat → Nat → Nat → LaneRes) (gs : List Bool) (as bs ds : List Nat) :
    (laneMerge op gs as bs ds).length = min (min gs.length as.length) (min bs.length ds.length) := by
  induction gs generalizing as bs ds with
  | nil => simp [laneMerge]
  | cons g gs ih =>
    cases as with
    | nil => simp [laneMerge]
    | cons a as =>
      cases bs with
      | nil => simp [laneMerge]
      | cons b bs =>
        cases ds with
        | nil => simp [laneMerge]
        | cons d ds => simp only [laneMerge, List.length_cons, ih]; omega
theorem laneMerge_get (op : Nat → Nat → Nat → LaneRes) (gs : List Bool) (as bs ds : List Nat) (i : Nat)
    (h1 : i < gs.length) (h2 : i < as.length) (h3 : i < bs.length) (h4 : i < ds.length) :
    (laneMerge op gs as bs ds)[i]? =
      some (if gs.getD i false then op (as.getD i 0) (bs.getD i 0) (ds.getD i 0) else (ds.getD i 0, 0)) := by
  induction gs generalizing as bs ds i with
  | nil => simp at h1
  | cons g gs ih =>
    cases as with
    | nil => simp at h2
    | cons a as =>
      cases bs with
      | nil => simp at h3
      | cons b bs =>
        cases ds with
        | nil => simp at h4
        | cons d ds =>
          cases i with
          | zero => simp [laneMerge]
          | succ i =>
            simp only [laneMerge, List.getElem?_cons_succ, List.getD_cons_succ]
            exact ih as bs ds i (by simpa using h1) (by simpa using h2) (by simpa using h3) (by simpa using h4)
/-- What packing merged lanes leaves: the operation at each governed lane, the earlier value at each other one, and the
flags of the governed lanes. -/
theorem packMerge {w : Nat} (op : Nat → Nat → Nat → LaneRes) (p : Pred) (as bs ds : List Nat)
    (h2 : as.length = 2048 / w) (h3 : bs.length = 2048 / w) (h4 : ds.length = 2048 / w) :
    (∀ i, i < 2048 / w →
      laneAt (packLanes w (laneMerge op (governs w p) as bs ds)).1 w i =
        (if p.getLsbD (w / 8 * i) = true then (op (as.getD i 0) (bs.getD i 0) (ds.getD i 0)).1 else ds.getD i 0) % 2 ^ w) ∧
    (∀ k, (packLanes w (laneMerge op (governs w p) as bs ds)).2.getLsbD k = true ↔
      ∃ i, i < 2048 / w ∧ p.getLsbD (w / 8 * i) = true ∧
        (op (as.getD i 0) (bs.getD i 0) (ds.getD i 0)).2.getLsbD k = true) := by
  have hg : ∀ i, i < 2048 / w → (laneMerge op (governs w p) as bs ds)[i]? =
      some (if p.getLsbD (w / 8 * i) = true then op (as.getD i 0) (bs.getD i 0) (ds.getD i 0) else (ds.getD i 0, 0)) := by
    intro i hi
    rw [laneMerge_get op (governs w p) as bs ds i (by simpa using hi) (by omega) (by omega) (by omega), governs_get p hi]
  have hl : (laneMerge op (governs w p) as bs ds).length = 2048 / w := by
    rw [laneMerge_length, governs_length]; omega
  constructor
  · intro i hi
    rw [packLanes, laneAt_ofLanes _ hi]
    simp only [List.getD_eq_getElem?_getD, List.getElem?_map, hg i hi, Option.map_some, Option.getD_some]
    by_cases hp : p.getLsbD (w / 8 * i) = true
    · rw [if_pos hp, if_pos hp]
    · rw [if_neg hp, if_neg hp]
  · intro k
    rw [packLanes, orFlags_get]
    constructor
    · rintro ⟨f, hf, hk⟩
      obtain ⟨r, hr, rfl⟩ := List.mem_map.mp hf
      obtain ⟨i, hi⟩ := List.getElem?_of_mem hr
      have hi2 : i < 2048 / w := by rw [← hl]; exact (List.getElem?_eq_some_iff.mp hi).1
      rw [hg i hi2] at hi
      refine ⟨i, hi2, ?_⟩
      by_cases hp : p.getLsbD (w / 8 * i) = true
      · rw [if_pos hp] at hi; cases hi; exact ⟨hp, hk⟩
      · rw [if_neg hp] at hi; cases hi; simp at hk
    · rintro ⟨i, hi, hp, hk⟩
      refine ⟨_, List.mem_map.mpr ⟨_, List.mem_of_getElem? (hg i hi), rfl⟩, ?_⟩
      rw [if_pos hp]; exact hk

/-! ### The shared syllables -/

theorem phaseVector_false {s : State} (h : s.vectors) : phaseVector s = false := by
  unfold phaseVector State.isBallast
  rcases h with h | h
  · cases hb : s.cx.ballast <;> simp_all
  · simp [h]
/-- A vector syllable with valid latches and registers below the cap writes its result (R158). -/
theorem vecSyl_runs {s : State} {u : VUnit} {vs ss : List Src} {d : Dst} {f : Ctx → Vec × FFlags} (hi : s.issues)
    (hv : s.vectors) (hl : s.cx.holds (vs ++ ss)) (hc : s.cx.fits vs d) :
    issueOne (vecSyl u vs ss d f) s = s.vecOut u d (f s.cx).1 (f s.cx).2 :=
  issueOne_bundle (x := vecSyl u vs ss d f)
    (g := fun t => { t with cx := (t.cx.outV u.latch d (f s.cx).1).raiseFlags (f s.cx).2 }) hi
    ⟨rfl, hc, hl, by cases u <;> rfl, (fun _ h => by cases h), phaseVector_false hv, rfl⟩ rfl rfl
/-- The same of a syllable that raises no flag. -/
theorem vecSyl_quiet {s : State} {u : VUnit} {vs ss : List Src} {d : Dst} {f : Ctx → Vec × FFlags} (hi : s.issues)
    (hv : s.vectors) (hl : s.cx.holds (vs ++ ss)) (hc : s.cx.fits vs d) (h0 : (f s.cx).2 = 0) :
    issueOne (vecSyl u vs ss d f) s = .next (s.bundleCtx fun c => c.outV u.latch d (f s.cx).1) := by
  rw [vecSyl_runs hi hv hl hc, h0]; simp only [State.vecOut, Ctx.raiseFlags_zero]
/-- A vector syllable with a scalar result. -/
theorem vecToS_runs {s : State} {u : VUnit} {vs ss : List Src} {d : Dst} {f : Ctx → Dword} (hi : s.issues)
    (hv : s.vectors) (hl : s.cx.holds (vs ++ ss)) (hc : s.cx.within (vregsOf vs)) :
    issueOne (vecToS u vs ss d f) s = .next (s.bundleCtx fun c => c.outS u.latch d (f s.cx)) :=
  issueOne_bundle (x := vecToS u vs ss d f) (g := fun t => { t with cx := t.cx.outS u.latch d (f s.cx) }) hi
    ⟨rfl, hc, hl, by cases u <;> rfl, (fun _ h => by cases h), phaseVector_false hv, rfl⟩ rfl rfl
/-- A syllable with a predicate result. -/
theorem vecToP_runs {s : State} {u : VUnit} {vs : List Src} {d : PDst} {f : Ctx → Pred × FFlags} (hi : s.issues)
    (hv : s.vectors) (hl : s.cx.holds vs) (hc : s.cx.within (vregsOf vs)) :
    issueOne (vecToP u vs d f) s =
      .next (s.bundleCtx fun c => (c.outP u.latch d (f s.cx).1).raiseFlags (f s.cx).2) :=
  issueOne_bundle (x := vecToP u vs d f)
    (g := fun t => { t with cx := (t.cx.outP u.latch d (f s.cx).1).raiseFlags (f s.cx).2 }) hi
    ⟨rfl, hc, hl, by cases u <;> rfl, (fun _ h => by cases h), phaseVector_false hv, rfl⟩ rfl rfl
/-- Merging depends on the operation only at the lanes there are. -/
theorem merges_congr {s : State} {u : VUnit} {d : Dst} {p : Fin 16} {w : Nat} {f g : Nat → LaneRes}
    {o : Host.Outcome State Fault Refusal} (h : s.merges u d p w f o) (e : ∀ i, i < 2048 / w → f i = g i) :
    s.merges u d p w g o := by
  obtain ⟨r, fl, ho, h1, h2⟩ := h
  refine ⟨r, fl, ho, fun i hi => by rw [← e i hi]; exact h1 i hi, fun k => (h2 k).trans ?_⟩
  exact exists_congr fun i => and_congr_right fun hi => by rw [e i hi]
/-- A syllable that packs merged lanes over the earlier value of its destination merges them (R157). -/
theorem vecSyl_merges {s : State} {u : VUnit} {vs ss : List Src} {d : Dst} {p : Fin 16} {w : Nat}
    {f : Ctx → Vec × FFlags} {op : Nat → Nat → Nat → LaneRes} {as bs : List Nat} (hi : s.issues) (hv : s.vectors)
    (hl : s.cx.holds (vs ++ ss)) (hc : s.cx.fits vs d) (ha : as.length = 2048 / w) (hb : bs.length = 2048 / w)
    (hf : f s.cx = packLanes w (laneMerge op (governs w (s.cx.pval p)) as bs (Vec.lanes (s.cx.dstVec d) w))) :
    s.merges u d p w (fun i => op (as.getD i 0) (bs.getD i 0) (laneAt (s.cx.dstVec d) w i))
      (issueOne (vecSyl u vs ss d f) s) := by
  obtain ⟨h1, h2⟩ := packMerge op (s.cx.pval p) as bs (Vec.lanes (s.cx.dstVec d) w) ha hb (by simp)
  refine ⟨_, _, vecSyl_runs hi hv hl hc, fun i hi => ⟨fun hg => ?_, fun hg => ?_⟩, fun k => ?_⟩
  · have hg' : (s.cx.pval p).getLsbD (w / 8 * i) = true := hg
    rw [hf, h1 i hi, if_pos hg', Vec.lanes_get _ hi]
  · have hg' : ¬ (s.cx.pval p).getLsbD (w / 8 * i) = true := hg
    rw [hf, h1 i hi, if_neg hg', Vec.lanes_get _ hi, laneAt_mod]
  · rw [hf, h2 k]
    refine exists_congr fun i => and_congr_right fun hi => and_congr_right fun _ => ?_
    rw [Vec.lanes_get _ hi]
/-- An element-wise syllable merges its operation, lane by lane (R157, R161). -/
theorem ewise_merges {s : State} {u : VUnit} {d : Dst} {a b : Src} {p : Fin 16} {f : Fmt}
    {op : Ctx → Nat → Nat → Nat → LaneRes} (hi : s.issues) (hv : s.vectors) (hl : s.cx.holds [a, b])
    (hc : s.cx.fits [a, b] d) :
    s.merges u d p f.bits
      (fun i => op s.cx (laneAt (s.cx.vval f a) f.bits i) (laneAt (s.cx.vval f b) f.bits i)
        (laneAt (s.cx.dstVec d) f.bits i)) (issueOne (ewise u d a b p f op) s) :=
  merges_congr (vecSyl_merges hi hv (by simpa using hl) hc (Vec.lanes_length ..) (Vec.lanes_length ..) rfl)
    fun i hi => by simp only [Vec.lanes_get _ hi]
/-- An element-wise syllable of one source. -/
theorem ewise1_merges {s : State} {u : VUnit} {d : Dst} {a : Src} {p : Fin 16} {f : Fmt}
    {op : Ctx → Nat → LaneRes} (hi : s.issues) (hv : s.vectors) (hl : s.cx.holds [a]) (hc : s.cx.fits [a] d) :
    s.merges u d p f.bits (fun i => op s.cx (laneAt (s.cx.vval f a) f.bits i)) (issueOne (ewise1 u d a p f op) s) :=
  merges_congr (vecSyl_merges (op := fun x _ _ => op s.cx x) hi hv (by simpa using hl) hc (Vec.lanes_length ..)
    (Vec.lanes_length ..) rfl) fun i hi => by simp only [Vec.lanes_get _ hi]

end Sys2Proof.Machine
end

