-- ==== Sys2Proof/Laws/LocalMem.lean ====
section
/-! SUPPORT. What the loads and stores of the LS and WY slots answer, and which bytes and granules they change. -/

namespace Sys2Proof.Machine

/-! ### Granule sets -/

theorem setIns_comm (l : List Nat) (x y : Nat) : setIns (setIns l x) y = setIns (setIns l y) x := by
  induction l with
  | nil => simp only [setIns]; split <;> split <;> (try split) <;> (try split) <;> first | rfl | omega | (congr 1; omega) | skip
           all_goals (first | rfl | (subst_vars; rfl) | omega)
  | cons j r ih =>
    simp only [setIns]
    repeat' split
    all_goals simp only [setIns]
    all_goals repeat' split
    all_goals first | rfl | omega | (simp only [ih]) | (congr 1; omega) | skip
    all_goals first | rfl | omega | (congr 2 <;> omega)

theorem setIns_self (l : List Nat) (x : Nat) : setIns (setIns l x) x = setIns l x := by
  induction l with
  | nil => simp [setIns]
  | cons j r ih =>
    simp only [setIns]
    repeat' split
    all_goals simp only [setIns]
    all_goals repeat' split
    all_goals first | rfl | omega | (rw [ih]) | simp_all
theorem foldl_setIns (g e : List Nat) (x : Nat) : g.foldl setIns (setIns e x) = setIns (g.foldl setIns e) x := by
  induction g generalizing e with
  | nil => rfl
  | cons j r ih => simp only [List.foldl_cons]; rw [setIns_comm, ih]
theorem foldl_of_setIns (g e : List Nat) (x : Nat) : (setIns g x).foldl setIns e = setIns (g.foldl setIns e) x := by
  induction g generalizing e with
  | nil => rfl
  | cons j r ih =>
    simp only [setIns]
    split
    · simp only [List.foldl_cons]; rw [← foldl_setIns, setIns_comm]
    · split
      · rename_i h; subst h; simp only [List.foldl_cons]; rw [← foldl_setIns, setIns_self]
      · simp only [List.foldl_cons]; exact ih _
/-- Adding a sorted set's members, or the list it was made from, comes to the same. -/
theorem foldl_of_foldl_setIns (l g e : List Nat) :
    (l.foldl setIns g).foldl setIns e = l.foldl setIns (g.foldl setIns e) := by
  induction l generalizing g with
  | nil => rfl
  | cons x r ih => simp only [List.foldl_cons, ih, foldl_of_setIns]
theorem setDel_filter (l : List Nat) (x : Nat) : setDel l x = l.filter (· ≠ x) := by
  induction l with
  | nil => rfl
  | cons j r ih =>
    simp only [setDel]
    split
    · rename_i h; subst h; simp [ih]
    · rename_i h; simp [ih, Ne.symm h]
theorem foldl_setDel (g e : List Nat) (x : Nat) : g.foldl setDel (setDel e x) = setDel (g.foldl setDel e) x := by
  induction g generalizing e with
  | nil => rfl
  | cons j r ih =>
    simp only [List.foldl_cons]; rw [← ih]; congr 1
    simp only [setDel_filter, List.filter_filter]; congr 1; funext y; exact Bool.and_comm ..
theorem setDel_self (e : List Nat) (x : Nat) : setDel (setDel e x) x = setDel e x := by
  simp only [setDel_filter, List.filter_filter, Bool.and_self]
theorem foldl_del_of_setIns (g e : List Nat) (x : Nat) : (setIns g x).foldl setDel e = setDel (g.foldl setDel e) x := by
  induction g generalizing e with
  | nil => rfl
  | cons j r ih =>
    simp only [setIns]
    split
    · simp only [List.foldl_cons]; rw [← foldl_setDel]; congr 1
      simp only [setDel_filter, List.filter_filter]; congr 1; funext y; exact Bool.and_comm ..
    · split
      · rename_i h; subst h; simp only [List.foldl_cons]; rw [← foldl_setDel, setDel_self]
      · simp only [List.foldl_cons]; exact ih _
/-- The same of taking members away. -/
theorem foldl_del_of_foldl_setIns (l g e : List Nat) :
    (l.foldl setIns g).foldl setDel e = l.foldl setDel (g.foldl setDel e) := by
  induction l generalizing g with
  | nil => rfl
  | cons x r ih => simp only [List.foldl_cons, ih, foldl_del_of_setIns]
/-- The touched granules depend on the bytes within the access only. -/
theorem touchedGranules_congr {n : Nat} {f g : Nat → Option Nat} (h : ∀ i, i < n → f i = g i) :
    touchedGranules n f = touchedGranules n g := by
  unfold touchedGranules
  have : ∀ l : List Nat, (∀ i ∈ l, i < n) → l.filterMap f = l.filterMap g := by
    intro l; induction l with
    | nil => intro _; rfl
    | cons i r ih =>
      intro hl
      rw [List.filterMap_cons, List.filterMap_cons, h i (hl i List.mem_cons_self),
        ih fun j hj => hl j (List.mem_cons_of_mem _ hj)]
  rw [this _ fun i hi => List.mem_range.mp hi]
/-- An access's granules, listed byte by byte. -/
theorem LsAcc.granules_eq (a : LsAcc) : a.granules = (touchedGranules a.n a.key).foldl setIns [] := by
  simp only [LsAcc.granules, LsAcc.cells, touchedGranules, List.foldl_map]
  generalize List.range a.n = r
  generalize ([] : List Nat) = e
  induction r generalizing e with
  | nil => rfl
  | cons i r ih =>
    cases h : a.key i with
    | none => simp [List.filterMap_cons, h, ih]
    | some k => simp [List.filterMap_cons, h, ih]
theorem setEmpty_granules (s : State) (a : LsAcc) : s.setEmpty a.granules = s.setEmpty (touchedGranules a.n a.key) := by
  simp only [State.setEmpty, a.granules_eq, foldl_of_foldl_setIns, List.foldl_nil]
theorem setFull_granules (s : State) (a : LsAcc) : s.setFull a.granules = s.setFull (touchedGranules a.n a.key) := by
  simp only [State.setFull, a.granules_eq, foldl_del_of_foldl_setIns, List.foldl_nil]
/-- A granule is an access's exactly when a touched byte lies in it. -/
theorem LsAcc.mem_granules (a : LsAcc) (g : Nat) :
    g ∈ a.granules ↔ ∃ i k, i < a.n ∧ a.key i = some k ∧ k / 16 = g := by
  have h : ∀ (l e : List Nat), g ∈ l.foldl setIns e ↔ g ∈ l ∨ g ∈ e := by
    intro l; induction l with
    | nil => simp
    | cons x r ih => intro e; simp only [List.foldl_cons, ih, mem_setIns, List.mem_cons]; grind
  rw [a.granules_eq, h]
  simp only [touchedGranules, List.mem_map, List.mem_filterMap, List.mem_range, List.not_mem_nil, or_false]
  constructor
  · rintro ⟨k, ⟨i, hi, hk⟩, rfl⟩; exact ⟨i, k, hi, hk, rfl⟩
  · rintro ⟨i, k, hi, hk, rfl⟩; exact ⟨k, ⟨i, hi, hk⟩, rfl⟩

/-! ### Checks -/

theorem inWindow_none {s : State} (h : s.noWindows) (b : Bool) (g : Nat) : s.inWindow s.cur.die b g = false := by
  simp [State.inWindow, show (s.die s.cur.die).xf.windows = [] from h]
theorem loadEarly_none {s : State} (h : s.noWindows) (w c : Bool) (gs : List Nat) :
    s.loadEarly s.cur.die w c gs = false := by simp [State.loadEarly, inWindow_none h]
theorem storeEarly_none {s : State} (h : s.noWindows) (gs : List Nat) : s.storeEarly s.cur.die gs = false := by
  simp [State.storeEarly, inWindow_none h]
theorem offStack_none {l b a n : Nat}
    (h : ∀ j, j < n → (a + j) / 524288 % 128 = 127 ∧ l ≤ (a + j) % 524288 ∧ (a + j) % 524288 < b) :
    offStack l b a n = none := by
  induction n with
  | zero => rfl
  | succ n ih =>
    have h1 := h n (by omega)
    simp only [offStack, ih fun j hj => h j (by omega)]
    rw [if_neg]
    simp only [ne_eq, ge_iff_le, Bool.or_eq_true, decide_eq_true_eq, not_or]; omega
/-- An access that `lsOk` admits passes the stack check. -/
theorem stackCheck_none {s : State} {f : LsForm} {a : LsAcc} {g : Bool} (h : s.lsOk f.port f.base g a.spans) :
    s.stackCheck f a = none := by
  unfold State.stackCheck
  split
  · rename_i hc
    simp only [State.isBallast, Bool.and_eq_true, decide_eq_true_eq, Bool.not_eq_true', Option.isSome_eq_false_iff,
      Option.isNone_iff_eq_none] at hc
    have h2 := h.2 hc.1.1 hc.1.2 hc.2
    have : ∀ l : List (Nat × Nat), (∀ x ∈ l, x ∈ a.spans) →
        (l.map fun x => offStack s.cx.ctl.stkl.toNat s.cx.ctl.stkb.toNat x.1 x.2).foldl lowest none = none := by
      intro l; induction l with
      | nil => intro _; rfl
      | cons x r ih =>
        intro hs
        have hx := offStack_none (h2 x (hs x List.mem_cons_self))
        simp only [List.map_cons, List.foldl_cons, hx, lowest]
        exact ih fun y hy => hs y (List.mem_cons_of_mem _ hy)
    rw [this a.spans fun _ h => h]
  · rfl
/-- The phase check of an access that `lsOk` admits. -/
theorem lsPhase_false {s : State} {f : LsForm} {g : Bool} {spans : List (Nat × Nat)} (h : s.lsOk f.port f.base g spans)
    (hs : s.cx.ballast ≠ none → ∀ a ∈ f.sums s, ∃ x ∈ spans, a / 524288 % 128 = x.1 / 524288 % 128) :
    f.phase g s = false := by
  unfold LsForm.phase State.isBallast
  rcases h.1 with hc | ⟨hb, _, hp, hg, hx⟩
  · simp [hc.1, hc.2]
  · obtain ⟨k, hk⟩ := Option.ne_none_iff_exists'.mp hb
    rw [if_pos (by simp [hk])]
    simp only [hp, hg, Bool.or_eq_false_iff, List.any_eq_false, ne_eq, decide_eq_true_eq, Decidable.not_not]
    refine ⟨⟨by decide, trivial⟩, fun a ha => ?_⟩
    obtain ⟨x, hxs, he⟩ := hs hb a ha
    rw [he]; exact hx x hxs
/-- The access of an aligned, mapped form M. -/
theorem formM_acc {s : State} {pt : LsPort} {base : Src} {off : MOff} {n al k : Nat} {t : Ctx → Nat → Bool}
    (h1 : (s.cx.sval base + off.bytes n).toNat % al = 0)
    (h2 : s.portKey pt (s.cx.sval base + off.bytes n).toNat n = some k) :
    (formM pt base off n al t).acc s = .ok {
      n := n, key := fun i => if t s.cx i then some (k + i) else none
      addr := fun i => (s.cx.sval base + off.bytes n).toNat + i
      spans := [((s.cx.sval base + off.bytes n).toNat, n)] } := by
  simp only [formM, h1, h2, ne_eq, not_true_eq_false, if_false]
theorem formM_phase {s : State} {pt : LsPort} {base : Src} {off : MOff} {n al : Nat} {t : Ctx → Nat → Bool} {g : Bool}
    (h : s.lsOk pt base g [((s.cx.sval base + off.bytes n).toNat, n)]) : (formM pt base off n al t).phase g s = false :=
  lsPhase_false (f := formM pt base off n al t) h fun _ a ha => by
    simp only [formM, List.mem_singleton] at ha; exact ⟨_, List.mem_singleton_self _, by rw [ha]⟩

/-! ### The shared syllables -/

theorem behind_congr {s : State} {gs hs : List Nat} (h : ∀ x, x ∈ gs ↔ x ∈ hs) : s.behind gs = s.behind hs := by
  have e : ∀ x, gs.contains x = hs.contains x := fun x => by
    rw [Bool.eq_iff_iff]; simp [h x]
  unfold State.behind
  congr; funext g
  simp only [show gs.contains = hs.contains from funext e]
theorem behind_granules (s : State) (a : LsAcc) : s.behind a.granules = s.behind (touchedGranules a.n a.key) :=
  behind_congr fun x => by
    rw [a.mem_granules]
    simp only [touchedGranules, List.mem_map, List.mem_filterMap, List.mem_range]
    constructor
    · rintro ⟨i, k, hi, hk, rfl⟩; exact ⟨k, ⟨i, hi, hk⟩, rfl⟩
    · rintro ⟨k, ⟨i, hi, hk⟩, rfl⟩; exact ⟨i, k, hi, hk, rfl⟩
/-- A load whose checks pass reads its bytes (R209). -/
theorem loadSyl_runs {s : State} {g : LsForm} {w c : Bool} {vregs : List Nat} {srcs : List Src} {dest : DFile × Nat}
    {f : State → (Nat → Option Byte) → Ctx → Ctx} {a : LsAcc} (hi : s.issues) (hw : s.noWindows)
    (hv : s.cx.within vregs) (hl : s.cx.holds srcs) (ha : g.acc s = .ok a) (hp : g.phase false s = false)
    (hs : s.stackCheck g a = none) (hb : ∀ i k, i < a.n → a.key i = some k → s.badRead k 1 = false)
    (hf : w = true → ∀ i k, i < a.n → a.key i = some k → s.full (k / 16) = true)
    (hq : w = true → c = true → s.behind (touchedGranules a.n a.key) = false) :
    issueOne (loadSyl g w c vregs srcs dest f) s = .next ((s.under w).bundle fun t =>
      let t1 := { t with cx := f s (fun i => (a.key i).map s.byte) t.cx }
      if c then t1.setEmpty (touchedGranules a.n a.key) else t1) := by
  have hbad : a.cells.any (fun x => s.badRead x.2 1) = false := by
    simp only [LsAcc.cells, List.any_eq_false, List.mem_filterMap, List.mem_range, Option.map_eq_some_iff]
    rintro x ⟨i, hi, k, hk, rfl⟩
    simp [hb i k hi hk]
  have hbt : a.cells.any (fun x => (s.under w).begun.badRead x.2 1) = false := by cases w <;> exact hbad
  have hfull : w = true → a.granules.all s.full = true := by
    intro h
    rw [List.all_eq_true]
    intro x hx
    obtain ⟨i, k, hi, hk, rfl⟩ := (a.mem_granules x).mp hx
    exact hf h i k hi hk
  refine issueOne_under (x := loadSyl g w c vregs srcs dest f)
    (g := fun t => let t1 := { t with cx := f s (fun i => (a.key i).map s.byte) t.cx }
      if c then t1.setEmpty (touchedGranules a.n a.key) else t1) hi
    ⟨rfl, hv, hl, ?_, (fun _ h => by cases h), hp, ?_⟩ ?_ ?_
  · cases h : g.port <;> simp [loadSyl]
  · simp only [loadSyl, LsForm.check, ha, hs, loadRest, loadEarly_none hw, Bool.false_eq_true, if_false]
  · simp only [loadSyl, LsForm.waits]
    cases w with
    | false => rfl
    | true =>
      have k : (c && s.behind a.granules) = false := by
        cases c with
        | false => rfl
        | true => rw [behind_granules, hq rfl rfl]; rfl
      simp only [Bool.not_true, Bool.false_eq_true, if_false, ha, hfull rfl, k, Bool.not_false, Bool.and_self, if_true]
  · simp only [loadSyl, ha, hbt, Bool.false_eq_true, if_false]
    cases c with
    | false => cases w <;> rfl
    | true => simp only [if_true, setEmpty_granules]; cases w <;> rfl

/-! ### Stored bytes -/

theorem keyRuns_nil {l : List (Nat × Byte)} (h : keyRuns l = []) : l = [] := by
  cases l with
  | nil => rfl
  | cons x r =>
    obtain ⟨k, b⟩ := x
    simp only [keyRuns] at h
    split at h
    · cases h
    · split at h <;> cases h
/-- Storing run by run is storing byte by byte. -/
theorem memPut_runs (l : List (Nat × Byte)) (m : List Host.Cell) :
    (keyRuns l).foldl (fun m r => memPut m r.1 r.2) m = l.foldl (fun m x => memSet m x.1 x.2) m := by
  induction l generalizing m with
  | nil => rfl
  | cons x r ih =>
    obtain ⟨k, b⟩ := x
    simp only [keyRuns, List.foldl_cons, ← ih]
    split
    · rename_i h; rw [keyRuns_nil h]; rfl
    · rename_i j bs rs h
      rw [h]
      split
      · rename_i hj; subst hj; rfl
      · rfl
theorem dirtyAt_keeps (s : State) (d k n : Nat) :
    (s.dirtyAt d k n).mem = s.mem ∧ (s.dirtyAt d k n).cx = s.cx ∧ (s.dirtyAt d k n).cur = s.cur ∧
      (s.dirtyAt d k n).ctxs = s.ctxs ∧ (s.dirtyAt d k n).empty = s.empty := by
  unfold State.dirtyAt
  generalize s.waysOf d k n = l
  induction l generalizing s with
  | nil => simp
  | cons w r ih =>
    simp only [List.foldl_cons]
    split
    · obtain ⟨h1, h2, h3, h4, h5⟩ := ih (s.modTr d fun t => { t with ways := tabSet t.ways w (s.way d w).stored })
      exact ⟨h1, h2, h3, h4, h5⟩
    · exact ih s
/-- The memory after a store, byte by byte; and what a store does not change. -/
theorem storeCells_keeps (s : State) (a : LsAcc) (x : Nat) :
    (s.storeCells a x).mem = (a.cells.map fun y => (y.2, BitVec.ofNat 8 (x / 2 ^ (8 * y.1)))).foldl
        (fun m y => memSet m y.1 y.2) s.mem ∧
      (s.storeCells a x).cx = s.cx ∧ (s.storeCells a x).cur = s.cur ∧ (s.storeCells a x).ctxs = s.ctxs ∧
      (s.storeCells a x).empty = s.empty := by
  unfold State.storeCells
  rw [← memPut_runs]
  generalize keyRuns _ = l
  induction l generalizing s with
  | nil => simp
  | cons r l ih =>
    simp only [List.foldl_cons]
    obtain ⟨h1, h2, h3, h4, h5⟩ := ih ((s.put r.1 r.2).dirtyAt s.cur.die r.1 r.2.length)
    obtain ⟨k1, k2, k3, k4, k5⟩ := dirtyAt_keeps (s.put r.1 r.2) s.cur.die r.1 r.2.length
    rw [k1] at h1; rw [k2] at h2; rw [k3] at h3; rw [k4] at h4; rw [k5] at h5
    exact ⟨h1, h2, h3, h4, h5⟩
theorem memGet_foldl_other (l : List (Nat × Byte)) (m : List Host.Cell) (a : Nat) (h : ∀ y ∈ l, y.1 ≠ a) :
    memGet (l.foldl (fun m y => memSet m y.1 y.2) m) a = memGet m a := by
  induction l generalizing m with
  | nil => rfl
  | cons y r ih =>
    rw [List.foldl_cons, ih _ fun z hz => h z (List.mem_cons_of_mem _ hz),
      memGet_memSet_other _ _ (Ne.symm (h y List.mem_cons_self))]
/-- A byte that no stored place holds reads as before. -/
theorem storeCells_other (s : State) (a : LsAcc) (x k : Nat) (h : ∀ i, i < a.n → a.key i ≠ some k) :
    (s.storeCells a x).byte k = s.byte k := by
  unfold State.byte
  rw [(storeCells_keeps s a x).1, memGet_foldl_other]
  intro y hy
  simp only [LsAcc.cells, List.map_filterMap, List.mem_filterMap, List.mem_range, Option.map_map,
    Option.map_eq_some_iff] at hy
  obtain ⟨i, hi, j, hj, rfl⟩ := hy
  intro e
  exact h i hi (by rw [hj]; exact congrArg some e)
/-- The last place stored at a key gives the byte there. -/
theorem storeCells_at (s : State) (a : LsAcc) (x i k : Nat) (hi : i < a.n) (hk : a.key i = some k)
    (hl : ∀ j, i < j → j < a.n → a.key j ≠ some k) :
    (s.storeCells a x).byte k = BitVec.ofNat 8 (x / 2 ^ (8 * i)) := by
  unfold State.byte
  rw [(storeCells_keeps s a x).1]
  obtain ⟨m, hm⟩ : ∃ m, a.n = i + 1 + m := ⟨a.n - (i + 1), by omega⟩
  have e : List.range a.n = List.range i ++ [i] ++ (List.range m).map (i + 1 + ·) := by
    rw [hm, List.range_add, List.range_succ]
  simp only [LsAcc.cells, e, List.filterMap_append, List.map_append, List.foldl_append]
  rw [memGet_foldl_other]
  · simp [hk]
  · intro y hy
    simp only [List.map_filterMap, List.filterMap_map, List.mem_filterMap, List.mem_range, Function.comp_apply,
      Option.map_map, Option.map_eq_some_iff] at hy
    obtain ⟨j, hj, z, hz, rfl⟩ := hy
    intro e
    exact hl (i + 1 + j) (by omega) (by omega) (by rw [hz]; exact congrArg some e)

/-- The checks of a store outside carry windows, replayable nodes and filling frames. -/
theorem storeRest_none {s : State} {pt : LsPort} {a : LsAcc} (hw : s.noWindows) (hn : s.noNode)
    (hf : pt = .wy → ∀ i k, i < a.n → a.key i = some k → s.fillingAt s.cur.die k 1 = false) :
    storeRest pt s a = none := by
  have h1 : ∀ (x : Nat × Nat), s.cx.nodeCheck pt.slot x.2 1 (a.addr x.1) = none := by
    intro x
    unfold Ctx.nodeCheck
    split
    · rfl
    · rename_i it h; simp [hn it h]
  have h2 : (pt = .wy && a.cells.any fun x => s.fillingAt s.cur.die x.2 1) = false := by
    rw [Bool.and_eq_false_iff]
    cases pt with
    | ls => left; rfl
    | wy =>
      right
      simp only [LsAcc.cells, List.any_eq_false, List.mem_filterMap, List.mem_range, Option.map_eq_some_iff]
      rintro x ⟨i, hi, k, hk, rfl⟩
      simp [hf rfl i k hi hk]
  have h3 : ∀ l : List (Nat × Nat), firstTrap (fun x => s.cx.nodeCheck pt.slot x.2 1 (a.addr x.1)) l = none := by
    intro l; induction l with
    | nil => rfl
    | cons x r ih => simp only [firstTrap, h1 x]; exact ih
  simp only [storeRest, storeEarly_none hw, h3, Bool.false_eq_true, if_false]
  rw [if_neg]
  simpa using h2
/-- A store waits for no parked write unless it is a release (R278, R370). -/
theorem releaseWaits_none {s : State} {f : Bool} (h : f = true → s.myParked = false) : releaseWaits f s = none := by
  cases f with
  | false => rfl
  | true => simp [releaseWaits, h rfl]
/-- A store whose checks pass stores its bytes (R209). -/
theorem storeSyl_runs {s : State} {g : LsForm} {full : Bool} {vregs : List Nat} {srcs : List Src} {f : Ctx → Nat}
    {a : LsAcc} (hi : s.issues) (hv : s.cx.within vregs) (hl : s.cx.holds srcs) (ha : g.acc s = .ok a)
    (hp : g.phase false s = false) (hs : s.stackCheck g a = none) (hr : storeRest g.port s a = none)
    (hm : full = true → s.myParked = false) :
    issueOne (storeSyl g full vregs srcs f) s = .next ((s.under full).bundle fun t =>
      let t1 := t.storeCells a (f s.cx)
      if full then t1.setFull (touchedGranules a.n a.key) else t1) := by
  refine issueOne_under (x := storeSyl g full vregs srcs f)
    (g := fun t => let t1 := t.storeCells a (f s.cx)
      if full then t1.setFull (touchedGranules a.n a.key) else t1) hi
    ⟨rfl, hv, hl, ?_, (fun _ h => by cases h), hp, ?_⟩ (releaseWaits_none hm) ?_
  · cases h : g.port <;> simp [storeSyl]
  · simp only [storeSyl, LsForm.check, ha, hs, hr]
  · simp only [storeSyl, ha]
    cases full with
    | false => rfl
    | true => simp only [if_true, setFull_granules]

end Sys2Proof.Machine
end

