-- ==== Sys2Proof/Laws/Access.lean ====
section
/-! SUPPORT. Which region an access touches, which Trellis ways a store marks, and the loads and stores of the LS and WY
slots as `State.loads` and `State.stores` say them. -/

namespace Sys2Proof.Machine
/-! ### Trellis ways that a store marks dirty (R73) -/

theorem mem_waysOf {s : State} {d k n w : Nat} :
    w ∈ s.waysOf d k n ↔ 0 < n ∧ k / 1099511627776 = d * 16 + 2 ∧
      ∃ b, k % 1099511627776 / 2048 ≤ b ∧ b ≤ (k % 1099511627776 + n - 1) / 2048 ∧
        s.wayAt d (b * 2048 / 4194304) (b * 2048 % 4194304) = some w := by
  unfold State.waysOf
  by_cases h0 : n = 0
  · simp [h0]
  by_cases h1 : k / 1099511627776 = d * 16 + 2
  · simp only [h0, h1, decide_false, ne_eq, not_true_eq_false, Bool.or_self, Bool.false_eq_true, if_false,
      List.mem_filterMap, mem_numsFrom, true_and]
    have e : (k % 1099511627776) / 2048 ≤ (k % 1099511627776 + n - 1) / 2048 := Nat.div_le_div_right (by omega)
    constructor
    · rintro ⟨b, ⟨h2, h3⟩, h4⟩; exact ⟨by omega, b, h2, by omega, h4⟩
    · rintro ⟨-, b, h2, h3, h4⟩; exact ⟨b, ⟨h2, by omega⟩, h4⟩
  · simp [h0, h1]
/-- The ways of bytes of one region are the ways of each. -/
theorem waysOf_bytes {s : State} {d k n w : Nat} (h : k % 1099511627776 + n ≤ 1099511627776) :
    w ∈ s.waysOf d k n ↔ ∃ i, i < n ∧ w ∈ s.waysOf d (k + i) 1 := by
  simp only [mem_waysOf]
  constructor
  · rintro ⟨h0, h1, b, h2, h3, h4⟩
    refine ⟨if b * 2048 ≤ k % 1099511627776 then 0 else b * 2048 - k % 1099511627776, ?_, by omega, ?_, b, ?_, ?_, h4⟩
    all_goals (split <;> omega)
  · rintro ⟨i, hi, -, h1, b, h2, h3, h4⟩
    exact ⟨by omega, by omega, b, by omega, by omega, h4⟩
theorem die_modTr (s : State) (d : Nat) (f : DieTrellis → DieTrellis) :
    ((s.modTr d f).die d).tr = if d < 8 then f (s.die d).tr else (s.die d).tr := by
  by_cases h : d < 8
  · simp [h]
  · simp [h, State.modTr, State.die, State.modDie]
theorem Way.stored_stored (y : Way) : y.stored.stored = y.stored := by
  unfold Way.stored
  by_cases h : y.st = .clean
  · simp [h]
  · by_cases h2 : y.st = .writing <;> simp [h, h2]
theorem Way.stored_same {y : Way} (h1 : ¬ (y.st = .clean ∨ y.st = .writing)) : y.stored = y := by
  simp only [not_or] at h1; simp [Way.stored, h1.1, h1.2]
/-- Marking a list of ways: each is as `Way.stored` says, and nothing else of the ways changes. -/
theorem dirtyWays (l : List Nat) (s : State) (d : Nat) :
    let t := l.foldl (fun s w => let y := s.way d w
      if y.st = .clean || y.st = .writing then s.modTr d fun t => { t with ways := tabSet t.ways w y.stored } else s) s
    (∀ w, t.way d w = if w ∈ l then (s.way d w).stored else s.way d w) ∧ (t.die d).tr.mask = (s.die d).tr.mask ∧
      (t.die d).tr.p = (s.die d).tr.p ∧ t.cur = s.cur := by
  induction l generalizing s with
  | nil => simp
  | cons v l ih =>
    simp only [List.foldl_cons]
    by_cases hv : (s.way d v).st = .clean ∨ (s.way d v).st = .writing
    · have hd : d < 8 := by
        apply Decidable.byContradiction; intro hd
        have : s.die d = Die.reset := by simp [State.die, hd]
        have e : s.way d v = Way.empty := by rw [State.way, this]; rfl
        rw [e] at hv; simp [Way.empty] at hv
      rw [if_pos (by simpa using hv)]
      obtain ⟨h1, h2, h3, h4⟩ := ih (s.modTr d fun t => { t with ways := tabSet t.ways v (s.way d v).stored })
      have hm := die_modTr s d fun t => { t with ways := tabSet t.ways v (s.way d v).stored }
      rw [if_pos hd] at hm
      have hw : ∀ w, (s.modTr d fun t => { t with ways := tabSet t.ways v (s.way d v).stored }).way d w =
          if w = v then (s.way d v).stored else s.way d w := by
        intro w; rw [State.way, hm]
        by_cases hwv : w = v
        · subst hwv; simp
        · rw [if_neg hwv, tabGetD_tabSet_other _ _ _ hwv]; rfl
      refine ⟨fun w => ?_, by rw [h2, hm], by rw [h3, hm], h4⟩
      rw [h1, hw]
      by_cases hwv : w = v
      · subst hwv; simp [Way.stored_stored]
      · simp [hwv]
    · rw [if_neg (by simpa using hv)]
      obtain ⟨h1, h2, h3, h4⟩ := ih s
      refine ⟨fun w => ?_, h2, h3, h4⟩
      rw [h1]
      by_cases hwv : w = v
      · subst hwv; simp [Way.stored_same hv]
      · simp [hwv]
theorem waysOf_congr {s t : State} {d : Nat} (h1 : (t.die d).tr.mask = (s.die d).tr.mask) (h2 : (t.die d).tr.p = (s.die d).tr.p)
    (k n : Nat) : t.waysOf d k n = s.waysOf d k n := by
  have e : ∀ v o, t.wayAt d v o = s.wayAt d v o := by intro v o; simp only [State.wayAt, h1, h2, DieTrellis.first]; rfl
  simp only [State.waysOf, e]
/-- The runs cover the cells and nothing else. -/
theorem keyRuns_covers (l : List (Nat × Byte)) (a : Nat) :
    (∃ r ∈ keyRuns l, r.1 ≤ a ∧ a < r.1 + r.2.length) ↔ ∃ x ∈ l, x.1 = a := by
  induction l with
  | nil => simp [keyRuns]
  | cons x r ih =>
    obtain ⟨k, b⟩ := x
    simp only [keyRuns, List.mem_cons, exists_eq_or_imp, ← ih]
    split
    · rename_i h; simp [h]; omega
    · rename_i j bs rs h
      rw [h]
      split
      · rename_i hj; subst hj
        simp only [List.mem_cons, exists_eq_or_imp, List.length_cons, ← or_assoc]
        refine or_congr ?_ Iff.rfl
        omega
      · simp only [List.mem_cons, exists_eq_or_imp, List.length_singleton]
        refine or_congr ?_ Iff.rfl
        omega
theorem die_put (s : State) (k : Nat) (bs : List Byte) (d : Nat) : (s.put k bs).die d = s.die d := rfl
/-- The ways after a list of runs of bytes, each within a region, is stored. -/
theorem storeRuns_ways (l : List (Nat × List Byte)) (s : State)
    (h : ∀ r ∈ l, r.1 % 1099511627776 + r.2.length ≤ 1099511627776) (w : Nat) :
    let t := l.foldl (fun s r => (s.put r.1 r.2).dirtyAt s.cur.die r.1 r.2.length) s
    let hit := ∃ r ∈ l, ∃ i, i < r.2.length ∧ w ∈ s.waysOf s.cur.die (r.1 + i) 1
    (hit → t.way s.cur.die w = (s.way s.cur.die w).stored) ∧ (¬ hit → t.way s.cur.die w = s.way s.cur.die w) := by
  induction l generalizing s with
  | nil => simp
  | cons r l ih =>
    simp only [List.foldl_cons]
    obtain ⟨h1, h2, h3, h4⟩ := dirtyWays ((s.put r.1 r.2).waysOf s.cur.die r.1 r.2.length) (s.put r.1 r.2) s.cur.die
    have hk : ((s.put r.1 r.2).dirtyAt s.cur.die r.1 r.2.length).cur = s.cur := h4
    have i1 := ih ((s.put r.1 r.2).dirtyAt s.cur.die r.1 r.2.length) fun x hx => h x (by simp [hx])
    have hw1 : ((s.put r.1 r.2).dirtyAt s.cur.die r.1 r.2.length).way s.cur.die w =
      if w ∈ s.waysOf s.cur.die r.1 r.2.length then (s.way s.cur.die w).stored else s.way s.cur.die w := h1 w
    have hwo : ∀ k n, ((s.put r.1 r.2).dirtyAt s.cur.die r.1 r.2.length).waysOf s.cur.die k n = s.waysOf s.cur.die k n :=
      fun k n => (waysOf_congr h2 h3 k n).trans (waysOf_congr rfl rfl k n)
    have hb := waysOf_bytes (s := s) (d := s.cur.die) (w := w) (h r (by simp))
    simp only [hk, hwo] at i1
    obtain ⟨i1, i2⟩ := i1
    simp only [List.mem_cons, exists_eq_or_imp, ← hb]
    rw [hw1] at i1 i2
    by_cases hr1 : w ∈ s.waysOf s.cur.die r.1 r.2.length
    · rw [if_pos hr1] at i1 i2
      refine ⟨fun _ => ?_, fun hn => absurd (.inl hr1) hn⟩
      by_cases hr : ∃ r ∈ l, ∃ i, i < r.2.length ∧ w ∈ s.waysOf s.cur.die (r.1 + i) 1
      · rw [i1 hr, Way.stored_stored]
      · exact i2 hr
    · rw [if_neg hr1] at i1 i2
      exact ⟨fun h => i1 (h.resolve_left hr1), fun hn => i2 fun q => hn (.inr q)⟩
/-- The ways after a store whose bytes lie in one region. -/
theorem storeCells_ways (s : State) (a : LsAcc) (x r : Nat) (h : ∀ i k, i < a.n → a.key i = some k → k / 1099511627776 = r)
    (w : Nat) :
    let hit := ∃ i k, i < a.n ∧ a.key i = some k ∧ w ∈ s.waysOf s.cur.die k 1
    (hit → (s.storeCells a x).way s.cur.die w = (s.way s.cur.die w).stored) ∧
      (¬ hit → (s.storeCells a x).way s.cur.die w = s.way s.cur.die w) := by
  have hc : ∀ y, (∃ z ∈ a.cells.map fun y => (y.2, BitVec.ofNat 8 (x / 2 ^ (8 * y.1))), z.1 = y) ↔ ∃ i, i < a.n ∧ a.key i = some y := by
    intro y
    simp only [LsAcc.cells, List.mem_map, List.mem_filterMap, List.mem_range, Option.map_eq_some_iff]
    constructor
    · rintro ⟨z, ⟨p, ⟨i, hi, k, hk, rfl⟩, rfl⟩, rfl⟩; exact ⟨i, hi, hk⟩
    · rintro ⟨i, hi, hk⟩; exact ⟨_, ⟨(i, y), ⟨i, hi, y, hk, rfl⟩, rfl⟩, rfl⟩
  have hcov := fun y => (keyRuns_covers (a.cells.map fun y => (y.2, BitVec.ofNat 8 (x / 2 ^ (8 * y.1)))) y).trans (hc y)
  have hr := storeRuns_ways (keyRuns (a.cells.map fun y => (y.2, BitVec.ofNat 8 (x / 2 ^ (8 * y.1))))) s ?_ w
  · have he : (∃ r ∈ keyRuns (a.cells.map fun y => (y.2, BitVec.ofNat 8 (x / 2 ^ (8 * y.1)))), ∃ i, i < r.2.length ∧ w ∈ s.waysOf s.cur.die (r.1 + i) 1) ↔
      ∃ i k, i < a.n ∧ a.key i = some k ∧ w ∈ s.waysOf s.cur.die k 1 := by
      constructor
      · rintro ⟨q, hq, i, hi, hw⟩
        obtain ⟨j, hj, hk⟩ := (hcov (q.1 + i)).mp ⟨q, hq, by omega, by omega⟩
        exact ⟨j, _, hj, hk, hw⟩
      · rintro ⟨i, k, hi, hk, hw⟩
        obtain ⟨q, hq, h1, h2⟩ := (hcov k).mpr ⟨i, hi, hk⟩
        exact ⟨q, hq, k - q.1, by omega, by rw [show q.1 + (k - q.1) = k by omega]; exact hw⟩
    simp only [he] at hr
    exact hr
  · intro q hq
    by_cases hl : q.2.length = 0
    · have := Nat.mod_lt q.1 (show 0 < 1099511627776 by decide); omega
    · obtain ⟨i, hi, hk⟩ := (hcov q.1).mp ⟨q, hq, by omega, by omega⟩
      obtain ⟨j, hj, hk2⟩ := (hcov (q.1 + (q.2.length - 1))).mp ⟨q, hq, by omega, by omega⟩
      have e1 := h i _ hi hk
      have e2 := h j _ hj hk2
      omega

/-! ### The region of a port's bytes -/

theorem regionKey_div {d r o : Nat} (h : o < 1099511627776) : regionKey d r o / 1099511627776 = d * 16 + r := by
  unfold regionKey; omega
theorem coreAlive_lt {s : State} {d c : Nat} (h : s.coreAlive d c = true) : c < 576 := by
  unfold State.coreAlive at h
  split at h
  · simp at h
  · rename_i p hp
    apply Decidable.byContradiction; intro hc
    have : ¬ c / 96 < 6 := by omega
    simp [this] at h
theorem vaultAlive_lt {s : State} {d v : Nat} (h : s.vaultAlive d v = true) : v < 72 := by
  unfold State.vaultAlive at h
  split at h
  · simp at h
  · simp only [Bool.and_eq_true] at h
    exact BitVec.lt_of_getLsbD h.2
/-- The bytes of an LS access lie in the scratchpads of the context's die. -/
theorem lsKey_region {s : State} {a n k i : Nat} (h : s.lsKey a n = some k) (hc : s.cx.ballast = none ∨ s.cur.core < 576)
    (hi : i < n) : (k + i) / 1099511627776 = s.cur.die * 16 := by
  unfold State.lsKey at h
  simp only at h
  have hs : ∀ d c, s.spLimit d c ≤ 393216 := by intro d c; unfold State.spLimit spBytes; omega
  generalize (if a / 524288 % 128 = 127 then s.cur.core else s.cur.core / 96 * 96 + a / 524288 % 128) = c at h
  by_cases h1 : a / 67108864 = 0
  · rw [if_neg (by simpa using h1)] at h
    by_cases h2 : a / 524288 % 128 = 126
    · rw [if_pos h2] at h
      cases hb : s.cx.ballast with
      | none => rw [hb] at h; cases h
      | some j =>
        rw [hb] at h hc
        have hc : s.cur.core < 576 := hc.resolve_left fun q => by cases q
        simp only at h
        by_cases h3 : a % 524288 + n ≤ 16384
        · rw [if_pos h3] at h; cases h; unfold spKey regionKey spBytes; omega
        · rw [if_neg h3] at h; cases h
    · rw [if_neg h2] at h
      by_cases h3 : a % 524288 + n > s.spLimit s.cur.die c
      · rw [if_pos h3] at h; split at h <;> cases h
      · rw [if_neg h3] at h
        by_cases h4 : s.coreAlive s.cur.die c = true
        · rw [h4] at h
          have := coreAlive_lt h4
          have := hs s.cur.die c
          simp only [Bool.not_true, Bool.false_eq_true, if_false] at h
          split at h
          · cases h
          · cases h; unfold spKey regionKey; omega
        · simp only [Bool.not_eq_true] at h4; rw [h4] at h; simp at h
  · rw [if_pos h1] at h; cases h
/-- The bytes of a WY access lie in the vaults of the context's die. -/
theorem wyKey_region {s : State} {a n k i : Nat} (h : s.wyKey a n = some k) (hi : i < n) :
    (k + i) / 1099511627776 = s.cur.die * 16 + 2 := by
  unfold State.wyKey at h
  simp only at h
  generalize (if a / 4194304 % 256 = 255 then ownVault s.cur.core else a / 4194304 % 256) = u at h
  by_cases h1 : s.vaultAlive s.cur.die u = true
  · have := vaultAlive_lt h1
    rw [h1] at h
    simp only [Bool.not_true, Bool.false_eq_true, if_false] at h
    by_cases h2 : a % 4194304 + n > 4194304
    · rw [if_pos h2] at h; repeat' split at h
      all_goals cases h
    · rw [if_neg h2] at h
      repeat' split at h
      all_goals cases h
      unfold vaultKey regionKey; omega
  · simp only [Bool.not_eq_true] at h1; rw [h1] at h; simp at h
/-- A port's bytes lie in one region: of the scratchpads, or of the vaults. -/
theorem portKey_region {s : State} {pt : LsPort} {a n k i : Nat} (h : s.portKey pt a n = some k)
    (hc : s.cx.ballast = none ∨ s.cur.core < 576) (hi : i < n) :
    (k + i) / 1099511627776 = s.cur.die * 16 + (if pt = .ls then 0 else 2) := by
  unfold State.portKey at h
  split at h
  · cases h
  · cases pt with
    | ls => exact lsKey_region h hc hi
    | wy => exact wyKey_region h hi
/-- A store to scratchpads changes no die's tables. -/
theorem storeCells_dies (s : State) (a : LsAcc) (x : Nat)
    (h : ∀ i k, i < a.n → a.key i = some k → k / 1099511627776 = s.cur.die * 16) : (s.storeCells a x).dies = s.dies := by
  have hcov := keyRuns_covers (a.cells.map fun y => (y.2, BitVec.ofNat 8 (x / 2 ^ (8 * y.1))))
  have hz : ∀ r ∈ keyRuns (a.cells.map fun y => (y.2, BitVec.ofNat 8 (x / 2 ^ (8 * y.1)))), r.2.length = 0 ∨ r.1 / 1099511627776 = s.cur.die * 16 := by
    intro r hr
    by_cases hl : r.2.length = 0
    · exact .inl hl
    · right
      obtain ⟨z, hz, he⟩ := (hcov r.1).mp ⟨r, hr, by omega, by omega⟩
      simp only [LsAcc.cells, List.mem_map, List.mem_filterMap, List.mem_range, Option.map_eq_some_iff] at hz
      obtain ⟨p, ⟨i, hi, k, hk, rfl⟩, rfl⟩ := hz
      rw [← he]; exact h i _ hi hk
  unfold State.storeCells
  revert hz
  generalize keyRuns _ = l
  have : ∀ (l : List (Nat × List Byte)) (t : State), t.cur = s.cur → (∀ r ∈ l, r.2.length = 0 ∨ r.1 / 1099511627776 = s.cur.die * 16) →
      (l.foldl (fun s r => (s.put r.1 r.2).dirtyAt s.cur.die r.1 r.2.length) t).dies = t.dies := by
    intro l
    induction l with
    | nil => intro t _ _; rfl
    | cons r l ih =>
      intro t ht hz
      have e : (t.put r.1 r.2).dirtyAt t.cur.die r.1 r.2.length = t.put r.1 r.2 := by
        unfold State.dirtyAt State.waysOf
        rw [ht]
        rcases hz r (by simp) with h0 | h0
        · simp [h0]
        · simp [h0]
      rw [List.foldl_cons, e, ih (t.put r.1 r.2) ht fun q hq => hz q (by simp [hq])]
      rfl
  exact this l s rfl

/-! ### Gathered bytes -/

theorem slice_byte (v : Vec) (i : Nat) : (vbyte v i).toNat = v.toNat / 2 ^ (8 * i) % 256 := by
  simp [vbyte, slice, BitVec.extractLsb'_toNat, Nat.shiftRight_eq_div_pow]
theorem leNat_get (bs : List Byte) (i : Nat) : leNat bs / 2 ^ (8 * i) % 256 = (bs.getD i 0).toNat := by
  induction bs generalizing i with
  | nil => simp [leNat]
  | cons b bs ih =>
    cases i with
    | zero => simp only [leNat, Nat.mul_zero, Nat.pow_zero, Nat.div_one, List.getD_cons_zero]; have := b.isLt; omega
    | succ i =>
      have e : 2 ^ (8 * (i + 1)) = 256 * 2 ^ (8 * i) := by rw [Nat.mul_succ, Nat.pow_add, Nat.mul_comm]
      have hb : b.toNat < 256 := b.isLt
      rw [e, ← Nat.div_div_eq_div_mul, leNat, Nat.add_mul_div_left _ _ (by decide), Nat.div_eq_of_lt hb, Nat.zero_add, ih]
      simp
/-- Each byte of a vector gathered from bytes. -/
theorem vbyte_gather (b : Nat → Option Byte) (d : Nat → Byte) {i : Nat} (h : i < 256) :
    vbyte (BitVec.ofNat 2048 (gatherBytes b d 256)) i = (b i).getD (d i) := by
  apply BitVec.eq_of_toNat_eq
  rw [slice_byte, BitVec.toNat_ofNat, gatherBytes]
  have := mod_div_mod (leNat ((List.range 256).map fun i => (b i).getD (d i))) 8 i (by omega)
  rw [show (256 : Nat) = 2 ^ 8 from rfl] at *
  rw [this, show (2 : Nat) ^ 8 = 256 from rfl, leNat_get]
  have hi : i < 256 := h
  rw [List.getD_eq_getElem?_getD, List.getElem?_map, List.getElem?_range hi]
  rfl

/-! ### The shared syllables, with a tile form's swap -/

theorem tileSwap_bundle {s : State} {pt : LsPort} {h : Fin 4} {sw : Bool} {y : Syl} {g : State → State} (hi : s.issues)
    (hc : y.Clear s) (hb : y.blocks s = none) (h0 : y.swap = none)
    (hp : ∀ e : Env, e.pre = s → y.perform e (s.under (y.orders s)).begun = .ok { st := g (s.under (y.orders s)).begun }) :
    issueOne (tileSwap pt h sw y) s = .next ((s.under (y.orders s)).bundle fun t =>
      { g t with cx := (g t).cx.swapped (if sw then some (pt.shapeIdx h) else none) }) := by
  cases sw with
  | false => exact issueOne_under (x := y) (g := fun t => g t) hi hc hb (hp _ rfl)
  | true =>
    refine issueOne_under (x := tileSwap pt h true y) (g := fun t => { g t with cx := (g t).cx.swapShape (pt.shapeIdx h) }) hi
      ⟨hc.legal, hc.caps, hc.held, hc.plain, hc.owned, hc.inPhase, hc.checked⟩ hb ?_
    simp only [tileSwap, Bool.not_true, Bool.false_eq_true, if_false]
    rw [hp _ rfl]

/-- A load whose checks pass is clear, waits for nothing, and reads its bytes. -/
theorem loadSyl_ready {s : State} {g : LsForm} {w c : Bool} {vregs : List Nat} {srcs : List Src} {dest : DFile × Nat}
    {f : State → (Nat → Option Byte) → Ctx → Ctx} {a : LsAcc} (hw : s.noWindows)
    (hv : s.cx.within vregs) (hl : s.cx.holds srcs) (ha : g.acc s = .ok a) (hp : g.phase false s = false)
    (hs : s.stackCheck g a = none) (hb : ∀ i k, i < a.n → a.key i = some k → s.badRead k 1 = false)
    (hf : w = true → ∀ i k, i < a.n → a.key i = some k → s.full (k / 16) = true)
    (hq : w = true → c = true → s.behind (touchedGranules a.n a.key) = false) :
    (loadSyl g w c vregs srcs dest f).Clear s ∧ (loadSyl g w c vregs srcs dest f).blocks s = none ∧
    ∀ e : Env, e.pre = s → (loadSyl g w c vregs srcs dest f).perform e (s.under w).begun = .ok {
      st := (fun (t1 : State) => if c then t1.setEmpty (touchedGranules a.n a.key) else t1)
          { (s.under w).begun with cx := f s (fun i => (a.key i).map s.byte) (s.under w).begun.cx } } := by
  have hbad0 : a.cells.any (fun x => s.badRead x.2 1) = false := by
    simp only [LsAcc.cells, List.any_eq_false, List.mem_filterMap, List.mem_range, Option.map_eq_some_iff]
    rintro x ⟨i, hi, k, hk, rfl⟩
    simp [hb i k hi hk]
  have hbad : a.cells.any (fun x => (s.under w).begun.badRead x.2 1) = false := by cases w <;> exact hbad0
  have hfull : w = true → a.granules.all s.full = true := by
    intro h
    rw [List.all_eq_true]
    intro x hx
    obtain ⟨i, k, hi, hk, rfl⟩ := (a.mem_granules x).mp hx
    exact hf h i k hi hk
  refine ⟨⟨rfl, hv, hl, ?_, (fun _ h => by cases h), hp, ?_⟩, ?_, ?_⟩
  · cases h : g.port <;> simp [loadSyl]
  · simp only [loadSyl, LsForm.check, ha, hs, loadRest, loadEarly_none hw, Bool.false_eq_true, if_false]
  · simp only [loadSyl, LsForm.waits]
    cases w with
    | false => rfl
    | true =>
      have k : (c && s.behind a.granules) = false := by
        cases c with
        | false => rfl
        | true => rw [behind_granules, hq rfl rfl]; rfl
      simp only [Bool.not_true, Bool.false_eq_true, if_false, ha, hfull rfl, k, Bool.not_false, Bool.and_self, if_true]
  · rintro e rfl
    simp only [loadSyl, ha, hbad, Bool.false_eq_true, if_false]
    cases c with
    | false => cases w <;> rfl
    | true => simp only [if_true, setEmpty_granules]; cases w <;> rfl
/-- The same of a store. -/
theorem storeSyl_ready {s : State} {g : LsForm} {full : Bool} {vregs : List Nat} {srcs : List Src} {f : Ctx → Nat}
    {a : LsAcc} (hv : s.cx.within vregs) (hl : s.cx.holds srcs) (ha : g.acc s = .ok a)
    (hp : g.phase false s = false) (hs : s.stackCheck g a = none) (hr : storeRest g.port s a = none)
    (hm : full = true → s.myParked = false) :
    (storeSyl g full vregs srcs f).Clear s ∧ (storeSyl g full vregs srcs f).blocks s = none ∧
    ∀ e : Env, e.pre = s → (storeSyl g full vregs srcs f).perform e (s.under full).begun = .ok {
      st := (fun (t1 : State) => if full then t1.setFull (touchedGranules a.n a.key) else t1)
          ((s.under full).begun.storeCells a (f s.cx)) } := by
  refine ⟨⟨rfl, hv, hl, ?_, (fun _ h => by cases h), hp, ?_⟩, releaseWaits_none hm, ?_⟩
  · cases h : g.port <;> simp [storeSyl]
  · simp only [storeSyl, LsForm.check, ha, hs, hr]
  · rintro e rfl
    simp only [storeSyl, ha]
    cases full with
    | false => rfl
    | true => simp only [if_true, setFull_granules]
/-- A vector load whose checks pass, as `State.loads` says it (R209, R214, R215). -/
theorem vectorLoad_loads {s : State} {g : LsForm} {d : Fin 48} {vs : List Nat} {w c sw : Bool} {h : Fin 4}
    {keep : State → Nat → Byte} {a : LsAcc} {key : Nat → Option Nat} {old : Nat → Byte} (hi : s.issues) (hw : s.noWindows)
    (hv : s.cx.within (d.val :: vs)) (hl : s.cx.holds [g.base]) (ha : g.acc s = .ok a) (hn : a.n = 256)
    (hp : g.phase false s = false) (hs : s.stackCheck g a = none)
    (hk : ∀ i, i < 256 → a.key i = key i) (ho : ∀ i, i < 256 → key i = none → keep s i = old i)
    (hb : ∀ i k, i < 256 → key i = some k → s.badRead k 1 = false)
    (hf : w = true → ∀ i k, i < 256 → key i = some k → s.full (k / 16) = true)
    (hq : w = true → c = true → s.behind (touchedGranules 256 key) = false) :
    s.loads g.port d w c (if sw then some (g.port.shapeIdx h) else none) key old
      (issueOne (tileSwap g.port h sw (vectorLoad g d vs w c keep)) s) := by
  obtain ⟨h1, h2, h3⟩ := loadSyl_ready (w := w) (c := c) (dest := (.v, d.val)) (f := fun pre b x =>
    x.outV g.port.latch (some d) (BitVec.ofNat 2048 (gatherBytes b (keep pre) 256))) hw hv hl ha hp hs
    (fun i k hi hk2 => hb i k (by omega) (by rw [← hk i (by omega)]; exact hk2))
    (fun hW i k hi hk2 => hf hW i k (by omega) (by rw [← hk i (by omega)]; exact hk2))
    (fun hW hC => by rw [hn, touchedGranules_congr hk]; exact hq hW hC)
  have hg : touchedGranules a.n a.key = touchedGranules 256 key := by rw [hn]; exact touchedGranules_congr hk
  refine ⟨BitVec.ofNat 2048 (gatherBytes (fun i => (a.key i).map s.byte) (keep s) 256),
    (tileSwap_bundle (g := fun t => (fun (t1 : State) => if c then t1.setEmpty (touchedGranules a.n a.key) else t1)
          { t with
            cx := t.cx.outV g.port.latch (some d)
              (BitVec.ofNat 2048 (gatherBytes (fun i => (a.key i).map s.byte) (keep s) 256)) }) hi h1 h2 rfl h3).trans ?_, fun i hi => ?_⟩
  · rw [hg]; cases c <;> rfl
  · rw [vbyte_gather _ _ hi, hk i hi]
    cases hx : key i with
    | none => exact ho i hi hx
    | some k => rfl
/-- A store whose checks pass, as `State.stores` says it (R73, R78, R209). -/
theorem storeSyl_stores {s : State} {g : LsForm} {full sw : Bool} {h : Fin 4} {vregs : List Nat} {srcs : List Src}
    {f : Ctx → Nat} {a : LsAcc} {n : Nat} {key : Nat → Option Nat} {data : Nat → Byte} (hi : s.issues)
    (hv : s.cx.within vregs) (hl : s.cx.holds srcs) (ha : g.acc s = .ok a) (hn : a.n = n)
    (hp : g.phase false s = false) (hs : s.stackCheck g a = none) (hr : storeRest g.port s a = none)
    (hm : full = true → s.myParked = false) (hk : ∀ i, i < n → a.key i = key i) (hd : ∀ i, i < n → BitVec.ofNat 8 (f s.cx / 2 ^ (8 * i)) = data i)
    (hg : ∀ i k, i < n → key i = some k → k / 1099511627776 = s.cur.die * 16 + (if g.port = .ls then 0 else 2)) :
    s.stores g.port full (if sw then some (g.port.shapeIdx h) else none) n key data
      (issueOne (tileSwap g.port h sw (storeSyl g full vregs srcs f)) s) := by
  subst hn
  obtain ⟨h1, h2, h3⟩ := storeSyl_ready (full := full) (f := f) hv hl ha hp hs hr hm
  have hx := tileSwap_bundle (pt := g.port) (h := h) (sw := sw) (g := fun t => (fun (t1 : State) => if full then t1.setFull (touchedGranules a.n a.key) else t1)
          (t.storeCells a (f s.cx))) hi h1 h2 rfl h3
  have hr' : ∀ i k, i < a.n → a.key i = some k → k / 1099511627776 = s.cur.die * 16 + (if g.port = .ls then 0 else 2) :=
    fun i k hi hk2 => hg i k hi (by rw [← hk i hi]; exact hk2)
  obtain ⟨u, hu, u1, u2, u3, u4, u5, u6⟩ : ∃ u, u = (s.under full).begun ∧ u.cx = s.begun.cx ∧ u.cur = s.cur ∧
      u.ctxs = s.ctxs ∧ u.empty = s.empty ∧ u.dies = s.dies ∧ u.byte = s.byte := ⟨_, rfl, by cases full <;> rfl, by cases full <;> rfl,
    by cases full <;> rfl, by cases full <;> rfl, by cases full <;> rfl, by cases full <;> rfl⟩
  simp only [State.bundle, show (storeSyl g full vregs srcs f).orders s = full from rfl, ← hu] at hx
  obtain ⟨m1, m2, m3, m4, m5⟩ := storeCells_keeps u a (f s.cx)
  rw [u1] at m2; rw [u2] at m3; rw [u3] at m4; rw [u4] at m5
  refine ⟨_, hx, ?_, ?_, ?_, ?_, ?_, ?_, ?_⟩
  · cases full <;> simp only [if_true, Bool.false_eq_true, if_false, State.setFull, m2, State.under_cx]
  · cases full <;> exact ⟨m3, m4⟩
  · intro i k hi hki hlast
    have := storeCells_at u a (f s.cx) i k hi ((hk i hi).trans hki) fun j hj hjn => by rw [hk j hjn]; exact hlast j hj hjn
    rw [← hd i hi]
    cases full <;> exact this
  · intro x hna
    have := storeCells_other u a (f s.cx) x fun i hi => by rw [hk i hi]; exact hna i hi
    rw [u6] at this
    cases full <;> exact this
  · rw [← touchedGranules_congr hk]
    cases full
    · exact m5
    · simp only [if_true, State.setFull, m5]
  · intro hpt
    have : (u.storeCells a (f s.cx)).dies = s.dies := (storeCells_dies u a (f s.cx) fun i k hi hki => by
      have := hr' i k hi hki; rw [hpt] at this; simpa [u2] using this).trans u5
    cases full <;> exact this
  · intro w
    have := storeCells_ways u a (f s.cx) _ hr' w
    have he : (∃ i k, i < a.n ∧ a.key i = some k ∧ w ∈ s.waysOf s.cur.die k 1) ↔
        ∃ i k, i < a.n ∧ key i = some k ∧ w ∈ s.waysOf s.cur.die k 1 := by
      constructor
      · rintro ⟨i, k, hi, h1, h2⟩; exact ⟨i, k, hi, by rw [← hk i hi]; exact h1, h2⟩
      · rintro ⟨i, k, hi, h1, h2⟩; exact ⟨i, k, hi, by rw [hk i hi]; exact h1, h2⟩
    have hd2 : u.die s.cur.die = s.die s.cur.die := by simp only [State.die, u5]
    have hww : ∀ k, u.waysOf s.cur.die k 1 = s.waysOf s.cur.die k 1 := fun k => waysOf_congr (by rw [hd2]) (by rw [hd2]) k 1
    have ht : ∀ w, u.way s.cur.die w = s.way s.cur.die w := fun w => by simp only [State.way, hd2]
    simp only [u2, hww, ht, he] at this
    cases full <;> exact this

end Sys2Proof.Machine
end

