-- ==== Sys2Proof/Laws/Encoding.lean ====
section
/-! SUPPORT. The fields of an encoded syllable read back: bounds of the field codes, the layouts' fields, and each
operand's code. -/

namespace Sys2Proof

/-! ### Bounds of the field codes -/

theorem encSrc_lt (a : Src) : encSrc a < 64 := by cases a <;> simp [encSrc] <;> omega
theorem encDst_lt (a : Dst) : encDst a < 64 := by cases a <;> simp [encDst]; omega
theorem nwDst_lt (a : Dst) : nwDst a < 2 := by cases a <;> simp [nwDst]
theorem encPDst_lt (a : PDst) : encPDst a < 16 := by cases a <;> simp [encPDst]
theorem nwPDst_lt (a : PDst) : nwPDst a < 2 := by cases a <;> simp [nwPDst]
theorem encBool_lt (b : Bool) : encBool b < 2 := by cases b <;> decide
theorem encIntW_lt (w : IntW) : encIntW w < 4 := by cases w <;> decide
theorem encFFmt_lt (f : FFmt) : encFFmt f < 8 := by cases f <;> decide
theorem encFmt_lt (f : Fmt) : encFmt f < 8 := by
  cases f with
  | int w => have := encIntW_lt w; simp only [encFmt]; omega
  | flt f => exact encFFmt_lt f
theorem encSat_lt (x : Sat) : encSat x < 3 := by cases x <;> decide
theorem encRMode_lt (x : RMode) : encRMode x < 4 := by cases x <;> decide
theorem encRq_lt (r : Rq) : encRq r < 8 := by
  have := encBool_lt r.rq; have := encRMode_lt r.mode; unfold encRq; omega
theorem encCond_lt (c : Cond) : encCond c < 12 := by cases c <;> decide
theorem encBpTest_lt (x : BpTest) : encBpTest x < 4 := by cases x <;> decide
theorem encAwrPart_lt (x : AwrPart) : encAwrPart x < 3 := by cases x <;> decide
theorem encOct_lt (x : OctBase) : encOct x < 9 := by cases x <;> decide
theorem encTileMode_lt (x : TileMode) : encTileMode x < 3 := by cases x <;> decide
theorem encEnB_lt (b : EnB) : encEnB b < 64 := by
  cases b with
  | src a => exact encSrc_lt a
  | imm lo _ => exact lo.isLt

/-! ### Operands read back -/

@[simp] theorem decFin_one : decFin 1 0 = some 0 := rfl
@[simp] theorem decFin_val {n : Nat} (x : Fin n) : decFin n x.val = some x := by simp [decFin]
@[simp] theorem decSrc_enc (a : Src) : decSrc (encSrc a) = some a := by
  cases a <;> first | rfl | simp [encSrc, decSrc]
@[simp] theorem decDst_enc (d : Dst) : decDst (encDst d) (nwDst d) = some d := by
  cases d <;> simp [encDst, nwDst, decDst]
@[simp] theorem decPDst_enc (d : PDst) : decPDst (encPDst d) (nwPDst d) = some d := by
  cases d <;> simp [encPDst, nwPDst, decPDst]
@[simp] theorem encBool_one (b : Bool) : decide (encBool b = 1) = b := by cases b <;> rfl
@[simp] theorem decIntW_enc (w : IntW) : decIntW (encIntW w) = some w := by cases w <;> rfl
@[simp] theorem decFFmt_enc (f : FFmt) : decFFmt (encFFmt f) = some f := by cases f <;> rfl
@[simp] theorem decFmt_enc (f : Fmt) : decFmt (encFmt f) = some f := by
  cases f with
  | int w => cases w <;> rfl
  | flt f => cases f <;> rfl
@[simp] theorem decSat_enc (x : Sat) : decSat (encSat x) = some x := by cases x <;> rfl
@[simp] theorem decRMode_enc (x : RMode) : decRMode (encRMode x) = x := by cases x <;> rfl
@[simp] theorem decRq_enc (r : Rq) : decRq (encRq r) = some r := by
  obtain ⟨b, m⟩ := r; cases b <;> cases m <;> rfl
@[simp] theorem decCond_enc (c : Cond) : decCond (encCond c) = some c := by cases c <;> rfl
@[simp] theorem decBpTest_enc (x : BpTest) : decBpTest (encBpTest x) = some x := by cases x <;> rfl
@[simp] theorem decAwrPart_enc (x : AwrPart) : decAwrPart (encAwrPart x) = some x := by cases x <;> rfl
@[simp] theorem decOct_enc (x : OctBase) : decOct (encOct x) = some x := by cases x <;> rfl
@[simp] theorem decTileMode_enc (x : TileMode) : decTileMode (encTileMode x) = some x := by cases x <;> rfl
@[simp] theorem decEnB_enc (b : EnB) : decEnB b.ext (encEnB b) = some b := by
  cases b <;> simp [decEnB, EnB.ext, encEnB]
@[simp] theorem decVMod_enc (x : Option VMod) : decVMod (encVMod x) = some x := by
  cases x with
  | none => rfl
  | some m =>
    obtain ⟨i, s, ⟨r, o⟩⟩ := m
    have h : i.toNat < 2048 := i.isLt
    have hs := encSat_lt s; have hr := encBool_lt r; have ho := encRMode_lt o
    have hx : (BitVec.ofNat 16 (32 * i.toNat + 8 * encSat s + encRq ⟨r, o⟩)).toNat =
        32 * i.toNat + 8 * encSat s + (4 * encBool r + encRMode o) := by
      simp only [BitVec.toNat_ofNat, encRq]; omega
    have e1 : (32 * i.toNat + 8 * encSat s + (4 * encBool r + encRMode o)) / 8 % 4 = encSat s := by omega
    have e2 : (32 * i.toNat + 8 * encSat s + (4 * encBool r + encRMode o)) / 4 % 2 = encBool r := by omega
    have e3 : (32 * i.toNat + 8 * encSat s + (4 * encBool r + encRMode o)) % 4 = encRMode o := by omega
    have e4 : (32 * i.toNat + 8 * encSat s + (4 * encBool r + encRMode o)) / 32 = i.toNat := by omega
    simp only [decVMod, encVMod, hx, e1, e2, e3, e4, decSat_enc, decRMode_enc, encBool_one, Option.map_some,
      BitVec.ofNat_toNat, BitVec.setWidth_eq]

/-! ### The layouts -/

theorem encR_lt {c d a b m n f : Nat} (hc : c < 64 := by omega) (hd : d < 64 := by omega) (ha : a < 64 := by omega) (hb : b < 64 := by omega) (hm : m < 16 := by omega)
    (hn : n < 2 := by omega) (hf : f < 8 := by omega) : encR c d a b m n f < 4294967296 := by unfold encR; omega
theorem encR_code {c d a b m n f : Nat} (hd : d < 64 := by omega) (ha : a < 64 := by omega) (hb : b < 64 := by omega) (hm : m < 16 := by omega) (hn : n < 2 := by omega)
    (hf : f < 8 := by omega) : encR c d a b m n f / 67108864 = c := by unfold encR; omega
theorem encR_fields {c d a b m n f : Nat} (hd : d < 64 := by omega) (ha : a < 64 := by omega) (hb : b < 64 := by omega) (hm : m < 16 := by omega) (hn : n < 2 := by omega)
    (hf : f < 8 := by omega) : RFields.of (encR c d a b m n f) = ⟨d, a, b, m, n, f⟩ := by
  unfold RFields.of encR; congr 1 <;> omega
theorem encR_form {c d a b m n f : Nat} (hf : f < 8 := by omega) : encR c d a b m n f / 4 % 2 = f / 4 := by unfold encR; omega

theorem encI_lt {c d n f : Nat} {i : BitVec 16} (hc : c < 64 := by omega) (hd : d < 64 := by omega) (hn : n < 2 := by omega) (hf : f < 8 := by omega) :
    encI c d i n f < 4294967296 := by have := i.isLt; unfold encI; omega
theorem encI_code {c d n f : Nat} {i : BitVec 16} (hd : d < 64 := by omega) (hn : n < 2 := by omega) (hf : f < 8 := by omega) :
    encI c d i n f / 67108864 = c := by have := i.isLt; unfold encI; omega
theorem encI_dst {c d n f : Nat} {i : BitVec 16} (hd : d < 64 := by omega) (hn : n < 2 := by omega) (hf : f < 8 := by omega) :
    (RFields.of (encI c d i n f)).d = d := by have := i.isLt; simp only [RFields.of]; unfold encI; omega
theorem encI_n {c d n f : Nat} {i : BitVec 16} (hn : n < 2 := by omega) (hf : f < 8 := by omega) : encI c d i n f / 8 % 2 = n := by
  unfold encI; omega
theorem encI_form {c d n f : Nat} {i : BitVec 16} (hf : f < 8 := by omega) : encI c d i n f / 4 % 2 = f / 4 := by
  unfold encI; omega
theorem encI_f {c d n f : Nat} {i : BitVec 16} : encI c d i n f % 4 = f % 4 := by unfold encI; omega
theorem encI_low {c d n f : Nat} {i : BitVec 16} (hn : n < 2 := by omega) (hf : f < 8 := by omega) : encI c d i n f % 16 = 8 * n + f := by
  unfold encI; omega
theorem encI_low8 {c d n f : Nat} {i : BitVec 16} (hf : f < 8 := by omega) : encI c d i n f % 8 = f := by unfold encI; omega
theorem encI_imm {c d n f : Nat} {i : BitVec 16} (hn : n < 2 := by omega) (hf : f < 8 := by omega) :
    BitVec.ofNat 16 (encI c d i n f / 16) = i := by
  apply BitVec.eq_of_toNat_eq; have := i.isLt; simp only [BitVec.toNat_ofNat]; unfold encI; omega

theorem encX_lt {c i z s h r : Nat} (hc : c < 64 := by omega) (hi : i < 256 := by omega) (hz : z < 8 := by omega) (hs : s < 2 := by omega) (hh : h < 4 := by omega) (hr : r < 64 := by omega) :
    encX c i z s h r < 4294967296 := by unfold encX; omega
theorem encX_code {c i z s h r : Nat} (hi : i < 256 := by omega) (hz : z < 8 := by omega) (hs : s < 2 := by omega) (hh : h < 4 := by omega) (hr : r < 64 := by omega) :
    encX c i z s h r / 67108864 = c := by unfold encX; omega
theorem encX_idx {c i z s h r : Nat} (hi : i < 256 := by omega) (hz : z < 8 := by omega) (hs : s < 2 := by omega) (hh : h < 4 := by omega) (hr : r < 64 := by omega) :
    encX c i z s h r / 262144 % 256 = i := by unfold encX; omega
theorem encX_z {c i z s h r : Nat} (hz : z < 8 := by omega) (hs : s < 2 := by omega) (hh : h < 4 := by omega) (hr : r < 64 := by omega) :
    encX c i z s h r / 32768 % 8 = z := by unfold encX; omega
theorem encX_sw {c i z s h r : Nat} (hs : s < 2 := by omega) (hh : h < 4 := by omega) (hr : r < 64 := by omega) :
    encX c i z s h r / 16384 % 2 = s := by unfold encX; omega
theorem encX_shp {c i z s h r : Nat} (hh : h < 4 := by omega) (hr : r < 64 := by omega) : encX c i z s h r / 4096 % 4 = h := by
  unfold encX; omega
theorem encX_reg {c i z s h r : Nat} (hr : r < 64 := by omega) : encX c i z s h r / 64 % 64 = r := by unfold encX; omega
theorem encX_low {c i z s h r : Nat} : encX c i z s h r % 64 = 0 := by unfold encX; omega

theorem encM_lt {c d b p f w q : Nat} {o : BitVec 7} (hc : c < 64 := by omega) (hd : d < 64 := by omega) (hb : b < 64 := by omega) (hp : p < 8 := by omega)
    (hf : f < 2 := by omega) (hw : w < 2 := by omega) (hq : q < 2 := by omega) : encM c d b o p f w q < 4294967296 := by
  have := o.isLt; unfold encM; omega
theorem encM_code {c d b p f w q : Nat} {o : BitVec 7} (hd : d < 64 := by omega) (hb : b < 64 := by omega) (hp : p < 8 := by omega) (hf : f < 2 := by omega)
    (hw : w < 2 := by omega) (hq : q < 2 := by omega) : encM c d b o p f w q / 67108864 = c := by have := o.isLt; unfold encM; omega
theorem encM_fields {c d b p f w q : Nat} {o : BitVec 7} (hd : d < 64 := by omega) (hb : b < 64 := by omega) (hp : p < 8 := by omega) (hf : f < 2 := by omega)
    (hw : w < 2 := by omega) (hq : q < 2 := by omega) :
    RFields.of (encM c d b o p f w q) =
      ⟨d, b, o.toNat / 2, o.toNat % 2 * 8 + p, f, w * 4 + q * 2⟩ := by
  have := o.isLt; unfold RFields.of encM; congr 1 <;> omega
theorem encM_off {c d b p f w q : Nat} {o : BitVec 7} (hp : p < 8 := by omega) (hf : f < 2 := by omega) (hw : w < 2 := by omega) (hq : q < 2 := by omega) :
    BitVec.ofNat 7 (encM c d b o p f w q / 128) = o := by
  apply BitVec.eq_of_toNat_eq; have := o.isLt; simp only [BitVec.toNat_ofNat]; unfold encM; omega

theorem encP_lt {c d a : Nat} {o : BitVec 10} (hc : c < 64 := by omega) (hd : d < 64 := by omega) (ha : a < 64 := by omega) :
    encP c d a o < 4294967296 := by have := o.isLt; unfold encP; omega
theorem encP_code {c d a : Nat} {o : BitVec 10} (hd : d < 64 := by omega) (ha : a < 64 := by omega) : encP c d a o / 67108864 = c := by
  have := o.isLt; unfold encP; omega
theorem encP_d {c d a : Nat} {o : BitVec 10} (hd : d < 64 := by omega) (ha : a < 64 := by omega) : (RFields.of (encP c d a o)).d = d := by
  have := o.isLt; simp only [RFields.of]; unfold encP; omega
theorem encP_a {c d a : Nat} {o : BitVec 10} (ha : a < 64 := by omega) : (RFields.of (encP c d a o)).a = a := by
  have := o.isLt; simp only [RFields.of]; unfold encP; omega
theorem encP_low {c d a : Nat} {o : BitVec 10} : encP c d a o % 16 = 0 := by unfold encP; omega
theorem encP_off {c d a : Nat} {o : BitVec 10} : BitVec.ofNat 10 (encP c d a o / 16) = o := by
  apply BitVec.eq_of_toNat_eq; have := o.isLt; simp only [BitVec.toNat_ofNat]; unfold encP; omega

/-- The register and the immediate forms are told apart by bit 2 (R108). -/
@[simp] theorem encIntW_form (w : IntW) : encIntW w / 4 = 0 := by cases w <;> rfl
@[simp] theorem encIntW_immForm (w : IntW) : (4 + encIntW w) / 4 = 1 := by cases w <;> rfl
@[simp] theorem encIntW_low (w : IntW) : (4 + encIntW w) % 4 = encIntW w := by cases w <;> rfl
@[simp] theorem encIntW_mod (w : IntW) : encIntW w % 4 = encIntW w := by cases w <;> rfl
@[simp] theorem encIntW_lt4 (w : IntW) : (encIntW w < 4) = True := by cases w <;> simp [encIntW]
/-- Two fields in one, the first low. -/
theorem fieldLow {a b k : Nat} (h : a < k) : (a + k * b) % k = a := by
  rw [Nat.add_mul_mod_self_left, Nat.mod_eq_of_lt h]
theorem fieldHigh {a b k : Nat} (h : a < k) : (a + k * b) / k = b := by
  rw [Nat.add_mul_div_left _ _ (by omega), Nat.div_eq_of_lt h, Nat.zero_add]
/-- Two fields in one, the first high. -/
theorem fieldLow2 {a b k : Nat} (h : b < k) : (k * a + b) % k = b := by rw [Nat.add_comm]; exact fieldLow h
theorem fieldHigh2 {a b k : Nat} (h : b < k) : (k * a + b) / k = a := by rw [Nat.add_comm]; exact fieldHigh h
/-- A guard that holds. -/
@[simp] theorem guard_holds : (guard True : Option Unit) = some () := rfl
/-- Only a VA syllable has a modifier word (R110). -/
theorem modOk_vb {t : VTakes} {x : Option VMod} (h : modOk .vb t x = true) : x = none := by
  cases x with
  | none => rfl
  | some _ => simp [modOk] at h

end Sys2Proof
end

