-- ==== Sys2Proof/Laws/Image.lean ====
section
/-! SUPPORT. Images of switched-out dies: what SWITCH_OUT writes, RESUME takes: a coded copy passes its line codes and its
digest (R362), and an area that holds it reads as it (R363). -/

namespace Sys2Proof.Machine

/-! ### The line code -/

theorem onesIn_succ_high (n x b : Nat) (hx : x < 2 ^ n) (hb : b ≤ 1) : onesIn (n + 1) (x + 2 ^ n * b) = onesIn n x + b := by
  induction n generalizing x with
  | zero => simp [onesIn]; omega
  | succ n ih =>
    have e : (x + 2 ^ (n + 1) * b) / 2 = x / 2 + 2 ^ n * b := by
      rw [Nat.pow_succ, Nat.mul_comm (2 ^ n) 2, Nat.mul_assoc, Nat.add_mul_div_left _ _ (by omega)]
    have p : (x + 2 ^ (n + 1) * b) % 2 = x % 2 := by
      rw [Nat.pow_succ, Nat.mul_comm (2 ^ n) 2, Nat.mul_assoc, Nat.add_mul_mod_self_left]
    rw [onesIn, e, p, ih (x / 2) (by rw [Nat.pow_succ] at hx; omega), onesIn]
    omega
/-- A line with its own code reads as it is (R362). -/
theorem lineFix_lineCode (x : Nat) : lineFix x (lineCode x) = some x := by
  have hs : eccSyn lineColumns x % 2048 < 2048 := Nat.mod_lt _ (by omega)
  have hp : (onesIn 1024 x + onesIn 11 (eccSyn lineColumns x % 2048)) % 2 < 2 := Nat.mod_lt _ (by omega)
  have hc : (lineCode x).toNat = eccSyn lineColumns x % 2048 +
      2048 * ((onesIn 1024 x + onesIn 11 (eccSyn lineColumns x % 2048)) % 2) := by
    simp only [lineCode, BitVec.toNat_ofNat]; omega
  have ho := onesIn_succ_high 11 (eccSyn lineColumns x % 2048)
    ((onesIn 1024 x + onesIn 11 (eccSyn lineColumns x % 2048)) % 2) hs (by omega)
  have hm : (lineCode x).toNat % 2048 = eccSyn lineColumns x % 2048 := by rw [hc]; omega
  have hq : (onesIn 1024 x + onesIn 12 (lineCode x).toNat) % 2 = 0 := by
    rw [hc]; simp only [Nat.reducePow, Nat.reduceAdd] at ho; rw [ho]; omega
  simp only [lineFix, hm, hq, Nat.xor_self, if_true]
theorem eccSyn_zero (cs : List Nat) : eccSyn cs 0 = 0 := by
  induction cs with
  | nil => rfl
  | cons c cs ih => simp [eccSyn, ih]
theorem onesIn_zero (n : Nat) : onesIn n 0 = 0 := by
  induction n with
  | zero => rfl
  | succ n ih => simp [onesIn, ih]
/-- A line of zeros has the code zero. -/
theorem lineCode_zero : lineCode 0 = 0 := by simp [lineCode, eccSyn_zero, onesIn_zero]

/-! ### Reads of an image -/

theorem memBytes_congr {m t : List Host.Cell} {k n : Nat} (h : ∀ a, k ≤ a → a < k + n → memGet m a = memGet t a) :
    memBytes m k n = memBytes t k n := by
  induction n generalizing k with
  | zero => rfl
  | succ n ih =>
    simp only [memBytes]
    rw [h k (by omega) (by omega), ih fun a h1 h2 => h a (by omega) (by omega)]
theorem leNat_zeros {m : List Host.Cell} {k n : Nat} (h : ∀ a, k ≤ a → a < k + n → memGet m a = 0) : memNat m k n = 0 := by
  unfold memNat
  induction n generalizing k with
  | zero => rfl
  | succ n ih =>
    simp only [memBytes, leNat]
    rw [h k (by omega) (by omega), ih fun a h1 h2 => h a (by omega) (by omega)]; rfl
theorem memBytes_length (m : List Host.Cell) (k n : Nat) : (memBytes m k n).length = n := by
  induction n generalizing k with
  | zero => rfl
  | succ n ih => simp [memBytes, ih]
theorem leBytes_leNat (bs : List Byte) : leBytes bs.length (leNat bs) = bs := by
  induction bs with
  | nil => rfl
  | cons b bs ih =>
    have hb : b.toNat < 256 := b.isLt
    simp only [List.length_cons, leNat, leBytes]
    rw [show (b.toNat + 256 * leNat bs) / 256 = leNat bs by omega, ih]
    congr 1
    apply BitVec.eq_of_toNat_eq
    simp only [BitVec.toNat_ofNat]; omega
theorem memNat_memPut (m : List Host.Cell) (k n x : Nat) : memNat (memPut m k (leBytes n x)) k n = x % 256 ^ n := by
  have h := memBytes_memPut m k (leBytes n x)
  rw [leBytes_length] at h
  rw [memNat, h, leNat_leBytes]
theorem memNat_congr {m t : List Host.Cell} {k n : Nat} (h : ∀ a, k ≤ a → a < k + n → memGet m a = memGet t a) :
    memNat m k n = memNat t k n := by rw [memNat, memNat, memBytes_congr h]

theorem memGet_of_above {k a : Nat} {m : List Host.Cell} (h : keysAbove k m) (ha : a ≤ k) : memGet m a = 0 := by
  induction m with
  | nil => rfl
  | cons c r ih =>
    obtain ⟨j, b⟩ := c
    have hj : k < j := h (j, b) (List.mem_cons_self ..)
    simp only [memGet, if_neg (show a ≠ j by omega)]
    exact ih fun c hc => h c (List.mem_cons_of_mem _ hc)
/-- A listed byte is what its key reads, and is not zero. -/
theorem memGet_of_mem {m : List Host.Cell} (hw : Memory.wf m = true) {c : Host.Cell} (hc : c ∈ m) :
    memGet m c.1 = c.2 ∧ c.2 ≠ 0 := by
  induction m with
  | nil => exact (List.not_mem_nil hc).elim
  | cons x r ih =>
    obtain ⟨j, b⟩ := x
    obtain ⟨hb, ha, hr⟩ := (wf_cons j b r).mp hw
    rcases List.mem_cons.mp hc with e | e
    · subst e; exact ⟨by simp [memGet], hb⟩
    · have hj := ha c e
      simp only [memGet, if_neg (show c.1 ≠ j by omega)]
      exact ih hr e
/-- A key below every listed one, but for those of a list that none is. -/
theorem memGet_of_notMem {m : List Host.Cell} {a : Nat} (h : ∀ c ∈ m, c.1 ≠ a) : memGet m a = 0 := by
  induction m with
  | nil => rfl
  | cons x r ih =>
    obtain ⟨j, b⟩ := x
    simp only [memGet, if_neg (show a ≠ j from fun e => h (j, b) (List.mem_cons_self ..) e.symm)]
    exact ih fun c hc => h c (List.mem_cons_of_mem _ hc)

theorem memDel_absent {m : List Host.Cell} {k : Nat} (h : ∀ c ∈ m, c.1 ≠ k) : memDel m k = m := by
  induction m with
  | nil => rfl
  | cons x r ih =>
    obtain ⟨j, b⟩ := x
    simp only [memDel, if_neg (show k ≠ j from fun e => h (j, b) (List.mem_cons_self ..) e.symm)]
    rw [ih fun c hc => h c (List.mem_cons_of_mem _ hc)]
/-- Writing what is there changes nothing. -/
theorem memSet_memGet {m : List Host.Cell} (hw : Memory.wf m = true) (k : Nat) : memSet m k (memGet m k) = m := by
  unfold memSet
  split
  · rename_i h
    refine memDel_absent fun c hc e => ?_
    have := memGet_of_mem hw hc
    rw [e, h] at this
    exact this.2 this.1.symm
  · rename_i h
    induction m with
    | nil => exact (h rfl).elim
    | cons x r ih =>
      obtain ⟨j, b⟩ := x
      obtain ⟨hb, ha, hr⟩ := (wf_cons j b r).mp hw
      by_cases e : k = j
      · subst e; simp [memGet, memIns]
      · simp only [memGet, if_neg e] at h ⊢
        have hlt : ¬ k < j := fun hk => h (memGet_of_above ha (by omega))
        simp only [memIns, if_neg hlt, if_neg e]
        rw [ih hr h]
theorem memPut_memBytes {m : List Host.Cell} (hw : Memory.wf m = true) (k n : Nat) : memPut m k (memBytes m k n) = m := by
  induction n generalizing k with
  | zero => rfl
  | succ n ih => simp only [memBytes, memPut]; rw [memSet_memGet hw, ih]
theorem Img.val_nat {m : Img} (hw : Memory.wf m = true) (k n : Nat) : Img.val m k n (Img.nat m k n) = m := by
  have h := leBytes_leNat (memBytes m k n)
  rw [memBytes_length] at h
  rw [Img.val, Img.nat, memNat, h, memPut_memBytes hw]

/-! ### The check array -/

theorem Img.wf_vals (m : Img) (l : List (Nat × Nat × Nat)) (hw : Memory.wf m = true) : Memory.wf (Img.vals m l) = true := by
  unfold Img.vals
  induction l generalizing m with
  | nil => exact hw
  | cons x l ih => exact ih _ (wf_memPut _ _ _ hw)
/-- The codes of some lines, put into the check array one after another. -/
def Img.codes (v : Nat → Nat) (m : Img) (ks : List Nat) : Img := Img.vals m (ks.map fun k => (imgLength + 2 * k, 2, v k))
theorem Img.codes_cons (v : Nat → Nat) (m : Img) (k : Nat) (ks : List Nat) :
    Img.codes v m (k :: ks) = Img.codes v (memPut m (imgLength + 2 * k) (leBytes 2 (v k))) ks := rfl
theorem Img.codes_below (v : Nat → Nat) (m : Img) (ks : List Nat) (a : Nat) (h : a < imgLength) :
    memGet (Img.codes v m ks) a = memGet m a := by
  induction ks generalizing m with
  | nil => rfl
  | cons k ks ih => rw [Img.codes_cons, ih, memGet_memPut_below _ _ _ _ (by omega)]
theorem Img.codes_nat (v : Nat → Nat) (m : Img) (ks : List Nat) (k : Nat) :
    memNat (Img.codes v m ks) (imgLength + 2 * k) 2 = if k ∈ ks then v k % 65536 else memNat m (imgLength + 2 * k) 2 := by
  induction ks generalizing m with
  | nil => simp [Img.codes, Img.vals]
  | cons j ks ih =>
    rw [Img.codes_cons, ih]
    by_cases hk : k ∈ ks
    · simp [hk]
    · by_cases e : k = j
      · subst e; simp only [hk, if_false, List.mem_cons, true_or, if_true]; exact memNat_memPut _ _ _ _
      · simp only [hk, if_false, List.mem_cons, e, or_self]
        exact memNat_congr fun a h1 h2 => memGet_memPut_other _ _ _ _ (by rw [leBytes_length]; omega)
theorem Img.codes_above (v : Nat → Nat) (m : Img) (ks : List Nat) (hk : ∀ k ∈ ks, k < imgLength / 128) (a : Nat)
    (h : imgLength + 2 * (imgLength / 128) ≤ a) : memGet (Img.codes v m ks) a = memGet m a := by
  induction ks generalizing m with
  | nil => rfl
  | cons k ks ih =>
    have := hk k (List.mem_cons_self ..)
    rw [Img.codes_cons, ih _ fun j hj => hk j (List.mem_cons_of_mem _ hj),
      memGet_memPut_other _ _ _ _ (by rw [leBytes_length]; omega)]

/-- An image of the die proper: canonical, and nothing at or above LENGTH. -/
def Img.plain (m : Img) : Prop := Memory.wf m = true ∧ ∀ c ∈ m, c.1 < imgLength
theorem Img.plain_get {m : Img} (h : Img.plain m) {a : Nat} (ha : imgLength ≤ a) : memGet m a = 0 :=
  memGet_of_notMem fun c hc e => by have := h.2 c hc; omega
theorem Img.mem_lines {m : Img} {k : Nat} : k ∈ Img.lines m ↔ ∃ c ∈ m, c.1 < imgLength ∧ c.1 / 128 = k := by
  simp only [Img.lines, List.mem_eraseDups, List.mem_map, List.mem_filter, decide_eq_true_eq]
  constructor
  · rintro ⟨c, ⟨h1, h2⟩, h3⟩; exact ⟨c, h1, h2, h3⟩
  · rintro ⟨c, h1, h2, h3⟩; exact ⟨c, ⟨h1, h2⟩, h3⟩
theorem Img.coded_eq (m : Img) :
    Img.coded m = Img.codes (fun k => (lineCode (Img.nat m (128 * k) 128)).toNat) m (Img.lines m) := rfl
/-- Every line of a coded image has its own code (R362). -/
theorem Img.coded_code {m : Img} (h : Img.plain m) (k : Nat) (hk : k < imgLength / 128) :
    BitVec.ofNat 16 (Img.nat (Img.coded m) (imgLength + 2 * k) 2) = lineCode (Img.nat (Img.coded m) (128 * k) 128) := by
  have hi : imgLength = 5451776 * 128 := by decide
  have e : Img.nat (Img.coded m) (128 * k) 128 = Img.nat m (128 * k) 128 :=
    memNat_congr fun a _ _ => Img.codes_below _ _ _ _ (by omega)
  rw [e, Img.coded_eq, Img.nat, Img.codes_nat]
  split
  · apply BitVec.eq_of_toNat_eq
    simp only [BitVec.toNat_ofNat]
    have := (lineCode (Img.nat m (128 * k) 128)).isLt
    omega
  · rename_i hn
    rw [leNat_zeros fun a h1 _ => Img.plain_get h (by omega)]
    have z : Img.nat m (128 * k) 128 = 0 := leNat_zeros fun a h1 h2 => memGet_of_notMem fun c hc e =>
      hn (Img.mem_lines.mpr ⟨c, hc, by omega, by omega⟩)
    rw [z, lineCode_zero]; rfl
theorem Img.coded_wf {m : Img} (h : Memory.wf m = true) : Memory.wf (Img.coded m) = true := Img.wf_vals _ _ h
theorem Img.coded_bound {m : Img} (h : Img.plain m) {c : Host.Cell} (hc : c ∈ Img.coded m) :
    c.1 < imgLength + 2 * (imgLength / 128) := by
  have g := memGet_of_mem (Img.coded_wf h.1) hc
  rcases Nat.lt_or_ge c.1 (imgLength + 2 * (imgLength / 128)) with hlt | hge
  · exact hlt
  · exfalso
    have hi : imgLength = 5451776 * 128 := by decide
    rw [Img.coded_eq, Img.codes_above _ _ _ (fun k hk => by
      obtain ⟨c, _, h2, h3⟩ := Img.mem_lines.mp hk; omega) _ hge, Img.plain_get h (by omega)] at g
    exact g.2 g.1.symm
theorem foldlM_fixed {α β : Type} (f : β → α → Option β) (l : List α) (m : β) (h : ∀ x ∈ l, f m x = some m) :
    l.foldlM f m = some m := by
  induction l with
  | nil => rfl
  | cons x l ih =>
    rw [List.foldlM_cons, h x (List.mem_cons_self ..)]
    exact ih fun y hy => h y (List.mem_cons_of_mem _ hy)
/-- A coded image has nothing to correct (R362). -/
theorem Img.corrected_coded {m : Img} (h : Img.plain m) : Img.corrected (Img.coded m) = some (Img.coded m) := by
  unfold Img.corrected
  refine foldlM_fixed _ _ _ fun k hk => ?_
  have hi : imgLength = 5451776 * 128 := by decide
  have hb : k < imgLength / 128 := by
    simp only [List.mem_eraseDups, List.mem_append, List.mem_map, List.mem_filter, decide_eq_true_eq] at hk
    rcases hk with hk | ⟨c, ⟨hc, _⟩, e⟩
    · obtain ⟨c, _, h2, h3⟩ := Img.mem_lines.mp hk; omega
    · have := Img.coded_bound h hc; omega
  rw [Img.coded_code h k hb, lineFix_lineCode, Option.map_some, Img.val_nat (Img.coded_wf h.1)]

/-! ### The digest -/

theorem Img.vals_two (m : Img) (b d : Nat) (a : Nat) (h : a < 0x38 ∨ 0x40 ≤ a ∧ a < 0x60 ∨ 0x90 ≤ a) :
    memGet (Img.vals m [(0x38, 8, b), (0x60, 48, d)]) a = memGet m a := by
  simp only [Img.vals, Img.val, List.foldl_cons, List.foldl_nil]
  rw [memGet_memPut_other _ _ _ _ (by rw [leBytes_length]; omega), memGet_memPut_other _ _ _ _ (by rw [leBytes_length]; omega)]
theorem Img.vals_two_eq (m t : Img) (b d : Nat) (a : Nat) (h : 0x38 ≤ a ∧ a < 0x40 ∨ 0x60 ≤ a ∧ a < 0x90) :
    memGet (Img.vals m [(0x38, 8, b), (0x60, 48, d)]) a = memGet (Img.vals t [(0x38, 8, b), (0x60, 48, d)]) a := by
  have put : ∀ (n : Nat) (x y : Img) (bs : List Byte) (k : Nat), bs.length = n → k ≤ a → a < k + n →
      memGet (memPut x k bs) a = memGet (memPut y k bs) a := by
    intro n
    induction n with
    | zero => intro x y bs k _ _ _; omega
    | succ n ih =>
      intro x y bs k hl h1 h2
      cases bs with
      | nil => simp at hl
      | cons v bs =>
        simp only [memPut]
        by_cases e : a = k
        · subst e
          rw [memGet_memPut_below _ _ _ _ (by omega), memGet_memPut_below _ _ _ _ (by omega), memGet_memSet_same,
            memGet_memSet_same]
        · exact ih _ _ bs (k + 1) (by simpa using hl) (by omega) (by omega)
  have l : a < 0x60 → ∀ (x : Img) (bs : List Byte), memGet (memPut x 0x60 bs) a = memGet x a := fun ha x bs =>
    memGet_memPut_below x 0x60 a bs ha
  simp only [Img.vals, Img.val, List.foldl_cons, List.foldl_nil]
  rcases h with h | h
  · rw [l (by omega), l (by omega)]
    exact put 8 _ _ _ _ (leBytes_length _ _) (by omega) (by omega)
  · exact put 48 _ _ _ _ (leBytes_length _ _) (by omega) (by omega)
theorem Img.bytes_congr {m t : Img} (n : Nat) (h : ∀ a, a < n → (a < 0x38 ∨ 0x40 ≤ a ∧ a < 0x60 ∨ 0x90 ≤ a) →
    memGet m a = memGet t a) : memBytes (Img.vals m [(0x38, 8, 0), (0x60, 48, 0)]) 0 n =
      memBytes (Img.vals t [(0x38, 8, 0), (0x60, 48, 0)]) 0 n := by
  refine memBytes_congr fun a _ ha => ?_
  by_cases e : a < 0x38 ∨ 0x40 ≤ a ∧ a < 0x60 ∨ 0x90 ≤ a
  · rw [Img.vals_two _ _ _ _ e, Img.vals_two _ _ _ _ e]; exact h a (by omega) e
  · exact Img.vals_two_eq _ _ _ _ _ (by omega)
theorem Img.digest_congr {m t : Img} (h : ∀ a, a < imgLength → (a < 0x38 ∨ 0x40 ≤ a ∧ a < 0x60 ∨ 0x90 ≤ a) →
    memGet m a = memGet t a) : Img.digest m = Img.digest t := by
  unfold Img.digest
  rw [Img.bytes_congr imgLength h]
theorem mem_memDel {m : List Host.Cell} {k : Nat} {c : Host.Cell} (h : c ∈ memDel m k) : c ∈ m := by
  induction m with
  | nil => exact h
  | cons x r ih =>
    obtain ⟨j, b⟩ := x
    simp only [memDel] at h
    split at h
    · exact List.mem_cons_of_mem _ (ih h)
    · rcases List.mem_cons.mp h with e | e
      · rw [e]; exact List.mem_cons_self ..
      · exact List.mem_cons_of_mem _ (ih e)
theorem mem_memIns {m : List Host.Cell} {k : Nat} {v : Byte} {c : Host.Cell} (h : c ∈ memIns m k v) : c ∈ m ∨ c.1 = k := by
  induction m with
  | nil => simp only [memIns, List.mem_singleton] at h; exact .inr (by rw [h])
  | cons x r ih =>
    obtain ⟨j, b⟩ := x
    simp only [memIns] at h
    split at h
    · rcases List.mem_cons.mp h with e | e
      · exact .inr (by rw [e])
      · exact .inl e
    · split at h
      · rcases List.mem_cons.mp h with e | e
        · exact .inr (by rw [e])
        · exact .inl (List.mem_cons_of_mem _ e)
      · rcases List.mem_cons.mp h with e | e
        · exact .inl (by rw [e]; exact List.mem_cons_self ..)
        · exact (ih e).imp_left (List.mem_cons_of_mem _)
theorem mem_memPut {m : List Host.Cell} {k : Nat} {bs : List Byte} {c : Host.Cell} (h : c ∈ memPut m k bs) :
    c ∈ m ∨ k ≤ c.1 ∧ c.1 < k + bs.length := by
  induction bs generalizing m k with
  | nil => exact .inl h
  | cons b bs ih =>
    simp only [List.length_cons]
    rcases ih h with e | e
    · unfold memSet at e
      split at e
      · exact .inl (mem_memDel e)
      · exact (mem_memIns e).imp_right (by omega)
    · exact .inr (by omega)
theorem Img.plain_two {m : Img} (h : Img.plain m) (b d : Nat) : Img.plain (Img.vals m [(0x38, 8, b), (0x60, 48, d)]) := by
  have hi : imgLength = 5451776 * 128 := by decide
  refine ⟨Img.wf_vals _ _ h.1, fun c hc => ?_⟩
  simp only [Img.vals, Img.val, List.foldl_cons, List.foldl_nil] at hc
  rcases mem_memPut hc with e | e
  · rcases mem_memPut e with e | e
    · exact h.2 c e
    · rw [leBytes_length] at e; omega
  · rw [leBytes_length] at e; omega
theorem Img.two_nat (m : Img) (b : Nat) (d : BitVec 384) :
    BitVec.ofNat 384 (Img.nat (Img.vals m [(0x38, 8, b), (0x60, 48, d.toNat)]) 0x60 48) = d := by
  simp only [Img.nat, Img.vals, Img.val, List.foldl_cons, List.foldl_nil]
  rw [memNat_memPut]
  apply BitVec.eq_of_toNat_eq
  have := d.isLt
  simp only [BitVec.toNat_ofNat]; omega
theorem Img.coded_below (m : Img) (a : Nat) (ha : a < imgLength) : memGet (Img.coded m) a = memGet m a := by
  rw [Img.coded_eq]
  exact Img.codes_below _ _ _ _ ha
/-- A coded image whose DIGEST is right may be loaded, as it is. -/
theorem Img.good_coded {m : Img} (h : Img.plain m) (hd : BitVec.ofNat 384 (Img.nat (Img.coded m) 0x60 48) = Img.digest (Img.coded m)) :
    Img.good (Img.coded m) = some (Img.coded m) := by
  unfold Img.good
  rw [Img.corrected_coded h]
  exact if_pos hd
/-- A copy of an image of the die proper is one that may be loaded, as it is (R362, R363). -/
theorem Img.good_copy {m : Img} (h : Img.plain m) (b : Nat) : Img.good (Img.copy m b) = some (Img.copy m b) := by
  refine Img.good_coded (Img.plain_two h b _) ?_
  have e : Img.nat (Img.coded (Img.vals m [(0x38, 8, b), (0x60, 48, (Img.digest m).toNat)])) 0x60 48 =
      Img.nat (Img.vals m [(0x38, 8, b), (0x60, 48, (Img.digest m).toNat)]) 0x60 48 :=
    memNat_congr fun a _ h2 => Img.coded_below _ _ (Nat.lt_trans h2 (by decide))
  rw [e, Img.two_nat]
  exact Img.digest_congr fun a ha f => by rw [Img.coded_below _ _ ha, Img.vals_two _ _ _ _ f]

/-- A copy of an image fits its area, in canonical form. -/
theorem Img.copy_fits {m : Img} (h : Img.plain m) (b : Nat) :
    Memory.wf (Img.copy m b) = true ∧ ∀ c ∈ Img.copy m b, c.1 < 65536 * imgPages :=
  ⟨Img.coded_wf (Img.plain_two h b _).1, fun _ hc => Nat.lt_trans (Img.coded_bound (Img.plain_two h b _) hc) (by decide)⟩

/-! ### An image area -/

theorem memIns_above {m : List Host.Cell} {k : Nat} {v : Byte} (h : ∀ c ∈ m, c.1 < k) : memIns m k v = m ++ [(k, v)] := by
  induction m with
  | nil => rfl
  | cons x r ih =>
    obtain ⟨j, b⟩ := x
    have hj : j < k := h (j, b) (List.mem_cons_self ..)
    simp only [memIns, if_neg (show ¬ k < j by omega), if_neg (show k ≠ j by omega), List.cons_append]
    rw [ih fun c hc => h c (List.mem_cons_of_mem _ hc)]
/-- Cells put above a list, rising, stand after it. -/
theorem foldl_memSet_above (l m : List Host.Cell) (hl : Memory.wf l = true) (h : ∀ c ∈ m, ∀ x ∈ l, c.1 < x.1) :
    l.foldl (fun t c => memSet t c.1 c.2) m = m ++ l := by
  induction l generalizing m with
  | nil => simp
  | cons x l ih =>
    obtain ⟨j, b⟩ := x
    obtain ⟨hb, ha, hr⟩ := (wf_cons j b l).mp hl
    rw [List.foldl_cons, memSet, if_neg hb, memIns_above fun c hc => h c hc (j, b) (List.mem_cons_self ..), ih _ hr]
    · simp
    · intro c hc x hx
      rcases List.mem_append.mp hc with e | e
      · exact h c e x (List.mem_cons_of_mem _ hx)
      · rw [List.mem_singleton] at e; rw [e]; exact ha x hx
theorem filter_below {m : List Host.Cell} (hw : Memory.wf m = true) {a b : Nat} (h : a ≤ b) :
    m.filter (fun c => decide (c.1 < a)) ++ m.filter (fun c => decide (a ≤ c.1) && decide (c.1 < b)) =
      m.filter fun c => decide (c.1 < b) := by
  induction m with
  | nil => rfl
  | cons x r ih =>
    obtain ⟨j, v⟩ := x
    obtain ⟨_, ha, hr⟩ := (wf_cons j v r).mp hw
    by_cases h1 : j < a
    · simp only [List.filter_cons, h1, decide_true, if_true, show ¬ a ≤ j by omega, decide_false, Bool.false_and,
        Bool.false_eq_true, if_false, show j < b by omega, List.cons_append]
      rw [ih hr]
    · have none : r.filter (fun c => decide (c.1 < a)) = [] :=
        List.filter_eq_nil_iff.mpr fun c hc => by have := ha c hc; simp only [decide_eq_true_eq]; omega
      have := ih hr
      rw [none, List.nil_append] at this
      simp only [List.filter_cons, h1, decide_false, Bool.false_eq_true, if_false, none, List.nil_append, this,
        show a ≤ j by omega, decide_true, Bool.true_and]
/-- The cells of a list that lie in the page of number `i`. -/
def Img.page (m : Img) (i : Nat) : Img := m.filter fun c => decide (65536 * i ≤ c.1) && decide (c.1 < 65536 * (i + 1))
theorem Img.pages_from (m : Img) (hw : Memory.wf m = true) (f : Img → Nat → Option Img) (last : Nat)
    (hb : ∀ c ∈ m, c.1 < 65536 * last)
    (hf : ∀ i, i < last → ∀ t, f t i = some ((m.page i).foldl (fun t c => memSet t c.1 c.2) t)) (n i : Nat) (hi : i + n = last) :
    (numsFrom i n).foldlM f (m.filter fun c => decide (c.1 < 65536 * i)) = some m := by
  induction n generalizing i with
  | zero =>
    rw [numsFrom, List.foldlM_nil, List.filter_eq_self.mpr fun c hc => by
      have := hb c hc; rw [← hi] at this; simpa using this]
    rfl
  | succ n ih =>
    rw [numsFrom, List.foldlM_cons, hf i (by omega), Img.page, foldl_memSet_above _ _ (wf_filter _ _ hw),
      filter_below hw (by omega)]
    · exact ih (i + 1) (by omega)
    · intro c hc x hx
      have h1 := (List.mem_filter.mp hc).2
      have h2 := (List.mem_filter.mp hx).2
      simp only [Bool.and_eq_true, decide_eq_true_eq] at h1 h2
      omega
/-- An area of DRAM with no listed code, whose pages stand one after another from key `k`, reads as the image it holds. -/
theorem State.getImage_of (s : State) (d base k : Nat) (m : Img) (hw : Memory.wf m = true) (hb : ∀ c ∈ m, c.1 < 65536 * imgPages)
    (hc : s.codes = []) (hk : ∀ i, i < imgPages → s.dpaCell d (base + 65536 * i) = k + 65536 * i)
    (rest : List Host.Cell) (hr : ∀ c ∈ rest, k + 65536 * imgPages ≤ c.1)
    (hm : s.mem = m.map (fun c => (k + c.1, c.2)) ++ rest) : s.getImage d base = some m := by
  have page : ∀ i, i < imgPages → pageCells s.mem (k + 65536 * i) = (m.page i).map fun c => (k + c.1, c.2) := by
    intro i hi
    have none : rest.filter (fun c => decide (k + 65536 * i ≤ c.1) && decide (c.1 < k + 65536 * i + 65536)) = [] :=
      List.filter_eq_nil_iff.mpr fun c hc => by
        have := hr c hc
        simp only [Bool.and_eq_true, decide_eq_true_eq]; omega
    rw [pageCells, hm, List.filter_append, none, List.append_nil, List.filter_map, Img.page]
    congr 1
    refine List.filter_congr fun c _ => ?_
    rw [Bool.eq_iff_iff]
    simp only [Function.comp, Bool.and_eq_true, decide_eq_true_eq]
    omega
  unfold State.getImage
  have e : ([] : Img) = m.filter fun c => decide (c.1 < 65536 * 0) := (List.filter_eq_nil_iff.mpr fun c _ => by simp).symm
  rw [e]
  refine Img.pages_from m hw _ imgPages hb (fun i hi t => ?_) imgPages 0 (Nat.zero_add _)
  have hcs : pageCodes s.codes (k + 65536 * i) = [] := by rw [hc]; rfl
  simp only [hk i hi, hcs, List.any_nil, List.foldl_nil, Bool.false_eq_true, if_false, page i hi, List.foldl_map]
  congr 1
  have step : ∀ (l t : Img), (∀ c ∈ l, 65536 * i ≤ c.1) →
      l.foldl (fun t c => memSet t (65536 * i + (k + c.1 - (k + 65536 * i))) c.2) t = l.foldl (fun t c => memSet t c.1 c.2) t := by
    intro l
    induction l with
    | nil => intro t _; rfl
    | cons c l ih =>
      intro t h
      have := h c (List.mem_cons_self ..)
      rw [List.foldl_cons, List.foldl_cons, show 65536 * i + (k + c.1 - (k + 65536 * i)) = c.1 by omega]
      exact ih _ fun c hc => h c (List.mem_cons_of_mem _ hc)
  exact step _ t fun c hc => by
    have := (List.mem_filter.mp hc).2
    simp only [Bool.and_eq_true, decide_eq_true_eq] at this
    exact this.1
/-- The DRAM of a die whose area's groups stand where they reset to lies in one stretch of the stack. -/
theorem State.dpaCell_reset (s : State) (d dpa : Nat) (h : s.remapOf d (dpaGroup dpa) = Remap.reset) (hb : dpa < 68719476736) :
    s.dpaCell d dpa = hbmKey d dpa := by
  have hm : dpaMember dpa = 0 := by simp only [dpaMember]; omega
  have hg : dpaGroup dpa * 65536 + dpa % 65536 = dpa := by simp only [dpaGroup]; omega
  simp only [State.dpaCell, h, hm, memberSlot, Remap.reset, if_true, bdaKey, hg]

/-! ### Lists of cells side by side -/

theorem wf_shift (k : Nat) {m : List Host.Cell} (h : Memory.wf m = true) :
    Memory.wf (m.map fun c => (k + c.1, c.2)) = true := by
  induction m with
  | nil => rfl
  | cons x r ih =>
    obtain ⟨j, b⟩ := x
    obtain ⟨hb, ha, hr⟩ := (wf_cons j b r).mp h
    refine (wf_cons _ _ _).mpr ⟨hb, fun c hc => ?_, ih hr⟩
    obtain ⟨y, hy, e⟩ := List.mem_map.mp hc
    have := ha y hy
    rw [← e]; exact Nat.add_lt_add_left this k
theorem wf_append {m t : List Host.Cell} (hm : Memory.wf m = true) (ht : Memory.wf t = true)
    (h : ∀ c ∈ m, ∀ x ∈ t, c.1 < x.1) : Memory.wf (m ++ t) = true := by
  induction m with
  | nil => exact ht
  | cons x r ih =>
    obtain ⟨j, b⟩ := x
    obtain ⟨hb, ha, hr⟩ := (wf_cons j b r).mp hm
    refine (wf_cons _ _ _).mpr ⟨hb, fun c hc => ?_, ih hr fun c hc => h c (List.mem_cons_of_mem _ hc)⟩
    rcases List.mem_append.mp hc with e | e
    · exact ha c e
    · exact h (j, b) (List.mem_cons_self ..) c e
theorem memGet_append {m t : List Host.Cell} {a : Nat} (h : ∀ c ∈ m, c.1 ≠ a) : memGet (m ++ t) a = memGet t a := by
  induction m with
  | nil => rfl
  | cons x r ih =>
    obtain ⟨j, b⟩ := x
    simp only [List.cons_append, memGet, if_neg (show a ≠ j from fun e => h (j, b) (List.mem_cons_self ..) e.symm)]
    exact ih fun c hc => h c (List.mem_cons_of_mem _ hc)

end Sys2Proof.Machine
end

