-- ==== Sys2Proof/Laws/PerInstr.lean ====
section
/-! SUPPORT. One lemma per instruction: its syllable is one word, the decoder of its slot reads it back whole, a header
immediate stands only where its slot takes one, and RPT only beside an MX syllable. -/

set_option Elab.async false
set_option linter.unusedSimpArgs false
set_option linter.constructorNameAsVariable false

namespace Sys2Proof.Laws

/-- What `Encoding` says of an instruction: nothing of a row without a slot. -/
def Encoding.Statement (i : Instr) : Prop :=
  i.wellFormed = true → ∀ s, i.slot = some s →
    encodeSyl i < 4294967296 ∧ decSlot s i.rpt (encodeSyl i) i.ext = some (some i) ∧
      (i.ext ≠ none → takesImm s (BitVec.ofNat 32 (encodeSyl i)) = true) ∧ (i.rpt = .none ∨ s = .mx)

/-- The statement from the values of the encoder's tables. -/
theorem encodingOf {i : Instr} {s : Slot} {w : Nat} {x : Option (BitVec 16)} {r : Rpt} (hs : i.slot = some s)
    (hw : encodeSyl i = w) (hx : i.ext = x) (hr : i.rpt = r) (hl : w < 4294967296)
    (h : i.wellFormed = true → decSlot s r w x = some (some i))
    (ht : x ≠ none → i.wellFormed = true → w < 4294967296 → takesImm s (BitVec.ofNat 32 w) = true) (hm : r = .none ∨ s = .mx) :
    Encoding.Statement i := by
  intro wf s' e
  rw [hs] at e; cases e; rw [hw, hx, hr]
  exact ⟨hl, h wf, fun n => ht n wf hl, hm⟩
/-- The statement of a row without a slot. -/
theorem noEncoding {i : Instr} (h : i.slot = none) : Encoding.Statement i := by
  intro _ _ e; rw [h] at e; cases e

theorem Encoding.add (u : SUnit) (d : Dst) (a : Src) (b : Src) (w : IntW) (sat : Sat) : Encoding.Statement (.add u d a b w sat) := by
  have := encDst_lt d; have := nwDst_lt d; have := encSrc_lt a; have := encSrc_lt b; have := encIntW_lt w; have := encSat_lt sat
  cases u
  case sa =>
    refine encodingOf (s := .sa) (w := encR 0 (encDst d) (encSrc a) (encSrc b) (encSat sat) (nwDst d) (encIntW w)) (x := none) (r := .none) rfl rfl rfl rfl encR_lt (fun wf => ?_) (fun n wf hl => ?_) (Or.inl rfl)
    · have hc : encR 0 (encDst d) (encSrc a) (encSrc b) (encSat sat) (nwDst d) (encIntW w) / 67108864 = 0 := encR_code 
      have hf : RFields.of (encR 0 (encDst d) (encSrc a) (encSrc b) (encSat sat) (nwDst d) (encIntW w)) = _ := encR_fields 
      have hq : encR 0 (encDst d) (encSrc a) (encSrc b) (encSat sat) (nwDst d) (encIntW w) / 4 % 2 = _ := encR_form
      simp only [decSlot]; unfold decScalar; rw [hc]
      show some _ = some _
      simp (disch := omega) [dec_add, hf, hq]
    · exact absurd rfl n
  case sb =>
    refine encodingOf (s := .sb) (w := encR 0 (encDst d) (encSrc a) (encSrc b) (encSat sat) (nwDst d) (encIntW w)) (x := none) (r := .none) rfl rfl rfl rfl encR_lt (fun wf => ?_) (fun n wf hl => ?_) (Or.inl rfl)
    · have hc : encR 0 (encDst d) (encSrc a) (encSrc b) (encSat sat) (nwDst d) (encIntW w) / 67108864 = 0 := encR_code 
      have hf : RFields.of (encR 0 (encDst d) (encSrc a) (encSrc b) (encSat sat) (nwDst d) (encIntW w)) = _ := encR_fields 
      have hq : encR 0 (encDst d) (encSrc a) (encSrc b) (encSat sat) (nwDst d) (encIntW w) / 4 % 2 = _ := encR_form
      simp only [decSlot]; rw [hc, if_pos (by decide)]; unfold decScalar; rw [hc]
      show some _ = some _
      simp (disch := omega) [dec_add, hf, hq]
    · exact absurd rfl n
theorem Encoding.addImm (u : SUnit) (d : Dst) (imm : Imm16) (w : IntW) : Encoding.Statement (.addImm u d imm w) := by
  have := encDst_lt d; have := nwDst_lt d; have := encIntW_lt w
  cases u
  case sa =>
    refine encodingOf (s := .sa) (w := encI 0 (encDst d) imm.lo (nwDst d) (4 + encIntW w)) (x := imm.ext) (r := .none) rfl rfl rfl rfl encI_lt (fun wf => ?_) (fun n wf hl => ?_) (Or.inl rfl)
    · have hc : encI 0 (encDst d) imm.lo (nwDst d) (4 + encIntW w) / 67108864 = 0 := encI_code 
      simp only [decSlot]; unfold decScalar; rw [hc]
      show some _ = some _
      simp (disch := omega) [dec_addImm, encI_dst, encI_n, encI_form, encI_f, encI_low, encI_low8, encI_imm]
    · simp (disch := omega) [takesImm, BitVec.toNat_ofNat, Nat.mod_eq_of_lt hl, encI_code, encI_form]
  case sb =>
    refine encodingOf (s := .sb) (w := encI 0 (encDst d) imm.lo (nwDst d) (4 + encIntW w)) (x := imm.ext) (r := .none) rfl rfl rfl rfl encI_lt (fun wf => ?_) (fun n wf hl => ?_) (Or.inl rfl)
    · have hc : encI 0 (encDst d) imm.lo (nwDst d) (4 + encIntW w) / 67108864 = 0 := encI_code 
      simp only [decSlot]; rw [hc, if_pos (by decide)]; unfold decScalar; rw [hc]
      show some _ = some _
      simp (disch := omega) [dec_addImm, encI_dst, encI_n, encI_form, encI_f, encI_low, encI_low8, encI_imm]
    · simp (disch := omega) [takesImm, BitVec.toNat_ofNat, Nat.mod_eq_of_lt hl, encI_code, encI_form]
theorem Encoding.sub (u : SUnit) (d : Dst) (a : Src) (b : Src) (w : IntW) (sat : Sat) : Encoding.Statement (.sub u d a b w sat) := by
  have := encDst_lt d; have := nwDst_lt d; have := encSrc_lt a; have := encSrc_lt b; have := encIntW_lt w; have := encSat_lt sat
  cases u
  case sa =>
    refine encodingOf (s := .sa) (w := encR 1 (encDst d) (encSrc a) (encSrc b) (encSat sat) (nwDst d) (encIntW w)) (x := none) (r := .none) rfl rfl rfl rfl encR_lt (fun wf => ?_) (fun n wf hl => ?_) (Or.inl rfl)
    · have hc : encR 1 (encDst d) (encSrc a) (encSrc b) (encSat sat) (nwDst d) (encIntW w) / 67108864 = 1 := encR_code 
      have hf : RFields.of (encR 1 (encDst d) (encSrc a) (encSrc b) (encSat sat) (nwDst d) (encIntW w)) = _ := encR_fields 
      have hq : encR 1 (encDst d) (encSrc a) (encSrc b) (encSat sat) (nwDst d) (encIntW w) / 4 % 2 = _ := encR_form
      simp only [decSlot]; unfold decScalar; rw [hc]
      show some _ = some _
      simp (disch := omega) [dec_sub, hf, hq]
    · exact absurd rfl n
  case sb =>
    refine encodingOf (s := .sb) (w := encR 1 (encDst d) (encSrc a) (encSrc b) (encSat sat) (nwDst d) (encIntW w)) (x := none) (r := .none) rfl rfl rfl rfl encR_lt (fun wf => ?_) (fun n wf hl => ?_) (Or.inl rfl)
    · have hc : encR 1 (encDst d) (encSrc a) (encSrc b) (encSat sat) (nwDst d) (encIntW w) / 67108864 = 1 := encR_code 
      have hf : RFields.of (encR 1 (encDst d) (encSrc a) (encSrc b) (encSat sat) (nwDst d) (encIntW w)) = _ := encR_fields 
      have hq : encR 1 (encDst d) (encSrc a) (encSrc b) (encSat sat) (nwDst d) (encIntW w) / 4 % 2 = _ := encR_form
      simp only [decSlot]; rw [hc, if_pos (by decide)]; unfold decScalar; rw [hc]
      show some _ = some _
      simp (disch := omega) [dec_sub, hf, hq]
    · exact absurd rfl n
theorem Encoding.subImm (u : SUnit) (d : Dst) (imm : Imm16) (w : IntW) : Encoding.Statement (.subImm u d imm w) := by
  have := encDst_lt d; have := nwDst_lt d; have := encIntW_lt w
  cases u
  case sa =>
    refine encodingOf (s := .sa) (w := encI 1 (encDst d) imm.lo (nwDst d) (4 + encIntW w)) (x := imm.ext) (r := .none) rfl rfl rfl rfl encI_lt (fun wf => ?_) (fun n wf hl => ?_) (Or.inl rfl)
    · have hc : encI 1 (encDst d) imm.lo (nwDst d) (4 + encIntW w) / 67108864 = 1 := encI_code 
      simp only [decSlot]; unfold decScalar; rw [hc]
      show some _ = some _
      simp (disch := omega) [dec_subImm, encI_dst, encI_n, encI_form, encI_f, encI_low, encI_low8, encI_imm]
    · simp (disch := omega) [takesImm, BitVec.toNat_ofNat, Nat.mod_eq_of_lt hl, encI_code, encI_form]
  case sb =>
    refine encodingOf (s := .sb) (w := encI 1 (encDst d) imm.lo (nwDst d) (4 + encIntW w)) (x := imm.ext) (r := .none) rfl rfl rfl rfl encI_lt (fun wf => ?_) (fun n wf hl => ?_) (Or.inl rfl)
    · have hc : encI 1 (encDst d) imm.lo (nwDst d) (4 + encIntW w) / 67108864 = 1 := encI_code 
      simp only [decSlot]; rw [hc, if_pos (by decide)]; unfold decScalar; rw [hc]
      show some _ = some _
      simp (disch := omega) [dec_subImm, encI_dst, encI_n, encI_form, encI_f, encI_low, encI_low8, encI_imm]
    · simp (disch := omega) [takesImm, BitVec.toNat_ofNat, Nat.mod_eq_of_lt hl, encI_code, encI_form]
theorem Encoding.mul (u : SUnit) (d : Dst) (a : Src) (b : Src) (w : IntW) (sat : Sat) : Encoding.Statement (.mul u d a b w sat) := by
  have := encDst_lt d; have := nwDst_lt d; have := encSrc_lt a; have := encSrc_lt b; have := encIntW_lt w; have := encSat_lt sat
  cases u
  case sa =>
    refine encodingOf (s := .sa) (w := encR 2 (encDst d) (encSrc a) (encSrc b) (encSat sat) (nwDst d) (encIntW w)) (x := none) (r := .none) rfl rfl rfl rfl encR_lt (fun wf => ?_) (fun n wf hl => ?_) (Or.inl rfl)
    · have hc : encR 2 (encDst d) (encSrc a) (encSrc b) (encSat sat) (nwDst d) (encIntW w) / 67108864 = 2 := encR_code 
      have hf : RFields.of (encR 2 (encDst d) (encSrc a) (encSrc b) (encSat sat) (nwDst d) (encIntW w)) = _ := encR_fields 
      have hq : encR 2 (encDst d) (encSrc a) (encSrc b) (encSat sat) (nwDst d) (encIntW w) / 4 % 2 = _ := encR_form
      simp only [decSlot]; unfold decScalar; rw [hc]
      show some _ = some _
      simp (disch := omega) [dec_mul, hf, hq]
    · exact absurd rfl n
  case sb =>
    refine encodingOf (s := .sb) (w := encR 2 (encDst d) (encSrc a) (encSrc b) (encSat sat) (nwDst d) (encIntW w)) (x := none) (r := .none) rfl rfl rfl rfl encR_lt (fun wf => ?_) (fun n wf hl => ?_) (Or.inl rfl)
    · have hc : encR 2 (encDst d) (encSrc a) (encSrc b) (encSat sat) (nwDst d) (encIntW w) / 67108864 = 2 := encR_code 
      have hf : RFields.of (encR 2 (encDst d) (encSrc a) (encSrc b) (encSat sat) (nwDst d) (encIntW w)) = _ := encR_fields 
      have hq : encR 2 (encDst d) (encSrc a) (encSrc b) (encSat sat) (nwDst d) (encIntW w) / 4 % 2 = _ := encR_form
      simp only [decSlot]; rw [hc, if_pos (by decide)]; unfold decScalar; rw [hc]
      show some _ = some _
      simp (disch := omega) [dec_mul, hf, hq]
    · exact absurd rfl n
theorem Encoding.mulImm (u : SUnit) (d : Dst) (imm : Imm16) (w : IntW) : Encoding.Statement (.mulImm u d imm w) := by
  have := encDst_lt d; have := nwDst_lt d; have := encIntW_lt w
  cases u
  case sa =>
    refine encodingOf (s := .sa) (w := encI 2 (encDst d) imm.lo (nwDst d) (4 + encIntW w)) (x := imm.ext) (r := .none) rfl rfl rfl rfl encI_lt (fun wf => ?_) (fun n wf hl => ?_) (Or.inl rfl)
    · have hc : encI 2 (encDst d) imm.lo (nwDst d) (4 + encIntW w) / 67108864 = 2 := encI_code 
      simp only [decSlot]; unfold decScalar; rw [hc]
      show some _ = some _
      simp (disch := omega) [dec_mulImm, encI_dst, encI_n, encI_form, encI_f, encI_low, encI_low8, encI_imm]
    · simp (disch := omega) [takesImm, BitVec.toNat_ofNat, Nat.mod_eq_of_lt hl, encI_code, encI_form]
  case sb =>
    refine encodingOf (s := .sb) (w := encI 2 (encDst d) imm.lo (nwDst d) (4 + encIntW w)) (x := imm.ext) (r := .none) rfl rfl rfl rfl encI_lt (fun wf => ?_) (fun n wf hl => ?_) (Or.inl rfl)
    · have hc : encI 2 (encDst d) imm.lo (nwDst d) (4 + encIntW w) / 67108864 = 2 := encI_code 
      simp only [decSlot]; rw [hc, if_pos (by decide)]; unfold decScalar; rw [hc]
      show some _ = some _
      simp (disch := omega) [dec_mulImm, encI_dst, encI_n, encI_form, encI_f, encI_low, encI_low8, encI_imm]
    · simp (disch := omega) [takesImm, BitVec.toNat_ofNat, Nat.mod_eq_of_lt hl, encI_code, encI_form]
theorem Encoding.mulh (u : SUnit) (d : Dst) (a : Src) (b : Src) (w : IntW) : Encoding.Statement (.mulh u d a b w) := by
  have := encDst_lt d; have := nwDst_lt d; have := encSrc_lt a; have := encSrc_lt b; have := encIntW_lt w
  cases u
  case sa =>
    refine encodingOf (s := .sa) (w := encR 3 (encDst d) (encSrc a) (encSrc b) (0) (nwDst d) (encIntW w)) (x := none) (r := .none) rfl rfl rfl rfl encR_lt (fun wf => ?_) (fun n wf hl => ?_) (Or.inl rfl)
    · have hc : encR 3 (encDst d) (encSrc a) (encSrc b) (0) (nwDst d) (encIntW w) / 67108864 = 3 := encR_code 
      have hf : RFields.of (encR 3 (encDst d) (encSrc a) (encSrc b) (0) (nwDst d) (encIntW w)) = _ := encR_fields 
      have hq : encR 3 (encDst d) (encSrc a) (encSrc b) (0) (nwDst d) (encIntW w) / 4 % 2 = _ := encR_form
      simp only [decSlot]; unfold decScalar; rw [hc]
      show some _ = some _
      simp (disch := omega) [dec_mulh, hf, hq]
    · exact absurd rfl n
  case sb =>
    refine encodingOf (s := .sb) (w := encR 3 (encDst d) (encSrc a) (encSrc b) (0) (nwDst d) (encIntW w)) (x := none) (r := .none) rfl rfl rfl rfl encR_lt (fun wf => ?_) (fun n wf hl => ?_) (Or.inl rfl)
    · have hc : encR 3 (encDst d) (encSrc a) (encSrc b) (0) (nwDst d) (encIntW w) / 67108864 = 3 := encR_code 
      have hf : RFields.of (encR 3 (encDst d) (encSrc a) (encSrc b) (0) (nwDst d) (encIntW w)) = _ := encR_fields 
      have hq : encR 3 (encDst d) (encSrc a) (encSrc b) (0) (nwDst d) (encIntW w) / 4 % 2 = _ := encR_form
      simp only [decSlot]; rw [hc, if_pos (by decide)]; unfold decScalar; rw [hc]
      show some _ = some _
      simp (disch := omega) [dec_mulh, hf, hq]
    · exact absurd rfl n
theorem Encoding.mulhu (u : SUnit) (d : Dst) (a : Src) (b : Src) (w : IntW) : Encoding.Statement (.mulhu u d a b w) := by
  have := encDst_lt d; have := nwDst_lt d; have := encSrc_lt a; have := encSrc_lt b; have := encIntW_lt w
  cases u
  case sa =>
    refine encodingOf (s := .sa) (w := encR 4 (encDst d) (encSrc a) (encSrc b) (0) (nwDst d) (encIntW w)) (x := none) (r := .none) rfl rfl rfl rfl encR_lt (fun wf => ?_) (fun n wf hl => ?_) (Or.inl rfl)
    · have hc : encR 4 (encDst d) (encSrc a) (encSrc b) (0) (nwDst d) (encIntW w) / 67108864 = 4 := encR_code 
      have hf : RFields.of (encR 4 (encDst d) (encSrc a) (encSrc b) (0) (nwDst d) (encIntW w)) = _ := encR_fields 
      have hq : encR 4 (encDst d) (encSrc a) (encSrc b) (0) (nwDst d) (encIntW w) / 4 % 2 = _ := encR_form
      simp only [decSlot]; unfold decScalar; rw [hc]
      show some _ = some _
      simp (disch := omega) [dec_mulhu, hf, hq]
    · exact absurd rfl n
  case sb =>
    refine encodingOf (s := .sb) (w := encR 4 (encDst d) (encSrc a) (encSrc b) (0) (nwDst d) (encIntW w)) (x := none) (r := .none) rfl rfl rfl rfl encR_lt (fun wf => ?_) (fun n wf hl => ?_) (Or.inl rfl)
    · have hc : encR 4 (encDst d) (encSrc a) (encSrc b) (0) (nwDst d) (encIntW w) / 67108864 = 4 := encR_code 
      have hf : RFields.of (encR 4 (encDst d) (encSrc a) (encSrc b) (0) (nwDst d) (encIntW w)) = _ := encR_fields 
      have hq : encR 4 (encDst d) (encSrc a) (encSrc b) (0) (nwDst d) (encIntW w) / 4 % 2 = _ := encR_form
      simp only [decSlot]; rw [hc, if_pos (by decide)]; unfold decScalar; rw [hc]
      show some _ = some _
      simp (disch := omega) [dec_mulhu, hf, hq]
    · exact absurd rfl n
theorem Encoding.and (u : SUnit) (d : Dst) (a : Src) (b : Src) (w : IntW) : Encoding.Statement (.and u d a b w) := by
  have := encDst_lt d; have := nwDst_lt d; have := encSrc_lt a; have := encSrc_lt b; have := encIntW_lt w
  cases u
  case sa =>
    refine encodingOf (s := .sa) (w := encR 5 (encDst d) (encSrc a) (encSrc b) (0) (nwDst d) (encIntW w)) (x := none) (r := .none) rfl rfl rfl rfl encR_lt (fun wf => ?_) (fun n wf hl => ?_) (Or.inl rfl)
    · have hc : encR 5 (encDst d) (encSrc a) (encSrc b) (0) (nwDst d) (encIntW w) / 67108864 = 5 := encR_code 
      have hf : RFields.of (encR 5 (encDst d) (encSrc a) (encSrc b) (0) (nwDst d) (encIntW w)) = _ := encR_fields 
      have hq : encR 5 (encDst d) (encSrc a) (encSrc b) (0) (nwDst d) (encIntW w) / 4 % 2 = _ := encR_form
      simp only [decSlot]; unfold decScalar; rw [hc]
      show some _ = some _
      simp (disch := omega) [dec_and, hf, hq]
    · exact absurd rfl n
  case sb =>
    refine encodingOf (s := .sb) (w := encR 5 (encDst d) (encSrc a) (encSrc b) (0) (nwDst d) (encIntW w)) (x := none) (r := .none) rfl rfl rfl rfl encR_lt (fun wf => ?_) (fun n wf hl => ?_) (Or.inl rfl)
    · have hc : encR 5 (encDst d) (encSrc a) (encSrc b) (0) (nwDst d) (encIntW w) / 67108864 = 5 := encR_code 
      have hf : RFields.of (encR 5 (encDst d) (encSrc a) (encSrc b) (0) (nwDst d) (encIntW w)) = _ := encR_fields 
      have hq : encR 5 (encDst d) (encSrc a) (encSrc b) (0) (nwDst d) (encIntW w) / 4 % 2 = _ := encR_form
      simp only [decSlot]; rw [hc, if_pos (by decide)]; unfold decScalar; rw [hc]
      show some _ = some _
      simp (disch := omega) [dec_and, hf, hq]
    · exact absurd rfl n
theorem Encoding.andImm (u : SUnit) (d : Dst) (imm : Imm16) (w : IntW) : Encoding.Statement (.andImm u d imm w) := by
  have := encDst_lt d; have := nwDst_lt d; have := encIntW_lt w
  cases u
  case sa =>
    refine encodingOf (s := .sa) (w := encI 5 (encDst d) imm.lo (nwDst d) (4 + encIntW w)) (x := imm.ext) (r := .none) rfl rfl rfl rfl encI_lt (fun wf => ?_) (fun n wf hl => ?_) (Or.inl rfl)
    · have hc : encI 5 (encDst d) imm.lo (nwDst d) (4 + encIntW w) / 67108864 = 5 := encI_code 
      simp only [decSlot]; unfold decScalar; rw [hc]
      show some _ = some _
      simp (disch := omega) [dec_andImm, encI_dst, encI_n, encI_form, encI_f, encI_low, encI_low8, encI_imm]
    · simp (disch := omega) [takesImm, BitVec.toNat_ofNat, Nat.mod_eq_of_lt hl, encI_code, encI_form]
  case sb =>
    refine encodingOf (s := .sb) (w := encI 5 (encDst d) imm.lo (nwDst d) (4 + encIntW w)) (x := imm.ext) (r := .none) rfl rfl rfl rfl encI_lt (fun wf => ?_) (fun n wf hl => ?_) (Or.inl rfl)
    · have hc : encI 5 (encDst d) imm.lo (nwDst d) (4 + encIntW w) / 67108864 = 5 := encI_code 
      simp only [decSlot]; rw [hc, if_pos (by decide)]; unfold decScalar; rw [hc]
      show some _ = some _
      simp (disch := omega) [dec_andImm, encI_dst, encI_n, encI_form, encI_f, encI_low, encI_low8, encI_imm]
    · simp (disch := omega) [takesImm, BitVec.toNat_ofNat, Nat.mod_eq_of_lt hl, encI_code, encI_form]
theorem Encoding.or (u : SUnit) (d : Dst) (a : Src) (b : Src) (w : IntW) : Encoding.Statement (.or u d a b w) := by
  have := encDst_lt d; have := nwDst_lt d; have := encSrc_lt a; have := encSrc_lt b; have := encIntW_lt w
  cases u
  case sa =>
    refine encodingOf (s := .sa) (w := encR 6 (encDst d) (encSrc a) (encSrc b) (0) (nwDst d) (encIntW w)) (x := none) (r := .none) rfl rfl rfl rfl encR_lt (fun wf => ?_) (fun n wf hl => ?_) (Or.inl rfl)
    · have hc : encR 6 (encDst d) (encSrc a) (encSrc b) (0) (nwDst d) (encIntW w) / 67108864 = 6 := encR_code 
      have hf : RFields.of (encR 6 (encDst d) (encSrc a) (encSrc b) (0) (nwDst d) (encIntW w)) = _ := encR_fields 
      have hq : encR 6 (encDst d) (encSrc a) (encSrc b) (0) (nwDst d) (encIntW w) / 4 % 2 = _ := encR_form
      simp only [decSlot]; unfold decScalar; rw [hc]
      show some _ = some _
      simp (disch := omega) [dec_or, hf, hq]
    · exact absurd rfl n
  case sb =>
    refine encodingOf (s := .sb) (w := encR 6 (encDst d) (encSrc a) (encSrc b) (0) (nwDst d) (encIntW w)) (x := none) (r := .none) rfl rfl rfl rfl encR_lt (fun wf => ?_) (fun n wf hl => ?_) (Or.inl rfl)
    · have hc : encR 6 (encDst d) (encSrc a) (encSrc b) (0) (nwDst d) (encIntW w) / 67108864 = 6 := encR_code 
      have hf : RFields.of (encR 6 (encDst d) (encSrc a) (encSrc b) (0) (nwDst d) (encIntW w)) = _ := encR_fields 
      have hq : encR 6 (encDst d) (encSrc a) (encSrc b) (0) (nwDst d) (encIntW w) / 4 % 2 = _ := encR_form
      simp only [decSlot]; rw [hc, if_pos (by decide)]; unfold decScalar; rw [hc]
      show some _ = some _
      simp (disch := omega) [dec_or, hf, hq]
    · exact absurd rfl n
theorem Encoding.orImm (u : SUnit) (d : Dst) (imm : Imm16) (w : IntW) : Encoding.Statement (.orImm u d imm w) := by
  have := encDst_lt d; have := nwDst_lt d; have := encIntW_lt w
  cases u
  case sa =>
    refine encodingOf (s := .sa) (w := encI 6 (encDst d) imm.lo (nwDst d) (4 + encIntW w)) (x := imm.ext) (r := .none) rfl rfl rfl rfl encI_lt (fun wf => ?_) (fun n wf hl => ?_) (Or.inl rfl)
    · have hc : encI 6 (encDst d) imm.lo (nwDst d) (4 + encIntW w) / 67108864 = 6 := encI_code 
      simp only [decSlot]; unfold decScalar; rw [hc]
      show some _ = some _
      simp (disch := omega) [dec_orImm, encI_dst, encI_n, encI_form, encI_f, encI_low, encI_low8, encI_imm]
    · simp (disch := omega) [takesImm, BitVec.toNat_ofNat, Nat.mod_eq_of_lt hl, encI_code, encI_form]
  case sb =>
    refine encodingOf (s := .sb) (w := encI 6 (encDst d) imm.lo (nwDst d) (4 + encIntW w)) (x := imm.ext) (r := .none) rfl rfl rfl rfl encI_lt (fun wf => ?_) (fun n wf hl => ?_) (Or.inl rfl)
    · have hc : encI 6 (encDst d) imm.lo (nwDst d) (4 + encIntW w) / 67108864 = 6 := encI_code 
      simp only [decSlot]; rw [hc, if_pos (by decide)]; unfold decScalar; rw [hc]
      show some _ = some _
      simp (disch := omega) [dec_orImm, encI_dst, encI_n, encI_form, encI_f, encI_low, encI_low8, encI_imm]
    · simp (disch := omega) [takesImm, BitVec.toNat_ofNat, Nat.mod_eq_of_lt hl, encI_code, encI_form]
theorem Encoding.xor (u : SUnit) (d : Dst) (a : Src) (b : Src) (w : IntW) : Encoding.Statement (.xor u d a b w) := by
  have := encDst_lt d; have := nwDst_lt d; have := encSrc_lt a; have := encSrc_lt b; have := encIntW_lt w
  cases u
  case sa =>
    refine encodingOf (s := .sa) (w := encR 7 (encDst d) (encSrc a) (encSrc b) (0) (nwDst d) (encIntW w)) (x := none) (r := .none) rfl rfl rfl rfl encR_lt (fun wf => ?_) (fun n wf hl => ?_) (Or.inl rfl)
    · have hc : encR 7 (encDst d) (encSrc a) (encSrc b) (0) (nwDst d) (encIntW w) / 67108864 = 7 := encR_code 
      have hf : RFields.of (encR 7 (encDst d) (encSrc a) (encSrc b) (0) (nwDst d) (encIntW w)) = _ := encR_fields 
      have hq : encR 7 (encDst d) (encSrc a) (encSrc b) (0) (nwDst d) (encIntW w) / 4 % 2 = _ := encR_form
      simp only [decSlot]; unfold decScalar; rw [hc]
      show some _ = some _
      simp (disch := omega) [dec_xor, hf, hq]
    · exact absurd rfl n
  case sb =>
    refine encodingOf (s := .sb) (w := encR 7 (encDst d) (encSrc a) (encSrc b) (0) (nwDst d) (encIntW w)) (x := none) (r := .none) rfl rfl rfl rfl encR_lt (fun wf => ?_) (fun n wf hl => ?_) (Or.inl rfl)
    · have hc : encR 7 (encDst d) (encSrc a) (encSrc b) (0) (nwDst d) (encIntW w) / 67108864 = 7 := encR_code 
      have hf : RFields.of (encR 7 (encDst d) (encSrc a) (encSrc b) (0) (nwDst d) (encIntW w)) = _ := encR_fields 
      have hq : encR 7 (encDst d) (encSrc a) (encSrc b) (0) (nwDst d) (encIntW w) / 4 % 2 = _ := encR_form
      simp only [decSlot]; rw [hc, if_pos (by decide)]; unfold decScalar; rw [hc]
      show some _ = some _
      simp (disch := omega) [dec_xor, hf, hq]
    · exact absurd rfl n
theorem Encoding.xorImm (u : SUnit) (d : Dst) (imm : Imm16) (w : IntW) : Encoding.Statement (.xorImm u d imm w) := by
  have := encDst_lt d; have := nwDst_lt d; have := encIntW_lt w
  cases u
  case sa =>
    refine encodingOf (s := .sa) (w := encI 7 (encDst d) imm.lo (nwDst d) (4 + encIntW w)) (x := imm.ext) (r := .none) rfl rfl rfl rfl encI_lt (fun wf => ?_) (fun n wf hl => ?_) (Or.inl rfl)
    · have hc : encI 7 (encDst d) imm.lo (nwDst d) (4 + encIntW w) / 67108864 = 7 := encI_code 
      simp only [decSlot]; unfold decScalar; rw [hc]
      show some _ = some _
      simp (disch := omega) [dec_xorImm, encI_dst, encI_n, encI_form, encI_f, encI_low, encI_low8, encI_imm]
    · simp (disch := omega) [takesImm, BitVec.toNat_ofNat, Nat.mod_eq_of_lt hl, encI_code, encI_form]
  case sb =>
    refine encodingOf (s := .sb) (w := encI 7 (encDst d) imm.lo (nwDst d) (4 + encIntW w)) (x := imm.ext) (r := .none) rfl rfl rfl rfl encI_lt (fun wf => ?_) (fun n wf hl => ?_) (Or.inl rfl)
    · have hc : encI 7 (encDst d) imm.lo (nwDst d) (4 + encIntW w) / 67108864 = 7 := encI_code 
      simp only [decSlot]; rw [hc, if_pos (by decide)]; unfold decScalar; rw [hc]
      show some _ = some _
      simp (disch := omega) [dec_xorImm, encI_dst, encI_n, encI_form, encI_f, encI_low, encI_low8, encI_imm]
    · simp (disch := omega) [takesImm, BitVec.toNat_ofNat, Nat.mod_eq_of_lt hl, encI_code, encI_form]
theorem Encoding.andn (u : SUnit) (d : Dst) (a : Src) (b : Src) (w : IntW) : Encoding.Statement (.andn u d a b w) := by
  have := encDst_lt d; have := nwDst_lt d; have := encSrc_lt a; have := encSrc_lt b; have := encIntW_lt w
  cases u
  case sa =>
    refine encodingOf (s := .sa) (w := encR 8 (encDst d) (encSrc a) (encSrc b) (0) (nwDst d) (encIntW w)) (x := none) (r := .none) rfl rfl rfl rfl encR_lt (fun wf => ?_) (fun n wf hl => ?_) (Or.inl rfl)
    · have hc : encR 8 (encDst d) (encSrc a) (encSrc b) (0) (nwDst d) (encIntW w) / 67108864 = 8 := encR_code 
      have hf : RFields.of (encR 8 (encDst d) (encSrc a) (encSrc b) (0) (nwDst d) (encIntW w)) = _ := encR_fields 
      have hq : encR 8 (encDst d) (encSrc a) (encSrc b) (0) (nwDst d) (encIntW w) / 4 % 2 = _ := encR_form
      simp only [decSlot]; unfold decScalar; rw [hc]
      show some _ = some _
      simp (disch := omega) [dec_andn, hf, hq]
    · exact absurd rfl n
  case sb =>
    refine encodingOf (s := .sb) (w := encR 8 (encDst d) (encSrc a) (encSrc b) (0) (nwDst d) (encIntW w)) (x := none) (r := .none) rfl rfl rfl rfl encR_lt (fun wf => ?_) (fun n wf hl => ?_) (Or.inl rfl)
    · have hc : encR 8 (encDst d) (encSrc a) (encSrc b) (0) (nwDst d) (encIntW w) / 67108864 = 8 := encR_code 
      have hf : RFields.of (encR 8 (encDst d) (encSrc a) (encSrc b) (0) (nwDst d) (encIntW w)) = _ := encR_fields 
      have hq : encR 8 (encDst d) (encSrc a) (encSrc b) (0) (nwDst d) (encIntW w) / 4 % 2 = _ := encR_form
      simp only [decSlot]; rw [hc, if_pos (by decide)]; unfold decScalar; rw [hc]
      show some _ = some _
      simp (disch := omega) [dec_andn, hf, hq]
    · exact absurd rfl n
theorem Encoding.andnImm (u : SUnit) (d : Dst) (imm : Imm16) (w : IntW) : Encoding.Statement (.andnImm u d imm w) := by
  have := encDst_lt d; have := nwDst_lt d; have := encIntW_lt w
  cases u
  case sa =>
    refine encodingOf (s := .sa) (w := encI 8 (encDst d) imm.lo (nwDst d) (4 + encIntW w)) (x := imm.ext) (r := .none) rfl rfl rfl rfl encI_lt (fun wf => ?_) (fun n wf hl => ?_) (Or.inl rfl)
    · have hc : encI 8 (encDst d) imm.lo (nwDst d) (4 + encIntW w) / 67108864 = 8 := encI_code 
      simp only [decSlot]; unfold decScalar; rw [hc]
      show some _ = some _
      simp (disch := omega) [dec_andnImm, encI_dst, encI_n, encI_form, encI_f, encI_low, encI_low8, encI_imm]
    · simp (disch := omega) [takesImm, BitVec.toNat_ofNat, Nat.mod_eq_of_lt hl, encI_code, encI_form]
  case sb =>
    refine encodingOf (s := .sb) (w := encI 8 (encDst d) imm.lo (nwDst d) (4 + encIntW w)) (x := imm.ext) (r := .none) rfl rfl rfl rfl encI_lt (fun wf => ?_) (fun n wf hl => ?_) (Or.inl rfl)
    · have hc : encI 8 (encDst d) imm.lo (nwDst d) (4 + encIntW w) / 67108864 = 8 := encI_code 
      simp only [decSlot]; rw [hc, if_pos (by decide)]; unfold decScalar; rw [hc]
      show some _ = some _
      simp (disch := omega) [dec_andnImm, encI_dst, encI_n, encI_form, encI_f, encI_low, encI_low8, encI_imm]
    · simp (disch := omega) [takesImm, BitVec.toNat_ofNat, Nat.mod_eq_of_lt hl, encI_code, encI_form]
theorem Encoding.shl (u : SUnit) (d : Dst) (a : Src) (b : Src) (w : IntW) : Encoding.Statement (.shl u d a b w) := by
  have := encDst_lt d; have := nwDst_lt d; have := encSrc_lt a; have := encSrc_lt b; have := encIntW_lt w
  cases u
  case sa =>
    refine encodingOf (s := .sa) (w := encR 9 (encDst d) (encSrc a) (encSrc b) (0) (nwDst d) (encIntW w)) (x := none) (r := .none) rfl rfl rfl rfl encR_lt (fun wf => ?_) (fun n wf hl => ?_) (Or.inl rfl)
    · have hc : encR 9 (encDst d) (encSrc a) (encSrc b) (0) (nwDst d) (encIntW w) / 67108864 = 9 := encR_code 
      have hf : RFields.of (encR 9 (encDst d) (encSrc a) (encSrc b) (0) (nwDst d) (encIntW w)) = _ := encR_fields 
      have hq : encR 9 (encDst d) (encSrc a) (encSrc b) (0) (nwDst d) (encIntW w) / 4 % 2 = _ := encR_form
      simp only [decSlot]; unfold decScalar; rw [hc]
      show some _ = some _
      simp (disch := omega) [dec_shl, hf, hq]
    · exact absurd rfl n
  case sb =>
    refine encodingOf (s := .sb) (w := encR 9 (encDst d) (encSrc a) (encSrc b) (0) (nwDst d) (encIntW w)) (x := none) (r := .none) rfl rfl rfl rfl encR_lt (fun wf => ?_) (fun n wf hl => ?_) (Or.inl rfl)
    · have hc : encR 9 (encDst d) (encSrc a) (encSrc b) (0) (nwDst d) (encIntW w) / 67108864 = 9 := encR_code 
      have hf : RFields.of (encR 9 (encDst d) (encSrc a) (encSrc b) (0) (nwDst d) (encIntW w)) = _ := encR_fields 
      have hq : encR 9 (encDst d) (encSrc a) (encSrc b) (0) (nwDst d) (encIntW w) / 4 % 2 = _ := encR_form
      simp only [decSlot]; rw [hc, if_pos (by decide)]; unfold decScalar; rw [hc]
      show some _ = some _
      simp (disch := omega) [dec_shl, hf, hq]
    · exact absurd rfl n
theorem Encoding.shlImm (u : SUnit) (d : Dst) (imm : Imm16) (w : IntW) : Encoding.Statement (.shlImm u d imm w) := by
  have := encDst_lt d; have := nwDst_lt d; have := encIntW_lt w
  cases u
  case sa =>
    refine encodingOf (s := .sa) (w := encI 9 (encDst d) imm.lo (nwDst d) (4 + encIntW w)) (x := imm.ext) (r := .none) rfl rfl rfl rfl encI_lt (fun wf => ?_) (fun n wf hl => ?_) (Or.inl rfl)
    · have hc : encI 9 (encDst d) imm.lo (nwDst d) (4 + encIntW w) / 67108864 = 9 := encI_code 
      simp only [decSlot]; unfold decScalar; rw [hc]
      show some _ = some _
      simp (disch := omega) [dec_shlImm, encI_dst, encI_n, encI_form, encI_f, encI_low, encI_low8, encI_imm]
    · simp (disch := omega) [takesImm, BitVec.toNat_ofNat, Nat.mod_eq_of_lt hl, encI_code, encI_form]
  case sb =>
    refine encodingOf (s := .sb) (w := encI 9 (encDst d) imm.lo (nwDst d) (4 + encIntW w)) (x := imm.ext) (r := .none) rfl rfl rfl rfl encI_lt (fun wf => ?_) (fun n wf hl => ?_) (Or.inl rfl)
    · have hc : encI 9 (encDst d) imm.lo (nwDst d) (4 + encIntW w) / 67108864 = 9 := encI_code 
      simp only [decSlot]; rw [hc, if_pos (by decide)]; unfold decScalar; rw [hc]
      show some _ = some _
      simp (disch := omega) [dec_shlImm, encI_dst, encI_n, encI_form, encI_f, encI_low, encI_low8, encI_imm]
    · simp (disch := omega) [takesImm, BitVec.toNat_ofNat, Nat.mod_eq_of_lt hl, encI_code, encI_form]
theorem Encoding.shr (u : SUnit) (d : Dst) (a : Src) (b : Src) (w : IntW) : Encoding.Statement (.shr u d a b w) := by
  have := encDst_lt d; have := nwDst_lt d; have := encSrc_lt a; have := encSrc_lt b; have := encIntW_lt w
  cases u
  case sa =>
    refine encodingOf (s := .sa) (w := encR 10 (encDst d) (encSrc a) (encSrc b) (0) (nwDst d) (encIntW w)) (x := none) (r := .none) rfl rfl rfl rfl encR_lt (fun wf => ?_) (fun n wf hl => ?_) (Or.inl rfl)
    · have hc : encR 10 (encDst d) (encSrc a) (encSrc b) (0) (nwDst d) (encIntW w) / 67108864 = 10 := encR_code 
      have hf : RFields.of (encR 10 (encDst d) (encSrc a) (encSrc b) (0) (nwDst d) (encIntW w)) = _ := encR_fields 
      have hq : encR 10 (encDst d) (encSrc a) (encSrc b) (0) (nwDst d) (encIntW w) / 4 % 2 = _ := encR_form
      simp only [decSlot]; unfold decScalar; rw [hc]
      show some _ = some _
      simp (disch := omega) [dec_shr, hf, hq]
    · exact absurd rfl n
  case sb =>
    refine encodingOf (s := .sb) (w := encR 10 (encDst d) (encSrc a) (encSrc b) (0) (nwDst d) (encIntW w)) (x := none) (r := .none) rfl rfl rfl rfl encR_lt (fun wf => ?_) (fun n wf hl => ?_) (Or.inl rfl)
    · have hc : encR 10 (encDst d) (encSrc a) (encSrc b) (0) (nwDst d) (encIntW w) / 67108864 = 10 := encR_code 
      have hf : RFields.of (encR 10 (encDst d) (encSrc a) (encSrc b) (0) (nwDst d) (encIntW w)) = _ := encR_fields 
      have hq : encR 10 (encDst d) (encSrc a) (encSrc b) (0) (nwDst d) (encIntW w) / 4 % 2 = _ := encR_form
      simp only [decSlot]; rw [hc, if_pos (by decide)]; unfold decScalar; rw [hc]
      show some _ = some _
      simp (disch := omega) [dec_shr, hf, hq]
    · exact absurd rfl n
theorem Encoding.shrImm (u : SUnit) (d : Dst) (imm : Imm16) (w : IntW) : Encoding.Statement (.shrImm u d imm w) := by
  have := encDst_lt d; have := nwDst_lt d; have := encIntW_lt w
  cases u
  case sa =>
    refine encodingOf (s := .sa) (w := encI 10 (encDst d) imm.lo (nwDst d) (4 + encIntW w)) (x := imm.ext) (r := .none) rfl rfl rfl rfl encI_lt (fun wf => ?_) (fun n wf hl => ?_) (Or.inl rfl)
    · have hc : encI 10 (encDst d) imm.lo (nwDst d) (4 + encIntW w) / 67108864 = 10 := encI_code 
      simp only [decSlot]; unfold decScalar; rw [hc]
      show some _ = some _
      simp (disch := omega) [dec_shrImm, encI_dst, encI_n, encI_form, encI_f, encI_low, encI_low8, encI_imm]
    · simp (disch := omega) [takesImm, BitVec.toNat_ofNat, Nat.mod_eq_of_lt hl, encI_code, encI_form]
  case sb =>
    refine encodingOf (s := .sb) (w := encI 10 (encDst d) imm.lo (nwDst d) (4 + encIntW w)) (x := imm.ext) (r := .none) rfl rfl rfl rfl encI_lt (fun wf => ?_) (fun n wf hl => ?_) (Or.inl rfl)
    · have hc : encI 10 (encDst d) imm.lo (nwDst d) (4 + encIntW w) / 67108864 = 10 := encI_code 
      simp only [decSlot]; rw [hc, if_pos (by decide)]; unfold decScalar; rw [hc]
      show some _ = some _
      simp (disch := omega) [dec_shrImm, encI_dst, encI_n, encI_form, encI_f, encI_low, encI_low8, encI_imm]
    · simp (disch := omega) [takesImm, BitVec.toNat_ofNat, Nat.mod_eq_of_lt hl, encI_code, encI_form]
theorem Encoding.sra (u : SUnit) (d : Dst) (a : Src) (b : Src) (w : IntW) : Encoding.Statement (.sra u d a b w) := by
  have := encDst_lt d; have := nwDst_lt d; have := encSrc_lt a; have := encSrc_lt b; have := encIntW_lt w
  cases u
  case sa =>
    refine encodingOf (s := .sa) (w := encR 11 (encDst d) (encSrc a) (encSrc b) (0) (nwDst d) (encIntW w)) (x := none) (r := .none) rfl rfl rfl rfl encR_lt (fun wf => ?_) (fun n wf hl => ?_) (Or.inl rfl)
    · have hc : encR 11 (encDst d) (encSrc a) (encSrc b) (0) (nwDst d) (encIntW w) / 67108864 = 11 := encR_code 
      have hf : RFields.of (encR 11 (encDst d) (encSrc a) (encSrc b) (0) (nwDst d) (encIntW w)) = _ := encR_fields 
      have hq : encR 11 (encDst d) (encSrc a) (encSrc b) (0) (nwDst d) (encIntW w) / 4 % 2 = _ := encR_form
      simp only [decSlot]; unfold decScalar; rw [hc]
      show some _ = some _
      simp (disch := omega) [dec_sra, hf, hq]
    · exact absurd rfl n
  case sb =>
    refine encodingOf (s := .sb) (w := encR 11 (encDst d) (encSrc a) (encSrc b) (0) (nwDst d) (encIntW w)) (x := none) (r := .none) rfl rfl rfl rfl encR_lt (fun wf => ?_) (fun n wf hl => ?_) (Or.inl rfl)
    · have hc : encR 11 (encDst d) (encSrc a) (encSrc b) (0) (nwDst d) (encIntW w) / 67108864 = 11 := encR_code 
      have hf : RFields.of (encR 11 (encDst d) (encSrc a) (encSrc b) (0) (nwDst d) (encIntW w)) = _ := encR_fields 
      have hq : encR 11 (encDst d) (encSrc a) (encSrc b) (0) (nwDst d) (encIntW w) / 4 % 2 = _ := encR_form
      simp only [decSlot]; rw [hc, if_pos (by decide)]; unfold decScalar; rw [hc]
      show some _ = some _
      simp (disch := omega) [dec_sra, hf, hq]
    · exact absurd rfl n
theorem Encoding.sraImm (u : SUnit) (d : Dst) (imm : Imm16) (w : IntW) : Encoding.Statement (.sraImm u d imm w) := by
  have := encDst_lt d; have := nwDst_lt d; have := encIntW_lt w
  cases u
  case sa =>
    refine encodingOf (s := .sa) (w := encI 11 (encDst d) imm.lo (nwDst d) (4 + encIntW w)) (x := imm.ext) (r := .none) rfl rfl rfl rfl encI_lt (fun wf => ?_) (fun n wf hl => ?_) (Or.inl rfl)
    · have hc : encI 11 (encDst d) imm.lo (nwDst d) (4 + encIntW w) / 67108864 = 11 := encI_code 
      simp only [decSlot]; unfold decScalar; rw [hc]
      show some _ = some _
      simp (disch := omega) [dec_sraImm, encI_dst, encI_n, encI_form, encI_f, encI_low, encI_low8, encI_imm]
    · simp (disch := omega) [takesImm, BitVec.toNat_ofNat, Nat.mod_eq_of_lt hl, encI_code, encI_form]
  case sb =>
    refine encodingOf (s := .sb) (w := encI 11 (encDst d) imm.lo (nwDst d) (4 + encIntW w)) (x := imm.ext) (r := .none) rfl rfl rfl rfl encI_lt (fun wf => ?_) (fun n wf hl => ?_) (Or.inl rfl)
    · have hc : encI 11 (encDst d) imm.lo (nwDst d) (4 + encIntW w) / 67108864 = 11 := encI_code 
      simp only [decSlot]; rw [hc, if_pos (by decide)]; unfold decScalar; rw [hc]
      show some _ = some _
      simp (disch := omega) [dec_sraImm, encI_dst, encI_n, encI_form, encI_f, encI_low, encI_low8, encI_imm]
    · simp (disch := omega) [takesImm, BitVec.toNat_ofNat, Nat.mod_eq_of_lt hl, encI_code, encI_form]
theorem Encoding.rot (u : SUnit) (d : Dst) (a : Src) (b : Src) (w : IntW) : Encoding.Statement (.rot u d a b w) := by
  have := encDst_lt d; have := nwDst_lt d; have := encSrc_lt a; have := encSrc_lt b; have := encIntW_lt w
  cases u
  case sa =>
    refine encodingOf (s := .sa) (w := encR 12 (encDst d) (encSrc a) (encSrc b) (0) (nwDst d) (encIntW w)) (x := none) (r := .none) rfl rfl rfl rfl encR_lt (fun wf => ?_) (fun n wf hl => ?_) (Or.inl rfl)
    · have hc : encR 12 (encDst d) (encSrc a) (encSrc b) (0) (nwDst d) (encIntW w) / 67108864 = 12 := encR_code 
      have hf : RFields.of (encR 12 (encDst d) (encSrc a) (encSrc b) (0) (nwDst d) (encIntW w)) = _ := encR_fields 
      have hq : encR 12 (encDst d) (encSrc a) (encSrc b) (0) (nwDst d) (encIntW w) / 4 % 2 = _ := encR_form
      simp only [decSlot]; unfold decScalar; rw [hc]
      show some _ = some _
      simp (disch := omega) [dec_rot, hf, hq]
    · exact absurd rfl n
  case sb =>
    refine encodingOf (s := .sb) (w := encR 12 (encDst d) (encSrc a) (encSrc b) (0) (nwDst d) (encIntW w)) (x := none) (r := .none) rfl rfl rfl rfl encR_lt (fun wf => ?_) (fun n wf hl => ?_) (Or.inl rfl)
    · have hc : encR 12 (encDst d) (encSrc a) (encSrc b) (0) (nwDst d) (encIntW w) / 67108864 = 12 := encR_code 
      have hf : RFields.of (encR 12 (encDst d) (encSrc a) (encSrc b) (0) (nwDst d) (encIntW w)) = _ := encR_fields 
      have hq : encR 12 (encDst d) (encSrc a) (encSrc b) (0) (nwDst d) (encIntW w) / 4 % 2 = _ := encR_form
      simp only [decSlot]; rw [hc, if_pos (by decide)]; unfold decScalar; rw [hc]
      show some _ = some _
      simp (disch := omega) [dec_rot, hf, hq]
    · exact absurd rfl n
theorem Encoding.rotImm (u : SUnit) (d : Dst) (imm : Imm16) (w : IntW) : Encoding.Statement (.rotImm u d imm w) := by
  have := encDst_lt d; have := nwDst_lt d; have := encIntW_lt w
  cases u
  case sa =>
    refine encodingOf (s := .sa) (w := encI 12 (encDst d) imm.lo (nwDst d) (4 + encIntW w)) (x := imm.ext) (r := .none) rfl rfl rfl rfl encI_lt (fun wf => ?_) (fun n wf hl => ?_) (Or.inl rfl)
    · have hc : encI 12 (encDst d) imm.lo (nwDst d) (4 + encIntW w) / 67108864 = 12 := encI_code 
      simp only [decSlot]; unfold decScalar; rw [hc]
      show some _ = some _
      simp (disch := omega) [dec_rotImm, encI_dst, encI_n, encI_form, encI_f, encI_low, encI_low8, encI_imm]
    · simp (disch := omega) [takesImm, BitVec.toNat_ofNat, Nat.mod_eq_of_lt hl, encI_code, encI_form]
  case sb =>
    refine encodingOf (s := .sb) (w := encI 12 (encDst d) imm.lo (nwDst d) (4 + encIntW w)) (x := imm.ext) (r := .none) rfl rfl rfl rfl encI_lt (fun wf => ?_) (fun n wf hl => ?_) (Or.inl rfl)
    · have hc : encI 12 (encDst d) imm.lo (nwDst d) (4 + encIntW w) / 67108864 = 12 := encI_code 
      simp only [decSlot]; rw [hc, if_pos (by decide)]; unfold decScalar; rw [hc]
      show some _ = some _
      simp (disch := omega) [dec_rotImm, encI_dst, encI_n, encI_form, encI_f, encI_low, encI_low8, encI_imm]
    · simp (disch := omega) [takesImm, BitVec.toNat_ofNat, Nat.mod_eq_of_lt hl, encI_code, encI_form]
theorem Encoding.min (u : SUnit) (d : Dst) (a : Src) (b : Src) (w : IntW) : Encoding.Statement (.min u d a b w) := by
  have := encDst_lt d; have := nwDst_lt d; have := encSrc_lt a; have := encSrc_lt b; have := encIntW_lt w
  cases u
  case sa =>
    refine encodingOf (s := .sa) (w := encR 13 (encDst d) (encSrc a) (encSrc b) (0) (nwDst d) (encIntW w)) (x := none) (r := .none) rfl rfl rfl rfl encR_lt (fun wf => ?_) (fun n wf hl => ?_) (Or.inl rfl)
    · have hc : encR 13 (encDst d) (encSrc a) (encSrc b) (0) (nwDst d) (encIntW w) / 67108864 = 13 := encR_code 
      have hf : RFields.of (encR 13 (encDst d) (encSrc a) (encSrc b) (0) (nwDst d) (encIntW w)) = _ := encR_fields 
      have hq : encR 13 (encDst d) (encSrc a) (encSrc b) (0) (nwDst d) (encIntW w) / 4 % 2 = _ := encR_form
      simp only [decSlot]; unfold decScalar; rw [hc]
      show some _ = some _
      simp (disch := omega) [dec_min, hf, hq]
    · exact absurd rfl n
  case sb =>
    refine encodingOf (s := .sb) (w := encR 13 (encDst d) (encSrc a) (encSrc b) (0) (nwDst d) (encIntW w)) (x := none) (r := .none) rfl rfl rfl rfl encR_lt (fun wf => ?_) (fun n wf hl => ?_) (Or.inl rfl)
    · have hc : encR 13 (encDst d) (encSrc a) (encSrc b) (0) (nwDst d) (encIntW w) / 67108864 = 13 := encR_code 
      have hf : RFields.of (encR 13 (encDst d) (encSrc a) (encSrc b) (0) (nwDst d) (encIntW w)) = _ := encR_fields 
      have hq : encR 13 (encDst d) (encSrc a) (encSrc b) (0) (nwDst d) (encIntW w) / 4 % 2 = _ := encR_form
      simp only [decSlot]; rw [hc, if_pos (by decide)]; unfold decScalar; rw [hc]
      show some _ = some _
      simp (disch := omega) [dec_min, hf, hq]
    · exact absurd rfl n
theorem Encoding.minImm (u : SUnit) (d : Dst) (imm : Imm16) (w : IntW) : Encoding.Statement (.minImm u d imm w) := by
  have := encDst_lt d; have := nwDst_lt d; have := encIntW_lt w
  cases u
  case sa =>
    refine encodingOf (s := .sa) (w := encI 13 (encDst d) imm.lo (nwDst d) (4 + encIntW w)) (x := imm.ext) (r := .none) rfl rfl rfl rfl encI_lt (fun wf => ?_) (fun n wf hl => ?_) (Or.inl rfl)
    · have hc : encI 13 (encDst d) imm.lo (nwDst d) (4 + encIntW w) / 67108864 = 13 := encI_code 
      simp only [decSlot]; unfold decScalar; rw [hc]
      show some _ = some _
      simp (disch := omega) [dec_minImm, encI_dst, encI_n, encI_form, encI_f, encI_low, encI_low8, encI_imm]
    · simp (disch := omega) [takesImm, BitVec.toNat_ofNat, Nat.mod_eq_of_lt hl, encI_code, encI_form]
  case sb =>
    refine encodingOf (s := .sb) (w := encI 13 (encDst d) imm.lo (nwDst d) (4 + encIntW w)) (x := imm.ext) (r := .none) rfl rfl rfl rfl encI_lt (fun wf => ?_) (fun n wf hl => ?_) (Or.inl rfl)
    · have hc : encI 13 (encDst d) imm.lo (nwDst d) (4 + encIntW w) / 67108864 = 13 := encI_code 
      simp only [decSlot]; rw [hc, if_pos (by decide)]; unfold decScalar; rw [hc]
      show some _ = some _
      simp (disch := omega) [dec_minImm, encI_dst, encI_n, encI_form, encI_f, encI_low, encI_low8, encI_imm]
    · simp (disch := omega) [takesImm, BitVec.toNat_ofNat, Nat.mod_eq_of_lt hl, encI_code, encI_form]
theorem Encoding.max (u : SUnit) (d : Dst) (a : Src) (b : Src) (w : IntW) : Encoding.Statement (.max u d a b w) := by
  have := encDst_lt d; have := nwDst_lt d; have := encSrc_lt a; have := encSrc_lt b; have := encIntW_lt w
  cases u
  case sa =>
    refine encodingOf (s := .sa) (w := encR 14 (encDst d) (encSrc a) (encSrc b) (0) (nwDst d) (encIntW w)) (x := none) (r := .none) rfl rfl rfl rfl encR_lt (fun wf => ?_) (fun n wf hl => ?_) (Or.inl rfl)
    · have hc : encR 14 (encDst d) (encSrc a) (encSrc b) (0) (nwDst d) (encIntW w) / 67108864 = 14 := encR_code 
      have hf : RFields.of (encR 14 (encDst d) (encSrc a) (encSrc b) (0) (nwDst d) (encIntW w)) = _ := encR_fields 
      have hq : encR 14 (encDst d) (encSrc a) (encSrc b) (0) (nwDst d) (encIntW w) / 4 % 2 = _ := encR_form
      simp only [decSlot]; unfold decScalar; rw [hc]
      show some _ = some _
      simp (disch := omega) [dec_max, hf, hq]
    · exact absurd rfl n
  case sb =>
    refine encodingOf (s := .sb) (w := encR 14 (encDst d) (encSrc a) (encSrc b) (0) (nwDst d) (encIntW w)) (x := none) (r := .none) rfl rfl rfl rfl encR_lt (fun wf => ?_) (fun n wf hl => ?_) (Or.inl rfl)
    · have hc : encR 14 (encDst d) (encSrc a) (encSrc b) (0) (nwDst d) (encIntW w) / 67108864 = 14 := encR_code 
      have hf : RFields.of (encR 14 (encDst d) (encSrc a) (encSrc b) (0) (nwDst d) (encIntW w)) = _ := encR_fields 
      have hq : encR 14 (encDst d) (encSrc a) (encSrc b) (0) (nwDst d) (encIntW w) / 4 % 2 = _ := encR_form
      simp only [decSlot]; rw [hc, if_pos (by decide)]; unfold decScalar; rw [hc]
      show some _ = some _
      simp (disch := omega) [dec_max, hf, hq]
    · exact absurd rfl n
theorem Encoding.maxImm (u : SUnit) (d : Dst) (imm : Imm16) (w : IntW) : Encoding.Statement (.maxImm u d imm w) := by
  have := encDst_lt d; have := nwDst_lt d; have := encIntW_lt w
  cases u
  case sa =>
    refine encodingOf (s := .sa) (w := encI 14 (encDst d) imm.lo (nwDst d) (4 + encIntW w)) (x := imm.ext) (r := .none) rfl rfl rfl rfl encI_lt (fun wf => ?_) (fun n wf hl => ?_) (Or.inl rfl)
    · have hc : encI 14 (encDst d) imm.lo (nwDst d) (4 + encIntW w) / 67108864 = 14 := encI_code 
      simp only [decSlot]; unfold decScalar; rw [hc]
      show some _ = some _
      simp (disch := omega) [dec_maxImm, encI_dst, encI_n, encI_form, encI_f, encI_low, encI_low8, encI_imm]
    · simp (disch := omega) [takesImm, BitVec.toNat_ofNat, Nat.mod_eq_of_lt hl, encI_code, encI_form]
  case sb =>
    refine encodingOf (s := .sb) (w := encI 14 (encDst d) imm.lo (nwDst d) (4 + encIntW w)) (x := imm.ext) (r := .none) rfl rfl rfl rfl encI_lt (fun wf => ?_) (fun n wf hl => ?_) (Or.inl rfl)
    · have hc : encI 14 (encDst d) imm.lo (nwDst d) (4 + encIntW w) / 67108864 = 14 := encI_code 
      simp only [decSlot]; rw [hc, if_pos (by decide)]; unfold decScalar; rw [hc]
      show some _ = some _
      simp (disch := omega) [dec_maxImm, encI_dst, encI_n, encI_form, encI_f, encI_low, encI_low8, encI_imm]
    · simp (disch := omega) [takesImm, BitVec.toNat_ofNat, Nat.mod_eq_of_lt hl, encI_code, encI_form]
theorem Encoding.minu (u : SUnit) (d : Dst) (a : Src) (b : Src) (w : IntW) : Encoding.Statement (.minu u d a b w) := by
  have := encDst_lt d; have := nwDst_lt d; have := encSrc_lt a; have := encSrc_lt b; have := encIntW_lt w
  cases u
  case sa =>
    refine encodingOf (s := .sa) (w := encR 15 (encDst d) (encSrc a) (encSrc b) (0) (nwDst d) (encIntW w)) (x := none) (r := .none) rfl rfl rfl rfl encR_lt (fun wf => ?_) (fun n wf hl => ?_) (Or.inl rfl)
    · have hc : encR 15 (encDst d) (encSrc a) (encSrc b) (0) (nwDst d) (encIntW w) / 67108864 = 15 := encR_code 
      have hf : RFields.of (encR 15 (encDst d) (encSrc a) (encSrc b) (0) (nwDst d) (encIntW w)) = _ := encR_fields 
      have hq : encR 15 (encDst d) (encSrc a) (encSrc b) (0) (nwDst d) (encIntW w) / 4 % 2 = _ := encR_form
      simp only [decSlot]; unfold decScalar; rw [hc]
      show some _ = some _
      simp (disch := omega) [dec_minu, hf, hq]
    · exact absurd rfl n
  case sb =>
    refine encodingOf (s := .sb) (w := encR 15 (encDst d) (encSrc a) (encSrc b) (0) (nwDst d) (encIntW w)) (x := none) (r := .none) rfl rfl rfl rfl encR_lt (fun wf => ?_) (fun n wf hl => ?_) (Or.inl rfl)
    · have hc : encR 15 (encDst d) (encSrc a) (encSrc b) (0) (nwDst d) (encIntW w) / 67108864 = 15 := encR_code 
      have hf : RFields.of (encR 15 (encDst d) (encSrc a) (encSrc b) (0) (nwDst d) (encIntW w)) = _ := encR_fields 
      have hq : encR 15 (encDst d) (encSrc a) (encSrc b) (0) (nwDst d) (encIntW w) / 4 % 2 = _ := encR_form
      simp only [decSlot]; rw [hc, if_pos (by decide)]; unfold decScalar; rw [hc]
      show some _ = some _
      simp (disch := omega) [dec_minu, hf, hq]
    · exact absurd rfl n
theorem Encoding.minuImm (u : SUnit) (d : Dst) (imm : Imm16) (w : IntW) : Encoding.Statement (.minuImm u d imm w) := by
  have := encDst_lt d; have := nwDst_lt d; have := encIntW_lt w
  cases u
  case sa =>
    refine encodingOf (s := .sa) (w := encI 15 (encDst d) imm.lo (nwDst d) (4 + encIntW w)) (x := imm.ext) (r := .none) rfl rfl rfl rfl encI_lt (fun wf => ?_) (fun n wf hl => ?_) (Or.inl rfl)
    · have hc : encI 15 (encDst d) imm.lo (nwDst d) (4 + encIntW w) / 67108864 = 15 := encI_code 
      simp only [decSlot]; unfold decScalar; rw [hc]
      show some _ = some _
      simp (disch := omega) [dec_minuImm, encI_dst, encI_n, encI_form, encI_f, encI_low, encI_low8, encI_imm]
    · simp (disch := omega) [takesImm, BitVec.toNat_ofNat, Nat.mod_eq_of_lt hl, encI_code, encI_form]
  case sb =>
    refine encodingOf (s := .sb) (w := encI 15 (encDst d) imm.lo (nwDst d) (4 + encIntW w)) (x := imm.ext) (r := .none) rfl rfl rfl rfl encI_lt (fun wf => ?_) (fun n wf hl => ?_) (Or.inl rfl)
    · have hc : encI 15 (encDst d) imm.lo (nwDst d) (4 + encIntW w) / 67108864 = 15 := encI_code 
      simp only [decSlot]; rw [hc, if_pos (by decide)]; unfold decScalar; rw [hc]
      show some _ = some _
      simp (disch := omega) [dec_minuImm, encI_dst, encI_n, encI_form, encI_f, encI_low, encI_low8, encI_imm]
    · simp (disch := omega) [takesImm, BitVec.toNat_ofNat, Nat.mod_eq_of_lt hl, encI_code, encI_form]
theorem Encoding.maxu (u : SUnit) (d : Dst) (a : Src) (b : Src) (w : IntW) : Encoding.Statement (.maxu u d a b w) := by
  have := encDst_lt d; have := nwDst_lt d; have := encSrc_lt a; have := encSrc_lt b; have := encIntW_lt w
  cases u
  case sa =>
    refine encodingOf (s := .sa) (w := encR 16 (encDst d) (encSrc a) (encSrc b) (0) (nwDst d) (encIntW w)) (x := none) (r := .none) rfl rfl rfl rfl encR_lt (fun wf => ?_) (fun n wf hl => ?_) (Or.inl rfl)
    · have hc : encR 16 (encDst d) (encSrc a) (encSrc b) (0) (nwDst d) (encIntW w) / 67108864 = 16 := encR_code 
      have hf : RFields.of (encR 16 (encDst d) (encSrc a) (encSrc b) (0) (nwDst d) (encIntW w)) = _ := encR_fields 
      have hq : encR 16 (encDst d) (encSrc a) (encSrc b) (0) (nwDst d) (encIntW w) / 4 % 2 = _ := encR_form
      simp only [decSlot]; unfold decScalar; rw [hc]
      show some _ = some _
      simp (disch := omega) [dec_maxu, hf, hq]
    · exact absurd rfl n
  case sb =>
    refine encodingOf (s := .sb) (w := encR 16 (encDst d) (encSrc a) (encSrc b) (0) (nwDst d) (encIntW w)) (x := none) (r := .none) rfl rfl rfl rfl encR_lt (fun wf => ?_) (fun n wf hl => ?_) (Or.inl rfl)
    · have hc : encR 16 (encDst d) (encSrc a) (encSrc b) (0) (nwDst d) (encIntW w) / 67108864 = 16 := encR_code 
      have hf : RFields.of (encR 16 (encDst d) (encSrc a) (encSrc b) (0) (nwDst d) (encIntW w)) = _ := encR_fields 
      have hq : encR 16 (encDst d) (encSrc a) (encSrc b) (0) (nwDst d) (encIntW w) / 4 % 2 = _ := encR_form
      simp only [decSlot]; rw [hc, if_pos (by decide)]; unfold decScalar; rw [hc]
      show some _ = some _
      simp (disch := omega) [dec_maxu, hf, hq]
    · exact absurd rfl n
theorem Encoding.maxuImm (u : SUnit) (d : Dst) (imm : Imm16) (w : IntW) : Encoding.Statement (.maxuImm u d imm w) := by
  have := encDst_lt d; have := nwDst_lt d; have := encIntW_lt w
  cases u
  case sa =>
    refine encodingOf (s := .sa) (w := encI 16 (encDst d) imm.lo (nwDst d) (4 + encIntW w)) (x := imm.ext) (r := .none) rfl rfl rfl rfl encI_lt (fun wf => ?_) (fun n wf hl => ?_) (Or.inl rfl)
    · have hc : encI 16 (encDst d) imm.lo (nwDst d) (4 + encIntW w) / 67108864 = 16 := encI_code 
      simp only [decSlot]; unfold decScalar; rw [hc]
      show some _ = some _
      simp (disch := omega) [dec_maxuImm, encI_dst, encI_n, encI_form, encI_f, encI_low, encI_low8, encI_imm]
    · simp (disch := omega) [takesImm, BitVec.toNat_ofNat, Nat.mod_eq_of_lt hl, encI_code, encI_form]
  case sb =>
    refine encodingOf (s := .sb) (w := encI 16 (encDst d) imm.lo (nwDst d) (4 + encIntW w)) (x := imm.ext) (r := .none) rfl rfl rfl rfl encI_lt (fun wf => ?_) (fun n wf hl => ?_) (Or.inl rfl)
    · have hc : encI 16 (encDst d) imm.lo (nwDst d) (4 + encIntW w) / 67108864 = 16 := encI_code 
      simp only [decSlot]; rw [hc, if_pos (by decide)]; unfold decScalar; rw [hc]
      show some _ = some _
      simp (disch := omega) [dec_maxuImm, encI_dst, encI_n, encI_form, encI_f, encI_low, encI_low8, encI_imm]
    · simp (disch := omega) [takesImm, BitVec.toNat_ofNat, Nat.mod_eq_of_lt hl, encI_code, encI_form]
theorem Encoding.clz (u : SUnit) (d : Dst) (a : Src) (w : IntW) : Encoding.Statement (.clz u d a w) := by
  have := encDst_lt d; have := nwDst_lt d; have := encSrc_lt a; have := encIntW_lt w
  cases u
  case sa =>
    refine encodingOf (s := .sa) (w := encR 17 (encDst d) (encSrc a) (0) (0) (nwDst d) (encIntW w)) (x := none) (r := .none) rfl rfl rfl rfl encR_lt (fun wf => ?_) (fun n wf hl => ?_) (Or.inl rfl)
    · have hc : encR 17 (encDst d) (encSrc a) (0) (0) (nwDst d) (encIntW w) / 67108864 = 17 := encR_code 
      have hf : RFields.of (encR 17 (encDst d) (encSrc a) (0) (0) (nwDst d) (encIntW w)) = _ := encR_fields 
      have hq : encR 17 (encDst d) (encSrc a) (0) (0) (nwDst d) (encIntW w) / 4 % 2 = _ := encR_form
      simp only [decSlot]; unfold decScalar; rw [hc]
      show some _ = some _
      simp (disch := omega) [dec_clz, hf, hq]
    · exact absurd rfl n
  case sb =>
    refine encodingOf (s := .sb) (w := encR 17 (encDst d) (encSrc a) (0) (0) (nwDst d) (encIntW w)) (x := none) (r := .none) rfl rfl rfl rfl encR_lt (fun wf => ?_) (fun n wf hl => ?_) (Or.inl rfl)
    · have hc : encR 17 (encDst d) (encSrc a) (0) (0) (nwDst d) (encIntW w) / 67108864 = 17 := encR_code 
      have hf : RFields.of (encR 17 (encDst d) (encSrc a) (0) (0) (nwDst d) (encIntW w)) = _ := encR_fields 
      have hq : encR 17 (encDst d) (encSrc a) (0) (0) (nwDst d) (encIntW w) / 4 % 2 = _ := encR_form
      simp only [decSlot]; rw [hc, if_pos (by decide)]; unfold decScalar; rw [hc]
      show some _ = some _
      simp (disch := omega) [dec_clz, hf, hq]
    · exact absurd rfl n
theorem Encoding.ctz (u : SUnit) (d : Dst) (a : Src) (w : IntW) : Encoding.Statement (.ctz u d a w) := by
  have := encDst_lt d; have := nwDst_lt d; have := encSrc_lt a; have := encIntW_lt w
  cases u
  case sa =>
    refine encodingOf (s := .sa) (w := encR 18 (encDst d) (encSrc a) (0) (0) (nwDst d) (encIntW w)) (x := none) (r := .none) rfl rfl rfl rfl encR_lt (fun wf => ?_) (fun n wf hl => ?_) (Or.inl rfl)
    · have hc : encR 18 (encDst d) (encSrc a) (0) (0) (nwDst d) (encIntW w) / 67108864 = 18 := encR_code 
      have hf : RFields.of (encR 18 (encDst d) (encSrc a) (0) (0) (nwDst d) (encIntW w)) = _ := encR_fields 
      have hq : encR 18 (encDst d) (encSrc a) (0) (0) (nwDst d) (encIntW w) / 4 % 2 = _ := encR_form
      simp only [decSlot]; unfold decScalar; rw [hc]
      show some _ = some _
      simp (disch := omega) [dec_ctz, hf, hq]
    · exact absurd rfl n
  case sb =>
    refine encodingOf (s := .sb) (w := encR 18 (encDst d) (encSrc a) (0) (0) (nwDst d) (encIntW w)) (x := none) (r := .none) rfl rfl rfl rfl encR_lt (fun wf => ?_) (fun n wf hl => ?_) (Or.inl rfl)
    · have hc : encR 18 (encDst d) (encSrc a) (0) (0) (nwDst d) (encIntW w) / 67108864 = 18 := encR_code 
      have hf : RFields.of (encR 18 (encDst d) (encSrc a) (0) (0) (nwDst d) (encIntW w)) = _ := encR_fields 
      have hq : encR 18 (encDst d) (encSrc a) (0) (0) (nwDst d) (encIntW w) / 4 % 2 = _ := encR_form
      simp only [decSlot]; rw [hc, if_pos (by decide)]; unfold decScalar; rw [hc]
      show some _ = some _
      simp (disch := omega) [dec_ctz, hf, hq]
    · exact absurd rfl n
theorem Encoding.popc (u : SUnit) (d : Dst) (a : Src) (w : IntW) : Encoding.Statement (.popc u d a w) := by
  have := encDst_lt d; have := nwDst_lt d; have := encSrc_lt a; have := encIntW_lt w
  cases u
  case sa =>
    refine encodingOf (s := .sa) (w := encR 19 (encDst d) (encSrc a) (0) (0) (nwDst d) (encIntW w)) (x := none) (r := .none) rfl rfl rfl rfl encR_lt (fun wf => ?_) (fun n wf hl => ?_) (Or.inl rfl)
    · have hc : encR 19 (encDst d) (encSrc a) (0) (0) (nwDst d) (encIntW w) / 67108864 = 19 := encR_code 
      have hf : RFields.of (encR 19 (encDst d) (encSrc a) (0) (0) (nwDst d) (encIntW w)) = _ := encR_fields 
      have hq : encR 19 (encDst d) (encSrc a) (0) (0) (nwDst d) (encIntW w) / 4 % 2 = _ := encR_form
      simp only [decSlot]; unfold decScalar; rw [hc]
      show some _ = some _
      simp (disch := omega) [dec_popc, hf, hq]
    · exact absurd rfl n
  case sb =>
    refine encodingOf (s := .sb) (w := encR 19 (encDst d) (encSrc a) (0) (0) (nwDst d) (encIntW w)) (x := none) (r := .none) rfl rfl rfl rfl encR_lt (fun wf => ?_) (fun n wf hl => ?_) (Or.inl rfl)
    · have hc : encR 19 (encDst d) (encSrc a) (0) (0) (nwDst d) (encIntW w) / 67108864 = 19 := encR_code 
      have hf : RFields.of (encR 19 (encDst d) (encSrc a) (0) (0) (nwDst d) (encIntW w)) = _ := encR_fields 
      have hq : encR 19 (encDst d) (encSrc a) (0) (0) (nwDst d) (encIntW w) / 4 % 2 = _ := encR_form
      simp only [decSlot]; rw [hc, if_pos (by decide)]; unfold decScalar; rw [hc]
      show some _ = some _
      simp (disch := omega) [dec_popc, hf, hq]
    · exact absurd rfl n
theorem Encoding.sext (u : SUnit) (d : Dst) (a : Src) (w : IntW) : Encoding.Statement (.sext u d a w) := by
  have := encDst_lt d; have := nwDst_lt d; have := encSrc_lt a; have := encIntW_lt w
  cases u
  case sa =>
    refine encodingOf (s := .sa) (w := encR 20 (encDst d) (encSrc a) (0) (0) (nwDst d) (encIntW w)) (x := none) (r := .none) rfl rfl rfl rfl encR_lt (fun wf => ?_) (fun n wf hl => ?_) (Or.inl rfl)
    · have hc : encR 20 (encDst d) (encSrc a) (0) (0) (nwDst d) (encIntW w) / 67108864 = 20 := encR_code 
      have hf : RFields.of (encR 20 (encDst d) (encSrc a) (0) (0) (nwDst d) (encIntW w)) = _ := encR_fields 
      have hq : encR 20 (encDst d) (encSrc a) (0) (0) (nwDst d) (encIntW w) / 4 % 2 = _ := encR_form
      simp only [decSlot]; unfold decScalar; rw [hc]
      show some _ = some _
      simp (disch := omega) [dec_sext, hf, hq]
    · exact absurd rfl n
  case sb =>
    refine encodingOf (s := .sb) (w := encR 20 (encDst d) (encSrc a) (0) (0) (nwDst d) (encIntW w)) (x := none) (r := .none) rfl rfl rfl rfl encR_lt (fun wf => ?_) (fun n wf hl => ?_) (Or.inl rfl)
    · have hc : encR 20 (encDst d) (encSrc a) (0) (0) (nwDst d) (encIntW w) / 67108864 = 20 := encR_code 
      have hf : RFields.of (encR 20 (encDst d) (encSrc a) (0) (0) (nwDst d) (encIntW w)) = _ := encR_fields 
      have hq : encR 20 (encDst d) (encSrc a) (0) (0) (nwDst d) (encIntW w) / 4 % 2 = _ := encR_form
      simp only [decSlot]; rw [hc, if_pos (by decide)]; unfold decScalar; rw [hc]
      show some _ = some _
      simp (disch := omega) [dec_sext, hf, hq]
    · exact absurd rfl n
theorem Encoding.zext (u : SUnit) (d : Dst) (a : Src) (w : IntW) : Encoding.Statement (.zext u d a w) := by
  have := encDst_lt d; have := nwDst_lt d; have := encSrc_lt a; have := encIntW_lt w
  cases u
  case sa =>
    refine encodingOf (s := .sa) (w := encR 21 (encDst d) (encSrc a) (0) (0) (nwDst d) (encIntW w)) (x := none) (r := .none) rfl rfl rfl rfl encR_lt (fun wf => ?_) (fun n wf hl => ?_) (Or.inl rfl)
    · have hc : encR 21 (encDst d) (encSrc a) (0) (0) (nwDst d) (encIntW w) / 67108864 = 21 := encR_code 
      have hf : RFields.of (encR 21 (encDst d) (encSrc a) (0) (0) (nwDst d) (encIntW w)) = _ := encR_fields 
      have hq : encR 21 (encDst d) (encSrc a) (0) (0) (nwDst d) (encIntW w) / 4 % 2 = _ := encR_form
      simp only [decSlot]; unfold decScalar; rw [hc]
      show some _ = some _
      simp (disch := omega) [dec_zext, hf, hq]
    · exact absurd rfl n
  case sb =>
    refine encodingOf (s := .sb) (w := encR 21 (encDst d) (encSrc a) (0) (0) (nwDst d) (encIntW w)) (x := none) (r := .none) rfl rfl rfl rfl encR_lt (fun wf => ?_) (fun n wf hl => ?_) (Or.inl rfl)
    · have hc : encR 21 (encDst d) (encSrc a) (0) (0) (nwDst d) (encIntW w) / 67108864 = 21 := encR_code 
      have hf : RFields.of (encR 21 (encDst d) (encSrc a) (0) (0) (nwDst d) (encIntW w)) = _ := encR_fields 
      have hq : encR 21 (encDst d) (encSrc a) (0) (0) (nwDst d) (encIntW w) / 4 % 2 = _ := encR_form
      simp only [decSlot]; rw [hc, if_pos (by decide)]; unfold decScalar; rw [hc]
      show some _ = some _
      simp (disch := omega) [dec_zext, hf, hq]
    · exact absurd rfl n
theorem Encoding.bfx (u : SUnit) (d : Dst) (a : Src) (b : Src) : Encoding.Statement (.bfx u d a b) := by
  have := encDst_lt d; have := nwDst_lt d; have := encSrc_lt a; have := encSrc_lt b
  cases u
  case sa =>
    refine encodingOf (s := .sa) (w := encR 22 (encDst d) (encSrc a) (encSrc b) (0) (nwDst d) (3)) (x := none) (r := .none) rfl rfl rfl rfl encR_lt (fun wf => ?_) (fun n wf hl => ?_) (Or.inl rfl)
    · have hc : encR 22 (encDst d) (encSrc a) (encSrc b) (0) (nwDst d) (3) / 67108864 = 22 := encR_code 
      have hf : RFields.of (encR 22 (encDst d) (encSrc a) (encSrc b) (0) (nwDst d) (3)) = _ := encR_fields 
      have hq : encR 22 (encDst d) (encSrc a) (encSrc b) (0) (nwDst d) (3) / 4 % 2 = _ := encR_form
      simp only [decSlot]; unfold decScalar; rw [hc]
      show some _ = some _
      simp (disch := omega) [dec_bfx, hf, hq]
    · exact absurd rfl n
  case sb =>
    refine encodingOf (s := .sb) (w := encR 22 (encDst d) (encSrc a) (encSrc b) (0) (nwDst d) (3)) (x := none) (r := .none) rfl rfl rfl rfl encR_lt (fun wf => ?_) (fun n wf hl => ?_) (Or.inl rfl)
    · have hc : encR 22 (encDst d) (encSrc a) (encSrc b) (0) (nwDst d) (3) / 67108864 = 22 := encR_code 
      have hf : RFields.of (encR 22 (encDst d) (encSrc a) (encSrc b) (0) (nwDst d) (3)) = _ := encR_fields 
      have hq : encR 22 (encDst d) (encSrc a) (encSrc b) (0) (nwDst d) (3) / 4 % 2 = _ := encR_form
      simp only [decSlot]; rw [hc, if_pos (by decide)]; unfold decScalar; rw [hc]
      show some _ = some _
      simp (disch := omega) [dec_bfx, hf, hq]
    · exact absurd rfl n
theorem Encoding.bfi (u : SUnit) (d : Dst) (a : Src) (b : Src) : Encoding.Statement (.bfi u d a b) := by
  have := encDst_lt d; have := nwDst_lt d; have := encSrc_lt a; have := encSrc_lt b
  cases u
  case sa =>
    refine encodingOf (s := .sa) (w := encR 23 (encDst d) (encSrc a) (encSrc b) (0) (nwDst d) (3)) (x := none) (r := .none) rfl rfl rfl rfl encR_lt (fun wf => ?_) (fun n wf hl => ?_) (Or.inl rfl)
    · have hc : encR 23 (encDst d) (encSrc a) (encSrc b) (0) (nwDst d) (3) / 67108864 = 23 := encR_code 
      have hf : RFields.of (encR 23 (encDst d) (encSrc a) (encSrc b) (0) (nwDst d) (3)) = _ := encR_fields 
      have hq : encR 23 (encDst d) (encSrc a) (encSrc b) (0) (nwDst d) (3) / 4 % 2 = _ := encR_form
      simp only [decSlot]; unfold decScalar; rw [hc]
      show some _ = some _
      simp (disch := omega) [dec_bfi, hf, hq]
    · exact absurd rfl n
  case sb =>
    refine encodingOf (s := .sb) (w := encR 23 (encDst d) (encSrc a) (encSrc b) (0) (nwDst d) (3)) (x := none) (r := .none) rfl rfl rfl rfl encR_lt (fun wf => ?_) (fun n wf hl => ?_) (Or.inl rfl)
    · have hc : encR 23 (encDst d) (encSrc a) (encSrc b) (0) (nwDst d) (3) / 67108864 = 23 := encR_code 
      have hf : RFields.of (encR 23 (encDst d) (encSrc a) (encSrc b) (0) (nwDst d) (3)) = _ := encR_fields 
      have hq : encR 23 (encDst d) (encSrc a) (encSrc b) (0) (nwDst d) (3) / 4 % 2 = _ := encR_form
      simp only [decSlot]; rw [hc, if_pos (by decide)]; unfold decScalar; rw [hc]
      show some _ = some _
      simp (disch := omega) [dec_bfi, hf, hq]
    · exact absurd rfl n
theorem Encoding.sel (u : SUnit) (d : Dst) (a : Src) (b : Src) (w : IntW) : Encoding.Statement (.sel u d a b w) := by
  have := encDst_lt d; have := nwDst_lt d; have := encSrc_lt a; have := encSrc_lt b; have := encIntW_lt w
  cases u
  case sa =>
    refine encodingOf (s := .sa) (w := encR 24 (encDst d) (encSrc a) (encSrc b) (0) (nwDst d) (encIntW w)) (x := none) (r := .none) rfl rfl rfl rfl encR_lt (fun wf => ?_) (fun n wf hl => ?_) (Or.inl rfl)
    · have hc : encR 24 (encDst d) (encSrc a) (encSrc b) (0) (nwDst d) (encIntW w) / 67108864 = 24 := encR_code 
      have hf : RFields.of (encR 24 (encDst d) (encSrc a) (encSrc b) (0) (nwDst d) (encIntW w)) = _ := encR_fields 
      have hq : encR 24 (encDst d) (encSrc a) (encSrc b) (0) (nwDst d) (encIntW w) / 4 % 2 = _ := encR_form
      simp only [decSlot]; unfold decScalar; rw [hc]
      show some _ = some _
      simp (disch := omega) [dec_sel, hf, hq]
    · exact absurd rfl n
  case sb =>
    refine encodingOf (s := .sb) (w := encR 24 (encDst d) (encSrc a) (encSrc b) (0) (nwDst d) (encIntW w)) (x := none) (r := .none) rfl rfl rfl rfl encR_lt (fun wf => ?_) (fun n wf hl => ?_) (Or.inl rfl)
    · have hc : encR 24 (encDst d) (encSrc a) (encSrc b) (0) (nwDst d) (encIntW w) / 67108864 = 24 := encR_code 
      have hf : RFields.of (encR 24 (encDst d) (encSrc a) (encSrc b) (0) (nwDst d) (encIntW w)) = _ := encR_fields 
      have hq : encR 24 (encDst d) (encSrc a) (encSrc b) (0) (nwDst d) (encIntW w) / 4 % 2 = _ := encR_form
      simp only [decSlot]; rw [hc, if_pos (by decide)]; unfold decScalar; rw [hc]
      show some _ = some _
      simp (disch := omega) [dec_sel, hf, hq]
    · exact absurd rfl n
theorem Encoding.mov (u : SUnit) (d : Dst) (a : Src) (w : IntW) : Encoding.Statement (.mov u d a w) := by
  have := encDst_lt d; have := nwDst_lt d; have := encSrc_lt a; have := encIntW_lt w
  cases u
  case sa =>
    refine encodingOf (s := .sa) (w := encR 25 (encDst d) (encSrc a) (0) (0) (nwDst d) (encIntW w)) (x := none) (r := .none) rfl rfl rfl rfl encR_lt (fun wf => ?_) (fun n wf hl => ?_) (Or.inl rfl)
    · have hc : encR 25 (encDst d) (encSrc a) (0) (0) (nwDst d) (encIntW w) / 67108864 = 25 := encR_code 
      have hf : RFields.of (encR 25 (encDst d) (encSrc a) (0) (0) (nwDst d) (encIntW w)) = _ := encR_fields 
      have hq : encR 25 (encDst d) (encSrc a) (0) (0) (nwDst d) (encIntW w) / 4 % 2 = _ := encR_form
      simp only [decSlot]; unfold decScalar; rw [hc]
      show some _ = some _
      simp (disch := omega) [dec_mov, hf, hq]
    · exact absurd rfl n
  case sb =>
    refine encodingOf (s := .sb) (w := encR 25 (encDst d) (encSrc a) (0) (0) (nwDst d) (encIntW w)) (x := none) (r := .none) rfl rfl rfl rfl encR_lt (fun wf => ?_) (fun n wf hl => ?_) (Or.inl rfl)
    · have hc : encR 25 (encDst d) (encSrc a) (0) (0) (nwDst d) (encIntW w) / 67108864 = 25 := encR_code 
      have hf : RFields.of (encR 25 (encDst d) (encSrc a) (0) (0) (nwDst d) (encIntW w)) = _ := encR_fields 
      have hq : encR 25 (encDst d) (encSrc a) (0) (0) (nwDst d) (encIntW w) / 4 % 2 = _ := encR_form
      simp only [decSlot]; rw [hc, if_pos (by decide)]; unfold decScalar; rw [hc]
      show some _ = some _
      simp (disch := omega) [dec_mov, hf, hq]
    · exact absurd rfl n
theorem Encoding.movi (u : SUnit) (d : Dst) (imm : Imm16) (w : IntW) : Encoding.Statement (.movi u d imm w) := by
  have := encDst_lt d; have := nwDst_lt d; have := encIntW_lt w
  cases u
  case sa =>
    refine encodingOf (s := .sa) (w := encI 26 (encDst d) imm.lo (nwDst d) (4 + encIntW w)) (x := imm.ext) (r := .none) rfl rfl rfl rfl encI_lt (fun wf => ?_) (fun n wf hl => ?_) (Or.inl rfl)
    · have hc : encI 26 (encDst d) imm.lo (nwDst d) (4 + encIntW w) / 67108864 = 26 := encI_code 
      simp only [decSlot]; unfold decScalar; rw [hc]
      show some _ = some _
      simp (disch := omega) [dec_movi, encI_dst, encI_n, encI_form, encI_f, encI_low, encI_low8, encI_imm]
    · simp (disch := omega) [takesImm, BitVec.toNat_ofNat, Nat.mod_eq_of_lt hl, encI_code, encI_form]
  case sb =>
    refine encodingOf (s := .sb) (w := encI 26 (encDst d) imm.lo (nwDst d) (4 + encIntW w)) (x := imm.ext) (r := .none) rfl rfl rfl rfl encI_lt (fun wf => ?_) (fun n wf hl => ?_) (Or.inl rfl)
    · have hc : encI 26 (encDst d) imm.lo (nwDst d) (4 + encIntW w) / 67108864 = 26 := encI_code 
      simp only [decSlot]; rw [hc, if_pos (by decide)]; unfold decScalar; rw [hc]
      show some _ = some _
      simp (disch := omega) [dec_movi, encI_dst, encI_n, encI_form, encI_f, encI_low, encI_low8, encI_imm]
    · simp (disch := omega) [takesImm, BitVec.toNat_ofNat, Nat.mod_eq_of_lt hl, encI_code, encI_form]
theorem Encoding.movhi (u : SUnit) (d : Dst) (imm : Imm16) : Encoding.Statement (.movhi u d imm) := by
  have := encDst_lt d; have := nwDst_lt d
  cases u
  case sa =>
    refine encodingOf (s := .sa) (w := encI 27 (encDst d) imm.lo (nwDst d) (7)) (x := imm.ext) (r := .none) rfl rfl rfl rfl encI_lt (fun wf => ?_) (fun n wf hl => ?_) (Or.inl rfl)
    · have hc : encI 27 (encDst d) imm.lo (nwDst d) (7) / 67108864 = 27 := encI_code 
      simp only [decSlot]; unfold decScalar; rw [hc]
      show some _ = some _
      simp (disch := omega) [dec_movhi, encI_dst, encI_n, encI_form, encI_f, encI_low, encI_low8, encI_imm]
    · simp (disch := omega) [takesImm, BitVec.toNat_ofNat, Nat.mod_eq_of_lt hl, encI_code, encI_form]
  case sb =>
    refine encodingOf (s := .sb) (w := encI 27 (encDst d) imm.lo (nwDst d) (7)) (x := imm.ext) (r := .none) rfl rfl rfl rfl encI_lt (fun wf => ?_) (fun n wf hl => ?_) (Or.inl rfl)
    · have hc : encI 27 (encDst d) imm.lo (nwDst d) (7) / 67108864 = 27 := encI_code 
      simp only [decSlot]; rw [hc, if_pos (by decide)]; unfold decScalar; rw [hc]
      show some _ = some _
      simp (disch := omega) [dec_movhi, encI_dst, encI_n, encI_form, encI_f, encI_low, encI_low8, encI_imm]
    · simp (disch := omega) [takesImm, BitVec.toNat_ofNat, Nat.mod_eq_of_lt hl, encI_code, encI_form]
theorem Encoding.cmp (u : SUnit) (d : Dst) (a : Src) (b : Src) (w : IntW) (cond : Cond) : Encoding.Statement (.cmp u d a b w cond) := by
  have := encDst_lt d; have := nwDst_lt d; have := encSrc_lt a; have := encSrc_lt b; have := encIntW_lt w; have := encCond_lt cond
  cases u
  case sa =>
    refine encodingOf (s := .sa) (w := encR 28 (encDst d) (encSrc a) (encSrc b) (encCond cond) (nwDst d) (encIntW w)) (x := none) (r := .none) rfl rfl rfl rfl encR_lt (fun wf => ?_) (fun n wf hl => ?_) (Or.inl rfl)
    · have hc : encR 28 (encDst d) (encSrc a) (encSrc b) (encCond cond) (nwDst d) (encIntW w) / 67108864 = 28 := encR_code 
      have hf : RFields.of (encR 28 (encDst d) (encSrc a) (encSrc b) (encCond cond) (nwDst d) (encIntW w)) = _ := encR_fields 
      have hq : encR 28 (encDst d) (encSrc a) (encSrc b) (encCond cond) (nwDst d) (encIntW w) / 4 % 2 = _ := encR_form
      simp only [decSlot]; unfold decScalar; rw [hc]
      show some _ = some _
      simp (disch := omega) [dec_cmp, hf, hq]
    · exact absurd rfl n
  case sb =>
    refine encodingOf (s := .sb) (w := encR 28 (encDst d) (encSrc a) (encSrc b) (encCond cond) (nwDst d) (encIntW w)) (x := none) (r := .none) rfl rfl rfl rfl encR_lt (fun wf => ?_) (fun n wf hl => ?_) (Or.inl rfl)
    · have hc : encR 28 (encDst d) (encSrc a) (encSrc b) (encCond cond) (nwDst d) (encIntW w) / 67108864 = 28 := encR_code 
      have hf : RFields.of (encR 28 (encDst d) (encSrc a) (encSrc b) (encCond cond) (nwDst d) (encIntW w)) = _ := encR_fields 
      have hq : encR 28 (encDst d) (encSrc a) (encSrc b) (encCond cond) (nwDst d) (encIntW w) / 4 % 2 = _ := encR_form
      simp only [decSlot]; rw [hc, if_pos (by decide)]; unfold decScalar; rw [hc]
      show some _ = some _
      simp (disch := omega) [dec_cmp, hf, hq]
    · exact absurd rfl n
theorem Encoding.schk (u : SUnit) (a : Src) (b : Src) : Encoding.Statement (.schk u a b) := by
  have := encSrc_lt a; have := encSrc_lt b
  cases u
  case sa =>
    refine encodingOf (s := .sa) (w := encR 29 (0) (encSrc a) (encSrc b) (0) (0) (3)) (x := none) (r := .none) rfl rfl rfl rfl encR_lt (fun wf => ?_) (fun n wf hl => ?_) (Or.inl rfl)
    · have hc : encR 29 (0) (encSrc a) (encSrc b) (0) (0) (3) / 67108864 = 29 := encR_code 
      have hf : RFields.of (encR 29 (0) (encSrc a) (encSrc b) (0) (0) (3)) = _ := encR_fields 
      have hq : encR 29 (0) (encSrc a) (encSrc b) (0) (0) (3) / 4 % 2 = _ := encR_form
      simp only [decSlot]; unfold decScalar; rw [hc]
      show some _ = some _
      simp (disch := omega) [dec_schk, hf, hq]
    · exact absurd rfl n
  case sb =>
    refine encodingOf (s := .sb) (w := encR 29 (0) (encSrc a) (encSrc b) (0) (0) (3)) (x := none) (r := .none) rfl rfl rfl rfl encR_lt (fun wf => ?_) (fun n wf hl => ?_) (Or.inl rfl)
    · have hc : encR 29 (0) (encSrc a) (encSrc b) (0) (0) (3) / 67108864 = 29 := encR_code 
      have hf : RFields.of (encR 29 (0) (encSrc a) (encSrc b) (0) (0) (3)) = _ := encR_fields 
      have hq : encR 29 (0) (encSrc a) (encSrc b) (0) (0) (3) / 4 % 2 = _ := encR_form
      simp only [decSlot]; rw [hc, if_pos (by decide)]; unfold decScalar; rw [hc]
      show some _ = some _
      simp (disch := omega) [dec_schk, hf, hq]
    · exact absurd rfl n
theorem Encoding.wfld (u : SUnit) (d : Dst) (a : Src) (level : Fin 6) : Encoding.Statement (.wfld u d a level) := by
  have := encDst_lt d; have := nwDst_lt d; have := encSrc_lt a; have := level.isLt
  cases u
  case sa =>
    refine encodingOf (s := .sa) (w := encR 30 (encDst d) (encSrc a) (level.val) (0) (nwDst d) (3)) (x := none) (r := .none) rfl rfl rfl rfl encR_lt (fun wf => ?_) (fun n wf hl => ?_) (Or.inl rfl)
    · have hc : encR 30 (encDst d) (encSrc a) (level.val) (0) (nwDst d) (3) / 67108864 = 30 := encR_code 
      have hf : RFields.of (encR 30 (encDst d) (encSrc a) (level.val) (0) (nwDst d) (3)) = _ := encR_fields 
      have hq : encR 30 (encDst d) (encSrc a) (level.val) (0) (nwDst d) (3) / 4 % 2 = _ := encR_form
      simp only [decSlot]; unfold decScalar; rw [hc]
      show some _ = some _
      simp (disch := omega) [dec_wfld, hf, hq]
    · exact absurd rfl n
  case sb =>
    refine encodingOf (s := .sb) (w := encR 30 (encDst d) (encSrc a) (level.val) (0) (nwDst d) (3)) (x := none) (r := .none) rfl rfl rfl rfl encR_lt (fun wf => ?_) (fun n wf hl => ?_) (Or.inl rfl)
    · have hc : encR 30 (encDst d) (encSrc a) (level.val) (0) (nwDst d) (3) / 67108864 = 30 := encR_code 
      have hf : RFields.of (encR 30 (encDst d) (encSrc a) (level.val) (0) (nwDst d) (3)) = _ := encR_fields 
      have hq : encR 30 (encDst d) (encSrc a) (level.val) (0) (nwDst d) (3) / 4 % 2 = _ := encR_form
      simp only [decSlot]; rw [hc, if_pos (by decide)]; unfold decScalar; rw [hc]
      show some _ = some _
      simp (disch := omega) [dec_wfld, hf, hq]
    · exact absurd rfl n
theorem Encoding.fadd (u : SUnit) (d : Dst) (a : Src) (b : Src) (f : FFmt) (rq : Rq) : Encoding.Statement (.fadd u d a b f rq) := by
  have := encDst_lt d; have := nwDst_lt d; have := encSrc_lt a; have := encSrc_lt b; have := encFFmt_lt f; have := encRq_lt rq
  cases u
  case sa =>
    refine encodingOf (s := .sa) (w := encR 32 (encDst d) (encSrc a) (encSrc b) (encRq rq) (nwDst d) (encFFmt f)) (x := none) (r := .none) rfl rfl rfl rfl encR_lt (fun wf => ?_) (fun n wf hl => ?_) (Or.inl rfl)
    · have hc : encR 32 (encDst d) (encSrc a) (encSrc b) (encRq rq) (nwDst d) (encFFmt f) / 67108864 = 32 := encR_code 
      have hf : RFields.of (encR 32 (encDst d) (encSrc a) (encSrc b) (encRq rq) (nwDst d) (encFFmt f)) = _ := encR_fields 
      have hq : encR 32 (encDst d) (encSrc a) (encSrc b) (encRq rq) (nwDst d) (encFFmt f) / 4 % 2 = _ := encR_form
      simp only [decSlot]; unfold decScalar; rw [hc]
      show some _ = some _
      simp (disch := omega) [dec_fadd, hf, hq]
    · exact absurd rfl n
  case sb =>
    refine encodingOf (s := .sb) (w := encR 32 (encDst d) (encSrc a) (encSrc b) (encRq rq) (nwDst d) (encFFmt f)) (x := none) (r := .none) rfl rfl rfl rfl encR_lt (fun wf => ?_) (fun n wf hl => ?_) (Or.inl rfl)
    · have hc : encR 32 (encDst d) (encSrc a) (encSrc b) (encRq rq) (nwDst d) (encFFmt f) / 67108864 = 32 := encR_code 
      have hf : RFields.of (encR 32 (encDst d) (encSrc a) (encSrc b) (encRq rq) (nwDst d) (encFFmt f)) = _ := encR_fields 
      have hq : encR 32 (encDst d) (encSrc a) (encSrc b) (encRq rq) (nwDst d) (encFFmt f) / 4 % 2 = _ := encR_form
      simp only [decSlot]; rw [hc, if_pos (by decide)]; unfold decScalar; rw [hc]
      show some _ = some _
      simp (disch := omega) [dec_fadd, hf, hq]
    · exact absurd rfl n
theorem Encoding.fsub (u : SUnit) (d : Dst) (a : Src) (b : Src) (f : FFmt) (rq : Rq) : Encoding.Statement (.fsub u d a b f rq) := by
  have := encDst_lt d; have := nwDst_lt d; have := encSrc_lt a; have := encSrc_lt b; have := encFFmt_lt f; have := encRq_lt rq
  cases u
  case sa =>
    refine encodingOf (s := .sa) (w := encR 33 (encDst d) (encSrc a) (encSrc b) (encRq rq) (nwDst d) (encFFmt f)) (x := none) (r := .none) rfl rfl rfl rfl encR_lt (fun wf => ?_) (fun n wf hl => ?_) (Or.inl rfl)
    · have hc : encR 33 (encDst d) (encSrc a) (encSrc b) (encRq rq) (nwDst d) (encFFmt f) / 67108864 = 33 := encR_code 
      have hf : RFields.of (encR 33 (encDst d) (encSrc a) (encSrc b) (encRq rq) (nwDst d) (encFFmt f)) = _ := encR_fields 
      have hq : encR 33 (encDst d) (encSrc a) (encSrc b) (encRq rq) (nwDst d) (encFFmt f) / 4 % 2 = _ := encR_form
      simp only [decSlot]; unfold decScalar; rw [hc]
      show some _ = some _
      simp (disch := omega) [dec_fsub, hf, hq]
    · exact absurd rfl n
  case sb =>
    refine encodingOf (s := .sb) (w := encR 33 (encDst d) (encSrc a) (encSrc b) (encRq rq) (nwDst d) (encFFmt f)) (x := none) (r := .none) rfl rfl rfl rfl encR_lt (fun wf => ?_) (fun n wf hl => ?_) (Or.inl rfl)
    · have hc : encR 33 (encDst d) (encSrc a) (encSrc b) (encRq rq) (nwDst d) (encFFmt f) / 67108864 = 33 := encR_code 
      have hf : RFields.of (encR 33 (encDst d) (encSrc a) (encSrc b) (encRq rq) (nwDst d) (encFFmt f)) = _ := encR_fields 
      have hq : encR 33 (encDst d) (encSrc a) (encSrc b) (encRq rq) (nwDst d) (encFFmt f) / 4 % 2 = _ := encR_form
      simp only [decSlot]; rw [hc, if_pos (by decide)]; unfold decScalar; rw [hc]
      show some _ = some _
      simp (disch := omega) [dec_fsub, hf, hq]
    · exact absurd rfl n
theorem Encoding.fmul (u : SUnit) (d : Dst) (a : Src) (b : Src) (f : FFmt) (rq : Rq) : Encoding.Statement (.fmul u d a b f rq) := by
  have := encDst_lt d; have := nwDst_lt d; have := encSrc_lt a; have := encSrc_lt b; have := encFFmt_lt f; have := encRq_lt rq
  cases u
  case sa =>
    refine encodingOf (s := .sa) (w := encR 34 (encDst d) (encSrc a) (encSrc b) (encRq rq) (nwDst d) (encFFmt f)) (x := none) (r := .none) rfl rfl rfl rfl encR_lt (fun wf => ?_) (fun n wf hl => ?_) (Or.inl rfl)
    · have hc : encR 34 (encDst d) (encSrc a) (encSrc b) (encRq rq) (nwDst d) (encFFmt f) / 67108864 = 34 := encR_code 
      have hf : RFields.of (encR 34 (encDst d) (encSrc a) (encSrc b) (encRq rq) (nwDst d) (encFFmt f)) = _ := encR_fields 
      have hq : encR 34 (encDst d) (encSrc a) (encSrc b) (encRq rq) (nwDst d) (encFFmt f) / 4 % 2 = _ := encR_form
      simp only [decSlot]; unfold decScalar; rw [hc]
      show some _ = some _
      simp (disch := omega) [dec_fmul, hf, hq]
    · exact absurd rfl n
  case sb =>
    refine encodingOf (s := .sb) (w := encR 34 (encDst d) (encSrc a) (encSrc b) (encRq rq) (nwDst d) (encFFmt f)) (x := none) (r := .none) rfl rfl rfl rfl encR_lt (fun wf => ?_) (fun n wf hl => ?_) (Or.inl rfl)
    · have hc : encR 34 (encDst d) (encSrc a) (encSrc b) (encRq rq) (nwDst d) (encFFmt f) / 67108864 = 34 := encR_code 
      have hf : RFields.of (encR 34 (encDst d) (encSrc a) (encSrc b) (encRq rq) (nwDst d) (encFFmt f)) = _ := encR_fields 
      have hq : encR 34 (encDst d) (encSrc a) (encSrc b) (encRq rq) (nwDst d) (encFFmt f) / 4 % 2 = _ := encR_form
      simp only [decSlot]; rw [hc, if_pos (by decide)]; unfold decScalar; rw [hc]
      show some _ = some _
      simp (disch := omega) [dec_fmul, hf, hq]
    · exact absurd rfl n
theorem Encoding.ffma (u : SUnit) (d : Dst) (a : Src) (b : Src) (f : FFmt) (rq : Rq) : Encoding.Statement (.ffma u d a b f rq) := by
  have := encDst_lt d; have := nwDst_lt d; have := encSrc_lt a; have := encSrc_lt b; have := encFFmt_lt f; have := encRq_lt rq
  cases u
  case sa =>
    refine encodingOf (s := .sa) (w := encR 35 (encDst d) (encSrc a) (encSrc b) (encRq rq) (nwDst d) (encFFmt f)) (x := none) (r := .none) rfl rfl rfl rfl encR_lt (fun wf => ?_) (fun n wf hl => ?_) (Or.inl rfl)
    · have hc : encR 35 (encDst d) (encSrc a) (encSrc b) (encRq rq) (nwDst d) (encFFmt f) / 67108864 = 35 := encR_code 
      have hf : RFields.of (encR 35 (encDst d) (encSrc a) (encSrc b) (encRq rq) (nwDst d) (encFFmt f)) = _ := encR_fields 
      have hq : encR 35 (encDst d) (encSrc a) (encSrc b) (encRq rq) (nwDst d) (encFFmt f) / 4 % 2 = _ := encR_form
      simp only [decSlot]; unfold decScalar; rw [hc]
      show some _ = some _
      simp (disch := omega) [dec_ffma, hf, hq]
    · exact absurd rfl n
  case sb =>
    refine encodingOf (s := .sb) (w := encR 35 (encDst d) (encSrc a) (encSrc b) (encRq rq) (nwDst d) (encFFmt f)) (x := none) (r := .none) rfl rfl rfl rfl encR_lt (fun wf => ?_) (fun n wf hl => ?_) (Or.inl rfl)
    · have hc : encR 35 (encDst d) (encSrc a) (encSrc b) (encRq rq) (nwDst d) (encFFmt f) / 67108864 = 35 := encR_code 
      have hf : RFields.of (encR 35 (encDst d) (encSrc a) (encSrc b) (encRq rq) (nwDst d) (encFFmt f)) = _ := encR_fields 
      have hq : encR 35 (encDst d) (encSrc a) (encSrc b) (encRq rq) (nwDst d) (encFFmt f) / 4 % 2 = _ := encR_form
      simp only [decSlot]; rw [hc, if_pos (by decide)]; unfold decScalar; rw [hc]
      show some _ = some _
      simp (disch := omega) [dec_ffma, hf, hq]
    · exact absurd rfl n
theorem Encoding.fmin (u : SUnit) (d : Dst) (a : Src) (b : Src) (f : FFmt) : Encoding.Statement (.fmin u d a b f) := by
  have := encDst_lt d; have := nwDst_lt d; have := encSrc_lt a; have := encSrc_lt b; have := encFFmt_lt f
  cases u
  case sa =>
    refine encodingOf (s := .sa) (w := encR 36 (encDst d) (encSrc a) (encSrc b) (0) (nwDst d) (encFFmt f)) (x := none) (r := .none) rfl rfl rfl rfl encR_lt (fun wf => ?_) (fun n wf hl => ?_) (Or.inl rfl)
    · have hc : encR 36 (encDst d) (encSrc a) (encSrc b) (0) (nwDst d) (encFFmt f) / 67108864 = 36 := encR_code 
      have hf : RFields.of (encR 36 (encDst d) (encSrc a) (encSrc b) (0) (nwDst d) (encFFmt f)) = _ := encR_fields 
      have hq : encR 36 (encDst d) (encSrc a) (encSrc b) (0) (nwDst d) (encFFmt f) / 4 % 2 = _ := encR_form
      simp only [decSlot]; unfold decScalar; rw [hc]
      show some _ = some _
      simp (disch := omega) [dec_fmin, hf, hq]
    · exact absurd rfl n
  case sb =>
    refine encodingOf (s := .sb) (w := encR 36 (encDst d) (encSrc a) (encSrc b) (0) (nwDst d) (encFFmt f)) (x := none) (r := .none) rfl rfl rfl rfl encR_lt (fun wf => ?_) (fun n wf hl => ?_) (Or.inl rfl)
    · have hc : encR 36 (encDst d) (encSrc a) (encSrc b) (0) (nwDst d) (encFFmt f) / 67108864 = 36 := encR_code 
      have hf : RFields.of (encR 36 (encDst d) (encSrc a) (encSrc b) (0) (nwDst d) (encFFmt f)) = _ := encR_fields 
      have hq : encR 36 (encDst d) (encSrc a) (encSrc b) (0) (nwDst d) (encFFmt f) / 4 % 2 = _ := encR_form
      simp only [decSlot]; rw [hc, if_pos (by decide)]; unfold decScalar; rw [hc]
      show some _ = some _
      simp (disch := omega) [dec_fmin, hf, hq]
    · exact absurd rfl n
theorem Encoding.fmax (u : SUnit) (d : Dst) (a : Src) (b : Src) (f : FFmt) : Encoding.Statement (.fmax u d a b f) := by
  have := encDst_lt d; have := nwDst_lt d; have := encSrc_lt a; have := encSrc_lt b; have := encFFmt_lt f
  cases u
  case sa =>
    refine encodingOf (s := .sa) (w := encR 37 (encDst d) (encSrc a) (encSrc b) (0) (nwDst d) (encFFmt f)) (x := none) (r := .none) rfl rfl rfl rfl encR_lt (fun wf => ?_) (fun n wf hl => ?_) (Or.inl rfl)
    · have hc : encR 37 (encDst d) (encSrc a) (encSrc b) (0) (nwDst d) (encFFmt f) / 67108864 = 37 := encR_code 
      have hf : RFields.of (encR 37 (encDst d) (encSrc a) (encSrc b) (0) (nwDst d) (encFFmt f)) = _ := encR_fields 
      have hq : encR 37 (encDst d) (encSrc a) (encSrc b) (0) (nwDst d) (encFFmt f) / 4 % 2 = _ := encR_form
      simp only [decSlot]; unfold decScalar; rw [hc]
      show some _ = some _
      simp (disch := omega) [dec_fmax, hf, hq]
    · exact absurd rfl n
  case sb =>
    refine encodingOf (s := .sb) (w := encR 37 (encDst d) (encSrc a) (encSrc b) (0) (nwDst d) (encFFmt f)) (x := none) (r := .none) rfl rfl rfl rfl encR_lt (fun wf => ?_) (fun n wf hl => ?_) (Or.inl rfl)
    · have hc : encR 37 (encDst d) (encSrc a) (encSrc b) (0) (nwDst d) (encFFmt f) / 67108864 = 37 := encR_code 
      have hf : RFields.of (encR 37 (encDst d) (encSrc a) (encSrc b) (0) (nwDst d) (encFFmt f)) = _ := encR_fields 
      have hq : encR 37 (encDst d) (encSrc a) (encSrc b) (0) (nwDst d) (encFFmt f) / 4 % 2 = _ := encR_form
      simp only [decSlot]; rw [hc, if_pos (by decide)]; unfold decScalar; rw [hc]
      show some _ = some _
      simp (disch := omega) [dec_fmax, hf, hq]
    · exact absurd rfl n
theorem Encoding.fabs (u : SUnit) (d : Dst) (a : Src) (f : FFmt) : Encoding.Statement (.fabs u d a f) := by
  have := encDst_lt d; have := nwDst_lt d; have := encSrc_lt a; have := encFFmt_lt f
  cases u
  case sa =>
    refine encodingOf (s := .sa) (w := encR 38 (encDst d) (encSrc a) (0) (0) (nwDst d) (encFFmt f)) (x := none) (r := .none) rfl rfl rfl rfl encR_lt (fun wf => ?_) (fun n wf hl => ?_) (Or.inl rfl)
    · have hc : encR 38 (encDst d) (encSrc a) (0) (0) (nwDst d) (encFFmt f) / 67108864 = 38 := encR_code 
      have hf : RFields.of (encR 38 (encDst d) (encSrc a) (0) (0) (nwDst d) (encFFmt f)) = _ := encR_fields 
      have hq : encR 38 (encDst d) (encSrc a) (0) (0) (nwDst d) (encFFmt f) / 4 % 2 = _ := encR_form
      simp only [decSlot]; unfold decScalar; rw [hc]
      show some _ = some _
      simp (disch := omega) [dec_fabs, hf, hq]
    · exact absurd rfl n
  case sb =>
    refine encodingOf (s := .sb) (w := encR 38 (encDst d) (encSrc a) (0) (0) (nwDst d) (encFFmt f)) (x := none) (r := .none) rfl rfl rfl rfl encR_lt (fun wf => ?_) (fun n wf hl => ?_) (Or.inl rfl)
    · have hc : encR 38 (encDst d) (encSrc a) (0) (0) (nwDst d) (encFFmt f) / 67108864 = 38 := encR_code 
      have hf : RFields.of (encR 38 (encDst d) (encSrc a) (0) (0) (nwDst d) (encFFmt f)) = _ := encR_fields 
      have hq : encR 38 (encDst d) (encSrc a) (0) (0) (nwDst d) (encFFmt f) / 4 % 2 = _ := encR_form
      simp only [decSlot]; rw [hc, if_pos (by decide)]; unfold decScalar; rw [hc]
      show some _ = some _
      simp (disch := omega) [dec_fabs, hf, hq]
    · exact absurd rfl n
theorem Encoding.fneg (u : SUnit) (d : Dst) (a : Src) (f : FFmt) : Encoding.Statement (.fneg u d a f) := by
  have := encDst_lt d; have := nwDst_lt d; have := encSrc_lt a; have := encFFmt_lt f
  cases u
  case sa =>
    refine encodingOf (s := .sa) (w := encR 39 (encDst d) (encSrc a) (0) (0) (nwDst d) (encFFmt f)) (x := none) (r := .none) rfl rfl rfl rfl encR_lt (fun wf => ?_) (fun n wf hl => ?_) (Or.inl rfl)
    · have hc : encR 39 (encDst d) (encSrc a) (0) (0) (nwDst d) (encFFmt f) / 67108864 = 39 := encR_code 
      have hf : RFields.of (encR 39 (encDst d) (encSrc a) (0) (0) (nwDst d) (encFFmt f)) = _ := encR_fields 
      have hq : encR 39 (encDst d) (encSrc a) (0) (0) (nwDst d) (encFFmt f) / 4 % 2 = _ := encR_form
      simp only [decSlot]; unfold decScalar; rw [hc]
      show some _ = some _
      simp (disch := omega) [dec_fneg, hf, hq]
    · exact absurd rfl n
  case sb =>
    refine encodingOf (s := .sb) (w := encR 39 (encDst d) (encSrc a) (0) (0) (nwDst d) (encFFmt f)) (x := none) (r := .none) rfl rfl rfl rfl encR_lt (fun wf => ?_) (fun n wf hl => ?_) (Or.inl rfl)
    · have hc : encR 39 (encDst d) (encSrc a) (0) (0) (nwDst d) (encFFmt f) / 67108864 = 39 := encR_code 
      have hf : RFields.of (encR 39 (encDst d) (encSrc a) (0) (0) (nwDst d) (encFFmt f)) = _ := encR_fields 
      have hq : encR 39 (encDst d) (encSrc a) (0) (0) (nwDst d) (encFFmt f) / 4 % 2 = _ := encR_form
      simp only [decSlot]; rw [hc, if_pos (by decide)]; unfold decScalar; rw [hc]
      show some _ = some _
      simp (disch := omega) [dec_fneg, hf, hq]
    · exact absurd rfl n
theorem Encoding.fcmp (u : SUnit) (d : Dst) (a : Src) (b : Src) (f : FFmt) (cond : Cond) : Encoding.Statement (.fcmp u d a b f cond) := by
  have := encDst_lt d; have := nwDst_lt d; have := encSrc_lt a; have := encSrc_lt b; have := encFFmt_lt f; have := encCond_lt cond
  cases u
  case sa =>
    refine encodingOf (s := .sa) (w := encR 40 (encDst d) (encSrc a) (encSrc b) (encCond cond) (nwDst d) (encFFmt f)) (x := none) (r := .none) rfl rfl rfl rfl encR_lt (fun wf => ?_) (fun n wf hl => ?_) (Or.inl rfl)
    · have hc : encR 40 (encDst d) (encSrc a) (encSrc b) (encCond cond) (nwDst d) (encFFmt f) / 67108864 = 40 := encR_code 
      have hf : RFields.of (encR 40 (encDst d) (encSrc a) (encSrc b) (encCond cond) (nwDst d) (encFFmt f)) = _ := encR_fields 
      have hq : encR 40 (encDst d) (encSrc a) (encSrc b) (encCond cond) (nwDst d) (encFFmt f) / 4 % 2 = _ := encR_form
      simp only [decSlot]; unfold decScalar; rw [hc]
      show some _ = some _
      simp (disch := omega) [dec_fcmp, hf, hq]
    · exact absurd rfl n
  case sb =>
    refine encodingOf (s := .sb) (w := encR 40 (encDst d) (encSrc a) (encSrc b) (encCond cond) (nwDst d) (encFFmt f)) (x := none) (r := .none) rfl rfl rfl rfl encR_lt (fun wf => ?_) (fun n wf hl => ?_) (Or.inl rfl)
    · have hc : encR 40 (encDst d) (encSrc a) (encSrc b) (encCond cond) (nwDst d) (encFFmt f) / 67108864 = 40 := encR_code 
      have hf : RFields.of (encR 40 (encDst d) (encSrc a) (encSrc b) (encCond cond) (nwDst d) (encFFmt f)) = _ := encR_fields 
      have hq : encR 40 (encDst d) (encSrc a) (encSrc b) (encCond cond) (nwDst d) (encFFmt f) / 4 % 2 = _ := encR_form
      simp only [decSlot]; rw [hc, if_pos (by decide)]; unfold decScalar; rw [hc]
      show some _ = some _
      simp (disch := omega) [dec_fcmp, hf, hq]
    · exact absurd rfl n
theorem Encoding.fcvt (u : SUnit) (d : Dst) (a : Src) (res : Fmt) (src : Fmt) (rq : Rq) : Encoding.Statement (.fcvt u d a res src rq) := by
  have := encDst_lt d; have := nwDst_lt d; have := encSrc_lt a; have := encFmt_lt res; have := encFmt_lt src; have := encRq_lt rq
  cases u
  case sa =>
    refine encodingOf (s := .sa) (w := encR 41 (encDst d) (encSrc a) (8 * encRq rq + encFmt src) (0) (nwDst d) (encFmt res)) (x := none) (r := .none) rfl rfl rfl rfl encR_lt (fun wf => ?_) (fun n wf hl => ?_) (Or.inl rfl)
    · have hc : encR 41 (encDst d) (encSrc a) (8 * encRq rq + encFmt src) (0) (nwDst d) (encFmt res) / 67108864 = 41 := encR_code 
      have hf : RFields.of (encR 41 (encDst d) (encSrc a) (8 * encRq rq + encFmt src) (0) (nwDst d) (encFmt res)) = _ := encR_fields 
      have hq : encR 41 (encDst d) (encSrc a) (8 * encRq rq + encFmt src) (0) (nwDst d) (encFmt res) / 4 % 2 = _ := encR_form
      simp only [decSlot]; unfold decScalar; rw [hc]
      show some _ = some _
      simp (disch := omega) [dec_fcvt, hf, hq, fieldLow, fieldHigh, fieldLow2, fieldHigh2, Nat.mod_eq_of_lt]
    · exact absurd rfl n
  case sb =>
    refine encodingOf (s := .sb) (w := encR 41 (encDst d) (encSrc a) (8 * encRq rq + encFmt src) (0) (nwDst d) (encFmt res)) (x := none) (r := .none) rfl rfl rfl rfl encR_lt (fun wf => ?_) (fun n wf hl => ?_) (Or.inl rfl)
    · have hc : encR 41 (encDst d) (encSrc a) (8 * encRq rq + encFmt src) (0) (nwDst d) (encFmt res) / 67108864 = 41 := encR_code 
      have hf : RFields.of (encR 41 (encDst d) (encSrc a) (8 * encRq rq + encFmt src) (0) (nwDst d) (encFmt res)) = _ := encR_fields 
      have hq : encR 41 (encDst d) (encSrc a) (8 * encRq rq + encFmt src) (0) (nwDst d) (encFmt res) / 4 % 2 = _ := encR_form
      simp only [decSlot]; rw [hc, if_pos (by decide)]; unfold decScalar; rw [hc]
      show some _ = some _
      simp (disch := omega) [dec_fcvt, hf, hq, fieldLow, fieldHigh, fieldLow2, fieldHigh2, Nat.mod_eq_of_lt]
    · exact absurd rfl n
theorem Encoding.fclass (u : SUnit) (d : Dst) (a : Src) (f : FFmt) : Encoding.Statement (.fclass u d a f) := by
  have := encDst_lt d; have := nwDst_lt d; have := encSrc_lt a; have := encFFmt_lt f
  cases u
  case sa =>
    refine encodingOf (s := .sa) (w := encR 42 (encDst d) (encSrc a) (0) (0) (nwDst d) (encFFmt f)) (x := none) (r := .none) rfl rfl rfl rfl encR_lt (fun wf => ?_) (fun n wf hl => ?_) (Or.inl rfl)
    · have hc : encR 42 (encDst d) (encSrc a) (0) (0) (nwDst d) (encFFmt f) / 67108864 = 42 := encR_code 
      have hf : RFields.of (encR 42 (encDst d) (encSrc a) (0) (0) (nwDst d) (encFFmt f)) = _ := encR_fields 
      have hq : encR 42 (encDst d) (encSrc a) (0) (0) (nwDst d) (encFFmt f) / 4 % 2 = _ := encR_form
      simp only [decSlot]; unfold decScalar; rw [hc]
      show some _ = some _
      simp (disch := omega) [dec_fclass, hf, hq]
    · exact absurd rfl n
  case sb =>
    refine encodingOf (s := .sb) (w := encR 42 (encDst d) (encSrc a) (0) (0) (nwDst d) (encFFmt f)) (x := none) (r := .none) rfl rfl rfl rfl encR_lt (fun wf => ?_) (fun n wf hl => ?_) (Or.inl rfl)
    · have hc : encR 42 (encDst d) (encSrc a) (0) (0) (nwDst d) (encFFmt f) / 67108864 = 42 := encR_code 
      have hf : RFields.of (encR 42 (encDst d) (encSrc a) (0) (0) (nwDst d) (encFFmt f)) = _ := encR_fields 
      have hq : encR 42 (encDst d) (encSrc a) (0) (0) (nwDst d) (encFFmt f) / 4 % 2 = _ := encR_form
      simp only [decSlot]; rw [hc, if_pos (by decide)]; unfold decScalar; rw [hc]
      show some _ = some _
      simp (disch := omega) [dec_fclass, hf, hq]
    · exact absurd rfl n
theorem Encoding.ctlr (u : SUnit) (d : Dst) (c : Fin 64) : Encoding.Statement (.ctlr u d c) := by
  have := encDst_lt d; have := nwDst_lt d; have := c.isLt
  cases u
  case sa =>
    refine encodingOf (s := .sa) (w := encR 43 (encDst d) (0) (c.val) (0) (nwDst d) (3)) (x := none) (r := .none) rfl rfl rfl rfl encR_lt (fun wf => ?_) (fun n wf hl => ?_) (Or.inl rfl)
    · have hc : encR 43 (encDst d) (0) (c.val) (0) (nwDst d) (3) / 67108864 = 43 := encR_code 
      have hf : RFields.of (encR 43 (encDst d) (0) (c.val) (0) (nwDst d) (3)) = _ := encR_fields 
      have hq : encR 43 (encDst d) (0) (c.val) (0) (nwDst d) (3) / 4 % 2 = _ := encR_form
      simp only [decSlot]; unfold decScalar; rw [hc]
      show some _ = some _
      simp (disch := omega) [dec_ctlr, hf, hq]
    · exact absurd rfl n
  case sb =>
    refine encodingOf (s := .sb) (w := encR 43 (encDst d) (0) (c.val) (0) (nwDst d) (3)) (x := none) (r := .none) rfl rfl rfl rfl encR_lt (fun wf => ?_) (fun n wf hl => ?_) (Or.inl rfl)
    · have hc : encR 43 (encDst d) (0) (c.val) (0) (nwDst d) (3) / 67108864 = 43 := encR_code 
      have hf : RFields.of (encR 43 (encDst d) (0) (c.val) (0) (nwDst d) (3)) = _ := encR_fields 
      have hq : encR 43 (encDst d) (0) (c.val) (0) (nwDst d) (3) / 4 % 2 = _ := encR_form
      simp only [decSlot]; rw [hc, if_pos (by decide)]; unfold decScalar; rw [hc]
      show some _ = some _
      simp (disch := omega) [dec_ctlr, hf, hq]
    · exact absurd rfl n
theorem Encoding.ctlw (u : SUnit) (a : Src) (c : Fin 64) : Encoding.Statement (.ctlw u a c) := by
  have := encSrc_lt a; have := c.isLt
  cases u
  case sa =>
    refine encodingOf (s := .sa) (w := encR 44 (0) (encSrc a) (c.val) (0) (0) (3)) (x := none) (r := .none) rfl rfl rfl rfl encR_lt (fun wf => ?_) (fun n wf hl => ?_) (Or.inl rfl)
    · have hc : encR 44 (0) (encSrc a) (c.val) (0) (0) (3) / 67108864 = 44 := encR_code 
      have hf : RFields.of (encR 44 (0) (encSrc a) (c.val) (0) (0) (3)) = _ := encR_fields 
      have hq : encR 44 (0) (encSrc a) (c.val) (0) (0) (3) / 4 % 2 = _ := encR_form
      simp only [decSlot]; unfold decScalar; rw [hc]
      show some _ = some _
      simp (disch := omega) [dec_ctlw, hf, hq]
    · exact absurd rfl n
  case sb =>
    refine encodingOf (s := .sb) (w := encR 44 (0) (encSrc a) (c.val) (0) (0) (3)) (x := none) (r := .none) rfl rfl rfl rfl encR_lt (fun wf => ?_) (fun n wf hl => ?_) (Or.inl rfl)
    · have hc : encR 44 (0) (encSrc a) (c.val) (0) (0) (3) / 67108864 = 44 := encR_code 
      have hf : RFields.of (encR 44 (0) (encSrc a) (c.val) (0) (0) (3)) = _ := encR_fields 
      have hq : encR 44 (0) (encSrc a) (c.val) (0) (0) (3) / 4 % 2 = _ := encR_form
      simp only [decSlot]; rw [hc, if_pos (by decide)]; unfold decScalar; rw [hc]
      show some _ = some _
      simp (disch := omega) [dec_ctlw, hf, hq]
    · exact absurd rfl n
theorem Encoding.shw (u : SUnit) (h : Fin 16) (a : Src) (field : Fin 28) (fmt : Fin 1) : Encoding.Statement (.shw u h a field fmt) := by
  obtain rfl : fmt = 0 := Subsingleton.elim _ _
  have := h.isLt; have := encSrc_lt a; have := field.isLt
  cases u
  case sa =>
    refine encodingOf (s := .sa) (w := encR 45 (h.val) (encSrc a) (field.val) (0) (0) (0)) (x := none) (r := .none) rfl rfl rfl rfl encR_lt (fun wf => ?_) (fun n wf hl => ?_) (Or.inl rfl)
    · have hc : encR 45 (h.val) (encSrc a) (field.val) (0) (0) (0) / 67108864 = 45 := encR_code 
      have hf : RFields.of (encR 45 (h.val) (encSrc a) (field.val) (0) (0) (0)) = _ := encR_fields 
      have hq : encR 45 (h.val) (encSrc a) (field.val) (0) (0) (0) / 4 % 2 = _ := encR_form
      simp only [decSlot]; unfold decScalar; rw [hc]
      show some _ = some _
      simp (disch := omega) [dec_shw, hf, hq]
    · exact absurd rfl n
  case sb =>
    refine encodingOf (s := .sb) (w := encR 45 (h.val) (encSrc a) (field.val) (0) (0) (0)) (x := none) (r := .none) rfl rfl rfl rfl encR_lt (fun wf => ?_) (fun n wf hl => ?_) (Or.inl rfl)
    · have hc : encR 45 (h.val) (encSrc a) (field.val) (0) (0) (0) / 67108864 = 45 := encR_code 
      have hf : RFields.of (encR 45 (h.val) (encSrc a) (field.val) (0) (0) (0)) = _ := encR_fields 
      have hq : encR 45 (h.val) (encSrc a) (field.val) (0) (0) (0) / 4 % 2 = _ := encR_form
      simp only [decSlot]; rw [hc, if_pos (by decide)]; unfold decScalar; rw [hc]
      show some _ = some _
      simp (disch := omega) [dec_shw, hf, hq]
    · exact absurd rfl n
theorem Encoding.mpw (u : SUnit) (m : Fin 8) (a : Src) : Encoding.Statement (.mpw u m a) := by
  have := m.isLt; have := encSrc_lt a
  cases u
  case sa =>
    refine encodingOf (s := .sa) (w := encR 46 (m.val) (encSrc a) (0) (0) (0) (3)) (x := none) (r := .none) rfl rfl rfl rfl encR_lt (fun wf => ?_) (fun n wf hl => ?_) (Or.inl rfl)
    · have hc : encR 46 (m.val) (encSrc a) (0) (0) (0) (3) / 67108864 = 46 := encR_code 
      have hf : RFields.of (encR 46 (m.val) (encSrc a) (0) (0) (0) (3)) = _ := encR_fields 
      have hq : encR 46 (m.val) (encSrc a) (0) (0) (0) (3) / 4 % 2 = _ := encR_form
      simp only [decSlot]; unfold decScalar; rw [hc]
      show some _ = some _
      simp (disch := omega) [dec_mpw, hf, hq]
    · exact absurd rfl n
  case sb =>
    refine encodingOf (s := .sb) (w := encR 46 (m.val) (encSrc a) (0) (0) (0) (3)) (x := none) (r := .none) rfl rfl rfl rfl encR_lt (fun wf => ?_) (fun n wf hl => ?_) (Or.inl rfl)
    · have hc : encR 46 (m.val) (encSrc a) (0) (0) (0) (3) / 67108864 = 46 := encR_code 
      have hf : RFields.of (encR 46 (m.val) (encSrc a) (0) (0) (0) (3)) = _ := encR_fields 
      have hq : encR 46 (m.val) (encSrc a) (0) (0) (0) (3) / 4 % 2 = _ := encR_form
      simp only [decSlot]; rw [hc, if_pos (by decide)]; unfold decScalar; rw [hc]
      show some _ = some _
      simp (disch := omega) [dec_mpw, hf, hq]
    · exact absurd rfl n
theorem Encoding.awr (u : SUnit) (r : Fin 8) (part : AwrPart) (a : Src) : Encoding.Statement (.awr u r part a) := by
  have := r.isLt; have := encAwrPart_lt part; have := encSrc_lt a
  cases u
  case sa =>
    refine encodingOf (s := .sa) (w := encR 47 (r.val + 8 * encAwrPart part) (encSrc a) (0) (0) (0) (3)) (x := none) (r := .none) rfl rfl rfl rfl encR_lt (fun wf => ?_) (fun n wf hl => ?_) (Or.inl rfl)
    · have hc : encR 47 (r.val + 8 * encAwrPart part) (encSrc a) (0) (0) (0) (3) / 67108864 = 47 := encR_code 
      have hf : RFields.of (encR 47 (r.val + 8 * encAwrPart part) (encSrc a) (0) (0) (0) (3)) = _ := encR_fields 
      have hq : encR 47 (r.val + 8 * encAwrPart part) (encSrc a) (0) (0) (0) (3) / 4 % 2 = _ := encR_form
      simp only [decSlot]; unfold decScalar; rw [hc]
      show some _ = some _
      simp (disch := omega) [dec_awr, hf, hq, fieldLow, fieldHigh, fieldLow2, fieldHigh2, Nat.mod_eq_of_lt]
    · exact absurd rfl n
  case sb =>
    refine encodingOf (s := .sb) (w := encR 47 (r.val + 8 * encAwrPart part) (encSrc a) (0) (0) (0) (3)) (x := none) (r := .none) rfl rfl rfl rfl encR_lt (fun wf => ?_) (fun n wf hl => ?_) (Or.inl rfl)
    · have hc : encR 47 (r.val + 8 * encAwrPart part) (encSrc a) (0) (0) (0) (3) / 67108864 = 47 := encR_code 
      have hf : RFields.of (encR 47 (r.val + 8 * encAwrPart part) (encSrc a) (0) (0) (0) (3)) = _ := encR_fields 
      have hq : encR 47 (r.val + 8 * encAwrPart part) (encSrc a) (0) (0) (0) (3) / 4 % 2 = _ := encR_form
      simp only [decSlot]; rw [hc, if_pos (by decide)]; unfold decScalar; rw [hc]
      show some _ = some _
      simp (disch := omega) [dec_awr, hf, hq, fieldLow, fieldHigh, fieldLow2, fieldHigh2, Nat.mod_eq_of_lt]
    · exact absurd rfl n
theorem Encoding.div (d : Dst) (a : Src) (b : Src) (w : IntW) : Encoding.Statement (.div d a b w) := by
  have := encDst_lt d; have := nwDst_lt d; have := encSrc_lt a; have := encSrc_lt b; have := encIntW_lt w
  refine encodingOf (s := .sb) (w := encR 48 (encDst d) (encSrc a) (encSrc b) (0) (nwDst d) (encIntW w)) (x := none) (r := .none) rfl rfl rfl rfl encR_lt (fun wf => ?_) (fun n wf hl => ?_) (Or.inl rfl)
  · have hc : encR 48 (encDst d) (encSrc a) (encSrc b) (0) (nwDst d) (encIntW w) / 67108864 = 48 := encR_code 
    have hf : RFields.of (encR 48 (encDst d) (encSrc a) (encSrc b) (0) (nwDst d) (encIntW w)) = _ := encR_fields 
    simp only [decSlot]; rw [hc, if_neg (by decide)]; unfold decSB; rw [hc]
    show some _ = some _
    simp (disch := omega) [dec_div, hf]
  · exact absurd rfl n
theorem Encoding.divu (d : Dst) (a : Src) (b : Src) (w : IntW) : Encoding.Statement (.divu d a b w) := by
  have := encDst_lt d; have := nwDst_lt d; have := encSrc_lt a; have := encSrc_lt b; have := encIntW_lt w
  refine encodingOf (s := .sb) (w := encR 49 (encDst d) (encSrc a) (encSrc b) (0) (nwDst d) (encIntW w)) (x := none) (r := .none) rfl rfl rfl rfl encR_lt (fun wf => ?_) (fun n wf hl => ?_) (Or.inl rfl)
  · have hc : encR 49 (encDst d) (encSrc a) (encSrc b) (0) (nwDst d) (encIntW w) / 67108864 = 49 := encR_code 
    have hf : RFields.of (encR 49 (encDst d) (encSrc a) (encSrc b) (0) (nwDst d) (encIntW w)) = _ := encR_fields 
    simp only [decSlot]; rw [hc, if_neg (by decide)]; unfold decSB; rw [hc]
    show some _ = some _
    simp (disch := omega) [dec_divu, hf]
  · exact absurd rfl n
theorem Encoding.rem (d : Dst) (a : Src) (b : Src) (w : IntW) : Encoding.Statement (.rem d a b w) := by
  have := encDst_lt d; have := nwDst_lt d; have := encSrc_lt a; have := encSrc_lt b; have := encIntW_lt w
  refine encodingOf (s := .sb) (w := encR 50 (encDst d) (encSrc a) (encSrc b) (0) (nwDst d) (encIntW w)) (x := none) (r := .none) rfl rfl rfl rfl encR_lt (fun wf => ?_) (fun n wf hl => ?_) (Or.inl rfl)
  · have hc : encR 50 (encDst d) (encSrc a) (encSrc b) (0) (nwDst d) (encIntW w) / 67108864 = 50 := encR_code 
    have hf : RFields.of (encR 50 (encDst d) (encSrc a) (encSrc b) (0) (nwDst d) (encIntW w)) = _ := encR_fields 
    simp only [decSlot]; rw [hc, if_neg (by decide)]; unfold decSB; rw [hc]
    show some _ = some _
    simp (disch := omega) [dec_rem, hf]
  · exact absurd rfl n
theorem Encoding.remu (d : Dst) (a : Src) (b : Src) (w : IntW) : Encoding.Statement (.remu d a b w) := by
  have := encDst_lt d; have := nwDst_lt d; have := encSrc_lt a; have := encSrc_lt b; have := encIntW_lt w
  refine encodingOf (s := .sb) (w := encR 51 (encDst d) (encSrc a) (encSrc b) (0) (nwDst d) (encIntW w)) (x := none) (r := .none) rfl rfl rfl rfl encR_lt (fun wf => ?_) (fun n wf hl => ?_) (Or.inl rfl)
  · have hc : encR 51 (encDst d) (encSrc a) (encSrc b) (0) (nwDst d) (encIntW w) / 67108864 = 51 := encR_code 
    have hf : RFields.of (encR 51 (encDst d) (encSrc a) (encSrc b) (0) (nwDst d) (encIntW w)) = _ := encR_fields 
    simp only [decSlot]; rw [hc, if_neg (by decide)]; unfold decSB; rw [hc]
    show some _ = some _
    simp (disch := omega) [dec_remu, hf]
  · exact absurd rfl n
theorem Encoding.fdiv (d : Dst) (a : Src) (b : Src) (f : FFmt) (rq : Rq) : Encoding.Statement (.fdiv d a b f rq) := by
  have := encDst_lt d; have := nwDst_lt d; have := encSrc_lt a; have := encSrc_lt b; have := encFFmt_lt f; have := encRq_lt rq
  refine encodingOf (s := .sb) (w := encR 52 (encDst d) (encSrc a) (encSrc b) (encRq rq) (nwDst d) (encFFmt f)) (x := none) (r := .none) rfl rfl rfl rfl encR_lt (fun wf => ?_) (fun n wf hl => ?_) (Or.inl rfl)
  · have hc : encR 52 (encDst d) (encSrc a) (encSrc b) (encRq rq) (nwDst d) (encFFmt f) / 67108864 = 52 := encR_code 
    have hf : RFields.of (encR 52 (encDst d) (encSrc a) (encSrc b) (encRq rq) (nwDst d) (encFFmt f)) = _ := encR_fields 
    simp only [decSlot]; rw [hc, if_neg (by decide)]; unfold decSB; rw [hc]
    show some _ = some _
    simp (disch := omega) [dec_fdiv, hf]
  · exact absurd rfl n
theorem Encoding.fsqrt (d : Dst) (a : Src) (f : FFmt) (rq : Rq) : Encoding.Statement (.fsqrt d a f rq) := by
  have := encDst_lt d; have := nwDst_lt d; have := encSrc_lt a; have := encFFmt_lt f; have := encRq_lt rq
  refine encodingOf (s := .sb) (w := encR 53 (encDst d) (encSrc a) (0) (encRq rq) (nwDst d) (encFFmt f)) (x := none) (r := .none) rfl rfl rfl rfl encR_lt (fun wf => ?_) (fun n wf hl => ?_) (Or.inl rfl)
  · have hc : encR 53 (encDst d) (encSrc a) (0) (encRq rq) (nwDst d) (encFFmt f) / 67108864 = 53 := encR_code 
    have hf : RFields.of (encR 53 (encDst d) (encSrc a) (0) (encRq rq) (nwDst d) (encFFmt f)) = _ := encR_fields 
    simp only [decSlot]; rw [hc, if_neg (by decide)]; unfold decSB; rw [hc]
    show some _ = some _
    simp (disch := omega) [dec_fsqrt, hf]
  · exact absurd rfl n
theorem Encoding.yield : Encoding.Statement (.yield) := by
  refine encodingOf (s := .sb) (w := encR 54 (0) (0) (0) (0) (0) (0)) (x := none) (r := .none) rfl rfl rfl rfl encR_lt (fun wf => ?_) (fun n wf hl => ?_) (Or.inl rfl)
  · have hc : encR 54 (0) (0) (0) (0) (0) (0) / 67108864 = 54 := encR_code 
    have hf : RFields.of (encR 54 (0) (0) (0) (0) (0) (0)) = _ := encR_fields 
    simp only [decSlot]; rw [hc, if_neg (by decide)]; unfold decSB; rw [hc]
    show some _ = some _
    simp (disch := omega) [dec_yield, hf]
  · exact absurd rfl n
theorem Encoding.loop (count : Src) (off : Imm16) : Encoding.Statement (.loop count off) := by
  have := encSrc_lt count
  refine encodingOf (s := .sb) (w := encI 55 (encSrc count) off.lo 0 0) (x := off.ext) (r := .none) rfl rfl rfl rfl encI_lt (fun wf => ?_) (fun n wf hl => ?_) (Or.inl rfl)
  · have hc : encI 55 (encSrc count) off.lo 0 0 / 67108864 = 55 := encI_code 
    simp only [decSlot]; rw [hc, if_neg (by decide)]; unfold decSB; rw [hc]
    show some _ = some _
    simp (disch := omega) [dec_loop, encI_dst, encI_n, encI_form, encI_f, encI_low, encI_low8, encI_imm]
  · simp (disch := omega) [takesImm, BitVec.toNat_ofNat, Nat.mod_eq_of_lt hl, encI_code, encI_form]
theorem Encoding.br (off : Imm16) : Encoding.Statement (.br off) := by
  refine encodingOf (s := .sb) (w := encI 56 (0) off.lo 0 0) (x := off.ext) (r := .none) rfl rfl rfl rfl encI_lt (fun wf => ?_) (fun n wf hl => ?_) (Or.inl rfl)
  · have hc : encI 56 (0) off.lo 0 0 / 67108864 = 56 := encI_code 
    simp only [decSlot]; rw [hc, if_neg (by decide)]; unfold decSB; rw [hc]
    show some _ = some _
    simp (disch := omega) [dec_br, encI_dst, encI_n, encI_form, encI_f, encI_low, encI_low8, encI_imm]
  · simp (disch := omega) [takesImm, BitVec.toNat_ofNat, Nat.mod_eq_of_lt hl, encI_code, encI_form]
theorem Encoding.bz (r : Src) (off : Imm16) : Encoding.Statement (.bz r off) := by
  have := encSrc_lt r
  refine encodingOf (s := .sb) (w := encI 57 (encSrc r) off.lo 0 0) (x := off.ext) (r := .none) rfl rfl rfl rfl encI_lt (fun wf => ?_) (fun n wf hl => ?_) (Or.inl rfl)
  · have hc : encI 57 (encSrc r) off.lo 0 0 / 67108864 = 57 := encI_code 
    simp only [decSlot]; rw [hc, if_neg (by decide)]; unfold decSB; rw [hc]
    show some _ = some _
    simp (disch := omega) [dec_bz, encI_dst, encI_n, encI_form, encI_f, encI_low, encI_low8, encI_imm]
  · simp (disch := omega) [takesImm, BitVec.toNat_ofNat, Nat.mod_eq_of_lt hl, encI_code, encI_form]
theorem Encoding.bnz (r : Src) (off : Imm16) : Encoding.Statement (.bnz r off) := by
  have := encSrc_lt r
  refine encodingOf (s := .sb) (w := encI 58 (encSrc r) off.lo 0 0) (x := off.ext) (r := .none) rfl rfl rfl rfl encI_lt (fun wf => ?_) (fun n wf hl => ?_) (Or.inl rfl)
  · have hc : encI 58 (encSrc r) off.lo 0 0 / 67108864 = 58 := encI_code 
    simp only [decSlot]; rw [hc, if_neg (by decide)]; unfold decSB; rw [hc]
    show some _ = some _
    simp (disch := omega) [dec_bnz, encI_dst, encI_n, encI_form, encI_f, encI_low, encI_low8, encI_imm]
  · simp (disch := omega) [takesImm, BitVec.toNat_ofNat, Nat.mod_eq_of_lt hl, encI_code, encI_form]
theorem Encoding.bp (p : Fin 16) (test : BpTest) (off : Imm16) : Encoding.Statement (.bp p test off) := by
  have := p.isLt; have := encBpTest_lt test
  refine encodingOf (s := .sb) (w := encI 59 (p.val + 16 * encBpTest test) off.lo 0 0) (x := off.ext) (r := .none) rfl rfl rfl rfl encI_lt (fun wf => ?_) (fun n wf hl => ?_) (Or.inl rfl)
  · have hc : encI 59 (p.val + 16 * encBpTest test) off.lo 0 0 / 67108864 = 59 := encI_code 
    simp only [decSlot]; rw [hc, if_neg (by decide)]; unfold decSB; rw [hc]
    show some _ = some _
    simp (disch := omega) [dec_bp, encI_dst, encI_n, encI_form, encI_f, encI_low, encI_low8, encI_imm, fieldLow, fieldHigh, fieldLow2, fieldHigh2, Nat.mod_eq_of_lt]
  · simp (disch := omega) [takesImm, BitVec.toNat_ofNat, Nat.mod_eq_of_lt hl, encI_code, encI_form]
theorem Encoding.jmp (a : Src) (fmt : Fin 1) : Encoding.Statement (.jmp a fmt) := by
  obtain rfl : fmt = 0 := Subsingleton.elim _ _
  have := encSrc_lt a
  refine encodingOf (s := .sb) (w := encR 60 (0) (encSrc a) (0) (0) (0) (0)) (x := none) (r := .none) rfl rfl rfl rfl encR_lt (fun wf => ?_) (fun n wf hl => ?_) (Or.inl rfl)
  · have hc : encR 60 (0) (encSrc a) (0) (0) (0) (0) / 67108864 = 60 := encR_code 
    have hf : RFields.of (encR 60 (0) (encSrc a) (0) (0) (0) (0)) = _ := encR_fields 
    simp only [decSlot]; rw [hc, if_neg (by decide)]; unfold decSB; rw [hc]
    show some _ = some _
    simp (disch := omega) [dec_jmp, hf]
  · exact absurd rfl n
theorem Encoding.call (d : Fin 48) (off : Imm16) : Encoding.Statement (.call d off) := by
  have := d.isLt
  refine encodingOf (s := .sb) (w := encI 61 (d.val) off.lo 0 0) (x := off.ext) (r := .none) rfl rfl rfl rfl encI_lt (fun wf => ?_) (fun n wf hl => ?_) (Or.inl rfl)
  · have hc : encI 61 (d.val) off.lo 0 0 / 67108864 = 61 := encI_code 
    simp only [decSlot]; rw [hc, if_neg (by decide)]; unfold decSB; rw [hc]
    show some _ = some _
    simp (disch := omega) [dec_call, encI_dst, encI_n, encI_form, encI_f, encI_low, encI_low8, encI_imm]
  · simp (disch := omega) [takesImm, BitVec.toNat_ofNat, Nat.mod_eq_of_lt hl, encI_code, encI_form]
theorem Encoding.callr (d : Dst) (a : Src) (fmt : Fin 1) : Encoding.Statement (.callr d a fmt) := by
  obtain rfl : fmt = 0 := Subsingleton.elim _ _
  have := encDst_lt d; have := nwDst_lt d; have := encSrc_lt a
  refine encodingOf (s := .sb) (w := encR 62 (encDst d) (encSrc a) (0) (0) (nwDst d) (0)) (x := none) (r := .none) rfl rfl rfl rfl encR_lt (fun wf => ?_) (fun n wf hl => ?_) (Or.inl rfl)
  · have hc : encR 62 (encDst d) (encSrc a) (0) (0) (nwDst d) (0) / 67108864 = 62 := encR_code 
    have hf : RFields.of (encR 62 (encDst d) (encSrc a) (0) (0) (nwDst d) (0)) = _ := encR_fields 
    simp only [decSlot]; rw [hc, if_neg (by decide)]; unfold decSB; rw [hc]
    show some _ = some _
    simp (disch := omega) [dec_callr, hf]
  · exact absurd rfl n
theorem Encoding.ret (a : Src) (fmt : Fin 1) : Encoding.Statement (.ret a fmt) := by
  obtain rfl : fmt = 0 := Subsingleton.elim _ _
  have := encSrc_lt a
  refine encodingOf (s := .sb) (w := encR 63 (0) (encSrc a) (0) (0) (0) (0)) (x := none) (r := .none) rfl rfl rfl rfl encR_lt (fun wf => ?_) (fun n wf hl => ?_) (Or.inl rfl)
  · have hc : encR 63 (0) (encSrc a) (0) (0) (0) (0) / 67108864 = 63 := encR_code 
    have hf : RFields.of (encR 63 (0) (encSrc a) (0) (0) (0) (0)) = _ := encR_fields 
    simp only [decSlot]; rw [hc, if_neg (by decide)]; unfold decSB; rw [hc]
    show some _ = some _
    simp (disch := omega) [dec_ret, hf]
  · exact absurd rfl n
theorem Encoding.nopBundle (stop : Bool) : Encoding.Statement (.nopBundle stop) :=
  noEncoding rfl
theorem Encoding.vadd (u : VUnit) (d : Dst) (a : Src) (b : Src) (p : Fin 16) (f : Fmt) (x : Option VMod) : Encoding.Statement (.vadd u d a b p f x) := by
  have := encDst_lt d; have := nwDst_lt d; have := encSrc_lt a; have := encSrc_lt b; have := p.isLt; have := encFmt_lt f
  cases u
  case va =>
    refine encodingOf (s := .va) (w := encR 0 (encDst d) (encSrc a) (encSrc b) (p.val) (nwDst d) (encFmt f)) (x := encVMod x) (r := .none) rfl rfl rfl rfl encR_lt (fun wf => ?_) (fun n wf hl => ?_) (Or.inl rfl)
    · have hc : encR 0 (encDst d) (encSrc a) (encSrc b) (p.val) (nwDst d) (encFmt f) / 67108864 = 0 := encR_code 
      have hf : RFields.of (encR 0 (encDst d) (encSrc a) (encSrc b) (p.val) (nwDst d) (encFmt f)) = _ := encR_fields 
      simp only [decSlot]; unfold decVector; rw [hc]
      show some _ = some _
      simp (disch := omega) [dec_vadd, hf]
    · simp (disch := omega) [takesImm, BitVec.toNat_ofNat, Nat.mod_eq_of_lt hl, encR_code]
  case vb =>
    refine encodingOf (s := .vb) (w := encR 0 (encDst d) (encSrc a) (encSrc b) (p.val) (nwDst d) (encFmt f)) (x := encVMod x) (r := .none) rfl rfl rfl rfl encR_lt (fun wf => ?_) (fun n wf hl => ?_) (Or.inl rfl)
    · have hc : encR 0 (encDst d) (encSrc a) (encSrc b) (p.val) (nwDst d) (encFmt f) / 67108864 = 0 := encR_code 
      have hf : RFields.of (encR 0 (encDst d) (encSrc a) (encSrc b) (p.val) (nwDst d) (encFmt f)) = _ := encR_fields 
      simp only [decSlot]; rw [hc, if_pos (by decide)]; unfold decVector; rw [hc]
      show some _ = some _
      simp (disch := omega) [dec_vadd, hf]
    · first | cases modOk_vb wf | cases modOk_vb (Bool.and_eq_true_iff.mp wf).2
      exact absurd rfl n
theorem Encoding.vsub (u : VUnit) (d : Dst) (a : Src) (b : Src) (p : Fin 16) (f : Fmt) (x : Option VMod) : Encoding.Statement (.vsub u d a b p f x) := by
  have := encDst_lt d; have := nwDst_lt d; have := encSrc_lt a; have := encSrc_lt b; have := p.isLt; have := encFmt_lt f
  cases u
  case va =>
    refine encodingOf (s := .va) (w := encR 1 (encDst d) (encSrc a) (encSrc b) (p.val) (nwDst d) (encFmt f)) (x := encVMod x) (r := .none) rfl rfl rfl rfl encR_lt (fun wf => ?_) (fun n wf hl => ?_) (Or.inl rfl)
    · have hc : encR 1 (encDst d) (encSrc a) (encSrc b) (p.val) (nwDst d) (encFmt f) / 67108864 = 1 := encR_code 
      have hf : RFields.of (encR 1 (encDst d) (encSrc a) (encSrc b) (p.val) (nwDst d) (encFmt f)) = _ := encR_fields 
      simp only [decSlot]; unfold decVector; rw [hc]
      show some _ = some _
      simp (disch := omega) [dec_vsub, hf]
    · simp (disch := omega) [takesImm, BitVec.toNat_ofNat, Nat.mod_eq_of_lt hl, encR_code]
  case vb =>
    refine encodingOf (s := .vb) (w := encR 1 (encDst d) (encSrc a) (encSrc b) (p.val) (nwDst d) (encFmt f)) (x := encVMod x) (r := .none) rfl rfl rfl rfl encR_lt (fun wf => ?_) (fun n wf hl => ?_) (Or.inl rfl)
    · have hc : encR 1 (encDst d) (encSrc a) (encSrc b) (p.val) (nwDst d) (encFmt f) / 67108864 = 1 := encR_code 
      have hf : RFields.of (encR 1 (encDst d) (encSrc a) (encSrc b) (p.val) (nwDst d) (encFmt f)) = _ := encR_fields 
      simp only [decSlot]; rw [hc, if_pos (by decide)]; unfold decVector; rw [hc]
      show some _ = some _
      simp (disch := omega) [dec_vsub, hf]
    · first | cases modOk_vb wf | cases modOk_vb (Bool.and_eq_true_iff.mp wf).2
      exact absurd rfl n
theorem Encoding.vmul (u : VUnit) (d : Dst) (a : Src) (b : Src) (p : Fin 16) (f : Fmt) (x : Option VMod) : Encoding.Statement (.vmul u d a b p f x) := by
  have := encDst_lt d; have := nwDst_lt d; have := encSrc_lt a; have := encSrc_lt b; have := p.isLt; have := encFmt_lt f
  cases u
  case va =>
    refine encodingOf (s := .va) (w := encR 2 (encDst d) (encSrc a) (encSrc b) (p.val) (nwDst d) (encFmt f)) (x := encVMod x) (r := .none) rfl rfl rfl rfl encR_lt (fun wf => ?_) (fun n wf hl => ?_) (Or.inl rfl)
    · have hc : encR 2 (encDst d) (encSrc a) (encSrc b) (p.val) (nwDst d) (encFmt f) / 67108864 = 2 := encR_code 
      have hf : RFields.of (encR 2 (encDst d) (encSrc a) (encSrc b) (p.val) (nwDst d) (encFmt f)) = _ := encR_fields 
      simp only [decSlot]; unfold decVector; rw [hc]
      show some _ = some _
      simp (disch := omega) [dec_vmul, hf]
    · simp (disch := omega) [takesImm, BitVec.toNat_ofNat, Nat.mod_eq_of_lt hl, encR_code]
  case vb =>
    refine encodingOf (s := .vb) (w := encR 2 (encDst d) (encSrc a) (encSrc b) (p.val) (nwDst d) (encFmt f)) (x := encVMod x) (r := .none) rfl rfl rfl rfl encR_lt (fun wf => ?_) (fun n wf hl => ?_) (Or.inl rfl)
    · have hc : encR 2 (encDst d) (encSrc a) (encSrc b) (p.val) (nwDst d) (encFmt f) / 67108864 = 2 := encR_code 
      have hf : RFields.of (encR 2 (encDst d) (encSrc a) (encSrc b) (p.val) (nwDst d) (encFmt f)) = _ := encR_fields 
      simp only [decSlot]; rw [hc, if_pos (by decide)]; unfold decVector; rw [hc]
      show some _ = some _
      simp (disch := omega) [dec_vmul, hf]
    · first | cases modOk_vb wf | cases modOk_vb (Bool.and_eq_true_iff.mp wf).2
      exact absurd rfl n
theorem Encoding.vfma (u : VUnit) (d : Dst) (a : Src) (b : Src) (p : Fin 16) (f : Fmt) (x : Option VMod) : Encoding.Statement (.vfma u d a b p f x) := by
  have := encDst_lt d; have := nwDst_lt d; have := encSrc_lt a; have := encSrc_lt b; have := p.isLt; have := encFmt_lt f
  cases u
  case va =>
    refine encodingOf (s := .va) (w := encR 4 (encDst d) (encSrc a) (encSrc b) (p.val) (nwDst d) (encFmt f)) (x := encVMod x) (r := .none) rfl rfl rfl rfl encR_lt (fun wf => ?_) (fun n wf hl => ?_) (Or.inl rfl)
    · have hc : encR 4 (encDst d) (encSrc a) (encSrc b) (p.val) (nwDst d) (encFmt f) / 67108864 = 4 := encR_code 
      have hf : RFields.of (encR 4 (encDst d) (encSrc a) (encSrc b) (p.val) (nwDst d) (encFmt f)) = _ := encR_fields 
      simp only [decSlot]; unfold decVector; rw [hc]
      show some _ = some _
      simp (disch := omega) [dec_vfma, hf]
    · simp (disch := omega) [takesImm, BitVec.toNat_ofNat, Nat.mod_eq_of_lt hl, encR_code]
  case vb =>
    refine encodingOf (s := .vb) (w := encR 4 (encDst d) (encSrc a) (encSrc b) (p.val) (nwDst d) (encFmt f)) (x := encVMod x) (r := .none) rfl rfl rfl rfl encR_lt (fun wf => ?_) (fun n wf hl => ?_) (Or.inl rfl)
    · have hc : encR 4 (encDst d) (encSrc a) (encSrc b) (p.val) (nwDst d) (encFmt f) / 67108864 = 4 := encR_code 
      have hf : RFields.of (encR 4 (encDst d) (encSrc a) (encSrc b) (p.val) (nwDst d) (encFmt f)) = _ := encR_fields 
      simp only [decSlot]; rw [hc, if_pos (by decide)]; unfold decVector; rw [hc]
      show some _ = some _
      simp (disch := omega) [dec_vfma, hf]
    · first | cases modOk_vb wf | cases modOk_vb (Bool.and_eq_true_iff.mp wf).2
      exact absurd rfl n
theorem Encoding.vfms (u : VUnit) (d : Dst) (a : Src) (b : Src) (p : Fin 16) (f : Fmt) (x : Option VMod) : Encoding.Statement (.vfms u d a b p f x) := by
  have := encDst_lt d; have := nwDst_lt d; have := encSrc_lt a; have := encSrc_lt b; have := p.isLt; have := encFmt_lt f
  cases u
  case va =>
    refine encodingOf (s := .va) (w := encR 5 (encDst d) (encSrc a) (encSrc b) (p.val) (nwDst d) (encFmt f)) (x := encVMod x) (r := .none) rfl rfl rfl rfl encR_lt (fun wf => ?_) (fun n wf hl => ?_) (Or.inl rfl)
    · have hc : encR 5 (encDst d) (encSrc a) (encSrc b) (p.val) (nwDst d) (encFmt f) / 67108864 = 5 := encR_code 
      have hf : RFields.of (encR 5 (encDst d) (encSrc a) (encSrc b) (p.val) (nwDst d) (encFmt f)) = _ := encR_fields 
      simp only [decSlot]; unfold decVector; rw [hc]
      show some _ = some _
      simp (disch := omega) [dec_vfms, hf]
    · simp (disch := omega) [takesImm, BitVec.toNat_ofNat, Nat.mod_eq_of_lt hl, encR_code]
  case vb =>
    refine encodingOf (s := .vb) (w := encR 5 (encDst d) (encSrc a) (encSrc b) (p.val) (nwDst d) (encFmt f)) (x := encVMod x) (r := .none) rfl rfl rfl rfl encR_lt (fun wf => ?_) (fun n wf hl => ?_) (Or.inl rfl)
    · have hc : encR 5 (encDst d) (encSrc a) (encSrc b) (p.val) (nwDst d) (encFmt f) / 67108864 = 5 := encR_code 
      have hf : RFields.of (encR 5 (encDst d) (encSrc a) (encSrc b) (p.val) (nwDst d) (encFmt f)) = _ := encR_fields 
      simp only [decSlot]; rw [hc, if_pos (by decide)]; unfold decVector; rw [hc]
      show some _ = some _
      simp (disch := omega) [dec_vfms, hf]
    · first | cases modOk_vb wf | cases modOk_vb (Bool.and_eq_true_iff.mp wf).2
      exact absurd rfl n
theorem Encoding.vmulh (u : VUnit) (d : Dst) (a : Src) (b : Src) (p : Fin 16) (w : IntW) (x : Option VMod) : Encoding.Statement (.vmulh u d a b p w x) := by
  have := encDst_lt d; have := nwDst_lt d; have := encSrc_lt a; have := encSrc_lt b; have := p.isLt; have := encIntW_lt w
  cases u
  case va =>
    refine encodingOf (s := .va) (w := encR 3 (encDst d) (encSrc a) (encSrc b) (p.val) (nwDst d) (encIntW w)) (x := encVMod x) (r := .none) rfl rfl rfl rfl encR_lt (fun wf => ?_) (fun n wf hl => ?_) (Or.inl rfl)
    · have hc : encR 3 (encDst d) (encSrc a) (encSrc b) (p.val) (nwDst d) (encIntW w) / 67108864 = 3 := encR_code 
      have hf : RFields.of (encR 3 (encDst d) (encSrc a) (encSrc b) (p.val) (nwDst d) (encIntW w)) = _ := encR_fields 
      simp only [decSlot]; unfold decVector; rw [hc]
      show some _ = some _
      simp (disch := omega) [dec_vmulh, hf]
    · simp (disch := omega) [takesImm, BitVec.toNat_ofNat, Nat.mod_eq_of_lt hl, encR_code]
  case vb =>
    refine encodingOf (s := .vb) (w := encR 3 (encDst d) (encSrc a) (encSrc b) (p.val) (nwDst d) (encIntW w)) (x := encVMod x) (r := .none) rfl rfl rfl rfl encR_lt (fun wf => ?_) (fun n wf hl => ?_) (Or.inl rfl)
    · have hc : encR 3 (encDst d) (encSrc a) (encSrc b) (p.val) (nwDst d) (encIntW w) / 67108864 = 3 := encR_code 
      have hf : RFields.of (encR 3 (encDst d) (encSrc a) (encSrc b) (p.val) (nwDst d) (encIntW w)) = _ := encR_fields 
      simp only [decSlot]; rw [hc, if_pos (by decide)]; unfold decVector; rw [hc]
      show some _ = some _
      simp (disch := omega) [dec_vmulh, hf]
    · first | cases modOk_vb wf | cases modOk_vb (Bool.and_eq_true_iff.mp wf).2
      exact absurd rfl n
theorem Encoding.vneg (u : VUnit) (d : Dst) (a : Src) (p : Fin 16) (f : Fmt) (x : Option VMod) : Encoding.Statement (.vneg u d a p f x) := by
  have := encDst_lt d; have := nwDst_lt d; have := encSrc_lt a; have := p.isLt; have := encFmt_lt f
  cases u
  case va =>
    refine encodingOf (s := .va) (w := encR 6 (encDst d) (encSrc a) (0) (p.val) (nwDst d) (encFmt f)) (x := encVMod x) (r := .none) rfl rfl rfl rfl encR_lt (fun wf => ?_) (fun n wf hl => ?_) (Or.inl rfl)
    · have hc : encR 6 (encDst d) (encSrc a) (0) (p.val) (nwDst d) (encFmt f) / 67108864 = 6 := encR_code 
      have hf : RFields.of (encR 6 (encDst d) (encSrc a) (0) (p.val) (nwDst d) (encFmt f)) = _ := encR_fields 
      simp only [decSlot]; unfold decVector; rw [hc]
      show some _ = some _
      simp (disch := omega) [dec_vneg, hf]
    · simp (disch := omega) [takesImm, BitVec.toNat_ofNat, Nat.mod_eq_of_lt hl, encR_code]
  case vb =>
    refine encodingOf (s := .vb) (w := encR 6 (encDst d) (encSrc a) (0) (p.val) (nwDst d) (encFmt f)) (x := encVMod x) (r := .none) rfl rfl rfl rfl encR_lt (fun wf => ?_) (fun n wf hl => ?_) (Or.inl rfl)
    · have hc : encR 6 (encDst d) (encSrc a) (0) (p.val) (nwDst d) (encFmt f) / 67108864 = 6 := encR_code 
      have hf : RFields.of (encR 6 (encDst d) (encSrc a) (0) (p.val) (nwDst d) (encFmt f)) = _ := encR_fields 
      simp only [decSlot]; rw [hc, if_pos (by decide)]; unfold decVector; rw [hc]
      show some _ = some _
      simp (disch := omega) [dec_vneg, hf]
    · first | cases modOk_vb wf | cases modOk_vb (Bool.and_eq_true_iff.mp wf).2
      exact absurd rfl n
theorem Encoding.vabs (u : VUnit) (d : Dst) (a : Src) (p : Fin 16) (f : Fmt) (x : Option VMod) : Encoding.Statement (.vabs u d a p f x) := by
  have := encDst_lt d; have := nwDst_lt d; have := encSrc_lt a; have := p.isLt; have := encFmt_lt f
  cases u
  case va =>
    refine encodingOf (s := .va) (w := encR 7 (encDst d) (encSrc a) (0) (p.val) (nwDst d) (encFmt f)) (x := encVMod x) (r := .none) rfl rfl rfl rfl encR_lt (fun wf => ?_) (fun n wf hl => ?_) (Or.inl rfl)
    · have hc : encR 7 (encDst d) (encSrc a) (0) (p.val) (nwDst d) (encFmt f) / 67108864 = 7 := encR_code 
      have hf : RFields.of (encR 7 (encDst d) (encSrc a) (0) (p.val) (nwDst d) (encFmt f)) = _ := encR_fields 
      simp only [decSlot]; unfold decVector; rw [hc]
      show some _ = some _
      simp (disch := omega) [dec_vabs, hf]
    · simp (disch := omega) [takesImm, BitVec.toNat_ofNat, Nat.mod_eq_of_lt hl, encR_code]
  case vb =>
    refine encodingOf (s := .vb) (w := encR 7 (encDst d) (encSrc a) (0) (p.val) (nwDst d) (encFmt f)) (x := encVMod x) (r := .none) rfl rfl rfl rfl encR_lt (fun wf => ?_) (fun n wf hl => ?_) (Or.inl rfl)
    · have hc : encR 7 (encDst d) (encSrc a) (0) (p.val) (nwDst d) (encFmt f) / 67108864 = 7 := encR_code 
      have hf : RFields.of (encR 7 (encDst d) (encSrc a) (0) (p.val) (nwDst d) (encFmt f)) = _ := encR_fields 
      simp only [decSlot]; rw [hc, if_pos (by decide)]; unfold decVector; rw [hc]
      show some _ = some _
      simp (disch := omega) [dec_vabs, hf]
    · first | cases modOk_vb wf | cases modOk_vb (Bool.and_eq_true_iff.mp wf).2
      exact absurd rfl n
theorem Encoding.vmin (u : VUnit) (d : Dst) (a : Src) (b : Src) (p : Fin 16) (f : Fmt) (x : Option VMod) : Encoding.Statement (.vmin u d a b p f x) := by
  have := encDst_lt d; have := nwDst_lt d; have := encSrc_lt a; have := encSrc_lt b; have := p.isLt; have := encFmt_lt f
  cases u
  case va =>
    refine encodingOf (s := .va) (w := encR 8 (encDst d) (encSrc a) (encSrc b) (p.val) (nwDst d) (encFmt f)) (x := encVMod x) (r := .none) rfl rfl rfl rfl encR_lt (fun wf => ?_) (fun n wf hl => ?_) (Or.inl rfl)
    · have hc : encR 8 (encDst d) (encSrc a) (encSrc b) (p.val) (nwDst d) (encFmt f) / 67108864 = 8 := encR_code 
      have hf : RFields.of (encR 8 (encDst d) (encSrc a) (encSrc b) (p.val) (nwDst d) (encFmt f)) = _ := encR_fields 
      simp only [decSlot]; unfold decVector; rw [hc]
      show some _ = some _
      simp (disch := omega) [dec_vmin, hf]
    · simp (disch := omega) [takesImm, BitVec.toNat_ofNat, Nat.mod_eq_of_lt hl, encR_code]
  case vb =>
    refine encodingOf (s := .vb) (w := encR 8 (encDst d) (encSrc a) (encSrc b) (p.val) (nwDst d) (encFmt f)) (x := encVMod x) (r := .none) rfl rfl rfl rfl encR_lt (fun wf => ?_) (fun n wf hl => ?_) (Or.inl rfl)
    · have hc : encR 8 (encDst d) (encSrc a) (encSrc b) (p.val) (nwDst d) (encFmt f) / 67108864 = 8 := encR_code 
      have hf : RFields.of (encR 8 (encDst d) (encSrc a) (encSrc b) (p.val) (nwDst d) (encFmt f)) = _ := encR_fields 
      simp only [decSlot]; rw [hc, if_pos (by decide)]; unfold decVector; rw [hc]
      show some _ = some _
      simp (disch := omega) [dec_vmin, hf]
    · first | cases modOk_vb wf | cases modOk_vb (Bool.and_eq_true_iff.mp wf).2
      exact absurd rfl n
theorem Encoding.vmax (u : VUnit) (d : Dst) (a : Src) (b : Src) (p : Fin 16) (f : Fmt) (x : Option VMod) : Encoding.Statement (.vmax u d a b p f x) := by
  have := encDst_lt d; have := nwDst_lt d; have := encSrc_lt a; have := encSrc_lt b; have := p.isLt; have := encFmt_lt f
  cases u
  case va =>
    refine encodingOf (s := .va) (w := encR 9 (encDst d) (encSrc a) (encSrc b) (p.val) (nwDst d) (encFmt f)) (x := encVMod x) (r := .none) rfl rfl rfl rfl encR_lt (fun wf => ?_) (fun n wf hl => ?_) (Or.inl rfl)
    · have hc : encR 9 (encDst d) (encSrc a) (encSrc b) (p.val) (nwDst d) (encFmt f) / 67108864 = 9 := encR_code 
      have hf : RFields.of (encR 9 (encDst d) (encSrc a) (encSrc b) (p.val) (nwDst d) (encFmt f)) = _ := encR_fields 
      simp only [decSlot]; unfold decVector; rw [hc]
      show some _ = some _
      simp (disch := omega) [dec_vmax, hf]
    · simp (disch := omega) [takesImm, BitVec.toNat_ofNat, Nat.mod_eq_of_lt hl, encR_code]
  case vb =>
    refine encodingOf (s := .vb) (w := encR 9 (encDst d) (encSrc a) (encSrc b) (p.val) (nwDst d) (encFmt f)) (x := encVMod x) (r := .none) rfl rfl rfl rfl encR_lt (fun wf => ?_) (fun n wf hl => ?_) (Or.inl rfl)
    · have hc : encR 9 (encDst d) (encSrc a) (encSrc b) (p.val) (nwDst d) (encFmt f) / 67108864 = 9 := encR_code 
      have hf : RFields.of (encR 9 (encDst d) (encSrc a) (encSrc b) (p.val) (nwDst d) (encFmt f)) = _ := encR_fields 
      simp only [decSlot]; rw [hc, if_pos (by decide)]; unfold decVector; rw [hc]
      show some _ = some _
      simp (disch := omega) [dec_vmax, hf]
    · first | cases modOk_vb wf | cases modOk_vb (Bool.and_eq_true_iff.mp wf).2
      exact absurd rfl n
theorem Encoding.vdot4 (u : VUnit) (d : Dst) (a : Src) (b : Src) (p : Fin 16) (w : IntW) (x : Option VMod) : Encoding.Statement (.vdot4 u d a b p w x) := by
  have := encDst_lt d; have := nwDst_lt d; have := encSrc_lt a; have := encSrc_lt b; have := p.isLt; have := encIntW_lt w
  cases u
  case va =>
    refine encodingOf (s := .va) (w := encR 10 (encDst d) (encSrc a) (encSrc b) (p.val) (nwDst d) (encIntW w)) (x := encVMod x) (r := .none) rfl rfl rfl rfl encR_lt (fun wf => ?_) (fun n wf hl => ?_) (Or.inl rfl)
    · have hc : encR 10 (encDst d) (encSrc a) (encSrc b) (p.val) (nwDst d) (encIntW w) / 67108864 = 10 := encR_code 
      have hf : RFields.of (encR 10 (encDst d) (encSrc a) (encSrc b) (p.val) (nwDst d) (encIntW w)) = _ := encR_fields 
      simp only [decSlot]; unfold decVector; rw [hc]
      show some _ = some _
      simp (disch := omega) [dec_vdot4, hf]
    · simp (disch := omega) [takesImm, BitVec.toNat_ofNat, Nat.mod_eq_of_lt hl, encR_code]
  case vb =>
    refine encodingOf (s := .vb) (w := encR 10 (encDst d) (encSrc a) (encSrc b) (p.val) (nwDst d) (encIntW w)) (x := encVMod x) (r := .none) rfl rfl rfl rfl encR_lt (fun wf => ?_) (fun n wf hl => ?_) (Or.inl rfl)
    · have hc : encR 10 (encDst d) (encSrc a) (encSrc b) (p.val) (nwDst d) (encIntW w) / 67108864 = 10 := encR_code 
      have hf : RFields.of (encR 10 (encDst d) (encSrc a) (encSrc b) (p.val) (nwDst d) (encIntW w)) = _ := encR_fields 
      simp only [decSlot]; rw [hc, if_pos (by decide)]; unfold decVector; rw [hc]
      show some _ = some _
      simp (disch := omega) [dec_vdot4, hf]
    · first | cases modOk_vb wf | cases modOk_vb (Bool.and_eq_true_iff.mp wf).2
      exact absurd rfl n
theorem Encoding.vand (u : VUnit) (d : Dst) (a : Src) (b : Src) (p : Fin 16) (w : IntW) (x : Option VMod) : Encoding.Statement (.vand u d a b p w x) := by
  have := encDst_lt d; have := nwDst_lt d; have := encSrc_lt a; have := encSrc_lt b; have := p.isLt; have := encIntW_lt w
  cases u
  case va =>
    refine encodingOf (s := .va) (w := encR 11 (encDst d) (encSrc a) (encSrc b) (p.val) (nwDst d) (encIntW w)) (x := encVMod x) (r := .none) rfl rfl rfl rfl encR_lt (fun wf => ?_) (fun n wf hl => ?_) (Or.inl rfl)
    · have hc : encR 11 (encDst d) (encSrc a) (encSrc b) (p.val) (nwDst d) (encIntW w) / 67108864 = 11 := encR_code 
      have hf : RFields.of (encR 11 (encDst d) (encSrc a) (encSrc b) (p.val) (nwDst d) (encIntW w)) = _ := encR_fields 
      simp only [decSlot]; unfold decVector; rw [hc]
      show some _ = some _
      simp (disch := omega) [dec_vand, hf]
    · simp (disch := omega) [takesImm, BitVec.toNat_ofNat, Nat.mod_eq_of_lt hl, encR_code]
  case vb =>
    refine encodingOf (s := .vb) (w := encR 11 (encDst d) (encSrc a) (encSrc b) (p.val) (nwDst d) (encIntW w)) (x := encVMod x) (r := .none) rfl rfl rfl rfl encR_lt (fun wf => ?_) (fun n wf hl => ?_) (Or.inl rfl)
    · have hc : encR 11 (encDst d) (encSrc a) (encSrc b) (p.val) (nwDst d) (encIntW w) / 67108864 = 11 := encR_code 
      have hf : RFields.of (encR 11 (encDst d) (encSrc a) (encSrc b) (p.val) (nwDst d) (encIntW w)) = _ := encR_fields 
      simp only [decSlot]; rw [hc, if_pos (by decide)]; unfold decVector; rw [hc]
      show some _ = some _
      simp (disch := omega) [dec_vand, hf]
    · first | cases modOk_vb wf | cases modOk_vb (Bool.and_eq_true_iff.mp wf).2
      exact absurd rfl n
theorem Encoding.vor (u : VUnit) (d : Dst) (a : Src) (b : Src) (p : Fin 16) (w : IntW) (x : Option VMod) : Encoding.Statement (.vor u d a b p w x) := by
  have := encDst_lt d; have := nwDst_lt d; have := encSrc_lt a; have := encSrc_lt b; have := p.isLt; have := encIntW_lt w
  cases u
  case va =>
    refine encodingOf (s := .va) (w := encR 12 (encDst d) (encSrc a) (encSrc b) (p.val) (nwDst d) (encIntW w)) (x := encVMod x) (r := .none) rfl rfl rfl rfl encR_lt (fun wf => ?_) (fun n wf hl => ?_) (Or.inl rfl)
    · have hc : encR 12 (encDst d) (encSrc a) (encSrc b) (p.val) (nwDst d) (encIntW w) / 67108864 = 12 := encR_code 
      have hf : RFields.of (encR 12 (encDst d) (encSrc a) (encSrc b) (p.val) (nwDst d) (encIntW w)) = _ := encR_fields 
      simp only [decSlot]; unfold decVector; rw [hc]
      show some _ = some _
      simp (disch := omega) [dec_vor, hf]
    · simp (disch := omega) [takesImm, BitVec.toNat_ofNat, Nat.mod_eq_of_lt hl, encR_code]
  case vb =>
    refine encodingOf (s := .vb) (w := encR 12 (encDst d) (encSrc a) (encSrc b) (p.val) (nwDst d) (encIntW w)) (x := encVMod x) (r := .none) rfl rfl rfl rfl encR_lt (fun wf => ?_) (fun n wf hl => ?_) (Or.inl rfl)
    · have hc : encR 12 (encDst d) (encSrc a) (encSrc b) (p.val) (nwDst d) (encIntW w) / 67108864 = 12 := encR_code 
      have hf : RFields.of (encR 12 (encDst d) (encSrc a) (encSrc b) (p.val) (nwDst d) (encIntW w)) = _ := encR_fields 
      simp only [decSlot]; rw [hc, if_pos (by decide)]; unfold decVector; rw [hc]
      show some _ = some _
      simp (disch := omega) [dec_vor, hf]
    · first | cases modOk_vb wf | cases modOk_vb (Bool.and_eq_true_iff.mp wf).2
      exact absurd rfl n
theorem Encoding.vxor (u : VUnit) (d : Dst) (a : Src) (b : Src) (p : Fin 16) (w : IntW) (x : Option VMod) : Encoding.Statement (.vxor u d a b p w x) := by
  have := encDst_lt d; have := nwDst_lt d; have := encSrc_lt a; have := encSrc_lt b; have := p.isLt; have := encIntW_lt w
  cases u
  case va =>
    refine encodingOf (s := .va) (w := encR 13 (encDst d) (encSrc a) (encSrc b) (p.val) (nwDst d) (encIntW w)) (x := encVMod x) (r := .none) rfl rfl rfl rfl encR_lt (fun wf => ?_) (fun n wf hl => ?_) (Or.inl rfl)
    · have hc : encR 13 (encDst d) (encSrc a) (encSrc b) (p.val) (nwDst d) (encIntW w) / 67108864 = 13 := encR_code 
      have hf : RFields.of (encR 13 (encDst d) (encSrc a) (encSrc b) (p.val) (nwDst d) (encIntW w)) = _ := encR_fields 
      simp only [decSlot]; unfold decVector; rw [hc]
      show some _ = some _
      simp (disch := omega) [dec_vxor, hf]
    · simp (disch := omega) [takesImm, BitVec.toNat_ofNat, Nat.mod_eq_of_lt hl, encR_code]
  case vb =>
    refine encodingOf (s := .vb) (w := encR 13 (encDst d) (encSrc a) (encSrc b) (p.val) (nwDst d) (encIntW w)) (x := encVMod x) (r := .none) rfl rfl rfl rfl encR_lt (fun wf => ?_) (fun n wf hl => ?_) (Or.inl rfl)
    · have hc : encR 13 (encDst d) (encSrc a) (encSrc b) (p.val) (nwDst d) (encIntW w) / 67108864 = 13 := encR_code 
      have hf : RFields.of (encR 13 (encDst d) (encSrc a) (encSrc b) (p.val) (nwDst d) (encIntW w)) = _ := encR_fields 
      simp only [decSlot]; rw [hc, if_pos (by decide)]; unfold decVector; rw [hc]
      show some _ = some _
      simp (disch := omega) [dec_vxor, hf]
    · first | cases modOk_vb wf | cases modOk_vb (Bool.and_eq_true_iff.mp wf).2
      exact absurd rfl n
theorem Encoding.vandn (u : VUnit) (d : Dst) (a : Src) (b : Src) (p : Fin 16) (w : IntW) (x : Option VMod) : Encoding.Statement (.vandn u d a b p w x) := by
  have := encDst_lt d; have := nwDst_lt d; have := encSrc_lt a; have := encSrc_lt b; have := p.isLt; have := encIntW_lt w
  cases u
  case va =>
    refine encodingOf (s := .va) (w := encR 14 (encDst d) (encSrc a) (encSrc b) (p.val) (nwDst d) (encIntW w)) (x := encVMod x) (r := .none) rfl rfl rfl rfl encR_lt (fun wf => ?_) (fun n wf hl => ?_) (Or.inl rfl)
    · have hc : encR 14 (encDst d) (encSrc a) (encSrc b) (p.val) (nwDst d) (encIntW w) / 67108864 = 14 := encR_code 
      have hf : RFields.of (encR 14 (encDst d) (encSrc a) (encSrc b) (p.val) (nwDst d) (encIntW w)) = _ := encR_fields 
      simp only [decSlot]; unfold decVector; rw [hc]
      show some _ = some _
      simp (disch := omega) [dec_vandn, hf]
    · simp (disch := omega) [takesImm, BitVec.toNat_ofNat, Nat.mod_eq_of_lt hl, encR_code]
  case vb =>
    refine encodingOf (s := .vb) (w := encR 14 (encDst d) (encSrc a) (encSrc b) (p.val) (nwDst d) (encIntW w)) (x := encVMod x) (r := .none) rfl rfl rfl rfl encR_lt (fun wf => ?_) (fun n wf hl => ?_) (Or.inl rfl)
    · have hc : encR 14 (encDst d) (encSrc a) (encSrc b) (p.val) (nwDst d) (encIntW w) / 67108864 = 14 := encR_code 
      have hf : RFields.of (encR 14 (encDst d) (encSrc a) (encSrc b) (p.val) (nwDst d) (encIntW w)) = _ := encR_fields 
      simp only [decSlot]; rw [hc, if_pos (by decide)]; unfold decVector; rw [hc]
      show some _ = some _
      simp (disch := omega) [dec_vandn, hf]
    · first | cases modOk_vb wf | cases modOk_vb (Bool.and_eq_true_iff.mp wf).2
      exact absurd rfl n
theorem Encoding.vshl (u : VUnit) (d : Dst) (a : Src) (b : Src) (p : Fin 16) (w : IntW) (x : Option VMod) : Encoding.Statement (.vshl u d a b p w x) := by
  have := encDst_lt d; have := nwDst_lt d; have := encSrc_lt a; have := encSrc_lt b; have := p.isLt; have := encIntW_lt w
  cases u
  case va =>
    refine encodingOf (s := .va) (w := encR 15 (encDst d) (encSrc a) (encSrc b) (p.val) (nwDst d) (encIntW w)) (x := encVMod x) (r := .none) rfl rfl rfl rfl encR_lt (fun wf => ?_) (fun n wf hl => ?_) (Or.inl rfl)
    · have hc : encR 15 (encDst d) (encSrc a) (encSrc b) (p.val) (nwDst d) (encIntW w) / 67108864 = 15 := encR_code 
      have hf : RFields.of (encR 15 (encDst d) (encSrc a) (encSrc b) (p.val) (nwDst d) (encIntW w)) = _ := encR_fields 
      simp only [decSlot]; unfold decVector; rw [hc]
      show some _ = some _
      simp (disch := omega) [dec_vshl, hf]
    · simp (disch := omega) [takesImm, BitVec.toNat_ofNat, Nat.mod_eq_of_lt hl, encR_code]
  case vb =>
    refine encodingOf (s := .vb) (w := encR 15 (encDst d) (encSrc a) (encSrc b) (p.val) (nwDst d) (encIntW w)) (x := encVMod x) (r := .none) rfl rfl rfl rfl encR_lt (fun wf => ?_) (fun n wf hl => ?_) (Or.inl rfl)
    · have hc : encR 15 (encDst d) (encSrc a) (encSrc b) (p.val) (nwDst d) (encIntW w) / 67108864 = 15 := encR_code 
      have hf : RFields.of (encR 15 (encDst d) (encSrc a) (encSrc b) (p.val) (nwDst d) (encIntW w)) = _ := encR_fields 
      simp only [decSlot]; rw [hc, if_pos (by decide)]; unfold decVector; rw [hc]
      show some _ = some _
      simp (disch := omega) [dec_vshl, hf]
    · first | cases modOk_vb wf | cases modOk_vb (Bool.and_eq_true_iff.mp wf).2
      exact absurd rfl n
theorem Encoding.vshr (u : VUnit) (d : Dst) (a : Src) (b : Src) (p : Fin 16) (w : IntW) (x : Option VMod) : Encoding.Statement (.vshr u d a b p w x) := by
  have := encDst_lt d; have := nwDst_lt d; have := encSrc_lt a; have := encSrc_lt b; have := p.isLt; have := encIntW_lt w
  cases u
  case va =>
    refine encodingOf (s := .va) (w := encR 16 (encDst d) (encSrc a) (encSrc b) (p.val) (nwDst d) (encIntW w)) (x := encVMod x) (r := .none) rfl rfl rfl rfl encR_lt (fun wf => ?_) (fun n wf hl => ?_) (Or.inl rfl)
    · have hc : encR 16 (encDst d) (encSrc a) (encSrc b) (p.val) (nwDst d) (encIntW w) / 67108864 = 16 := encR_code 
      have hf : RFields.of (encR 16 (encDst d) (encSrc a) (encSrc b) (p.val) (nwDst d) (encIntW w)) = _ := encR_fields 
      simp only [decSlot]; unfold decVector; rw [hc]
      show some _ = some _
      simp (disch := omega) [dec_vshr, hf]
    · simp (disch := omega) [takesImm, BitVec.toNat_ofNat, Nat.mod_eq_of_lt hl, encR_code]
  case vb =>
    refine encodingOf (s := .vb) (w := encR 16 (encDst d) (encSrc a) (encSrc b) (p.val) (nwDst d) (encIntW w)) (x := encVMod x) (r := .none) rfl rfl rfl rfl encR_lt (fun wf => ?_) (fun n wf hl => ?_) (Or.inl rfl)
    · have hc : encR 16 (encDst d) (encSrc a) (encSrc b) (p.val) (nwDst d) (encIntW w) / 67108864 = 16 := encR_code 
      have hf : RFields.of (encR 16 (encDst d) (encSrc a) (encSrc b) (p.val) (nwDst d) (encIntW w)) = _ := encR_fields 
      simp only [decSlot]; rw [hc, if_pos (by decide)]; unfold decVector; rw [hc]
      show some _ = some _
      simp (disch := omega) [dec_vshr, hf]
    · first | cases modOk_vb wf | cases modOk_vb (Bool.and_eq_true_iff.mp wf).2
      exact absurd rfl n
theorem Encoding.vsra (u : VUnit) (d : Dst) (a : Src) (b : Src) (p : Fin 16) (w : IntW) (x : Option VMod) : Encoding.Statement (.vsra u d a b p w x) := by
  have := encDst_lt d; have := nwDst_lt d; have := encSrc_lt a; have := encSrc_lt b; have := p.isLt; have := encIntW_lt w
  cases u
  case va =>
    refine encodingOf (s := .va) (w := encR 17 (encDst d) (encSrc a) (encSrc b) (p.val) (nwDst d) (encIntW w)) (x := encVMod x) (r := .none) rfl rfl rfl rfl encR_lt (fun wf => ?_) (fun n wf hl => ?_) (Or.inl rfl)
    · have hc : encR 17 (encDst d) (encSrc a) (encSrc b) (p.val) (nwDst d) (encIntW w) / 67108864 = 17 := encR_code 
      have hf : RFields.of (encR 17 (encDst d) (encSrc a) (encSrc b) (p.val) (nwDst d) (encIntW w)) = _ := encR_fields 
      simp only [decSlot]; unfold decVector; rw [hc]
      show some _ = some _
      simp (disch := omega) [dec_vsra, hf]
    · simp (disch := omega) [takesImm, BitVec.toNat_ofNat, Nat.mod_eq_of_lt hl, encR_code]
  case vb =>
    refine encodingOf (s := .vb) (w := encR 17 (encDst d) (encSrc a) (encSrc b) (p.val) (nwDst d) (encIntW w)) (x := encVMod x) (r := .none) rfl rfl rfl rfl encR_lt (fun wf => ?_) (fun n wf hl => ?_) (Or.inl rfl)
    · have hc : encR 17 (encDst d) (encSrc a) (encSrc b) (p.val) (nwDst d) (encIntW w) / 67108864 = 17 := encR_code 
      have hf : RFields.of (encR 17 (encDst d) (encSrc a) (encSrc b) (p.val) (nwDst d) (encIntW w)) = _ := encR_fields 
      simp only [decSlot]; rw [hc, if_pos (by decide)]; unfold decVector; rw [hc]
      show some _ = some _
      simp (disch := omega) [dec_vsra, hf]
    · first | cases modOk_vb wf | cases modOk_vb (Bool.and_eq_true_iff.mp wf).2
      exact absurd rfl n
theorem Encoding.vcmp (u : VUnit) (d : PDst) (a : Src) (b : Src) (cond : Cond) (f : Fmt) (x : Option VMod) : Encoding.Statement (.vcmp u d a b cond f x) := by
  have := encPDst_lt d; have := nwPDst_lt d; have := encSrc_lt a; have := encSrc_lt b; have := encCond_lt cond; have := encFmt_lt f
  cases u
  case va =>
    refine encodingOf (s := .va) (w := encR 18 (encPDst d) (encSrc a) (encSrc b) (encCond cond) (nwPDst d) (encFmt f)) (x := encVMod x) (r := .none) rfl rfl rfl rfl encR_lt (fun wf => ?_) (fun n wf hl => ?_) (Or.inl rfl)
    · have hc : encR 18 (encPDst d) (encSrc a) (encSrc b) (encCond cond) (nwPDst d) (encFmt f) / 67108864 = 18 := encR_code 
      have hf : RFields.of (encR 18 (encPDst d) (encSrc a) (encSrc b) (encCond cond) (nwPDst d) (encFmt f)) = _ := encR_fields 
      simp only [decSlot]; unfold decVector; rw [hc]
      show some _ = some _
      simp (disch := omega) [dec_vcmp, hf]
    · simp (disch := omega) [takesImm, BitVec.toNat_ofNat, Nat.mod_eq_of_lt hl, encR_code]
  case vb =>
    refine encodingOf (s := .vb) (w := encR 18 (encPDst d) (encSrc a) (encSrc b) (encCond cond) (nwPDst d) (encFmt f)) (x := encVMod x) (r := .none) rfl rfl rfl rfl encR_lt (fun wf => ?_) (fun n wf hl => ?_) (Or.inl rfl)
    · have hc : encR 18 (encPDst d) (encSrc a) (encSrc b) (encCond cond) (nwPDst d) (encFmt f) / 67108864 = 18 := encR_code 
      have hf : RFields.of (encR 18 (encPDst d) (encSrc a) (encSrc b) (encCond cond) (nwPDst d) (encFmt f)) = _ := encR_fields 
      simp only [decSlot]; rw [hc, if_pos (by decide)]; unfold decVector; rw [hc]
      show some _ = some _
      simp (disch := omega) [dec_vcmp, hf]
    · first | cases modOk_vb wf | cases modOk_vb (Bool.and_eq_true_iff.mp wf).2
      exact absurd rfl n
theorem Encoding.vsel (u : VUnit) (d : Dst) (a : Src) (b : Src) (p : Fin 16) (f : Fmt) (x : Option VMod) : Encoding.Statement (.vsel u d a b p f x) := by
  have := encDst_lt d; have := nwDst_lt d; have := encSrc_lt a; have := encSrc_lt b; have := p.isLt; have := encFmt_lt f
  cases u
  case va =>
    refine encodingOf (s := .va) (w := encR 19 (encDst d) (encSrc a) (encSrc b) (p.val) (nwDst d) (encFmt f)) (x := encVMod x) (r := .none) rfl rfl rfl rfl encR_lt (fun wf => ?_) (fun n wf hl => ?_) (Or.inl rfl)
    · have hc : encR 19 (encDst d) (encSrc a) (encSrc b) (p.val) (nwDst d) (encFmt f) / 67108864 = 19 := encR_code 
      have hf : RFields.of (encR 19 (encDst d) (encSrc a) (encSrc b) (p.val) (nwDst d) (encFmt f)) = _ := encR_fields 
      simp only [decSlot]; unfold decVector; rw [hc]
      show some _ = some _
      simp (disch := omega) [dec_vsel, hf]
    · simp (disch := omega) [takesImm, BitVec.toNat_ofNat, Nat.mod_eq_of_lt hl, encR_code]
  case vb =>
    refine encodingOf (s := .vb) (w := encR 19 (encDst d) (encSrc a) (encSrc b) (p.val) (nwDst d) (encFmt f)) (x := encVMod x) (r := .none) rfl rfl rfl rfl encR_lt (fun wf => ?_) (fun n wf hl => ?_) (Or.inl rfl)
    · have hc : encR 19 (encDst d) (encSrc a) (encSrc b) (p.val) (nwDst d) (encFmt f) / 67108864 = 19 := encR_code 
      have hf : RFields.of (encR 19 (encDst d) (encSrc a) (encSrc b) (p.val) (nwDst d) (encFmt f)) = _ := encR_fields 
      simp only [decSlot]; rw [hc, if_pos (by decide)]; unfold decVector; rw [hc]
      show some _ = some _
      simp (disch := omega) [dec_vsel, hf]
    · first | cases modOk_vb wf | cases modOk_vb (Bool.and_eq_true_iff.mp wf).2
      exact absurd rfl n
theorem Encoding.vmov (u : VUnit) (d : Dst) (a : Src) (p : Fin 16) (f : Fmt) (x : Option VMod) : Encoding.Statement (.vmov u d a p f x) := by
  have := encDst_lt d; have := nwDst_lt d; have := encSrc_lt a; have := p.isLt; have := encFmt_lt f
  cases u
  case va =>
    refine encodingOf (s := .va) (w := encR 20 (encDst d) (encSrc a) (0) (p.val) (nwDst d) (encFmt f)) (x := encVMod x) (r := .none) rfl rfl rfl rfl encR_lt (fun wf => ?_) (fun n wf hl => ?_) (Or.inl rfl)
    · have hc : encR 20 (encDst d) (encSrc a) (0) (p.val) (nwDst d) (encFmt f) / 67108864 = 20 := encR_code 
      have hf : RFields.of (encR 20 (encDst d) (encSrc a) (0) (p.val) (nwDst d) (encFmt f)) = _ := encR_fields 
      simp only [decSlot]; unfold decVector; rw [hc]
      show some _ = some _
      simp (disch := omega) [dec_vmov, hf]
    · simp (disch := omega) [takesImm, BitVec.toNat_ofNat, Nat.mod_eq_of_lt hl, encR_code]
  case vb =>
    refine encodingOf (s := .vb) (w := encR 20 (encDst d) (encSrc a) (0) (p.val) (nwDst d) (encFmt f)) (x := encVMod x) (r := .none) rfl rfl rfl rfl encR_lt (fun wf => ?_) (fun n wf hl => ?_) (Or.inl rfl)
    · have hc : encR 20 (encDst d) (encSrc a) (0) (p.val) (nwDst d) (encFmt f) / 67108864 = 20 := encR_code 
      have hf : RFields.of (encR 20 (encDst d) (encSrc a) (0) (p.val) (nwDst d) (encFmt f)) = _ := encR_fields 
      simp only [decSlot]; rw [hc, if_pos (by decide)]; unfold decVector; rw [hc]
      show some _ = some _
      simp (disch := omega) [dec_vmov, hf]
    · first | cases modOk_vb wf | cases modOk_vb (Bool.and_eq_true_iff.mp wf).2
      exact absurd rfl n
theorem Encoding.vbcast (u : VUnit) (d : Dst) (a : Src) (p : Fin 16) (f : Fmt) (x : Option VMod) : Encoding.Statement (.vbcast u d a p f x) := by
  have := encDst_lt d; have := nwDst_lt d; have := encSrc_lt a; have := p.isLt; have := encFmt_lt f
  cases u
  case va =>
    refine encodingOf (s := .va) (w := encR 21 (encDst d) (encSrc a) (0) (p.val) (nwDst d) (encFmt f)) (x := encVMod x) (r := .none) rfl rfl rfl rfl encR_lt (fun wf => ?_) (fun n wf hl => ?_) (Or.inl rfl)
    · have hc : encR 21 (encDst d) (encSrc a) (0) (p.val) (nwDst d) (encFmt f) / 67108864 = 21 := encR_code 
      have hf : RFields.of (encR 21 (encDst d) (encSrc a) (0) (p.val) (nwDst d) (encFmt f)) = _ := encR_fields 
      simp only [decSlot]; unfold decVector; rw [hc]
      show some _ = some _
      simp (disch := omega) [dec_vbcast, hf]
    · simp (disch := omega) [takesImm, BitVec.toNat_ofNat, Nat.mod_eq_of_lt hl, encR_code]
  case vb =>
    refine encodingOf (s := .vb) (w := encR 21 (encDst d) (encSrc a) (0) (p.val) (nwDst d) (encFmt f)) (x := encVMod x) (r := .none) rfl rfl rfl rfl encR_lt (fun wf => ?_) (fun n wf hl => ?_) (Or.inl rfl)
    · have hc : encR 21 (encDst d) (encSrc a) (0) (p.val) (nwDst d) (encFmt f) / 67108864 = 21 := encR_code 
      have hf : RFields.of (encR 21 (encDst d) (encSrc a) (0) (p.val) (nwDst d) (encFmt f)) = _ := encR_fields 
      simp only [decSlot]; rw [hc, if_pos (by decide)]; unfold decVector; rw [hc]
      show some _ = some _
      simp (disch := omega) [dec_vbcast, hf]
    · first | cases modOk_vb wf | cases modOk_vb (Bool.and_eq_true_iff.mp wf).2
      exact absurd rfl n
theorem Encoding.vextr (u : VUnit) (d : Dst) (a : Src) (b : Src) (f : Fmt) (x : Option VMod) : Encoding.Statement (.vextr u d a b f x) := by
  have := encDst_lt d; have := nwDst_lt d; have := encSrc_lt a; have := encSrc_lt b; have := encFmt_lt f
  cases u
  case va =>
    refine encodingOf (s := .va) (w := encR 22 (encDst d) (encSrc a) (encSrc b) (0) (nwDst d) (encFmt f)) (x := encVMod x) (r := .none) rfl rfl rfl rfl encR_lt (fun wf => ?_) (fun n wf hl => ?_) (Or.inl rfl)
    · have hc : encR 22 (encDst d) (encSrc a) (encSrc b) (0) (nwDst d) (encFmt f) / 67108864 = 22 := encR_code 
      have hf : RFields.of (encR 22 (encDst d) (encSrc a) (encSrc b) (0) (nwDst d) (encFmt f)) = _ := encR_fields 
      simp only [decSlot]; unfold decVector; rw [hc]
      show some _ = some _
      simp (disch := omega) [dec_vextr, hf]
    · simp (disch := omega) [takesImm, BitVec.toNat_ofNat, Nat.mod_eq_of_lt hl, encR_code]
  case vb =>
    refine encodingOf (s := .vb) (w := encR 22 (encDst d) (encSrc a) (encSrc b) (0) (nwDst d) (encFmt f)) (x := encVMod x) (r := .none) rfl rfl rfl rfl encR_lt (fun wf => ?_) (fun n wf hl => ?_) (Or.inl rfl)
    · have hc : encR 22 (encDst d) (encSrc a) (encSrc b) (0) (nwDst d) (encFmt f) / 67108864 = 22 := encR_code 
      have hf : RFields.of (encR 22 (encDst d) (encSrc a) (encSrc b) (0) (nwDst d) (encFmt f)) = _ := encR_fields 
      simp only [decSlot]; rw [hc, if_pos (by decide)]; unfold decVector; rw [hc]
      show some _ = some _
      simp (disch := omega) [dec_vextr, hf]
    · first | cases modOk_vb wf | cases modOk_vb (Bool.and_eq_true_iff.mp wf).2
      exact absurd rfl n
theorem Encoding.vins (u : VUnit) (d : Dst) (a : Src) (b : Src) (f : Fmt) (x : Option VMod) : Encoding.Statement (.vins u d a b f x) := by
  have := encDst_lt d; have := nwDst_lt d; have := encSrc_lt a; have := encSrc_lt b; have := encFmt_lt f
  cases u
  case va =>
    refine encodingOf (s := .va) (w := encR 23 (encDst d) (encSrc a) (encSrc b) (0) (nwDst d) (encFmt f)) (x := encVMod x) (r := .none) rfl rfl rfl rfl encR_lt (fun wf => ?_) (fun n wf hl => ?_) (Or.inl rfl)
    · have hc : encR 23 (encDst d) (encSrc a) (encSrc b) (0) (nwDst d) (encFmt f) / 67108864 = 23 := encR_code 
      have hf : RFields.of (encR 23 (encDst d) (encSrc a) (encSrc b) (0) (nwDst d) (encFmt f)) = _ := encR_fields 
      simp only [decSlot]; unfold decVector; rw [hc]
      show some _ = some _
      simp (disch := omega) [dec_vins, hf]
    · simp (disch := omega) [takesImm, BitVec.toNat_ofNat, Nat.mod_eq_of_lt hl, encR_code]
  case vb =>
    refine encodingOf (s := .vb) (w := encR 23 (encDst d) (encSrc a) (encSrc b) (0) (nwDst d) (encFmt f)) (x := encVMod x) (r := .none) rfl rfl rfl rfl encR_lt (fun wf => ?_) (fun n wf hl => ?_) (Or.inl rfl)
    · have hc : encR 23 (encDst d) (encSrc a) (encSrc b) (0) (nwDst d) (encFmt f) / 67108864 = 23 := encR_code 
      have hf : RFields.of (encR 23 (encDst d) (encSrc a) (encSrc b) (0) (nwDst d) (encFmt f)) = _ := encR_fields 
      simp only [decSlot]; rw [hc, if_pos (by decide)]; unfold decVector; rw [hc]
      show some _ = some _
      simp (disch := omega) [dec_vins, hf]
    · first | cases modOk_vb wf | cases modOk_vb (Bool.and_eq_true_iff.mp wf).2
      exact absurd rfl n
theorem Encoding.viota (u : VUnit) (d : Dst) (a : Src) (b : Src) (p : Fin 16) (f : Fmt) (x : Option VMod) : Encoding.Statement (.viota u d a b p f x) := by
  have := encDst_lt d; have := nwDst_lt d; have := encSrc_lt a; have := encSrc_lt b; have := p.isLt; have := encFmt_lt f
  cases u
  case va =>
    refine encodingOf (s := .va) (w := encR 24 (encDst d) (encSrc a) (encSrc b) (p.val) (nwDst d) (encFmt f)) (x := encVMod x) (r := .none) rfl rfl rfl rfl encR_lt (fun wf => ?_) (fun n wf hl => ?_) (Or.inl rfl)
    · have hc : encR 24 (encDst d) (encSrc a) (encSrc b) (p.val) (nwDst d) (encFmt f) / 67108864 = 24 := encR_code 
      have hf : RFields.of (encR 24 (encDst d) (encSrc a) (encSrc b) (p.val) (nwDst d) (encFmt f)) = _ := encR_fields 
      simp only [decSlot]; unfold decVector; rw [hc]
      show some _ = some _
      simp (disch := omega) [dec_viota, hf]
    · simp (disch := omega) [takesImm, BitVec.toNat_ofNat, Nat.mod_eq_of_lt hl, encR_code]
  case vb =>
    refine encodingOf (s := .vb) (w := encR 24 (encDst d) (encSrc a) (encSrc b) (p.val) (nwDst d) (encFmt f)) (x := encVMod x) (r := .none) rfl rfl rfl rfl encR_lt (fun wf => ?_) (fun n wf hl => ?_) (Or.inl rfl)
    · have hc : encR 24 (encDst d) (encSrc a) (encSrc b) (p.val) (nwDst d) (encFmt f) / 67108864 = 24 := encR_code 
      have hf : RFields.of (encR 24 (encDst d) (encSrc a) (encSrc b) (p.val) (nwDst d) (encFmt f)) = _ := encR_fields 
      simp only [decSlot]; rw [hc, if_pos (by decide)]; unfold decVector; rw [hc]
      show some _ = some _
      simp (disch := omega) [dec_viota, hf]
    · first | cases modOk_vb wf | cases modOk_vb (Bool.and_eq_true_iff.mp wf).2
      exact absurd rfl n
theorem Encoding.vcvt (u : VUnit) (d : Dst) (a : Src) (src : Fmt) (rq : Rq) (p : Fin 16) (f : Fmt) (x : Option VMod) : Encoding.Statement (.vcvt u d a src rq p f x) := by
  have := encDst_lt d; have := nwDst_lt d; have := encSrc_lt a; have := encFmt_lt src; have := encRq_lt rq; have := p.isLt; have := encFmt_lt f
  cases u
  case va =>
    refine encodingOf (s := .va) (w := encR 25 (encDst d) (encSrc a) (8 * encRq rq + encFmt src) (p.val) (nwDst d) (encFmt f)) (x := encVMod x) (r := .none) rfl rfl rfl rfl encR_lt (fun wf => ?_) (fun n wf hl => ?_) (Or.inl rfl)
    · have hc : encR 25 (encDst d) (encSrc a) (8 * encRq rq + encFmt src) (p.val) (nwDst d) (encFmt f) / 67108864 = 25 := encR_code 
      have hf : RFields.of (encR 25 (encDst d) (encSrc a) (8 * encRq rq + encFmt src) (p.val) (nwDst d) (encFmt f)) = _ := encR_fields 
      simp only [decSlot]; unfold decVector; rw [hc]
      show some _ = some _
      simp (disch := omega) [dec_vcvt, hf, fieldLow, fieldHigh, fieldLow2, fieldHigh2, Nat.mod_eq_of_lt]
    · simp (disch := omega) [takesImm, BitVec.toNat_ofNat, Nat.mod_eq_of_lt hl, encR_code]
  case vb =>
    refine encodingOf (s := .vb) (w := encR 25 (encDst d) (encSrc a) (8 * encRq rq + encFmt src) (p.val) (nwDst d) (encFmt f)) (x := encVMod x) (r := .none) rfl rfl rfl rfl encR_lt (fun wf => ?_) (fun n wf hl => ?_) (Or.inl rfl)
    · have hc : encR 25 (encDst d) (encSrc a) (8 * encRq rq + encFmt src) (p.val) (nwDst d) (encFmt f) / 67108864 = 25 := encR_code 
      have hf : RFields.of (encR 25 (encDst d) (encSrc a) (8 * encRq rq + encFmt src) (p.val) (nwDst d) (encFmt f)) = _ := encR_fields 
      simp only [decSlot]; rw [hc, if_pos (by decide)]; unfold decVector; rw [hc]
      show some _ = some _
      simp (disch := omega) [dec_vcvt, hf, fieldLow, fieldHigh, fieldLow2, fieldHigh2, Nat.mod_eq_of_lt]
    · first | cases modOk_vb wf | cases modOk_vb (Bool.and_eq_true_iff.mp wf).2
      exact absurd rfl n
theorem Encoding.vbfpk (u : VUnit) (d : Dst) (a : Src) (wm1 : Fin 8) (rq : Rq) (p : Fin 16) (f : FFmt) (x : Option VMod) : Encoding.Statement (.vbfpk u d a wm1 rq p f x) := by
  have := encDst_lt d; have := nwDst_lt d; have := encSrc_lt a; have := wm1.isLt; have := encRq_lt rq; have := p.isLt; have := encFFmt_lt f
  cases u
  case va =>
    refine encodingOf (s := .va) (w := encR 26 (encDst d) (encSrc a) (8 * encRq rq + wm1.val) (p.val) (nwDst d) (encFFmt f)) (x := encVMod x) (r := .none) rfl rfl rfl rfl encR_lt (fun wf => ?_) (fun n wf hl => ?_) (Or.inl rfl)
    · have hc : encR 26 (encDst d) (encSrc a) (8 * encRq rq + wm1.val) (p.val) (nwDst d) (encFFmt f) / 67108864 = 26 := encR_code 
      have hf : RFields.of (encR 26 (encDst d) (encSrc a) (8 * encRq rq + wm1.val) (p.val) (nwDst d) (encFFmt f)) = _ := encR_fields 
      simp only [decSlot]; unfold decVector; rw [hc]
      show some _ = some _
      simp (disch := omega) [dec_vbfpk, hf, fieldLow, fieldHigh, fieldLow2, fieldHigh2, Nat.mod_eq_of_lt]
    · simp (disch := omega) [takesImm, BitVec.toNat_ofNat, Nat.mod_eq_of_lt hl, encR_code]
  case vb =>
    refine encodingOf (s := .vb) (w := encR 26 (encDst d) (encSrc a) (8 * encRq rq + wm1.val) (p.val) (nwDst d) (encFFmt f)) (x := encVMod x) (r := .none) rfl rfl rfl rfl encR_lt (fun wf => ?_) (fun n wf hl => ?_) (Or.inl rfl)
    · have hc : encR 26 (encDst d) (encSrc a) (8 * encRq rq + wm1.val) (p.val) (nwDst d) (encFFmt f) / 67108864 = 26 := encR_code 
      have hf : RFields.of (encR 26 (encDst d) (encSrc a) (8 * encRq rq + wm1.val) (p.val) (nwDst d) (encFFmt f)) = _ := encR_fields 
      simp only [decSlot]; rw [hc, if_pos (by decide)]; unfold decVector; rw [hc]
      show some _ = some _
      simp (disch := omega) [dec_vbfpk, hf, fieldLow, fieldHigh, fieldLow2, fieldHigh2, Nat.mod_eq_of_lt]
    · first | cases modOk_vb wf | cases modOk_vb (Bool.and_eq_true_iff.mp wf).2
      exact absurd rfl n
theorem Encoding.vbfup (u : VUnit) (d : Dst) (a : Src) (wm1 : Fin 8) (rq : Rq) (p : Fin 16) (f : FFmt) (x : Option VMod) : Encoding.Statement (.vbfup u d a wm1 rq p f x) := by
  have := encDst_lt d; have := nwDst_lt d; have := encSrc_lt a; have := wm1.isLt; have := encRq_lt rq; have := p.isLt; have := encFFmt_lt f
  cases u
  case va =>
    refine encodingOf (s := .va) (w := encR 27 (encDst d) (encSrc a) (8 * encRq rq + wm1.val) (p.val) (nwDst d) (encFFmt f)) (x := encVMod x) (r := .none) rfl rfl rfl rfl encR_lt (fun wf => ?_) (fun n wf hl => ?_) (Or.inl rfl)
    · have hc : encR 27 (encDst d) (encSrc a) (8 * encRq rq + wm1.val) (p.val) (nwDst d) (encFFmt f) / 67108864 = 27 := encR_code 
      have hf : RFields.of (encR 27 (encDst d) (encSrc a) (8 * encRq rq + wm1.val) (p.val) (nwDst d) (encFFmt f)) = _ := encR_fields 
      simp only [decSlot]; unfold decVector; rw [hc]
      show some _ = some _
      simp (disch := omega) [dec_vbfup, hf, fieldLow, fieldHigh, fieldLow2, fieldHigh2, Nat.mod_eq_of_lt]
    · simp (disch := omega) [takesImm, BitVec.toNat_ofNat, Nat.mod_eq_of_lt hl, encR_code]
  case vb =>
    refine encodingOf (s := .vb) (w := encR 27 (encDst d) (encSrc a) (8 * encRq rq + wm1.val) (p.val) (nwDst d) (encFFmt f)) (x := encVMod x) (r := .none) rfl rfl rfl rfl encR_lt (fun wf => ?_) (fun n wf hl => ?_) (Or.inl rfl)
    · have hc : encR 27 (encDst d) (encSrc a) (8 * encRq rq + wm1.val) (p.val) (nwDst d) (encFFmt f) / 67108864 = 27 := encR_code 
      have hf : RFields.of (encR 27 (encDst d) (encSrc a) (8 * encRq rq + wm1.val) (p.val) (nwDst d) (encFFmt f)) = _ := encR_fields 
      simp only [decSlot]; rw [hc, if_pos (by decide)]; unfold decVector; rw [hc]
      show some _ = some _
      simp (disch := omega) [dec_vbfup, hf, fieldLow, fieldHigh, fieldLow2, fieldHigh2, Nat.mod_eq_of_lt]
    · first | cases modOk_vb wf | cases modOk_vb (Bool.and_eq_true_iff.mp wf).2
      exact absurd rfl n
theorem Encoding.vperm (u : VUnit) (d : Dst) (a : Src) (b : Src) (p : Fin 16) (w : IntW) (x : Option VMod) : Encoding.Statement (.vperm u d a b p w x) := by
  have := encDst_lt d; have := nwDst_lt d; have := encSrc_lt a; have := encSrc_lt b; have := p.isLt; have := encIntW_lt w
  cases u
  case va =>
    refine encodingOf (s := .va) (w := encR 28 (encDst d) (encSrc a) (encSrc b) (p.val) (nwDst d) (encIntW w)) (x := encVMod x) (r := .none) rfl rfl rfl rfl encR_lt (fun wf => ?_) (fun n wf hl => ?_) (Or.inl rfl)
    · have hc : encR 28 (encDst d) (encSrc a) (encSrc b) (p.val) (nwDst d) (encIntW w) / 67108864 = 28 := encR_code 
      have hf : RFields.of (encR 28 (encDst d) (encSrc a) (encSrc b) (p.val) (nwDst d) (encIntW w)) = _ := encR_fields 
      simp only [decSlot]; unfold decVector; rw [hc]
      show some _ = some _
      simp (disch := omega) [dec_vperm, hf]
    · simp (disch := omega) [takesImm, BitVec.toNat_ofNat, Nat.mod_eq_of_lt hl, encR_code]
  case vb =>
    refine encodingOf (s := .vb) (w := encR 28 (encDst d) (encSrc a) (encSrc b) (p.val) (nwDst d) (encIntW w)) (x := encVMod x) (r := .none) rfl rfl rfl rfl encR_lt (fun wf => ?_) (fun n wf hl => ?_) (Or.inl rfl)
    · have hc : encR 28 (encDst d) (encSrc a) (encSrc b) (p.val) (nwDst d) (encIntW w) / 67108864 = 28 := encR_code 
      have hf : RFields.of (encR 28 (encDst d) (encSrc a) (encSrc b) (p.val) (nwDst d) (encIntW w)) = _ := encR_fields 
      simp only [decSlot]; rw [hc, if_pos (by decide)]; unfold decVector; rw [hc]
      show some _ = some _
      simp (disch := omega) [dec_vperm, hf]
    · first | cases modOk_vb wf | cases modOk_vb (Bool.and_eq_true_iff.mp wf).2
      exact absurd rfl n
theorem Encoding.vshuf (u : VUnit) (d : Dst) (a : Src) (b : Src) (p : Fin 16) (w : IntW) (x : Option VMod) : Encoding.Statement (.vshuf u d a b p w x) := by
  have := encDst_lt d; have := nwDst_lt d; have := encSrc_lt a; have := encSrc_lt b; have := p.isLt; have := encIntW_lt w
  cases u
  case va =>
    refine encodingOf (s := .va) (w := encR 29 (encDst d) (encSrc a) (encSrc b) (p.val) (nwDst d) (encIntW w)) (x := encVMod x) (r := .none) rfl rfl rfl rfl encR_lt (fun wf => ?_) (fun n wf hl => ?_) (Or.inl rfl)
    · have hc : encR 29 (encDst d) (encSrc a) (encSrc b) (p.val) (nwDst d) (encIntW w) / 67108864 = 29 := encR_code 
      have hf : RFields.of (encR 29 (encDst d) (encSrc a) (encSrc b) (p.val) (nwDst d) (encIntW w)) = _ := encR_fields 
      simp only [decSlot]; unfold decVector; rw [hc]
      show some _ = some _
      simp (disch := omega) [dec_vshuf, hf]
    · simp (disch := omega) [takesImm, BitVec.toNat_ofNat, Nat.mod_eq_of_lt hl, encR_code]
  case vb =>
    refine encodingOf (s := .vb) (w := encR 29 (encDst d) (encSrc a) (encSrc b) (p.val) (nwDst d) (encIntW w)) (x := encVMod x) (r := .none) rfl rfl rfl rfl encR_lt (fun wf => ?_) (fun n wf hl => ?_) (Or.inl rfl)
    · have hc : encR 29 (encDst d) (encSrc a) (encSrc b) (p.val) (nwDst d) (encIntW w) / 67108864 = 29 := encR_code 
      have hf : RFields.of (encR 29 (encDst d) (encSrc a) (encSrc b) (p.val) (nwDst d) (encIntW w)) = _ := encR_fields 
      simp only [decSlot]; rw [hc, if_pos (by decide)]; unfold decVector; rw [hc]
      show some _ = some _
      simp (disch := omega) [dec_vshuf, hf]
    · first | cases modOk_vb wf | cases modOk_vb (Bool.and_eq_true_iff.mp wf).2
      exact absurd rfl n
theorem Encoding.vslide (u : VUnit) (d : Dst) (a : Src) (b : Src) (p : Fin 16) (f : Fmt) (x : Option VMod) : Encoding.Statement (.vslide u d a b p f x) := by
  have := encDst_lt d; have := nwDst_lt d; have := encSrc_lt a; have := encSrc_lt b; have := p.isLt; have := encFmt_lt f
  cases u
  case va =>
    refine encodingOf (s := .va) (w := encR 30 (encDst d) (encSrc a) (encSrc b) (p.val) (nwDst d) (encFmt f)) (x := encVMod x) (r := .none) rfl rfl rfl rfl encR_lt (fun wf => ?_) (fun n wf hl => ?_) (Or.inl rfl)
    · have hc : encR 30 (encDst d) (encSrc a) (encSrc b) (p.val) (nwDst d) (encFmt f) / 67108864 = 30 := encR_code 
      have hf : RFields.of (encR 30 (encDst d) (encSrc a) (encSrc b) (p.val) (nwDst d) (encFmt f)) = _ := encR_fields 
      simp only [decSlot]; unfold decVector; rw [hc]
      show some _ = some _
      simp (disch := omega) [dec_vslide, hf]
    · simp (disch := omega) [takesImm, BitVec.toNat_ofNat, Nat.mod_eq_of_lt hl, encR_code]
  case vb =>
    refine encodingOf (s := .vb) (w := encR 30 (encDst d) (encSrc a) (encSrc b) (p.val) (nwDst d) (encFmt f)) (x := encVMod x) (r := .none) rfl rfl rfl rfl encR_lt (fun wf => ?_) (fun n wf hl => ?_) (Or.inl rfl)
    · have hc : encR 30 (encDst d) (encSrc a) (encSrc b) (p.val) (nwDst d) (encFmt f) / 67108864 = 30 := encR_code 
      have hf : RFields.of (encR 30 (encDst d) (encSrc a) (encSrc b) (p.val) (nwDst d) (encFmt f)) = _ := encR_fields 
      simp only [decSlot]; rw [hc, if_pos (by decide)]; unfold decVector; rw [hc]
      show some _ = some _
      simp (disch := omega) [dec_vslide, hf]
    · first | cases modOk_vb wf | cases modOk_vb (Bool.and_eq_true_iff.mp wf).2
      exact absurd rfl n
theorem Encoding.vcompr (u : VUnit) (d : Dst) (a : Src) (p : Fin 16) (f : Fmt) (x : Option VMod) : Encoding.Statement (.vcompr u d a p f x) := by
  have := encDst_lt d; have := nwDst_lt d; have := encSrc_lt a; have := p.isLt; have := encFmt_lt f
  cases u
  case va =>
    refine encodingOf (s := .va) (w := encR 31 (encDst d) (encSrc a) (0) (p.val) (nwDst d) (encFmt f)) (x := encVMod x) (r := .none) rfl rfl rfl rfl encR_lt (fun wf => ?_) (fun n wf hl => ?_) (Or.inl rfl)
    · have hc : encR 31 (encDst d) (encSrc a) (0) (p.val) (nwDst d) (encFmt f) / 67108864 = 31 := encR_code 
      have hf : RFields.of (encR 31 (encDst d) (encSrc a) (0) (p.val) (nwDst d) (encFmt f)) = _ := encR_fields 
      simp only [decSlot]; unfold decVector; rw [hc]
      show some _ = some _
      simp (disch := omega) [dec_vcompr, hf]
    · simp (disch := omega) [takesImm, BitVec.toNat_ofNat, Nat.mod_eq_of_lt hl, encR_code]
  case vb =>
    refine encodingOf (s := .vb) (w := encR 31 (encDst d) (encSrc a) (0) (p.val) (nwDst d) (encFmt f)) (x := encVMod x) (r := .none) rfl rfl rfl rfl encR_lt (fun wf => ?_) (fun n wf hl => ?_) (Or.inl rfl)
    · have hc : encR 31 (encDst d) (encSrc a) (0) (p.val) (nwDst d) (encFmt f) / 67108864 = 31 := encR_code 
      have hf : RFields.of (encR 31 (encDst d) (encSrc a) (0) (p.val) (nwDst d) (encFmt f)) = _ := encR_fields 
      simp only [decSlot]; rw [hc, if_pos (by decide)]; unfold decVector; rw [hc]
      show some _ = some _
      simp (disch := omega) [dec_vcompr, hf]
    · first | cases modOk_vb wf | cases modOk_vb (Bool.and_eq_true_iff.mp wf).2
      exact absurd rfl n
theorem Encoding.vexpand (u : VUnit) (d : Dst) (a : Src) (p : Fin 16) (f : Fmt) (x : Option VMod) : Encoding.Statement (.vexpand u d a p f x) := by
  have := encDst_lt d; have := nwDst_lt d; have := encSrc_lt a; have := p.isLt; have := encFmt_lt f
  cases u
  case va =>
    refine encodingOf (s := .va) (w := encR 32 (encDst d) (encSrc a) (0) (p.val) (nwDst d) (encFmt f)) (x := encVMod x) (r := .none) rfl rfl rfl rfl encR_lt (fun wf => ?_) (fun n wf hl => ?_) (Or.inl rfl)
    · have hc : encR 32 (encDst d) (encSrc a) (0) (p.val) (nwDst d) (encFmt f) / 67108864 = 32 := encR_code 
      have hf : RFields.of (encR 32 (encDst d) (encSrc a) (0) (p.val) (nwDst d) (encFmt f)) = _ := encR_fields 
      simp only [decSlot]; unfold decVector; rw [hc]
      show some _ = some _
      simp (disch := omega) [dec_vexpand, hf]
    · simp (disch := omega) [takesImm, BitVec.toNat_ofNat, Nat.mod_eq_of_lt hl, encR_code]
  case vb =>
    refine encodingOf (s := .vb) (w := encR 32 (encDst d) (encSrc a) (0) (p.val) (nwDst d) (encFmt f)) (x := encVMod x) (r := .none) rfl rfl rfl rfl encR_lt (fun wf => ?_) (fun n wf hl => ?_) (Or.inl rfl)
    · have hc : encR 32 (encDst d) (encSrc a) (0) (p.val) (nwDst d) (encFmt f) / 67108864 = 32 := encR_code 
      have hf : RFields.of (encR 32 (encDst d) (encSrc a) (0) (p.val) (nwDst d) (encFmt f)) = _ := encR_fields 
      simp only [decSlot]; rw [hc, if_pos (by decide)]; unfold decVector; rw [hc]
      show some _ = some _
      simp (disch := omega) [dec_vexpand, hf]
    · first | cases modOk_vb wf | cases modOk_vb (Bool.and_eq_true_iff.mp wf).2
      exact absurd rfl n
theorem Encoding.vrsum (u : VUnit) (d : Dst) (a : Src) (p : Fin 16) (f : Fmt) (x : Option VMod) : Encoding.Statement (.vrsum u d a p f x) := by
  have := encDst_lt d; have := nwDst_lt d; have := encSrc_lt a; have := p.isLt; have := encFmt_lt f
  cases u
  case va =>
    refine encodingOf (s := .va) (w := encR 33 (encDst d) (encSrc a) (0) (p.val) (nwDst d) (encFmt f)) (x := encVMod x) (r := .none) rfl rfl rfl rfl encR_lt (fun wf => ?_) (fun n wf hl => ?_) (Or.inl rfl)
    · have hc : encR 33 (encDst d) (encSrc a) (0) (p.val) (nwDst d) (encFmt f) / 67108864 = 33 := encR_code 
      have hf : RFields.of (encR 33 (encDst d) (encSrc a) (0) (p.val) (nwDst d) (encFmt f)) = _ := encR_fields 
      simp only [decSlot]; unfold decVector; rw [hc]
      show some _ = some _
      simp (disch := omega) [dec_vrsum, hf]
    · simp (disch := omega) [takesImm, BitVec.toNat_ofNat, Nat.mod_eq_of_lt hl, encR_code]
  case vb =>
    refine encodingOf (s := .vb) (w := encR 33 (encDst d) (encSrc a) (0) (p.val) (nwDst d) (encFmt f)) (x := encVMod x) (r := .none) rfl rfl rfl rfl encR_lt (fun wf => ?_) (fun n wf hl => ?_) (Or.inl rfl)
    · have hc : encR 33 (encDst d) (encSrc a) (0) (p.val) (nwDst d) (encFmt f) / 67108864 = 33 := encR_code 
      have hf : RFields.of (encR 33 (encDst d) (encSrc a) (0) (p.val) (nwDst d) (encFmt f)) = _ := encR_fields 
      simp only [decSlot]; rw [hc, if_pos (by decide)]; unfold decVector; rw [hc]
      show some _ = some _
      simp (disch := omega) [dec_vrsum, hf]
    · first | cases modOk_vb wf | cases modOk_vb (Bool.and_eq_true_iff.mp wf).2
      exact absurd rfl n
theorem Encoding.vrmax (u : VUnit) (d : Dst) (a : Src) (p : Fin 16) (f : Fmt) (x : Option VMod) : Encoding.Statement (.vrmax u d a p f x) := by
  have := encDst_lt d; have := nwDst_lt d; have := encSrc_lt a; have := p.isLt; have := encFmt_lt f
  cases u
  case va =>
    refine encodingOf (s := .va) (w := encR 34 (encDst d) (encSrc a) (0) (p.val) (nwDst d) (encFmt f)) (x := encVMod x) (r := .none) rfl rfl rfl rfl encR_lt (fun wf => ?_) (fun n wf hl => ?_) (Or.inl rfl)
    · have hc : encR 34 (encDst d) (encSrc a) (0) (p.val) (nwDst d) (encFmt f) / 67108864 = 34 := encR_code 
      have hf : RFields.of (encR 34 (encDst d) (encSrc a) (0) (p.val) (nwDst d) (encFmt f)) = _ := encR_fields 
      simp only [decSlot]; unfold decVector; rw [hc]
      show some _ = some _
      simp (disch := omega) [dec_vrmax, hf]
    · simp (disch := omega) [takesImm, BitVec.toNat_ofNat, Nat.mod_eq_of_lt hl, encR_code]
  case vb =>
    refine encodingOf (s := .vb) (w := encR 34 (encDst d) (encSrc a) (0) (p.val) (nwDst d) (encFmt f)) (x := encVMod x) (r := .none) rfl rfl rfl rfl encR_lt (fun wf => ?_) (fun n wf hl => ?_) (Or.inl rfl)
    · have hc : encR 34 (encDst d) (encSrc a) (0) (p.val) (nwDst d) (encFmt f) / 67108864 = 34 := encR_code 
      have hf : RFields.of (encR 34 (encDst d) (encSrc a) (0) (p.val) (nwDst d) (encFmt f)) = _ := encR_fields 
      simp only [decSlot]; rw [hc, if_pos (by decide)]; unfold decVector; rw [hc]
      show some _ = some _
      simp (disch := omega) [dec_vrmax, hf]
    · first | cases modOk_vb wf | cases modOk_vb (Bool.and_eq_true_iff.mp wf).2
      exact absurd rfl n
theorem Encoding.vrmin (u : VUnit) (d : Dst) (a : Src) (p : Fin 16) (f : Fmt) (x : Option VMod) : Encoding.Statement (.vrmin u d a p f x) := by
  have := encDst_lt d; have := nwDst_lt d; have := encSrc_lt a; have := p.isLt; have := encFmt_lt f
  cases u
  case va =>
    refine encodingOf (s := .va) (w := encR 35 (encDst d) (encSrc a) (0) (p.val) (nwDst d) (encFmt f)) (x := encVMod x) (r := .none) rfl rfl rfl rfl encR_lt (fun wf => ?_) (fun n wf hl => ?_) (Or.inl rfl)
    · have hc : encR 35 (encDst d) (encSrc a) (0) (p.val) (nwDst d) (encFmt f) / 67108864 = 35 := encR_code 
      have hf : RFields.of (encR 35 (encDst d) (encSrc a) (0) (p.val) (nwDst d) (encFmt f)) = _ := encR_fields 
      simp only [decSlot]; unfold decVector; rw [hc]
      show some _ = some _
      simp (disch := omega) [dec_vrmin, hf]
    · simp (disch := omega) [takesImm, BitVec.toNat_ofNat, Nat.mod_eq_of_lt hl, encR_code]
  case vb =>
    refine encodingOf (s := .vb) (w := encR 35 (encDst d) (encSrc a) (0) (p.val) (nwDst d) (encFmt f)) (x := encVMod x) (r := .none) rfl rfl rfl rfl encR_lt (fun wf => ?_) (fun n wf hl => ?_) (Or.inl rfl)
    · have hc : encR 35 (encDst d) (encSrc a) (0) (p.val) (nwDst d) (encFmt f) / 67108864 = 35 := encR_code 
      have hf : RFields.of (encR 35 (encDst d) (encSrc a) (0) (p.val) (nwDst d) (encFmt f)) = _ := encR_fields 
      simp only [decSlot]; rw [hc, if_pos (by decide)]; unfold decVector; rw [hc]
      show some _ = some _
      simp (disch := omega) [dec_vrmin, hf]
    · first | cases modOk_vb wf | cases modOk_vb (Bool.and_eq_true_iff.mp wf).2
      exact absurd rfl n
theorem Encoding.vscan (u : VUnit) (d : Dst) (a : Src) (p : Fin 16) (f : Fmt) (x : Option VMod) : Encoding.Statement (.vscan u d a p f x) := by
  have := encDst_lt d; have := nwDst_lt d; have := encSrc_lt a; have := p.isLt; have := encFmt_lt f
  cases u
  case va =>
    refine encodingOf (s := .va) (w := encR 36 (encDst d) (encSrc a) (0) (p.val) (nwDst d) (encFmt f)) (x := encVMod x) (r := .none) rfl rfl rfl rfl encR_lt (fun wf => ?_) (fun n wf hl => ?_) (Or.inl rfl)
    · have hc : encR 36 (encDst d) (encSrc a) (0) (p.val) (nwDst d) (encFmt f) / 67108864 = 36 := encR_code 
      have hf : RFields.of (encR 36 (encDst d) (encSrc a) (0) (p.val) (nwDst d) (encFmt f)) = _ := encR_fields 
      simp only [decSlot]; unfold decVector; rw [hc]
      show some _ = some _
      simp (disch := omega) [dec_vscan, hf]
    · simp (disch := omega) [takesImm, BitVec.toNat_ofNat, Nat.mod_eq_of_lt hl, encR_code]
  case vb =>
    refine encodingOf (s := .vb) (w := encR 36 (encDst d) (encSrc a) (0) (p.val) (nwDst d) (encFmt f)) (x := encVMod x) (r := .none) rfl rfl rfl rfl encR_lt (fun wf => ?_) (fun n wf hl => ?_) (Or.inl rfl)
    · have hc : encR 36 (encDst d) (encSrc a) (0) (p.val) (nwDst d) (encFmt f) / 67108864 = 36 := encR_code 
      have hf : RFields.of (encR 36 (encDst d) (encSrc a) (0) (p.val) (nwDst d) (encFmt f)) = _ := encR_fields 
      simp only [decSlot]; rw [hc, if_pos (by decide)]; unfold decVector; rw [hc]
      show some _ = some _
      simp (disch := omega) [dec_vscan, hf]
    · first | cases modOk_vb wf | cases modOk_vb (Bool.and_eq_true_iff.mp wf).2
      exact absurd rfl n
theorem Encoding.vchk (u : VUnit) (a : Src) (b : Src) (p : Fin 16) (f : Fmt) (x : Option VMod) : Encoding.Statement (.vchk u a b p f x) := by
  have := encSrc_lt a; have := encSrc_lt b; have := p.isLt; have := encFmt_lt f
  cases u
  case va =>
    refine encodingOf (s := .va) (w := encR 37 (0) (encSrc a) (encSrc b) (p.val) (0) (encFmt f)) (x := encVMod x) (r := .none) rfl rfl rfl rfl encR_lt (fun wf => ?_) (fun n wf hl => ?_) (Or.inl rfl)
    · have hc : encR 37 (0) (encSrc a) (encSrc b) (p.val) (0) (encFmt f) / 67108864 = 37 := encR_code 
      have hf : RFields.of (encR 37 (0) (encSrc a) (encSrc b) (p.val) (0) (encFmt f)) = _ := encR_fields 
      simp only [decSlot]; unfold decVector; rw [hc]
      show some _ = some _
      simp (disch := omega) [dec_vchk, hf]
    · simp (disch := omega) [takesImm, BitVec.toNat_ofNat, Nat.mod_eq_of_lt hl, encR_code]
  case vb =>
    refine encodingOf (s := .vb) (w := encR 37 (0) (encSrc a) (encSrc b) (p.val) (0) (encFmt f)) (x := encVMod x) (r := .none) rfl rfl rfl rfl encR_lt (fun wf => ?_) (fun n wf hl => ?_) (Or.inl rfl)
    · have hc : encR 37 (0) (encSrc a) (encSrc b) (p.val) (0) (encFmt f) / 67108864 = 37 := encR_code 
      have hf : RFields.of (encR 37 (0) (encSrc a) (encSrc b) (p.val) (0) (encFmt f)) = _ := encR_fields 
      simp only [decSlot]; rw [hc, if_pos (by decide)]; unfold decVector; rw [hc]
      show some _ = some _
      simp (disch := omega) [dec_vchk, hf]
    · first | cases modOk_vb wf | cases modOk_vb (Bool.and_eq_true_iff.mp wf).2
      exact absurd rfl n
theorem Encoding.pand (u : VUnit) (d : PDst) (a : Fin 16) (b : Fin 16) (p : Fin 16) (x : Option VMod) : Encoding.Statement (.pand u d a b p x) := by
  have := encPDst_lt d; have := nwPDst_lt d; have := a.isLt; have := b.isLt; have := p.isLt
  cases u
  case va =>
    refine encodingOf (s := .va) (w := encR 40 (encPDst d) (a.val) (b.val) (p.val) (nwPDst d) (0)) (x := encVMod x) (r := .none) rfl rfl rfl rfl encR_lt (fun wf => ?_) (fun n wf hl => ?_) (Or.inl rfl)
    · have hc : encR 40 (encPDst d) (a.val) (b.val) (p.val) (nwPDst d) (0) / 67108864 = 40 := encR_code 
      have hf : RFields.of (encR 40 (encPDst d) (a.val) (b.val) (p.val) (nwPDst d) (0)) = _ := encR_fields 
      simp only [decSlot]; unfold decVector; rw [hc]
      show some _ = some _
      simp (disch := omega) [dec_pand, hf]
    · simp (disch := omega) [takesImm, BitVec.toNat_ofNat, Nat.mod_eq_of_lt hl, encR_code]
  case vb =>
    refine encodingOf (s := .vb) (w := encR 40 (encPDst d) (a.val) (b.val) (p.val) (nwPDst d) (0)) (x := encVMod x) (r := .none) rfl rfl rfl rfl encR_lt (fun wf => ?_) (fun n wf hl => ?_) (Or.inl rfl)
    · have hc : encR 40 (encPDst d) (a.val) (b.val) (p.val) (nwPDst d) (0) / 67108864 = 40 := encR_code 
      have hf : RFields.of (encR 40 (encPDst d) (a.val) (b.val) (p.val) (nwPDst d) (0)) = _ := encR_fields 
      simp only [decSlot]; rw [hc, if_pos (by decide)]; unfold decVector; rw [hc]
      show some _ = some _
      simp (disch := omega) [dec_pand, hf]
    · first | cases modOk_vb wf | cases modOk_vb (Bool.and_eq_true_iff.mp wf).2
      exact absurd rfl n
theorem Encoding.por (u : VUnit) (d : PDst) (a : Fin 16) (b : Fin 16) (p : Fin 16) (x : Option VMod) : Encoding.Statement (.por u d a b p x) := by
  have := encPDst_lt d; have := nwPDst_lt d; have := a.isLt; have := b.isLt; have := p.isLt
  cases u
  case va =>
    refine encodingOf (s := .va) (w := encR 41 (encPDst d) (a.val) (b.val) (p.val) (nwPDst d) (0)) (x := encVMod x) (r := .none) rfl rfl rfl rfl encR_lt (fun wf => ?_) (fun n wf hl => ?_) (Or.inl rfl)
    · have hc : encR 41 (encPDst d) (a.val) (b.val) (p.val) (nwPDst d) (0) / 67108864 = 41 := encR_code 
      have hf : RFields.of (encR 41 (encPDst d) (a.val) (b.val) (p.val) (nwPDst d) (0)) = _ := encR_fields 
      simp only [decSlot]; unfold decVector; rw [hc]
      show some _ = some _
      simp (disch := omega) [dec_por, hf]
    · simp (disch := omega) [takesImm, BitVec.toNat_ofNat, Nat.mod_eq_of_lt hl, encR_code]
  case vb =>
    refine encodingOf (s := .vb) (w := encR 41 (encPDst d) (a.val) (b.val) (p.val) (nwPDst d) (0)) (x := encVMod x) (r := .none) rfl rfl rfl rfl encR_lt (fun wf => ?_) (fun n wf hl => ?_) (Or.inl rfl)
    · have hc : encR 41 (encPDst d) (a.val) (b.val) (p.val) (nwPDst d) (0) / 67108864 = 41 := encR_code 
      have hf : RFields.of (encR 41 (encPDst d) (a.val) (b.val) (p.val) (nwPDst d) (0)) = _ := encR_fields 
      simp only [decSlot]; rw [hc, if_pos (by decide)]; unfold decVector; rw [hc]
      show some _ = some _
      simp (disch := omega) [dec_por, hf]
    · first | cases modOk_vb wf | cases modOk_vb (Bool.and_eq_true_iff.mp wf).2
      exact absurd rfl n
theorem Encoding.pxor (u : VUnit) (d : PDst) (a : Fin 16) (b : Fin 16) (p : Fin 16) (x : Option VMod) : Encoding.Statement (.pxor u d a b p x) := by
  have := encPDst_lt d; have := nwPDst_lt d; have := a.isLt; have := b.isLt; have := p.isLt
  cases u
  case va =>
    refine encodingOf (s := .va) (w := encR 42 (encPDst d) (a.val) (b.val) (p.val) (nwPDst d) (0)) (x := encVMod x) (r := .none) rfl rfl rfl rfl encR_lt (fun wf => ?_) (fun n wf hl => ?_) (Or.inl rfl)
    · have hc : encR 42 (encPDst d) (a.val) (b.val) (p.val) (nwPDst d) (0) / 67108864 = 42 := encR_code 
      have hf : RFields.of (encR 42 (encPDst d) (a.val) (b.val) (p.val) (nwPDst d) (0)) = _ := encR_fields 
      simp only [decSlot]; unfold decVector; rw [hc]
      show some _ = some _
      simp (disch := omega) [dec_pxor, hf]
    · simp (disch := omega) [takesImm, BitVec.toNat_ofNat, Nat.mod_eq_of_lt hl, encR_code]
  case vb =>
    refine encodingOf (s := .vb) (w := encR 42 (encPDst d) (a.val) (b.val) (p.val) (nwPDst d) (0)) (x := encVMod x) (r := .none) rfl rfl rfl rfl encR_lt (fun wf => ?_) (fun n wf hl => ?_) (Or.inl rfl)
    · have hc : encR 42 (encPDst d) (a.val) (b.val) (p.val) (nwPDst d) (0) / 67108864 = 42 := encR_code 
      have hf : RFields.of (encR 42 (encPDst d) (a.val) (b.val) (p.val) (nwPDst d) (0)) = _ := encR_fields 
      simp only [decSlot]; rw [hc, if_pos (by decide)]; unfold decVector; rw [hc]
      show some _ = some _
      simp (disch := omega) [dec_pxor, hf]
    · first | cases modOk_vb wf | cases modOk_vb (Bool.and_eq_true_iff.mp wf).2
      exact absurd rfl n
theorem Encoding.pnot (u : VUnit) (d : PDst) (a : Fin 16) (p : Fin 16) (x : Option VMod) : Encoding.Statement (.pnot u d a p x) := by
  have := encPDst_lt d; have := nwPDst_lt d; have := a.isLt; have := p.isLt
  cases u
  case va =>
    refine encodingOf (s := .va) (w := encR 43 (encPDst d) (a.val) (0) (p.val) (nwPDst d) (0)) (x := encVMod x) (r := .none) rfl rfl rfl rfl encR_lt (fun wf => ?_) (fun n wf hl => ?_) (Or.inl rfl)
    · have hc : encR 43 (encPDst d) (a.val) (0) (p.val) (nwPDst d) (0) / 67108864 = 43 := encR_code 
      have hf : RFields.of (encR 43 (encPDst d) (a.val) (0) (p.val) (nwPDst d) (0)) = _ := encR_fields 
      simp only [decSlot]; unfold decVector; rw [hc]
      show some _ = some _
      simp (disch := omega) [dec_pnot, hf]
    · simp (disch := omega) [takesImm, BitVec.toNat_ofNat, Nat.mod_eq_of_lt hl, encR_code]
  case vb =>
    refine encodingOf (s := .vb) (w := encR 43 (encPDst d) (a.val) (0) (p.val) (nwPDst d) (0)) (x := encVMod x) (r := .none) rfl rfl rfl rfl encR_lt (fun wf => ?_) (fun n wf hl => ?_) (Or.inl rfl)
    · have hc : encR 43 (encPDst d) (a.val) (0) (p.val) (nwPDst d) (0) / 67108864 = 43 := encR_code 
      have hf : RFields.of (encR 43 (encPDst d) (a.val) (0) (p.val) (nwPDst d) (0)) = _ := encR_fields 
      simp only [decSlot]; rw [hc, if_pos (by decide)]; unfold decVector; rw [hc]
      show some _ = some _
      simp (disch := omega) [dec_pnot, hf]
    · first | cases modOk_vb wf | cases modOk_vb (Bool.and_eq_true_iff.mp wf).2
      exact absurd rfl n
theorem Encoding.pcnt (u : VUnit) (d : Dst) (a : Fin 16) (p : Fin 16) (w : IntW) (x : Option VMod) : Encoding.Statement (.pcnt u d a p w x) := by
  have := encDst_lt d; have := nwDst_lt d; have := a.isLt; have := p.isLt; have := encIntW_lt w
  cases u
  case va =>
    refine encodingOf (s := .va) (w := encR 44 (encDst d) (a.val) (0) (p.val) (nwDst d) (encIntW w)) (x := encVMod x) (r := .none) rfl rfl rfl rfl encR_lt (fun wf => ?_) (fun n wf hl => ?_) (Or.inl rfl)
    · have hc : encR 44 (encDst d) (a.val) (0) (p.val) (nwDst d) (encIntW w) / 67108864 = 44 := encR_code 
      have hf : RFields.of (encR 44 (encDst d) (a.val) (0) (p.val) (nwDst d) (encIntW w)) = _ := encR_fields 
      simp only [decSlot]; unfold decVector; rw [hc]
      show some _ = some _
      simp (disch := omega) [dec_pcnt, hf]
    · simp (disch := omega) [takesImm, BitVec.toNat_ofNat, Nat.mod_eq_of_lt hl, encR_code]
  case vb =>
    refine encodingOf (s := .vb) (w := encR 44 (encDst d) (a.val) (0) (p.val) (nwDst d) (encIntW w)) (x := encVMod x) (r := .none) rfl rfl rfl rfl encR_lt (fun wf => ?_) (fun n wf hl => ?_) (Or.inl rfl)
    · have hc : encR 44 (encDst d) (a.val) (0) (p.val) (nwDst d) (encIntW w) / 67108864 = 44 := encR_code 
      have hf : RFields.of (encR 44 (encDst d) (a.val) (0) (p.val) (nwDst d) (encIntW w)) = _ := encR_fields 
      simp only [decSlot]; rw [hc, if_pos (by decide)]; unfold decVector; rw [hc]
      show some _ = some _
      simp (disch := omega) [dec_pcnt, hf]
    · first | cases modOk_vb wf | cases modOk_vb (Bool.and_eq_true_iff.mp wf).2
      exact absurd rfl n
theorem Encoding.pfirst (u : VUnit) (d : Dst) (a : Fin 16) (p : Fin 16) (w : IntW) (x : Option VMod) : Encoding.Statement (.pfirst u d a p w x) := by
  have := encDst_lt d; have := nwDst_lt d; have := a.isLt; have := p.isLt; have := encIntW_lt w
  cases u
  case va =>
    refine encodingOf (s := .va) (w := encR 45 (encDst d) (a.val) (0) (p.val) (nwDst d) (encIntW w)) (x := encVMod x) (r := .none) rfl rfl rfl rfl encR_lt (fun wf => ?_) (fun n wf hl => ?_) (Or.inl rfl)
    · have hc : encR 45 (encDst d) (a.val) (0) (p.val) (nwDst d) (encIntW w) / 67108864 = 45 := encR_code 
      have hf : RFields.of (encR 45 (encDst d) (a.val) (0) (p.val) (nwDst d) (encIntW w)) = _ := encR_fields 
      simp only [decSlot]; unfold decVector; rw [hc]
      show some _ = some _
      simp (disch := omega) [dec_pfirst, hf]
    · simp (disch := omega) [takesImm, BitVec.toNat_ofNat, Nat.mod_eq_of_lt hl, encR_code]
  case vb =>
    refine encodingOf (s := .vb) (w := encR 45 (encDst d) (a.val) (0) (p.val) (nwDst d) (encIntW w)) (x := encVMod x) (r := .none) rfl rfl rfl rfl encR_lt (fun wf => ?_) (fun n wf hl => ?_) (Or.inl rfl)
    · have hc : encR 45 (encDst d) (a.val) (0) (p.val) (nwDst d) (encIntW w) / 67108864 = 45 := encR_code 
      have hf : RFields.of (encR 45 (encDst d) (a.val) (0) (p.val) (nwDst d) (encIntW w)) = _ := encR_fields 
      simp only [decSlot]; rw [hc, if_pos (by decide)]; unfold decVector; rw [hc]
      show some _ = some _
      simp (disch := omega) [dec_pfirst, hf]
    · first | cases modOk_vb wf | cases modOk_vb (Bool.and_eq_true_iff.mp wf).2
      exact absurd rfl n
theorem Encoding.pmov (u : VUnit) (d : PDst) (a : Fin 16) (p : Fin 16) (x : Option VMod) : Encoding.Statement (.pmov u d a p x) := by
  have := encPDst_lt d; have := nwPDst_lt d; have := a.isLt; have := p.isLt
  cases u
  case va =>
    refine encodingOf (s := .va) (w := encR 46 (encPDst d) (a.val) (0) (p.val) (nwPDst d) (0)) (x := encVMod x) (r := .none) rfl rfl rfl rfl encR_lt (fun wf => ?_) (fun n wf hl => ?_) (Or.inl rfl)
    · have hc : encR 46 (encPDst d) (a.val) (0) (p.val) (nwPDst d) (0) / 67108864 = 46 := encR_code 
      have hf : RFields.of (encR 46 (encPDst d) (a.val) (0) (p.val) (nwPDst d) (0)) = _ := encR_fields 
      simp only [decSlot]; unfold decVector; rw [hc]
      show some _ = some _
      simp (disch := omega) [dec_pmov, hf]
    · simp (disch := omega) [takesImm, BitVec.toNat_ofNat, Nat.mod_eq_of_lt hl, encR_code]
  case vb =>
    refine encodingOf (s := .vb) (w := encR 46 (encPDst d) (a.val) (0) (p.val) (nwPDst d) (0)) (x := encVMod x) (r := .none) rfl rfl rfl rfl encR_lt (fun wf => ?_) (fun n wf hl => ?_) (Or.inl rfl)
    · have hc : encR 46 (encPDst d) (a.val) (0) (p.val) (nwPDst d) (0) / 67108864 = 46 := encR_code 
      have hf : RFields.of (encR 46 (encPDst d) (a.val) (0) (p.val) (nwPDst d) (0)) = _ := encR_fields 
      simp only [decSlot]; rw [hc, if_pos (by decide)]; unfold decVector; rw [hc]
      show some _ = some _
      simp (disch := omega) [dec_pmov, hf]
    · first | cases modOk_vb wf | cases modOk_vb (Bool.and_eq_true_iff.mp wf).2
      exact absurd rfl n
theorem Encoding.ppack (u : VUnit) (d : Dst) (a : OctBase) (x : Option VMod) : Encoding.Statement (.ppack u d a x) := by
  have := encDst_lt d; have := nwDst_lt d; have := encOct_lt a
  cases u
  case va =>
    refine encodingOf (s := .va) (w := encR 47 (encDst d) (encOct a) (0) (0) (nwDst d) (0)) (x := encVMod x) (r := .none) rfl rfl rfl rfl encR_lt (fun wf => ?_) (fun n wf hl => ?_) (Or.inl rfl)
    · have hc : encR 47 (encDst d) (encOct a) (0) (0) (nwDst d) (0) / 67108864 = 47 := encR_code 
      have hf : RFields.of (encR 47 (encDst d) (encOct a) (0) (0) (nwDst d) (0)) = _ := encR_fields 
      simp only [decSlot]; unfold decVector; rw [hc]
      show some _ = some _
      simp (disch := omega) [dec_ppack, hf]
    · simp (disch := omega) [takesImm, BitVec.toNat_ofNat, Nat.mod_eq_of_lt hl, encR_code]
  case vb =>
    refine encodingOf (s := .vb) (w := encR 47 (encDst d) (encOct a) (0) (0) (nwDst d) (0)) (x := encVMod x) (r := .none) rfl rfl rfl rfl encR_lt (fun wf => ?_) (fun n wf hl => ?_) (Or.inl rfl)
    · have hc : encR 47 (encDst d) (encOct a) (0) (0) (nwDst d) (0) / 67108864 = 47 := encR_code 
      have hf : RFields.of (encR 47 (encDst d) (encOct a) (0) (0) (nwDst d) (0)) = _ := encR_fields 
      simp only [decSlot]; rw [hc, if_pos (by decide)]; unfold decVector; rw [hc]
      show some _ = some _
      simp (disch := omega) [dec_ppack, hf]
    · first | cases modOk_vb wf | cases modOk_vb (Bool.and_eq_true_iff.mp wf).2
      exact absurd rfl n
theorem Encoding.punpk (u : VUnit) (d : OctBase) (nw : Bool) (a : Src) (x : Option VMod) : Encoding.Statement (.punpk u d nw a x) := by
  have := encOct_lt d; have := encBool_lt nw; have := encSrc_lt a
  cases u
  case va =>
    refine encodingOf (s := .va) (w := encR 48 (encOct d) (encSrc a) (0) (0) (encBool nw) (0)) (x := encVMod x) (r := .none) rfl rfl rfl rfl encR_lt (fun wf => ?_) (fun n wf hl => ?_) (Or.inl rfl)
    · have hc : encR 48 (encOct d) (encSrc a) (0) (0) (encBool nw) (0) / 67108864 = 48 := encR_code 
      have hf : RFields.of (encR 48 (encOct d) (encSrc a) (0) (0) (encBool nw) (0)) = _ := encR_fields 
      simp only [decSlot]; unfold decVector; rw [hc]
      show some _ = some _
      simp only [dec_punpk, hf]; cases nw <;> simp (disch := omega) [encBool]
    · simp (disch := omega) [takesImm, BitVec.toNat_ofNat, Nat.mod_eq_of_lt hl, encR_code]
  case vb =>
    refine encodingOf (s := .vb) (w := encR 48 (encOct d) (encSrc a) (0) (0) (encBool nw) (0)) (x := encVMod x) (r := .none) rfl rfl rfl rfl encR_lt (fun wf => ?_) (fun n wf hl => ?_) (Or.inl rfl)
    · have hc : encR 48 (encOct d) (encSrc a) (0) (0) (encBool nw) (0) / 67108864 = 48 := encR_code 
      have hf : RFields.of (encR 48 (encOct d) (encSrc a) (0) (0) (encBool nw) (0)) = _ := encR_fields 
      simp only [decSlot]; rw [hc, if_pos (by decide)]; unfold decVector; rw [hc]
      show some _ = some _
      simp only [dec_punpk, hf]; cases nw <;> simp (disch := omega) [encBool]
    · first | cases modOk_vb wf | cases modOk_vb (Bool.and_eq_true_iff.mp wf).2
      exact absurd rfl n
theorem Encoding.vrcp (d : Dst) (a : Src) (p : Fin 16) (f : FFmt) : Encoding.Statement (.vrcp d a p f) := by
  have := encDst_lt d; have := nwDst_lt d; have := encSrc_lt a; have := p.isLt; have := encFFmt_lt f
  refine encodingOf (s := .vb) (w := encR 50 (encDst d) (encSrc a) (0) (p.val) (nwDst d) (encFFmt f)) (x := none) (r := .none) rfl rfl rfl rfl encR_lt (fun wf => ?_) (fun n wf hl => ?_) (Or.inl rfl)
  · have hc : encR 50 (encDst d) (encSrc a) (0) (p.val) (nwDst d) (encFFmt f) / 67108864 = 50 := encR_code 
    have hf : RFields.of (encR 50 (encDst d) (encSrc a) (0) (p.val) (nwDst d) (encFFmt f)) = _ := encR_fields 
    simp only [decSlot]; rw [hc, if_neg (by decide)]; unfold decVB; rw [hc]
    show some _ = some _
    simp (disch := omega) [dec_vrcp, hf]
  · exact absurd rfl n
theorem Encoding.vrsq (d : Dst) (a : Src) (p : Fin 16) (f : FFmt) : Encoding.Statement (.vrsq d a p f) := by
  have := encDst_lt d; have := nwDst_lt d; have := encSrc_lt a; have := p.isLt; have := encFFmt_lt f
  refine encodingOf (s := .vb) (w := encR 51 (encDst d) (encSrc a) (0) (p.val) (nwDst d) (encFFmt f)) (x := none) (r := .none) rfl rfl rfl rfl encR_lt (fun wf => ?_) (fun n wf hl => ?_) (Or.inl rfl)
  · have hc : encR 51 (encDst d) (encSrc a) (0) (p.val) (nwDst d) (encFFmt f) / 67108864 = 51 := encR_code 
    have hf : RFields.of (encR 51 (encDst d) (encSrc a) (0) (p.val) (nwDst d) (encFFmt f)) = _ := encR_fields 
    simp only [decSlot]; rw [hc, if_neg (by decide)]; unfold decVB; rw [hc]
    show some _ = some _
    simp (disch := omega) [dec_vrsq, hf]
  · exact absurd rfl n
theorem Encoding.vsqrt (d : Dst) (a : Src) (p : Fin 16) (f : FFmt) : Encoding.Statement (.vsqrt d a p f) := by
  have := encDst_lt d; have := nwDst_lt d; have := encSrc_lt a; have := p.isLt; have := encFFmt_lt f
  refine encodingOf (s := .vb) (w := encR 52 (encDst d) (encSrc a) (0) (p.val) (nwDst d) (encFFmt f)) (x := none) (r := .none) rfl rfl rfl rfl encR_lt (fun wf => ?_) (fun n wf hl => ?_) (Or.inl rfl)
  · have hc : encR 52 (encDst d) (encSrc a) (0) (p.val) (nwDst d) (encFFmt f) / 67108864 = 52 := encR_code 
    have hf : RFields.of (encR 52 (encDst d) (encSrc a) (0) (p.val) (nwDst d) (encFFmt f)) = _ := encR_fields 
    simp only [decSlot]; rw [hc, if_neg (by decide)]; unfold decVB; rw [hc]
    show some _ = some _
    simp (disch := omega) [dec_vsqrt, hf]
  · exact absurd rfl n
theorem Encoding.vdiv (d : Dst) (a : Src) (b : Src) (p : Fin 16) (f : FFmt) : Encoding.Statement (.vdiv d a b p f) := by
  have := encDst_lt d; have := nwDst_lt d; have := encSrc_lt a; have := encSrc_lt b; have := p.isLt; have := encFFmt_lt f
  refine encodingOf (s := .vb) (w := encR 53 (encDst d) (encSrc a) (encSrc b) (p.val) (nwDst d) (encFFmt f)) (x := none) (r := .none) rfl rfl rfl rfl encR_lt (fun wf => ?_) (fun n wf hl => ?_) (Or.inl rfl)
  · have hc : encR 53 (encDst d) (encSrc a) (encSrc b) (p.val) (nwDst d) (encFFmt f) / 67108864 = 53 := encR_code 
    have hf : RFields.of (encR 53 (encDst d) (encSrc a) (encSrc b) (p.val) (nwDst d) (encFFmt f)) = _ := encR_fields 
    simp only [decSlot]; rw [hc, if_neg (by decide)]; unfold decVB; rw [hc]
    show some _ = some _
    simp (disch := omega) [dec_vdiv, hf]
  · exact absurd rfl n
theorem Encoding.vexp2 (d : Dst) (a : Src) (p : Fin 16) (f : FFmt) : Encoding.Statement (.vexp2 d a p f) := by
  have := encDst_lt d; have := nwDst_lt d; have := encSrc_lt a; have := p.isLt; have := encFFmt_lt f
  refine encodingOf (s := .vb) (w := encR 54 (encDst d) (encSrc a) (0) (p.val) (nwDst d) (encFFmt f)) (x := none) (r := .none) rfl rfl rfl rfl encR_lt (fun wf => ?_) (fun n wf hl => ?_) (Or.inl rfl)
  · have hc : encR 54 (encDst d) (encSrc a) (0) (p.val) (nwDst d) (encFFmt f) / 67108864 = 54 := encR_code 
    have hf : RFields.of (encR 54 (encDst d) (encSrc a) (0) (p.val) (nwDst d) (encFFmt f)) = _ := encR_fields 
    simp only [decSlot]; rw [hc, if_neg (by decide)]; unfold decVB; rw [hc]
    show some _ = some _
    simp (disch := omega) [dec_vexp2, hf]
  · exact absurd rfl n
theorem Encoding.vlog2 (d : Dst) (a : Src) (p : Fin 16) (f : FFmt) : Encoding.Statement (.vlog2 d a p f) := by
  have := encDst_lt d; have := nwDst_lt d; have := encSrc_lt a; have := p.isLt; have := encFFmt_lt f
  refine encodingOf (s := .vb) (w := encR 55 (encDst d) (encSrc a) (0) (p.val) (nwDst d) (encFFmt f)) (x := none) (r := .none) rfl rfl rfl rfl encR_lt (fun wf => ?_) (fun n wf hl => ?_) (Or.inl rfl)
  · have hc : encR 55 (encDst d) (encSrc a) (0) (p.val) (nwDst d) (encFFmt f) / 67108864 = 55 := encR_code 
    have hf : RFields.of (encR 55 (encDst d) (encSrc a) (0) (p.val) (nwDst d) (encFFmt f)) = _ := encR_fields 
    simp only [decSlot]; rw [hc, if_neg (by decide)]; unfold decVB; rw [hc]
    show some _ = some _
    simp (disch := omega) [dec_vlog2, hf]
  · exact absurd rfl n
theorem Encoding.vsin (d : Dst) (a : Src) (p : Fin 16) (f : FFmt) : Encoding.Statement (.vsin d a p f) := by
  have := encDst_lt d; have := nwDst_lt d; have := encSrc_lt a; have := p.isLt; have := encFFmt_lt f
  refine encodingOf (s := .vb) (w := encR 56 (encDst d) (encSrc a) (0) (p.val) (nwDst d) (encFFmt f)) (x := none) (r := .none) rfl rfl rfl rfl encR_lt (fun wf => ?_) (fun n wf hl => ?_) (Or.inl rfl)
  · have hc : encR 56 (encDst d) (encSrc a) (0) (p.val) (nwDst d) (encFFmt f) / 67108864 = 56 := encR_code 
    have hf : RFields.of (encR 56 (encDst d) (encSrc a) (0) (p.val) (nwDst d) (encFFmt f)) = _ := encR_fields 
    simp only [decSlot]; rw [hc, if_neg (by decide)]; unfold decVB; rw [hc]
    show some _ = some _
    simp (disch := omega) [dec_vsin, hf]
  · exact absurd rfl n
theorem Encoding.vcos (d : Dst) (a : Src) (p : Fin 16) (f : FFmt) : Encoding.Statement (.vcos d a p f) := by
  have := encDst_lt d; have := nwDst_lt d; have := encSrc_lt a; have := p.isLt; have := encFFmt_lt f
  refine encodingOf (s := .vb) (w := encR 57 (encDst d) (encSrc a) (0) (p.val) (nwDst d) (encFFmt f)) (x := none) (r := .none) rfl rfl rfl rfl encR_lt (fun wf => ?_) (fun n wf hl => ?_) (Or.inl rfl)
  · have hc : encR 57 (encDst d) (encSrc a) (0) (p.val) (nwDst d) (encFFmt f) / 67108864 = 57 := encR_code 
    have hf : RFields.of (encR 57 (encDst d) (encSrc a) (0) (p.val) (nwDst d) (encFFmt f)) = _ := encR_fields 
    simp only [decSlot]; rw [hc, if_neg (by decide)]; unfold decVB; rw [hc]
    show some _ = some _
    simp (disch := omega) [dec_vcos, hf]
  · exact absurd rfl n
theorem Encoding.vtanh (d : Dst) (a : Src) (p : Fin 16) (f : FFmt) : Encoding.Statement (.vtanh d a p f) := by
  have := encDst_lt d; have := nwDst_lt d; have := encSrc_lt a; have := p.isLt; have := encFFmt_lt f
  refine encodingOf (s := .vb) (w := encR 58 (encDst d) (encSrc a) (0) (p.val) (nwDst d) (encFFmt f)) (x := none) (r := .none) rfl rfl rfl rfl encR_lt (fun wf => ?_) (fun n wf hl => ?_) (Or.inl rfl)
  · have hc : encR 58 (encDst d) (encSrc a) (0) (p.val) (nwDst d) (encFFmt f) / 67108864 = 58 := encR_code 
    have hf : RFields.of (encR 58 (encDst d) (encSrc a) (0) (p.val) (nwDst d) (encFFmt f)) = _ := encR_fields 
    simp only [decSlot]; rw [hc, if_neg (by decide)]; unfold decVB; rw [hc]
    show some _ = some _
    simp (disch := omega) [dec_vtanh, hf]
  · exact absurd rfl n
theorem Encoding.vhist (d : Dst) (a : Src) (b : Src) (p : Fin 16) (w : IntW) : Encoding.Statement (.vhist d a b p w) := by
  have := encDst_lt d; have := nwDst_lt d; have := encSrc_lt a; have := encSrc_lt b; have := p.isLt; have := encIntW_lt w
  refine encodingOf (s := .vb) (w := encR 59 (encDst d) (encSrc a) (encSrc b) (p.val) (nwDst d) (encIntW w)) (x := none) (r := .none) rfl rfl rfl rfl encR_lt (fun wf => ?_) (fun n wf hl => ?_) (Or.inl rfl)
  · have hc : encR 59 (encDst d) (encSrc a) (encSrc b) (p.val) (nwDst d) (encIntW w) / 67108864 = 59 := encR_code 
    have hf : RFields.of (encR 59 (encDst d) (encSrc a) (encSrc b) (p.val) (nwDst d) (encIntW w)) = _ := encR_fields 
    simp only [decSlot]; rw [hc, if_neg (by decide)]; unfold decVB; rw [hc]
    show some _ = some _
    simp (disch := omega) [dec_vhist, hf]
  · exact absurd rfl n
theorem Encoding.vhmerge (d : Dst) (a : Src) (w : IntW) : Encoding.Statement (.vhmerge d a w) := by
  have := encDst_lt d; have := nwDst_lt d; have := encSrc_lt a; have := encIntW_lt w
  refine encodingOf (s := .vb) (w := encR 60 (encDst d) (encSrc a) (0) (0) (nwDst d) (encIntW w)) (x := none) (r := .none) rfl rfl rfl rfl encR_lt (fun wf => ?_) (fun n wf hl => ?_) (Or.inl rfl)
  · have hc : encR 60 (encDst d) (encSrc a) (0) (0) (nwDst d) (encIntW w) / 67108864 = 60 := encR_code 
    have hf : RFields.of (encR 60 (encDst d) (encSrc a) (0) (0) (nwDst d) (encIntW w)) = _ := encR_fields 
    simp only [decSlot]; rw [hc, if_neg (by decide)]; unfold decVB; rw [hc]
    show some _ = some _
    simp (disch := omega) [dec_vhmerge, hf]
  · exact absurd rfl n
theorem Encoding.vsort (d : Dst) (a : Src) (p : Fin 16) (f : Fmt) : Encoding.Statement (.vsort d a p f) := by
  have := encDst_lt d; have := nwDst_lt d; have := encSrc_lt a; have := p.isLt; have := encFmt_lt f
  refine encodingOf (s := .vb) (w := encR 61 (encDst d) (encSrc a) (0) (p.val) (nwDst d) (encFmt f)) (x := none) (r := .none) rfl rfl rfl rfl encR_lt (fun wf => ?_) (fun n wf hl => ?_) (Or.inl rfl)
  · have hc : encR 61 (encDst d) (encSrc a) (0) (p.val) (nwDst d) (encFmt f) / 67108864 = 61 := encR_code 
    have hf : RFields.of (encR 61 (encDst d) (encSrc a) (0) (p.val) (nwDst d) (encFmt f)) = _ := encR_fields 
    simp only [decSlot]; rw [hc, if_neg (by decide)]; unfold decVB; rw [hc]
    show some _ = some _
    simp (disch := omega) [dec_vsort, hf]
  · exact absurd rfl n
theorem Encoding.vsortkv (d : Dst) (a : Src) (b : Src) (p : Fin 16) (f : Fmt) : Encoding.Statement (.vsortkv d a b p f) := by
  have := encDst_lt d; have := nwDst_lt d; have := encSrc_lt a; have := encSrc_lt b; have := p.isLt; have := encFmt_lt f
  refine encodingOf (s := .vb) (w := encR 62 (encDst d) (encSrc a) (encSrc b) (p.val) (nwDst d) (encFmt f)) (x := none) (r := .none) rfl rfl rfl rfl encR_lt (fun wf => ?_) (fun n wf hl => ?_) (Or.inl rfl)
  · have hc : encR 62 (encDst d) (encSrc a) (encSrc b) (p.val) (nwDst d) (encFmt f) / 67108864 = 62 := encR_code 
    have hf : RFields.of (encR 62 (encDst d) (encSrc a) (encSrc b) (p.val) (nwDst d) (encFmt f)) = _ := encR_fields 
    simp only [decSlot]; rw [hc, if_neg (by decide)]; unfold decVB; rw [hc]
    show some _ = some _
    simp (disch := omega) [dec_vsortkv, hf]
  · exact absurd rfl n
theorem Encoding.vsrch (d : Dst) (a : Src) (b : Src) (p : Fin 16) (f : Fmt) : Encoding.Statement (.vsrch d a b p f) := by
  have := encDst_lt d; have := nwDst_lt d; have := encSrc_lt a; have := encSrc_lt b; have := p.isLt; have := encFmt_lt f
  refine encodingOf (s := .vb) (w := encR 63 (encDst d) (encSrc a) (encSrc b) (p.val) (nwDst d) (encFmt f)) (x := none) (r := .none) rfl rfl rfl rfl encR_lt (fun wf => ?_) (fun n wf hl => ?_) (Or.inl rfl)
  · have hc : encR 63 (encDst d) (encSrc a) (encSrc b) (p.val) (nwDst d) (encFmt f) / 67108864 = 63 := encR_code 
    have hf : RFields.of (encR 63 (encDst d) (encSrc a) (encSrc b) (p.val) (nwDst d) (encFmt f)) = _ := encR_fields 
    simp only [decSlot]; rw [hc, if_neg (by decide)]; unfold decVB; rw [hc]
    show some _ = some _
    simp (disch := omega) [dec_vsrch, hf]
  · exact absurd rfl n
theorem Encoding.mcall (z : Fin 8) (r : Fin 256) (mh : Fin 4) (sw : Bool) (a : Src) (rpt : Rpt) : Encoding.Statement (.mcall z r mh sw a rpt) := by
  have := z.isLt; have := r.isLt; have := mh.isLt; have := encBool_lt sw; have := encSrc_lt a
  refine encodingOf (s := .mx) (w := encX 0 (r.val) (z.val) (encBool sw) (mh.val) (encSrc a)) (x := none) (r := rpt) rfl rfl rfl rfl encX_lt (fun wf => ?_) (fun n wf hl => ?_) (Or.inr rfl)
  · have hc : encX 0 (r.val) (z.val) (encBool sw) (mh.val) (encSrc a) / 67108864 = 0 := encX_code 
    simp only [decSlot]; unfold decMX; rw [hc]
    show some _ = some _
    cases sw <;> simp (disch := omega) [encBool, dec_mcall, encX_idx, encX_z, encX_sw, encX_shp, encX_reg, encX_low]
  · exact absurd rfl n
theorem Encoding.mzero (z : Fin 8) (mode : TileMode) (rpt : Rpt) : Encoding.Statement (.mzero z mode rpt) := by
  have := z.isLt; have := encTileMode_lt mode
  refine encodingOf (s := .mx) (w := encX 1 (encTileMode mode) (z.val) (0) (0) (0)) (x := none) (r := rpt) rfl rfl rfl rfl encX_lt (fun wf => ?_) (fun n wf hl => ?_) (Or.inr rfl)
  · have hc : encX 1 (encTileMode mode) (z.val) (0) (0) (0) / 67108864 = 1 := encX_code 
    simp only [decSlot]; unfold decMX; rw [hc]
    show some _ = some _
    simp (disch := omega) [dec_mzero, encX_idx, encX_z, encX_sw, encX_shp, encX_reg, encX_low]
  · exact absurd rfl n
theorem Encoding.mrd (d : Fin 48) (z : Fin 8) (q : Fin 18) (rpt : Rpt) : Encoding.Statement (.mrd d z q rpt) := by
  have := d.isLt; have := z.isLt; have := q.isLt
  refine encodingOf (s := .mx) (w := encX 2 (q.val) (z.val) (0) (0) (d.val)) (x := none) (r := rpt) rfl rfl rfl rfl encX_lt (fun wf => ?_) (fun n wf hl => ?_) (Or.inr rfl)
  · have hc : encX 2 (q.val) (z.val) (0) (0) (d.val) / 67108864 = 2 := encX_code 
    simp only [decSlot]; unfold decMX; rw [hc]
    show some _ = some _
    simp (disch := omega) [dec_mrd, encX_idx, encX_z, encX_sw, encX_shp, encX_reg, encX_low]
  · exact absurd rfl n
theorem Encoding.mwr (z : Fin 8) (q : Fin 16) (a : Fin 48) (rpt : Rpt) : Encoding.Statement (.mwr z q a rpt) := by
  have := z.isLt; have := q.isLt; have := a.isLt
  refine encodingOf (s := .mx) (w := encX 3 (q.val) (z.val) (0) (0) (a.val)) (x := none) (r := rpt) rfl rfl rfl rfl encX_lt (fun wf => ?_) (fun n wf hl => ?_) (Or.inr rfl)
  · have hc : encX 3 (q.val) (z.val) (0) (0) (a.val) / 67108864 = 3 := encX_code 
    simp only [decSlot]; unfold decMX; rw [hc]
    show some _ = some _
    simp (disch := omega) [dec_mwr, encX_idx, encX_z, encX_sw, encX_shp, encX_reg, encX_low]
  · exact absurd rfl n
theorem Encoding.mst (z : Fin 8) (form : Fin 4) (a : Src) (rpt : Rpt) : Encoding.Statement (.mst z form a rpt) := by
  have := z.isLt; have := form.isLt; have := encSrc_lt a
  refine encodingOf (s := .mx) (w := encX 4 (form.val) (z.val) (0) (0) (encSrc a)) (x := none) (r := rpt) rfl rfl rfl rfl encX_lt (fun wf => ?_) (fun n wf hl => ?_) (Or.inr rfl)
  · have hc : encX 4 (form.val) (z.val) (0) (0) (encSrc a) / 67108864 = 4 := encX_code 
    simp only [decSlot]; unfold decMX; rw [hc]
    show some _ = some _
    simp (disch := omega) [dec_mst, encX_idx, encX_z, encX_sw, encX_shp, encX_reg, encX_low]
  · exact absurd rfl n
theorem Encoding.mchk (z : Fin 8) (rpt : Rpt) : Encoding.Statement (.mchk z rpt) := by
  have := z.isLt
  refine encodingOf (s := .mx) (w := encX 5 (0) (z.val) (0) (0) (0)) (x := none) (r := rpt) rfl rfl rfl rfl encX_lt (fun wf => ?_) (fun n wf hl => ?_) (Or.inr rfl)
  · have hc : encX 5 (0) (z.val) (0) (0) (0) / 67108864 = 5 := encX_code 
    simp only [decSlot]; unfold decMX; rw [hc]
    show some _ = some _
    simp (disch := omega) [dec_mchk, encX_idx, encX_z, encX_sw, encX_shp, encX_reg, encX_low]
  · exact absurd rfl n
theorem Encoding.mcsr (z : Fin 8) (rpt : Rpt) : Encoding.Statement (.mcsr z rpt) := by
  have := z.isLt
  refine encodingOf (s := .mx) (w := encX 6 (0) (z.val) (0) (0) (0)) (x := none) (r := rpt) rfl rfl rfl rfl encX_lt (fun wf => ?_) (fun n wf hl => ?_) (Or.inr rfl)
  · have hc : encX 6 (0) (z.val) (0) (0) (0) / 67108864 = 6 := encX_code 
    simp only [decSlot]; unfold decMX; rw [hc]
    show some _ = some _
    simp (disch := omega) [dec_mcsr, encX_idx, encX_z, encX_sw, encX_shp, encX_reg, encX_low]
  · exact absurd rfl n
theorem Encoding.muld (r : Fin 256) (a : Src) (rpt : Rpt) : Encoding.Statement (.muld r a rpt) := by
  have := r.isLt; have := encSrc_lt a
  refine encodingOf (s := .mx) (w := encX 7 (r.val) (0) (0) (0) (encSrc a)) (x := none) (r := rpt) rfl rfl rfl rfl encX_lt (fun wf => ?_) (fun n wf hl => ?_) (Or.inr rfl)
  · have hc : encX 7 (r.val) (0) (0) (0) (encSrc a) / 67108864 = 7 := encX_code 
    simp only [decSlot]; unfold decMX; rw [hc]
    show some _ = some _
    simp (disch := omega) [dec_muld, encX_idx, encX_z, encX_sw, encX_shp, encX_reg, encX_low]
  · exact absurd rfl n
theorem Encoding.mout (z : Fin 8) (nm1 : Fin 256) (a : Src) (rpt : Rpt) : Encoding.Statement (.mout z nm1 a rpt) := by
  have := z.isLt; have := nm1.isLt; have := encSrc_lt a
  refine encodingOf (s := .mx) (w := encX 8 (nm1.val) (z.val) (0) (0) (encSrc a)) (x := none) (r := rpt) rfl rfl rfl rfl encX_lt (fun wf => ?_) (fun n wf hl => ?_) (Or.inr rfl)
  · have hc : encX 8 (nm1.val) (z.val) (0) (0) (encSrc a) / 67108864 = 8 := encX_code 
    simp only [decSlot]; unfold decMX; rw [hc]
    show some _ = some _
    simp (disch := omega) [dec_mout, encX_idx, encX_z, encX_sw, encX_shp, encX_reg, encX_low]
  · exact absurd rfl n
theorem Encoding.mwait (rpt : Rpt) : Encoding.Statement (.mwait rpt) := by
  refine encodingOf (s := .mx) (w := encX 9 (0) (0) (0) (0) (0)) (x := none) (r := rpt) rfl rfl rfl rfl encX_lt (fun wf => ?_) (fun n wf hl => ?_) (Or.inr rfl)
  · have hc : encX 9 (0) (0) (0) (0) (0) / 67108864 = 9 := encX_code 
    simp only [decSlot]; unfold decMX; rw [hc]
    show some _ = some _
    simp (disch := omega) [dec_mwait, encX_idx, encX_z, encX_sw, encX_shp, encX_reg, encX_low]
  · exact absurd rfl n
theorem Encoding.ldb (d : Fin 48) (base : Src) (off : MOff) (w : Bool) (c : Bool) : Encoding.Statement (.ldb d base off w c) := by
  have := d.isLt; have := encSrc_lt base; have := encBool_lt w; have := encBool_lt c
  refine encodingOf (s := .ls) (w := encM 0 (d.val) (encSrc base) off.lo (0) (0) (encBool w) (encBool c)) (x := off.ext) (r := .none) rfl rfl rfl rfl encM_lt (fun wf => ?_) (fun n wf hl => ?_) (Or.inl rfl)
  · have hc : encM 0 (d.val) (encSrc base) off.lo (0) (0) (encBool w) (encBool c) / 67108864 = 0 := encM_code 
    have hf : RFields.of (encM 0 (d.val) (encSrc base) off.lo (0) (0) (encBool w) (encBool c)) = _ := encM_fields 
    simp only [decSlot]; unfold decLS; rw [hc]
    show some _ = some _
    simp only [dec_ldb, hf, encM_off]; cases w <;> cases c <;> simp (disch := omega) [encBool, Nat.mod_eq_of_lt, encM_off]
  · simp (disch := omega) [takesImm, BitVec.toNat_ofNat, Nat.mod_eq_of_lt hl, encM_code]
theorem Encoding.ldh (d : Fin 48) (base : Src) (off : MOff) (w : Bool) (c : Bool) : Encoding.Statement (.ldh d base off w c) := by
  have := d.isLt; have := encSrc_lt base; have := encBool_lt w; have := encBool_lt c
  refine encodingOf (s := .ls) (w := encM 1 (d.val) (encSrc base) off.lo (0) (0) (encBool w) (encBool c)) (x := off.ext) (r := .none) rfl rfl rfl rfl encM_lt (fun wf => ?_) (fun n wf hl => ?_) (Or.inl rfl)
  · have hc : encM 1 (d.val) (encSrc base) off.lo (0) (0) (encBool w) (encBool c) / 67108864 = 1 := encM_code 
    have hf : RFields.of (encM 1 (d.val) (encSrc base) off.lo (0) (0) (encBool w) (encBool c)) = _ := encM_fields 
    simp only [decSlot]; unfold decLS; rw [hc]
    show some _ = some _
    simp only [dec_ldh, hf, encM_off]; cases w <;> cases c <;> simp (disch := omega) [encBool, Nat.mod_eq_of_lt, encM_off]
  · simp (disch := omega) [takesImm, BitVec.toNat_ofNat, Nat.mod_eq_of_lt hl, encM_code]
theorem Encoding.ldw (d : Fin 48) (base : Src) (off : MOff) (w : Bool) (c : Bool) : Encoding.Statement (.ldw d base off w c) := by
  have := d.isLt; have := encSrc_lt base; have := encBool_lt w; have := encBool_lt c
  refine encodingOf (s := .ls) (w := encM 2 (d.val) (encSrc base) off.lo (0) (0) (encBool w) (encBool c)) (x := off.ext) (r := .none) rfl rfl rfl rfl encM_lt (fun wf => ?_) (fun n wf hl => ?_) (Or.inl rfl)
  · have hc : encM 2 (d.val) (encSrc base) off.lo (0) (0) (encBool w) (encBool c) / 67108864 = 2 := encM_code 
    have hf : RFields.of (encM 2 (d.val) (encSrc base) off.lo (0) (0) (encBool w) (encBool c)) = _ := encM_fields 
    simp only [decSlot]; unfold decLS; rw [hc]
    show some _ = some _
    simp only [dec_ldw, hf, encM_off]; cases w <;> cases c <;> simp (disch := omega) [encBool, Nat.mod_eq_of_lt, encM_off]
  · simp (disch := omega) [takesImm, BitVec.toNat_ofNat, Nat.mod_eq_of_lt hl, encM_code]
theorem Encoding.ldd (d : Fin 48) (base : Src) (off : MOff) (w : Bool) (c : Bool) : Encoding.Statement (.ldd d base off w c) := by
  have := d.isLt; have := encSrc_lt base; have := encBool_lt w; have := encBool_lt c
  refine encodingOf (s := .ls) (w := encM 3 (d.val) (encSrc base) off.lo (0) (0) (encBool w) (encBool c)) (x := off.ext) (r := .none) rfl rfl rfl rfl encM_lt (fun wf => ?_) (fun n wf hl => ?_) (Or.inl rfl)
  · have hc : encM 3 (d.val) (encSrc base) off.lo (0) (0) (encBool w) (encBool c) / 67108864 = 3 := encM_code 
    have hf : RFields.of (encM 3 (d.val) (encSrc base) off.lo (0) (0) (encBool w) (encBool c)) = _ := encM_fields 
    simp only [decSlot]; unfold decLS; rw [hc]
    show some _ = some _
    simp only [dec_ldd, hf, encM_off]; cases w <;> cases c <;> simp (disch := omega) [encBool, Nat.mod_eq_of_lt, encM_off]
  · simp (disch := omega) [takesImm, BitVec.toNat_ofNat, Nat.mod_eq_of_lt hl, encM_code]
theorem Encoding.ldv (d : Fin 48) (base : Src) (off : MOff) (p : Fin 8) (w : Bool) (c : Bool) : Encoding.Statement (.ldv d base off p w c) := by
  have := d.isLt; have := encSrc_lt base; have := p.isLt; have := encBool_lt w; have := encBool_lt c
  refine encodingOf (s := .ls) (w := encM 4 (d.val) (encSrc base) off.lo (p.val) (0) (encBool w) (encBool c)) (x := off.ext) (r := .none) rfl rfl rfl rfl encM_lt (fun wf => ?_) (fun n wf hl => ?_) (Or.inl rfl)
  · have hc : encM 4 (d.val) (encSrc base) off.lo (p.val) (0) (encBool w) (encBool c) / 67108864 = 4 := encM_code 
    have hf : RFields.of (encM 4 (d.val) (encSrc base) off.lo (p.val) (0) (encBool w) (encBool c)) = _ := encM_fields 
    simp only [decSlot]; unfold decLS; rw [hc]
    show some _ = some _
    simp only [dec_ldv, hf, encM_off]; cases w <;> cases c <;> simp (disch := omega) [encBool, Nat.mod_eq_of_lt, encM_off]
  · simp (disch := omega) [takesImm, BitVec.toNat_ofNat, Nat.mod_eq_of_lt hl, encM_code]
theorem Encoding.ldp (d : Fin 16) (base : Src) (off : MOff) (w : Bool) (c : Bool) : Encoding.Statement (.ldp d base off w c) := by
  have := d.isLt; have := encSrc_lt base; have := encBool_lt w; have := encBool_lt c
  refine encodingOf (s := .ls) (w := encM 5 (d.val) (encSrc base) off.lo (0) (0) (encBool w) (encBool c)) (x := off.ext) (r := .none) rfl rfl rfl rfl encM_lt (fun wf => ?_) (fun n wf hl => ?_) (Or.inl rfl)
  · have hc : encM 5 (d.val) (encSrc base) off.lo (0) (0) (encBool w) (encBool c) / 67108864 = 5 := encM_code 
    have hf : RFields.of (encM 5 (d.val) (encSrc base) off.lo (0) (0) (encBool w) (encBool c)) = _ := encM_fields 
    simp only [decSlot]; unfold decLS; rw [hc]
    show some _ = some _
    simp only [dec_ldp, hf, encM_off]; cases w <;> cases c <;> simp (disch := omega) [encBool, Nat.mod_eq_of_lt, encM_off]
  · simp (disch := omega) [takesImm, BitVec.toNat_ofNat, Nat.mod_eq_of_lt hl, encM_code]
theorem Encoding.ldt (d : Fin 48) (base : Src) (h : Fin 4) (p : Fin 16) (w : Bool) (c : Bool) (sw : Bool) : Encoding.Statement (.ldt d base h p w c sw) := by
  have := d.isLt; have := encSrc_lt base; have := h.isLt; have := p.isLt; have := encBool_lt w; have := encBool_lt c; have := encBool_lt sw
  refine encodingOf (s := .ls) (w := encR 6 (d.val) (encSrc base) (h.val) (p.val) (0) (4 * (encBool w) + 2 * (encBool c) + encBool sw)) (x := none) (r := .none) rfl rfl rfl rfl encR_lt (fun wf => ?_) (fun n wf hl => ?_) (Or.inl rfl)
  · have hc : encR 6 (d.val) (encSrc base) (h.val) (p.val) (0) (4 * (encBool w) + 2 * (encBool c) + encBool sw) / 67108864 = 6 := encR_code 
    have hf : RFields.of (encR 6 (d.val) (encSrc base) (h.val) (p.val) (0) (4 * (encBool w) + 2 * (encBool c) + encBool sw)) = _ := encR_fields 
    simp only [decSlot]; unfold decLS; rw [hc]
    show some _ = some _
    simp only [dec_ldt, hf]; cases w <;> cases c <;> cases sw <;> simp (disch := omega) [encBool, fieldLow, fieldHigh, fieldLow2, fieldHigh2, Nat.mod_eq_of_lt]
  · exact absurd rfl n
theorem Encoding.ldg (d : Fin 48) (base : Src) (idx : Fin 48) (p : Fin 16) (w : Bool) (c : Bool) : Encoding.Statement (.ldg d base idx p w c) := by
  have := d.isLt; have := encSrc_lt base; have := idx.isLt; have := p.isLt; have := encBool_lt w; have := encBool_lt c
  refine encodingOf (s := .ls) (w := encR 7 (d.val) (encSrc base) (idx.val) (p.val) (0) (4 * (encBool w) + 2 * (encBool c) + 0)) (x := none) (r := .none) rfl rfl rfl rfl encR_lt (fun wf => ?_) (fun n wf hl => ?_) (Or.inl rfl)
  · have hc : encR 7 (d.val) (encSrc base) (idx.val) (p.val) (0) (4 * (encBool w) + 2 * (encBool c) + 0) / 67108864 = 7 := encR_code 
    have hf : RFields.of (encR 7 (d.val) (encSrc base) (idx.val) (p.val) (0) (4 * (encBool w) + 2 * (encBool c) + 0)) = _ := encR_fields 
    simp only [decSlot]; unfold decLS; rw [hc]
    show some _ = some _
    simp only [dec_ldg, hf]; cases w <;> cases c <;> simp (disch := omega) [encBool, fieldLow, fieldHigh, fieldLow2, fieldHigh2, Nat.mod_eq_of_lt]
  · exact absurd rfl n
theorem Encoding.stb (v : Src) (base : Src) (off : MOff) (f : Bool) : Encoding.Statement (.stb v base off f) := by
  have := encSrc_lt v; have := encSrc_lt base; have := encBool_lt f
  refine encodingOf (s := .ls) (w := encM 8 (encSrc v) (encSrc base) off.lo (0) (encBool f) (0) (0)) (x := off.ext) (r := .none) rfl rfl rfl rfl encM_lt (fun wf => ?_) (fun n wf hl => ?_) (Or.inl rfl)
  · have hc : encM 8 (encSrc v) (encSrc base) off.lo (0) (encBool f) (0) (0) / 67108864 = 8 := encM_code 
    have hf : RFields.of (encM 8 (encSrc v) (encSrc base) off.lo (0) (encBool f) (0) (0)) = _ := encM_fields 
    simp only [decSlot]; unfold decLS; rw [hc]
    show some _ = some _
    simp only [dec_stb, hf, encM_off]; cases f <;> simp (disch := omega) [encBool, Nat.mod_eq_of_lt, encM_off]
  · simp (disch := omega) [takesImm, BitVec.toNat_ofNat, Nat.mod_eq_of_lt hl, encM_code]
theorem Encoding.sth (v : Src) (base : Src) (off : MOff) (f : Bool) : Encoding.Statement (.sth v base off f) := by
  have := encSrc_lt v; have := encSrc_lt base; have := encBool_lt f
  refine encodingOf (s := .ls) (w := encM 9 (encSrc v) (encSrc base) off.lo (0) (encBool f) (0) (0)) (x := off.ext) (r := .none) rfl rfl rfl rfl encM_lt (fun wf => ?_) (fun n wf hl => ?_) (Or.inl rfl)
  · have hc : encM 9 (encSrc v) (encSrc base) off.lo (0) (encBool f) (0) (0) / 67108864 = 9 := encM_code 
    have hf : RFields.of (encM 9 (encSrc v) (encSrc base) off.lo (0) (encBool f) (0) (0)) = _ := encM_fields 
    simp only [decSlot]; unfold decLS; rw [hc]
    show some _ = some _
    simp only [dec_sth, hf, encM_off]; cases f <;> simp (disch := omega) [encBool, Nat.mod_eq_of_lt, encM_off]
  · simp (disch := omega) [takesImm, BitVec.toNat_ofNat, Nat.mod_eq_of_lt hl, encM_code]
theorem Encoding.stw (v : Src) (base : Src) (off : MOff) (f : Bool) : Encoding.Statement (.stw v base off f) := by
  have := encSrc_lt v; have := encSrc_lt base; have := encBool_lt f
  refine encodingOf (s := .ls) (w := encM 10 (encSrc v) (encSrc base) off.lo (0) (encBool f) (0) (0)) (x := off.ext) (r := .none) rfl rfl rfl rfl encM_lt (fun wf => ?_) (fun n wf hl => ?_) (Or.inl rfl)
  · have hc : encM 10 (encSrc v) (encSrc base) off.lo (0) (encBool f) (0) (0) / 67108864 = 10 := encM_code 
    have hf : RFields.of (encM 10 (encSrc v) (encSrc base) off.lo (0) (encBool f) (0) (0)) = _ := encM_fields 
    simp only [decSlot]; unfold decLS; rw [hc]
    show some _ = some _
    simp only [dec_stw, hf, encM_off]; cases f <;> simp (disch := omega) [encBool, Nat.mod_eq_of_lt, encM_off]
  · simp (disch := omega) [takesImm, BitVec.toNat_ofNat, Nat.mod_eq_of_lt hl, encM_code]
theorem Encoding.std (v : Src) (base : Src) (off : MOff) (f : Bool) : Encoding.Statement (.std v base off f) := by
  have := encSrc_lt v; have := encSrc_lt base; have := encBool_lt f
  refine encodingOf (s := .ls) (w := encM 11 (encSrc v) (encSrc base) off.lo (0) (encBool f) (0) (0)) (x := off.ext) (r := .none) rfl rfl rfl rfl encM_lt (fun wf => ?_) (fun n wf hl => ?_) (Or.inl rfl)
  · have hc : encM 11 (encSrc v) (encSrc base) off.lo (0) (encBool f) (0) (0) / 67108864 = 11 := encM_code 
    have hf : RFields.of (encM 11 (encSrc v) (encSrc base) off.lo (0) (encBool f) (0) (0)) = _ := encM_fields 
    simp only [decSlot]; unfold decLS; rw [hc]
    show some _ = some _
    simp only [dec_std, hf, encM_off]; cases f <;> simp (disch := omega) [encBool, Nat.mod_eq_of_lt, encM_off]
  · simp (disch := omega) [takesImm, BitVec.toNat_ofNat, Nat.mod_eq_of_lt hl, encM_code]
theorem Encoding.stv (v : Src) (base : Src) (off : MOff) (p : Fin 8) (f : Bool) : Encoding.Statement (.stv v base off p f) := by
  have := encSrc_lt v; have := encSrc_lt base; have := p.isLt; have := encBool_lt f
  refine encodingOf (s := .ls) (w := encM 12 (encSrc v) (encSrc base) off.lo (p.val) (encBool f) (0) (0)) (x := off.ext) (r := .none) rfl rfl rfl rfl encM_lt (fun wf => ?_) (fun n wf hl => ?_) (Or.inl rfl)
  · have hc : encM 12 (encSrc v) (encSrc base) off.lo (p.val) (encBool f) (0) (0) / 67108864 = 12 := encM_code 
    have hf : RFields.of (encM 12 (encSrc v) (encSrc base) off.lo (p.val) (encBool f) (0) (0)) = _ := encM_fields 
    simp only [decSlot]; unfold decLS; rw [hc]
    show some _ = some _
    simp only [dec_stv, hf, encM_off]; cases f <;> simp (disch := omega) [encBool, Nat.mod_eq_of_lt, encM_off]
  · simp (disch := omega) [takesImm, BitVec.toNat_ofNat, Nat.mod_eq_of_lt hl, encM_code]
theorem Encoding.stp (v : Fin 16) (base : Src) (off : MOff) (f : Bool) : Encoding.Statement (.stp v base off f) := by
  have := v.isLt; have := encSrc_lt base; have := encBool_lt f
  refine encodingOf (s := .ls) (w := encM 13 (v.val) (encSrc base) off.lo (0) (encBool f) (0) (0)) (x := off.ext) (r := .none) rfl rfl rfl rfl encM_lt (fun wf => ?_) (fun n wf hl => ?_) (Or.inl rfl)
  · have hc : encM 13 (v.val) (encSrc base) off.lo (0) (encBool f) (0) (0) / 67108864 = 13 := encM_code 
    have hf : RFields.of (encM 13 (v.val) (encSrc base) off.lo (0) (encBool f) (0) (0)) = _ := encM_fields 
    simp only [decSlot]; unfold decLS; rw [hc]
    show some _ = some _
    simp only [dec_stp, hf, encM_off]; cases f <;> simp (disch := omega) [encBool, Nat.mod_eq_of_lt, encM_off]
  · simp (disch := omega) [takesImm, BitVec.toNat_ofNat, Nat.mod_eq_of_lt hl, encM_code]
theorem Encoding.stt (v : Src) (base : Src) (h : Fin 4) (p : Fin 16) (f : Bool) (sw : Bool) : Encoding.Statement (.stt v base h p f sw) := by
  have := encSrc_lt v; have := encSrc_lt base; have := h.isLt; have := p.isLt; have := encBool_lt f; have := encBool_lt sw
  refine encodingOf (s := .ls) (w := encR 14 (encSrc v) (encSrc base) (h.val) (p.val) (encBool f) (4 * (0) + 2 * (0) + encBool sw)) (x := none) (r := .none) rfl rfl rfl rfl encR_lt (fun wf => ?_) (fun n wf hl => ?_) (Or.inl rfl)
  · have hc : encR 14 (encSrc v) (encSrc base) (h.val) (p.val) (encBool f) (4 * (0) + 2 * (0) + encBool sw) / 67108864 = 14 := encR_code 
    have hf : RFields.of (encR 14 (encSrc v) (encSrc base) (h.val) (p.val) (encBool f) (4 * (0) + 2 * (0) + encBool sw)) = _ := encR_fields 
    simp only [decSlot]; unfold decLS; rw [hc]
    show some _ = some _
    simp only [dec_stt, hf]; cases f <;> cases sw <;> simp (disch := omega) [encBool, fieldLow, fieldHigh, fieldLow2, fieldHigh2, Nat.mod_eq_of_lt]
  · exact absurd rfl n
theorem Encoding.stg (v : Src) (base : Src) (idx : Fin 48) (p : Fin 16) (f : Bool) : Encoding.Statement (.stg v base idx p f) := by
  have := encSrc_lt v; have := encSrc_lt base; have := idx.isLt; have := p.isLt; have := encBool_lt f
  refine encodingOf (s := .ls) (w := encR 15 (encSrc v) (encSrc base) (idx.val) (p.val) (encBool f) (4 * (0) + 2 * (0) + 0)) (x := none) (r := .none) rfl rfl rfl rfl encR_lt (fun wf => ?_) (fun n wf hl => ?_) (Or.inl rfl)
  · have hc : encR 15 (encSrc v) (encSrc base) (idx.val) (p.val) (encBool f) (4 * (0) + 2 * (0) + 0) / 67108864 = 15 := encR_code 
    have hf : RFields.of (encR 15 (encSrc v) (encSrc base) (idx.val) (p.val) (encBool f) (4 * (0) + 2 * (0) + 0)) = _ := encR_fields 
    simp only [decSlot]; unfold decLS; rw [hc]
    show some _ = some _
    simp only [dec_stg, hf]; cases f <;> simp (disch := omega) [encBool, fieldLow, fieldHigh, fieldLow2, fieldHigh2, Nat.mod_eq_of_lt]
  · exact absurd rfl n
theorem Encoding.feset (base : Src) (off : MOff) : Encoding.Statement (.feset base off) := by
  have := encSrc_lt base
  refine encodingOf (s := .ls) (w := encM 16 (0) (encSrc base) off.lo (0) (0) (0) (0)) (x := off.ext) (r := .none) rfl rfl rfl rfl encM_lt (fun wf => ?_) (fun n wf hl => ?_) (Or.inl rfl)
  · have hc : encM 16 (0) (encSrc base) off.lo (0) (0) (0) (0) / 67108864 = 16 := encM_code 
    have hf : RFields.of (encM 16 (0) (encSrc base) off.lo (0) (0) (0) (0)) = _ := encM_fields 
    simp only [decSlot]; unfold decLS; rw [hc]
    show some _ = some _
    simp (disch := omega) [dec_feset, hf, encM_off, Nat.mod_eq_of_lt, Nat.mod_eq_of_lt, encM_off]
  · simp (disch := omega) [takesImm, BitVec.toNat_ofNat, Nat.mod_eq_of_lt hl, encM_code]
theorem Encoding.feclr (base : Src) (off : MOff) : Encoding.Statement (.feclr base off) := by
  have := encSrc_lt base
  refine encodingOf (s := .ls) (w := encM 17 (0) (encSrc base) off.lo (0) (0) (0) (0)) (x := off.ext) (r := .none) rfl rfl rfl rfl encM_lt (fun wf => ?_) (fun n wf hl => ?_) (Or.inl rfl)
  · have hc : encM 17 (0) (encSrc base) off.lo (0) (0) (0) (0) / 67108864 = 17 := encM_code 
    have hf : RFields.of (encM 17 (0) (encSrc base) off.lo (0) (0) (0) (0)) = _ := encM_fields 
    simp only [decSlot]; unfold decLS; rw [hc]
    show some _ = some _
    simp (disch := omega) [dec_feclr, hf, encM_off, Nat.mod_eq_of_lt, Nat.mod_eq_of_lt, encM_off]
  · simp (disch := omega) [takesImm, BitVec.toNat_ofNat, Nat.mod_eq_of_lt hl, encM_code]
theorem Encoding.fetst (d : Fin 48) (base : Src) (off : MOff) : Encoding.Statement (.fetst d base off) := by
  have := d.isLt; have := encSrc_lt base
  refine encodingOf (s := .ls) (w := encM 18 (d.val) (encSrc base) off.lo (0) (0) (0) (0)) (x := off.ext) (r := .none) rfl rfl rfl rfl encM_lt (fun wf => ?_) (fun n wf hl => ?_) (Or.inl rfl)
  · have hc : encM 18 (d.val) (encSrc base) off.lo (0) (0) (0) (0) / 67108864 = 18 := encM_code 
    have hf : RFields.of (encM 18 (d.val) (encSrc base) off.lo (0) (0) (0) (0)) = _ := encM_fields 
    simp only [decSlot]; unfold decLS; rw [hc]
    show some _ = some _
    simp (disch := omega) [dec_fetst, hf, encM_off, Nat.mod_eq_of_lt, Nat.mod_eq_of_lt, encM_off]
  · simp (disch := omega) [takesImm, BitVec.toNat_ofNat, Nat.mod_eq_of_lt hl, encM_code]
theorem Encoding.wldw (d : Fin 48) (base : Src) (off : MOff) (w : Bool) (c : Bool) : Encoding.Statement (.wldw d base off w c) := by
  have := d.isLt; have := encSrc_lt base; have := encBool_lt w; have := encBool_lt c
  refine encodingOf (s := .wy) (w := encM 2 (d.val) (encSrc base) off.lo (0) (0) (encBool w) (encBool c)) (x := off.ext) (r := .none) rfl rfl rfl rfl encM_lt (fun wf => ?_) (fun n wf hl => ?_) (Or.inl rfl)
  · have hc : encM 2 (d.val) (encSrc base) off.lo (0) (0) (encBool w) (encBool c) / 67108864 = 2 := encM_code 
    have hf : RFields.of (encM 2 (d.val) (encSrc base) off.lo (0) (0) (encBool w) (encBool c)) = _ := encM_fields 
    simp only [decSlot]; unfold decWY; rw [hc]
    show some _ = some _
    simp only [dec_wldw, hf, encM_off]; cases w <;> cases c <;> simp (disch := omega) [encBool, Nat.mod_eq_of_lt, encM_off]
  · simp (disch := omega) [takesImm, BitVec.toNat_ofNat, Nat.mod_eq_of_lt hl, encM_code]
theorem Encoding.wldd (d : Fin 48) (base : Src) (off : MOff) (w : Bool) (c : Bool) : Encoding.Statement (.wldd d base off w c) := by
  have := d.isLt; have := encSrc_lt base; have := encBool_lt w; have := encBool_lt c
  refine encodingOf (s := .wy) (w := encM 3 (d.val) (encSrc base) off.lo (0) (0) (encBool w) (encBool c)) (x := off.ext) (r := .none) rfl rfl rfl rfl encM_lt (fun wf => ?_) (fun n wf hl => ?_) (Or.inl rfl)
  · have hc : encM 3 (d.val) (encSrc base) off.lo (0) (0) (encBool w) (encBool c) / 67108864 = 3 := encM_code 
    have hf : RFields.of (encM 3 (d.val) (encSrc base) off.lo (0) (0) (encBool w) (encBool c)) = _ := encM_fields 
    simp only [decSlot]; unfold decWY; rw [hc]
    show some _ = some _
    simp only [dec_wldd, hf, encM_off]; cases w <;> cases c <;> simp (disch := omega) [encBool, Nat.mod_eq_of_lt, encM_off]
  · simp (disch := omega) [takesImm, BitVec.toNat_ofNat, Nat.mod_eq_of_lt hl, encM_code]
theorem Encoding.wldv (d : Fin 48) (base : Src) (off : MOff) (p : Fin 8) (w : Bool) (c : Bool) : Encoding.Statement (.wldv d base off p w c) := by
  have := d.isLt; have := encSrc_lt base; have := p.isLt; have := encBool_lt w; have := encBool_lt c
  refine encodingOf (s := .wy) (w := encM 4 (d.val) (encSrc base) off.lo (p.val) (0) (encBool w) (encBool c)) (x := off.ext) (r := .none) rfl rfl rfl rfl encM_lt (fun wf => ?_) (fun n wf hl => ?_) (Or.inl rfl)
  · have hc : encM 4 (d.val) (encSrc base) off.lo (p.val) (0) (encBool w) (encBool c) / 67108864 = 4 := encM_code 
    have hf : RFields.of (encM 4 (d.val) (encSrc base) off.lo (p.val) (0) (encBool w) (encBool c)) = _ := encM_fields 
    simp only [decSlot]; unfold decWY; rw [hc]
    show some _ = some _
    simp only [dec_wldv, hf, encM_off]; cases w <;> cases c <;> simp (disch := omega) [encBool, Nat.mod_eq_of_lt, encM_off]
  · simp (disch := omega) [takesImm, BitVec.toNat_ofNat, Nat.mod_eq_of_lt hl, encM_code]
theorem Encoding.wldt (d : Fin 48) (base : Src) (h : Fin 4) (p : Fin 16) (w : Bool) (c : Bool) (sw : Bool) : Encoding.Statement (.wldt d base h p w c sw) := by
  have := d.isLt; have := encSrc_lt base; have := h.isLt; have := p.isLt; have := encBool_lt w; have := encBool_lt c; have := encBool_lt sw
  refine encodingOf (s := .wy) (w := encR 6 (d.val) (encSrc base) (h.val) (p.val) (0) (4 * (encBool w) + 2 * (encBool c) + encBool sw)) (x := none) (r := .none) rfl rfl rfl rfl encR_lt (fun wf => ?_) (fun n wf hl => ?_) (Or.inl rfl)
  · have hc : encR 6 (d.val) (encSrc base) (h.val) (p.val) (0) (4 * (encBool w) + 2 * (encBool c) + encBool sw) / 67108864 = 6 := encR_code 
    have hf : RFields.of (encR 6 (d.val) (encSrc base) (h.val) (p.val) (0) (4 * (encBool w) + 2 * (encBool c) + encBool sw)) = _ := encR_fields 
    simp only [decSlot]; unfold decWY; rw [hc]
    show some _ = some _
    simp only [dec_wldt, hf]; cases w <;> cases c <;> cases sw <;> simp (disch := omega) [encBool, fieldLow, fieldHigh, fieldLow2, fieldHigh2, Nat.mod_eq_of_lt]
  · exact absurd rfl n
theorem Encoding.wldg (d : Fin 48) (base : Src) (idx : Fin 48) (p : Fin 16) (w : Bool) (c : Bool) : Encoding.Statement (.wldg d base idx p w c) := by
  have := d.isLt; have := encSrc_lt base; have := idx.isLt; have := p.isLt; have := encBool_lt w; have := encBool_lt c
  refine encodingOf (s := .wy) (w := encR 7 (d.val) (encSrc base) (idx.val) (p.val) (0) (4 * (encBool w) + 2 * (encBool c) + 0)) (x := none) (r := .none) rfl rfl rfl rfl encR_lt (fun wf => ?_) (fun n wf hl => ?_) (Or.inl rfl)
  · have hc : encR 7 (d.val) (encSrc base) (idx.val) (p.val) (0) (4 * (encBool w) + 2 * (encBool c) + 0) / 67108864 = 7 := encR_code 
    have hf : RFields.of (encR 7 (d.val) (encSrc base) (idx.val) (p.val) (0) (4 * (encBool w) + 2 * (encBool c) + 0)) = _ := encR_fields 
    simp only [decSlot]; unfold decWY; rw [hc]
    show some _ = some _
    simp only [dec_wldg, hf]; cases w <;> cases c <;> simp (disch := omega) [encBool, fieldLow, fieldHigh, fieldLow2, fieldHigh2, Nat.mod_eq_of_lt]
  · exact absurd rfl n
theorem Encoding.wstw (v : Src) (base : Src) (off : MOff) (f : Bool) : Encoding.Statement (.wstw v base off f) := by
  have := encSrc_lt v; have := encSrc_lt base; have := encBool_lt f
  refine encodingOf (s := .wy) (w := encM 10 (encSrc v) (encSrc base) off.lo (0) (encBool f) (0) (0)) (x := off.ext) (r := .none) rfl rfl rfl rfl encM_lt (fun wf => ?_) (fun n wf hl => ?_) (Or.inl rfl)
  · have hc : encM 10 (encSrc v) (encSrc base) off.lo (0) (encBool f) (0) (0) / 67108864 = 10 := encM_code 
    have hf : RFields.of (encM 10 (encSrc v) (encSrc base) off.lo (0) (encBool f) (0) (0)) = _ := encM_fields 
    simp only [decSlot]; unfold decWY; rw [hc]
    show some _ = some _
    simp only [dec_wstw, hf, encM_off]; cases f <;> simp (disch := omega) [encBool, Nat.mod_eq_of_lt, encM_off]
  · simp (disch := omega) [takesImm, BitVec.toNat_ofNat, Nat.mod_eq_of_lt hl, encM_code]
theorem Encoding.wstd (v : Src) (base : Src) (off : MOff) (f : Bool) : Encoding.Statement (.wstd v base off f) := by
  have := encSrc_lt v; have := encSrc_lt base; have := encBool_lt f
  refine encodingOf (s := .wy) (w := encM 11 (encSrc v) (encSrc base) off.lo (0) (encBool f) (0) (0)) (x := off.ext) (r := .none) rfl rfl rfl rfl encM_lt (fun wf => ?_) (fun n wf hl => ?_) (Or.inl rfl)
  · have hc : encM 11 (encSrc v) (encSrc base) off.lo (0) (encBool f) (0) (0) / 67108864 = 11 := encM_code 
    have hf : RFields.of (encM 11 (encSrc v) (encSrc base) off.lo (0) (encBool f) (0) (0)) = _ := encM_fields 
    simp only [decSlot]; unfold decWY; rw [hc]
    show some _ = some _
    simp only [dec_wstd, hf, encM_off]; cases f <;> simp (disch := omega) [encBool, Nat.mod_eq_of_lt, encM_off]
  · simp (disch := omega) [takesImm, BitVec.toNat_ofNat, Nat.mod_eq_of_lt hl, encM_code]
theorem Encoding.wstv (v : Src) (base : Src) (off : MOff) (p : Fin 8) (f : Bool) : Encoding.Statement (.wstv v base off p f) := by
  have := encSrc_lt v; have := encSrc_lt base; have := p.isLt; have := encBool_lt f
  refine encodingOf (s := .wy) (w := encM 12 (encSrc v) (encSrc base) off.lo (p.val) (encBool f) (0) (0)) (x := off.ext) (r := .none) rfl rfl rfl rfl encM_lt (fun wf => ?_) (fun n wf hl => ?_) (Or.inl rfl)
  · have hc : encM 12 (encSrc v) (encSrc base) off.lo (p.val) (encBool f) (0) (0) / 67108864 = 12 := encM_code 
    have hf : RFields.of (encM 12 (encSrc v) (encSrc base) off.lo (p.val) (encBool f) (0) (0)) = _ := encM_fields 
    simp only [decSlot]; unfold decWY; rw [hc]
    show some _ = some _
    simp only [dec_wstv, hf, encM_off]; cases f <;> simp (disch := omega) [encBool, Nat.mod_eq_of_lt, encM_off]
  · simp (disch := omega) [takesImm, BitVec.toNat_ofNat, Nat.mod_eq_of_lt hl, encM_code]
theorem Encoding.wstt (v : Src) (base : Src) (h : Fin 4) (p : Fin 16) (f : Bool) (sw : Bool) : Encoding.Statement (.wstt v base h p f sw) := by
  have := encSrc_lt v; have := encSrc_lt base; have := h.isLt; have := p.isLt; have := encBool_lt f; have := encBool_lt sw
  refine encodingOf (s := .wy) (w := encR 14 (encSrc v) (encSrc base) (h.val) (p.val) (encBool f) (4 * (0) + 2 * (0) + encBool sw)) (x := none) (r := .none) rfl rfl rfl rfl encR_lt (fun wf => ?_) (fun n wf hl => ?_) (Or.inl rfl)
  · have hc : encR 14 (encSrc v) (encSrc base) (h.val) (p.val) (encBool f) (4 * (0) + 2 * (0) + encBool sw) / 67108864 = 14 := encR_code 
    have hf : RFields.of (encR 14 (encSrc v) (encSrc base) (h.val) (p.val) (encBool f) (4 * (0) + 2 * (0) + encBool sw)) = _ := encR_fields 
    simp only [decSlot]; unfold decWY; rw [hc]
    show some _ = some _
    simp only [dec_wstt, hf]; cases f <;> cases sw <;> simp (disch := omega) [encBool, fieldLow, fieldHigh, fieldLow2, fieldHigh2, Nat.mod_eq_of_lt]
  · exact absurd rfl n
theorem Encoding.wstg (v : Src) (base : Src) (idx : Fin 48) (p : Fin 16) (f : Bool) : Encoding.Statement (.wstg v base idx p f) := by
  have := encSrc_lt v; have := encSrc_lt base; have := idx.isLt; have := p.isLt; have := encBool_lt f
  refine encodingOf (s := .wy) (w := encR 15 (encSrc v) (encSrc base) (idx.val) (p.val) (encBool f) (4 * (0) + 2 * (0) + 0)) (x := none) (r := .none) rfl rfl rfl rfl encR_lt (fun wf => ?_) (fun n wf hl => ?_) (Or.inl rfl)
  · have hc : encR 15 (encSrc v) (encSrc base) (idx.val) (p.val) (encBool f) (4 * (0) + 2 * (0) + 0) / 67108864 = 15 := encR_code 
    have hf : RFields.of (encR 15 (encSrc v) (encSrc base) (idx.val) (p.val) (encBool f) (4 * (0) + 2 * (0) + 0)) = _ := encR_fields 
    simp only [decSlot]; unfold decWY; rw [hc]
    show some _ = some _
    simp only [dec_wstg, hf]; cases f <;> simp (disch := omega) [encBool, fieldLow, fieldHigh, fieldLow2, fieldHigh2, Nat.mod_eq_of_lt]
  · exact absurd rfl n
theorem Encoding.wfeset (base : Src) (off : MOff) : Encoding.Statement (.wfeset base off) := by
  have := encSrc_lt base
  refine encodingOf (s := .wy) (w := encM 16 (0) (encSrc base) off.lo (0) (0) (0) (0)) (x := off.ext) (r := .none) rfl rfl rfl rfl encM_lt (fun wf => ?_) (fun n wf hl => ?_) (Or.inl rfl)
  · have hc : encM 16 (0) (encSrc base) off.lo (0) (0) (0) (0) / 67108864 = 16 := encM_code 
    have hf : RFields.of (encM 16 (0) (encSrc base) off.lo (0) (0) (0) (0)) = _ := encM_fields 
    simp only [decSlot]; unfold decWY; rw [hc]
    show some _ = some _
    simp (disch := omega) [dec_wfeset, hf, encM_off, Nat.mod_eq_of_lt, Nat.mod_eq_of_lt, encM_off]
  · simp (disch := omega) [takesImm, BitVec.toNat_ofNat, Nat.mod_eq_of_lt hl, encM_code]
theorem Encoding.wfeclr (base : Src) (off : MOff) : Encoding.Statement (.wfeclr base off) := by
  have := encSrc_lt base
  refine encodingOf (s := .wy) (w := encM 17 (0) (encSrc base) off.lo (0) (0) (0) (0)) (x := off.ext) (r := .none) rfl rfl rfl rfl encM_lt (fun wf => ?_) (fun n wf hl => ?_) (Or.inl rfl)
  · have hc : encM 17 (0) (encSrc base) off.lo (0) (0) (0) (0) / 67108864 = 17 := encM_code 
    have hf : RFields.of (encM 17 (0) (encSrc base) off.lo (0) (0) (0) (0)) = _ := encM_fields 
    simp only [decSlot]; unfold decWY; rw [hc]
    show some _ = some _
    simp (disch := omega) [dec_wfeclr, hf, encM_off, Nat.mod_eq_of_lt, Nat.mod_eq_of_lt, encM_off]
  · simp (disch := omega) [takesImm, BitVec.toNat_ofNat, Nat.mod_eq_of_lt hl, encM_code]
theorem Encoding.probe (d : Fin 48) (a : Src) (off : POff) : Encoding.Statement (.probe d a off) := by
  have := d.isLt; have := encSrc_lt a
  refine encodingOf (s := .tg) (w := encP 0 d.val (encSrc a) off.lo) (x := off.ext) (r := .none) rfl rfl rfl rfl encP_lt (fun wf => ?_) (fun n wf hl => ?_) (Or.inl rfl)
  · have hc : encP 0 d.val (encSrc a) off.lo / 67108864 = 0 := encP_code 
    simp only [decSlot]; unfold decTG; rw [hc]
    show some _ = some _
    simp (disch := omega) [dec_probe, encP_d, encP_a, encP_low, encP_off]
  · simp (disch := omega) [takesImm, BitVec.toNat_ofNat, Nat.mod_eq_of_lt hl, encP_code]
theorem Encoding.fill (d : Fin 48) (a : Src) : Encoding.Statement (.fill d a) := by
  have := d.isLt; have := encSrc_lt a
  refine encodingOf (s := .tg) (w := encR 1 (d.val) (encSrc a) (0) (0) (0) (0)) (x := none) (r := .none) rfl rfl rfl rfl encR_lt (fun wf => ?_) (fun n wf hl => ?_) (Or.inl rfl)
  · have hc : encR 1 (d.val) (encSrc a) (0) (0) (0) (0) / 67108864 = 1 := encR_code 
    have hf : RFields.of (encR 1 (d.val) (encSrc a) (0) (0) (0) (0)) = _ := encR_fields 
    simp only [decSlot]; unfold decTG; rw [hc]
    show some _ = some _
    simp (disch := omega) [dec_fill, hf]
  · exact absurd rfl n
theorem Encoding.evict (a : Src) : Encoding.Statement (.evict a) := by
  have := encSrc_lt a
  refine encodingOf (s := .tg) (w := encR 2 (0) (encSrc a) (0) (0) (0) (0)) (x := none) (r := .none) rfl rfl rfl rfl encR_lt (fun wf => ?_) (fun n wf hl => ?_) (Or.inl rfl)
  · have hc : encR 2 (0) (encSrc a) (0) (0) (0) (0) / 67108864 = 2 := encR_code 
    have hf : RFields.of (encR 2 (0) (encSrc a) (0) (0) (0) (0)) = _ := encR_fields 
    simp only [decSlot]; unfold decTG; rw [hc]
    show some _ = some _
    simp (disch := omega) [dec_evict, hf]
  · exact absurd rfl n
theorem Encoding.wback (a : Src) : Encoding.Statement (.wback a) := by
  have := encSrc_lt a
  refine encodingOf (s := .tg) (w := encR 3 (0) (encSrc a) (0) (0) (0) (0)) (x := none) (r := .none) rfl rfl rfl rfl encR_lt (fun wf => ?_) (fun n wf hl => ?_) (Or.inl rfl)
  · have hc : encR 3 (0) (encSrc a) (0) (0) (0) (0) / 67108864 = 3 := encR_code 
    have hf : RFields.of (encR 3 (0) (encSrc a) (0) (0) (0) (0)) = _ := encR_fields 
    simp only [decSlot]; unfold decTG; rw [hc]
    show some _ = some _
    simp (disch := omega) [dec_wback, hf]
  · exact absurd rfl n
theorem Encoding.pin (d : Fin 48) (a : Src) : Encoding.Statement (.pin d a) := by
  have := d.isLt; have := encSrc_lt a
  refine encodingOf (s := .tg) (w := encR 4 (d.val) (encSrc a) (0) (0) (0) (0)) (x := none) (r := .none) rfl rfl rfl rfl encR_lt (fun wf => ?_) (fun n wf hl => ?_) (Or.inl rfl)
  · have hc : encR 4 (d.val) (encSrc a) (0) (0) (0) (0) / 67108864 = 4 := encR_code 
    have hf : RFields.of (encR 4 (d.val) (encSrc a) (0) (0) (0) (0)) = _ := encR_fields 
    simp only [decSlot]; unfold decTG; rw [hc]
    show some _ = some _
    simp (disch := omega) [dec_pin, hf]
  · exact absurd rfl n
theorem Encoding.unpin (a : Src) : Encoding.Statement (.unpin a) := by
  have := encSrc_lt a
  refine encodingOf (s := .tg) (w := encR 5 (0) (encSrc a) (0) (0) (0) (0)) (x := none) (r := .none) rfl rfl rfl rfl encR_lt (fun wf => ?_) (fun n wf hl => ?_) (Or.inl rfl)
  · have hc : encR 5 (0) (encSrc a) (0) (0) (0) (0) / 67108864 = 5 := encR_code 
    have hf : RFields.of (encR 5 (0) (encSrc a) (0) (0) (0) (0)) = _ := encR_fields 
    simp only [decSlot]; unfold decTG; rw [hc]
    show some _ = some _
    simp (disch := omega) [dec_unpin, hf]
  · exact absurd rfl n
theorem Encoding.tginv (a : Src) : Encoding.Statement (.tginv a) := by
  have := encSrc_lt a
  refine encodingOf (s := .tg) (w := encR 6 (0) (encSrc a) (0) (0) (0) (0)) (x := none) (r := .none) rfl rfl rfl rfl encR_lt (fun wf => ?_) (fun n wf hl => ?_) (Or.inl rfl)
  · have hc : encR 6 (0) (encSrc a) (0) (0) (0) (0) / 67108864 = 6 := encR_code 
    have hf : RFields.of (encR 6 (0) (encSrc a) (0) (0) (0) (0)) = _ := encR_fields 
    simp only [decSlot]; unfold decTG; rw [hc]
    show some _ = some _
    simp (disch := omega) [dec_tginv, hf]
  · exact absurd rfl n
theorem Encoding.tgstat (d : Fin 48) (a : Src) : Encoding.Statement (.tgstat d a) := by
  have := d.isLt; have := encSrc_lt a
  refine encodingOf (s := .tg) (w := encR 7 (d.val) (encSrc a) (0) (0) (0) (0)) (x := none) (r := .none) rfl rfl rfl rfl encR_lt (fun wf => ?_) (fun n wf hl => ?_) (Or.inl rfl)
  · have hc : encR 7 (d.val) (encSrc a) (0) (0) (0) (0) / 67108864 = 7 := encR_code 
    have hf : RFields.of (encR 7 (d.val) (encSrc a) (0) (0) (0) (0)) = _ := encR_fields 
    simp only [decSlot]; unfold decTG; rw [hc]
    show some _ = some _
    simp (disch := omega) [dec_tgstat, hf]
  · exact absurd rfl n
theorem Encoding.cpy (d : Dst) (a : Src) (eh : Fin 4) (carry : Bool) (sw : Bool) : Encoding.Statement (.cpy d a eh carry sw) := by
  have := encDst_lt d; have := nwDst_lt d; have := encSrc_lt a; have := eh.isLt; have := encBool_lt carry; have := encBool_lt sw
  refine encodingOf (s := .en) (w := encR 0 (encDst d) (encSrc a) (eh.val) (8 * encBool carry + 1 * encBool sw) (nwDst d) (0)) (x := none) (r := .none) rfl rfl rfl rfl encR_lt (fun wf => ?_) (fun n wf hl => ?_) (Or.inl rfl)
  · have hc : encR 0 (encDst d) (encSrc a) (eh.val) (8 * encBool carry + 1 * encBool sw) (nwDst d) (0) / 67108864 = 0 := encR_code 
    have hf : RFields.of (encR 0 (encDst d) (encSrc a) (eh.val) (8 * encBool carry + 1 * encBool sw) (nwDst d) (0)) = _ := encR_fields 
    simp only [decSlot]; unfold decEN; rw [hc]
    show some _ = some _
    simp only [dec_cpy, hf]; cases carry <;> cases sw <;> simp (disch := omega) [encBool, fieldLow, fieldHigh, fieldLow2, fieldHigh2, Nat.mod_eq_of_lt]
  · exact absurd rfl n
theorem Encoding.cwait (d : Dst) (a : Src) (b : Src) : Encoding.Statement (.cwait d a b) := by
  have := encDst_lt d; have := nwDst_lt d; have := encSrc_lt a; have := encSrc_lt b
  refine encodingOf (s := .en) (w := encR 1 (encDst d) (encSrc a) (encSrc b) (0) (nwDst d) (0)) (x := none) (r := .none) rfl rfl rfl rfl encR_lt (fun wf => ?_) (fun n wf hl => ?_) (Or.inl rfl)
  · have hc : encR 1 (encDst d) (encSrc a) (encSrc b) (0) (nwDst d) (0) / 67108864 = 1 := encR_code 
    have hf : RFields.of (encR 1 (encDst d) (encSrc a) (encSrc b) (0) (nwDst d) (0)) = _ := encR_fields 
    simp only [decSlot]; unfold decEN; rw [hc]
    show some _ = some _
    simp (disch := omega) [dec_cwait, hf]
  · exact absurd rfl n
theorem Encoding.ctest (d : Dst) (a : Src) (b : Src) : Encoding.Statement (.ctest d a b) := by
  have := encDst_lt d; have := nwDst_lt d; have := encSrc_lt a; have := encSrc_lt b
  refine encodingOf (s := .en) (w := encR 2 (encDst d) (encSrc a) (encSrc b) (0) (nwDst d) (0)) (x := none) (r := .none) rfl rfl rfl rfl encR_lt (fun wf => ?_) (fun n wf hl => ?_) (Or.inl rfl)
  · have hc : encR 2 (encDst d) (encSrc a) (encSrc b) (0) (nwDst d) (0) / 67108864 = 2 := encR_code 
    have hf : RFields.of (encR 2 (encDst d) (encSrc a) (encSrc b) (0) (nwDst d) (0)) = _ := encR_fields 
    simp only [decSlot]; unfold decEN; rw [hc]
    show some _ = some _
    simp (disch := omega) [dec_ctest, hf]
  · exact absurd rfl n
theorem Encoding.ccancel (a : Src) : Encoding.Statement (.ccancel a) := by
  have := encSrc_lt a
  refine encodingOf (s := .en) (w := encR 3 (0) (encSrc a) (0) (0) (0) (0)) (x := none) (r := .none) rfl rfl rfl rfl encR_lt (fun wf => ?_) (fun n wf hl => ?_) (Or.inl rfl)
  · have hc : encR 3 (0) (encSrc a) (0) (0) (0) (0) / 67108864 = 3 := encR_code 
    have hf : RFields.of (encR 3 (0) (encSrc a) (0) (0) (0) (0)) = _ := encR_fields 
    simp only [decSlot]; unfold decEN; rw [hc]
    show some _ = some _
    simp (disch := omega) [dec_ccancel, hf]
  · exact absurd rfl n
theorem Encoding.rput (a : Src) (carry : Bool) : Encoding.Statement (.rput a carry) := by
  have := encSrc_lt a; have := encBool_lt carry
  refine encodingOf (s := .en) (w := encR 4 (0) (encSrc a) (0) (8 * encBool carry) (0) (0)) (x := none) (r := .none) rfl rfl rfl rfl encR_lt (fun wf => ?_) (fun n wf hl => ?_) (Or.inl rfl)
  · have hc : encR 4 (0) (encSrc a) (0) (8 * encBool carry) (0) (0) / 67108864 = 4 := encR_code 
    have hf : RFields.of (encR 4 (0) (encSrc a) (0) (8 * encBool carry) (0) (0)) = _ := encR_fields 
    simp only [decSlot]; unfold decEN; rw [hc]
    show some _ = some _
    simp only [dec_rput, hf]; cases carry <;> simp (disch := omega) [encBool, fieldLow, fieldHigh, fieldLow2, fieldHigh2, Nat.mod_eq_of_lt]
  · exact absurd rfl n
theorem Encoding.rflag (a : Src) (b : EnB) (carry : Bool) (ord : Bool) : Encoding.Statement (.rflag a b carry ord) := by
  have := encSrc_lt a; have := encEnB_lt b; have := encBool_lt carry; have := encBool_lt ord
  refine encodingOf (s := .en) (w := encR 5 (0) (encSrc a) (encEnB b) (8 * encBool carry + 2 * encBool ord) (0) (0)) (x := b.ext) (r := .none) rfl rfl rfl rfl encR_lt (fun wf => ?_) (fun n wf hl => ?_) (Or.inl rfl)
  · have hc : encR 5 (0) (encSrc a) (encEnB b) (8 * encBool carry + 2 * encBool ord) (0) (0) / 67108864 = 5 := encR_code 
    have hf : RFields.of (encR 5 (0) (encSrc a) (encEnB b) (8 * encBool carry + 2 * encBool ord) (0) (0)) = _ := encR_fields 
    simp only [decSlot]; unfold decEN; rw [hc]
    show some _ = some _
    simp only [dec_rflag, hf]; cases carry <;> cases ord <;> simp (disch := omega) [encBool, fieldLow, fieldHigh, fieldLow2, fieldHigh2, Nat.mod_eq_of_lt]
  · simp (disch := omega) [takesImm, BitVec.toNat_ofNat, Nat.mod_eq_of_lt hl, encR_code]
theorem Encoding.rfence : Encoding.Statement (.rfence) := by
  refine encodingOf (s := .en) (w := encR 6 (0) (0) (0) (0) (0) (0)) (x := none) (r := .none) rfl rfl rfl rfl encR_lt (fun wf => ?_) (fun n wf hl => ?_) (Or.inl rfl)
  · have hc : encR 6 (0) (0) (0) (0) (0) (0) / 67108864 = 6 := encR_code 
    have hf : RFields.of (encR 6 (0) (0) (0) (0) (0) (0)) = _ := encR_fields 
    simp only [decSlot]; unfold decEN; rw [hc]
    show some _ = some _
    simp (disch := omega) [dec_rfence, hf]
  · exact absurd rfl n
theorem Encoding.halo (d : Dst) (eh : Fin 4) (carry : Bool) (sw : Bool) : Encoding.Statement (.halo d eh carry sw) := by
  have := encDst_lt d; have := nwDst_lt d; have := eh.isLt; have := encBool_lt carry; have := encBool_lt sw
  refine encodingOf (s := .en) (w := encR 7 (encDst d) (0) (eh.val) (8 * encBool carry + 1 * encBool sw) (nwDst d) (0)) (x := none) (r := .none) rfl rfl rfl rfl encR_lt (fun wf => ?_) (fun n wf hl => ?_) (Or.inl rfl)
  · have hc : encR 7 (encDst d) (0) (eh.val) (8 * encBool carry + 1 * encBool sw) (nwDst d) (0) / 67108864 = 7 := encR_code 
    have hf : RFields.of (encR 7 (encDst d) (0) (eh.val) (8 * encBool carry + 1 * encBool sw) (nwDst d) (0)) = _ := encR_fields 
    simp only [decSlot]; unfold decEN; rw [hc]
    show some _ = some _
    simp only [dec_halo, hf]; cases carry <;> cases sw <;> simp (disch := omega) [encBool, fieldLow, fieldHigh, fieldLow2, fieldHigh2, Nat.mod_eq_of_lt]
  · exact absurd rfl n
theorem Encoding.hwait (d : Dst) (a : Src) : Encoding.Statement (.hwait d a) := by
  have := encDst_lt d; have := nwDst_lt d; have := encSrc_lt a
  refine encodingOf (s := .en) (w := encR 8 (encDst d) (encSrc a) (0) (0) (nwDst d) (0)) (x := none) (r := .none) rfl rfl rfl rfl encR_lt (fun wf => ?_) (fun n wf hl => ?_) (Or.inl rfl)
  · have hc : encR 8 (encDst d) (encSrc a) (0) (0) (nwDst d) (0) / 67108864 = 8 := encR_code 
    have hf : RFields.of (encR 8 (encDst d) (encSrc a) (0) (0) (nwDst d) (0)) = _ := encR_fields 
    simp only [decSlot]; unfold decEN; rw [hc]
    show some _ = some _
    simp (disch := omega) [dec_hwait, hf]
  · exact absurd rfl n
theorem Encoding.tidw (a : Src) (b : EnB) : Encoding.Statement (.tidw a b) := by
  have := encSrc_lt a; have := encEnB_lt b
  refine encodingOf (s := .en) (w := encR 12 (0) (encSrc a) (encEnB b) (0) (0) (0)) (x := b.ext) (r := .none) rfl rfl rfl rfl encR_lt (fun wf => ?_) (fun n wf hl => ?_) (Or.inl rfl)
  · have hc : encR 12 (0) (encSrc a) (encEnB b) (0) (0) (0) / 67108864 = 12 := encR_code 
    have hf : RFields.of (encR 12 (0) (encSrc a) (encEnB b) (0) (0) (0)) = _ := encR_fields 
    simp only [decSlot]; unfold decEN; rw [hc]
    show some _ = some _
    simp (disch := omega) [dec_tidw, hf]
  · simp (disch := omega) [takesImm, BitVec.toNat_ofNat, Nat.mod_eq_of_lt hl, encR_code]
theorem Encoding.tidr (d : Dst) (a : Src) (k : Fin 8) : Encoding.Statement (.tidr d a k) := by
  have := encDst_lt d; have := nwDst_lt d; have := encSrc_lt a; have := k.isLt
  refine encodingOf (s := .en) (w := encR 13 (encDst d) (encSrc a) (k.val) (0) (nwDst d) (0)) (x := none) (r := .none) rfl rfl rfl rfl encR_lt (fun wf => ?_) (fun n wf hl => ?_) (Or.inl rfl)
  · have hc : encR 13 (encDst d) (encSrc a) (k.val) (0) (nwDst d) (0) / 67108864 = 13 := encR_code 
    have hf : RFields.of (encR 13 (encDst d) (encSrc a) (k.val) (0) (nwDst d) (0)) = _ := encR_fields 
    simp only [decSlot]; unfold decEN; rw [hc]
    show some _ = some _
    simp (disch := omega) [dec_tidr, hf]
  · exact absurd rfl n
theorem Encoding.tidinv (a : Src) : Encoding.Statement (.tidinv a) := by
  have := encSrc_lt a
  refine encodingOf (s := .en) (w := encR 14 (0) (encSrc a) (0) (0) (0) (0)) (x := none) (r := .none) rfl rfl rfl rfl encR_lt (fun wf => ?_) (fun n wf hl => ?_) (Or.inl rfl)
  · have hc : encR 14 (0) (encSrc a) (0) (0) (0) (0) / 67108864 = 14 := encR_code 
    have hf : RFields.of (encR 14 (0) (encSrc a) (0) (0) (0) (0)) = _ := encR_fields 
    simp only [decSlot]; unfold decEN; rw [hc]
    show some _ = some _
    simp (disch := omega) [dec_tidinv, hf]
  · exact absurd rfl n
theorem Encoding.layset (d : Fin 48) (a : Src) (f : Fin 3) : Encoding.Statement (.layset d a f) := by
  have := d.isLt; have := encSrc_lt a; have := f.isLt
  refine encodingOf (s := .en) (w := encR 15 (d.val) (encSrc a) (f.val) (0) (0) (0)) (x := none) (r := .none) rfl rfl rfl rfl encR_lt (fun wf => ?_) (fun n wf hl => ?_) (Or.inl rfl)
  · have hc : encR 15 (d.val) (encSrc a) (f.val) (0) (0) (0) / 67108864 = 15 := encR_code 
    have hf : RFields.of (encR 15 (d.val) (encSrc a) (f.val) (0) (0) (0)) = _ := encR_fields 
    simp only [decSlot]; unfold decEN; rw [hc]
    show some _ = some _
    simp (disch := omega) [dec_layset, hf]
  · exact absurd rfl n
theorem Encoding.coll (d : Fin 48) (a : Src) (b : EnB) (carry : Bool) : Encoding.Statement (.coll d a b carry) := by
  have := d.isLt; have := encSrc_lt a; have := encEnB_lt b; have := encBool_lt carry
  refine encodingOf (s := .en) (w := encR 16 (d.val) (encSrc a) (encEnB b) (8 * encBool carry) (0) (0)) (x := b.ext) (r := .none) rfl rfl rfl rfl encR_lt (fun wf => ?_) (fun n wf hl => ?_) (Or.inl rfl)
  · have hc : encR 16 (d.val) (encSrc a) (encEnB b) (8 * encBool carry) (0) (0) / 67108864 = 16 := encR_code 
    have hf : RFields.of (encR 16 (d.val) (encSrc a) (encEnB b) (8 * encBool carry) (0) (0)) = _ := encR_fields 
    simp only [decSlot]; unfold decEN; rw [hc]
    show some _ = some _
    simp only [dec_coll, hf]; cases carry <;> simp (disch := omega) [encBool, fieldLow, fieldHigh, fieldLow2, fieldHigh2, Nat.mod_eq_of_lt]
  · simp (disch := omega) [takesImm, BitVec.toNat_ofNat, Nat.mod_eq_of_lt hl, encR_code]
theorem Encoding.clwait (d : Fin 48) (a : Src) (b : EnB) : Encoding.Statement (.clwait d a b) := by
  have := d.isLt; have := encSrc_lt a; have := encEnB_lt b
  refine encodingOf (s := .en) (w := encR 17 (d.val) (encSrc a) (encEnB b) (0) (0) (0)) (x := b.ext) (r := .none) rfl rfl rfl rfl encR_lt (fun wf => ?_) (fun n wf hl => ?_) (Or.inl rfl)
  · have hc : encR 17 (d.val) (encSrc a) (encEnB b) (0) (0) (0) / 67108864 = 17 := encR_code 
    have hf : RFields.of (encR 17 (d.val) (encSrc a) (encEnB b) (0) (0) (0)) = _ := encR_fields 
    simp only [decSlot]; unfold decEN; rw [hc]
    show some _ = some _
    simp (disch := omega) [dec_clwait, hf]
  · simp (disch := omega) [takesImm, BitVec.toNat_ofNat, Nat.mod_eq_of_lt hl, encR_code]
theorem Encoding.reshard (d : Fin 48) (a : Src) (b : EnB) (carry : Bool) : Encoding.Statement (.reshard d a b carry) := by
  have := d.isLt; have := encSrc_lt a; have := encEnB_lt b; have := encBool_lt carry
  refine encodingOf (s := .en) (w := encR 18 (d.val) (encSrc a) (encEnB b) (8 * encBool carry) (0) (0)) (x := b.ext) (r := .none) rfl rfl rfl rfl encR_lt (fun wf => ?_) (fun n wf hl => ?_) (Or.inl rfl)
  · have hc : encR 18 (d.val) (encSrc a) (encEnB b) (8 * encBool carry) (0) (0) / 67108864 = 18 := encR_code 
    have hf : RFields.of (encR 18 (d.val) (encSrc a) (encEnB b) (8 * encBool carry) (0) (0)) = _ := encR_fields 
    simp only [decSlot]; unfold decEN; rw [hc]
    show some _ = some _
    simp only [dec_reshard, hf]; cases carry <;> simp (disch := omega) [encBool, fieldLow, fieldHigh, fieldLow2, fieldHigh2, Nat.mod_eq_of_lt]
  · simp (disch := omega) [takesImm, BitVec.toNat_ofNat, Nat.mod_eq_of_lt hl, encR_code]
theorem Encoding.gathj (d : Fin 48) (a : Src) (b : EnB) (carry : Bool) : Encoding.Statement (.gathj d a b carry) := by
  have := d.isLt; have := encSrc_lt a; have := encEnB_lt b; have := encBool_lt carry
  refine encodingOf (s := .en) (w := encR 19 (d.val) (encSrc a) (encEnB b) (8 * encBool carry) (0) (0)) (x := b.ext) (r := .none) rfl rfl rfl rfl encR_lt (fun wf => ?_) (fun n wf hl => ?_) (Or.inl rfl)
  · have hc : encR 19 (d.val) (encSrc a) (encEnB b) (8 * encBool carry) (0) (0) / 67108864 = 19 := encR_code 
    have hf : RFields.of (encR 19 (d.val) (encSrc a) (encEnB b) (8 * encBool carry) (0) (0)) = _ := encR_fields 
    simp only [decSlot]; unfold decEN; rw [hc]
    show some _ = some _
    simp only [dec_gathj, hf]; cases carry <;> simp (disch := omega) [encBool, fieldLow, fieldHigh, fieldLow2, fieldHigh2, Nat.mod_eq_of_lt]
  · simp (disch := omega) [takesImm, BitVec.toNat_ofNat, Nat.mod_eq_of_lt hl, encR_code]
theorem Encoding.aadd (d : Dst) (a : Src) (b : EnB) (sc : Bool) (scope : Fin 4) : Encoding.Statement (.aadd d a b sc scope) := by
  have := encDst_lt d; have := nwDst_lt d; have := encSrc_lt a; have := encEnB_lt b; have := encBool_lt sc; have := scope.isLt
  refine encodingOf (s := .en) (w := encR 24 (encDst d) (encSrc a) (encEnB b) (4 * encBool sc) (nwDst d) (scope.val)) (x := b.ext) (r := .none) rfl rfl rfl rfl encR_lt (fun wf => ?_) (fun n wf hl => ?_) (Or.inl rfl)
  · have hc : encR 24 (encDst d) (encSrc a) (encEnB b) (4 * encBool sc) (nwDst d) (scope.val) / 67108864 = 24 := encR_code 
    have hf : RFields.of (encR 24 (encDst d) (encSrc a) (encEnB b) (4 * encBool sc) (nwDst d) (scope.val)) = _ := encR_fields 
    simp only [decSlot]; unfold decEN; rw [hc]
    show some _ = some _
    simp only [dec_aadd, hf]; cases sc <;> simp (disch := omega) [encBool, fieldLow, fieldHigh, fieldLow2, fieldHigh2, Nat.mod_eq_of_lt]
  · simp (disch := omega) [takesImm, BitVec.toNat_ofNat, Nat.mod_eq_of_lt hl, encR_code]
theorem Encoding.amin (d : Dst) (a : Src) (b : EnB) (sc : Bool) (scope : Fin 4) : Encoding.Statement (.amin d a b sc scope) := by
  have := encDst_lt d; have := nwDst_lt d; have := encSrc_lt a; have := encEnB_lt b; have := encBool_lt sc; have := scope.isLt
  refine encodingOf (s := .en) (w := encR 25 (encDst d) (encSrc a) (encEnB b) (4 * encBool sc) (nwDst d) (scope.val)) (x := b.ext) (r := .none) rfl rfl rfl rfl encR_lt (fun wf => ?_) (fun n wf hl => ?_) (Or.inl rfl)
  · have hc : encR 25 (encDst d) (encSrc a) (encEnB b) (4 * encBool sc) (nwDst d) (scope.val) / 67108864 = 25 := encR_code 
    have hf : RFields.of (encR 25 (encDst d) (encSrc a) (encEnB b) (4 * encBool sc) (nwDst d) (scope.val)) = _ := encR_fields 
    simp only [decSlot]; unfold decEN; rw [hc]
    show some _ = some _
    simp only [dec_amin, hf]; cases sc <;> simp (disch := omega) [encBool, fieldLow, fieldHigh, fieldLow2, fieldHigh2, Nat.mod_eq_of_lt]
  · simp (disch := omega) [takesImm, BitVec.toNat_ofNat, Nat.mod_eq_of_lt hl, encR_code]
theorem Encoding.amax (d : Dst) (a : Src) (b : EnB) (sc : Bool) (scope : Fin 4) : Encoding.Statement (.amax d a b sc scope) := by
  have := encDst_lt d; have := nwDst_lt d; have := encSrc_lt a; have := encEnB_lt b; have := encBool_lt sc; have := scope.isLt
  refine encodingOf (s := .en) (w := encR 26 (encDst d) (encSrc a) (encEnB b) (4 * encBool sc) (nwDst d) (scope.val)) (x := b.ext) (r := .none) rfl rfl rfl rfl encR_lt (fun wf => ?_) (fun n wf hl => ?_) (Or.inl rfl)
  · have hc : encR 26 (encDst d) (encSrc a) (encEnB b) (4 * encBool sc) (nwDst d) (scope.val) / 67108864 = 26 := encR_code 
    have hf : RFields.of (encR 26 (encDst d) (encSrc a) (encEnB b) (4 * encBool sc) (nwDst d) (scope.val)) = _ := encR_fields 
    simp only [decSlot]; unfold decEN; rw [hc]
    show some _ = some _
    simp only [dec_amax, hf]; cases sc <;> simp (disch := omega) [encBool, fieldLow, fieldHigh, fieldLow2, fieldHigh2, Nat.mod_eq_of_lt]
  · simp (disch := omega) [takesImm, BitVec.toNat_ofNat, Nat.mod_eq_of_lt hl, encR_code]
theorem Encoding.aand (d : Dst) (a : Src) (b : EnB) (sc : Bool) (scope : Fin 4) : Encoding.Statement (.aand d a b sc scope) := by
  have := encDst_lt d; have := nwDst_lt d; have := encSrc_lt a; have := encEnB_lt b; have := encBool_lt sc; have := scope.isLt
  refine encodingOf (s := .en) (w := encR 27 (encDst d) (encSrc a) (encEnB b) (4 * encBool sc) (nwDst d) (scope.val)) (x := b.ext) (r := .none) rfl rfl rfl rfl encR_lt (fun wf => ?_) (fun n wf hl => ?_) (Or.inl rfl)
  · have hc : encR 27 (encDst d) (encSrc a) (encEnB b) (4 * encBool sc) (nwDst d) (scope.val) / 67108864 = 27 := encR_code 
    have hf : RFields.of (encR 27 (encDst d) (encSrc a) (encEnB b) (4 * encBool sc) (nwDst d) (scope.val)) = _ := encR_fields 
    simp only [decSlot]; unfold decEN; rw [hc]
    show some _ = some _
    simp only [dec_aand, hf]; cases sc <;> simp (disch := omega) [encBool, fieldLow, fieldHigh, fieldLow2, fieldHigh2, Nat.mod_eq_of_lt]
  · simp (disch := omega) [takesImm, BitVec.toNat_ofNat, Nat.mod_eq_of_lt hl, encR_code]
theorem Encoding.aor (d : Dst) (a : Src) (b : EnB) (sc : Bool) (scope : Fin 4) : Encoding.Statement (.aor d a b sc scope) := by
  have := encDst_lt d; have := nwDst_lt d; have := encSrc_lt a; have := encEnB_lt b; have := encBool_lt sc; have := scope.isLt
  refine encodingOf (s := .en) (w := encR 28 (encDst d) (encSrc a) (encEnB b) (4 * encBool sc) (nwDst d) (scope.val)) (x := b.ext) (r := .none) rfl rfl rfl rfl encR_lt (fun wf => ?_) (fun n wf hl => ?_) (Or.inl rfl)
  · have hc : encR 28 (encDst d) (encSrc a) (encEnB b) (4 * encBool sc) (nwDst d) (scope.val) / 67108864 = 28 := encR_code 
    have hf : RFields.of (encR 28 (encDst d) (encSrc a) (encEnB b) (4 * encBool sc) (nwDst d) (scope.val)) = _ := encR_fields 
    simp only [decSlot]; unfold decEN; rw [hc]
    show some _ = some _
    simp only [dec_aor, hf]; cases sc <;> simp (disch := omega) [encBool, fieldLow, fieldHigh, fieldLow2, fieldHigh2, Nat.mod_eq_of_lt]
  · simp (disch := omega) [takesImm, BitVec.toNat_ofNat, Nat.mod_eq_of_lt hl, encR_code]
theorem Encoding.axor (d : Dst) (a : Src) (b : EnB) (sc : Bool) (scope : Fin 4) : Encoding.Statement (.axor d a b sc scope) := by
  have := encDst_lt d; have := nwDst_lt d; have := encSrc_lt a; have := encEnB_lt b; have := encBool_lt sc; have := scope.isLt
  refine encodingOf (s := .en) (w := encR 29 (encDst d) (encSrc a) (encEnB b) (4 * encBool sc) (nwDst d) (scope.val)) (x := b.ext) (r := .none) rfl rfl rfl rfl encR_lt (fun wf => ?_) (fun n wf hl => ?_) (Or.inl rfl)
  · have hc : encR 29 (encDst d) (encSrc a) (encEnB b) (4 * encBool sc) (nwDst d) (scope.val) / 67108864 = 29 := encR_code 
    have hf : RFields.of (encR 29 (encDst d) (encSrc a) (encEnB b) (4 * encBool sc) (nwDst d) (scope.val)) = _ := encR_fields 
    simp only [decSlot]; unfold decEN; rw [hc]
    show some _ = some _
    simp only [dec_axor, hf]; cases sc <;> simp (disch := omega) [encBool, fieldLow, fieldHigh, fieldLow2, fieldHigh2, Nat.mod_eq_of_lt]
  · simp (disch := omega) [takesImm, BitVec.toNat_ofNat, Nat.mod_eq_of_lt hl, encR_code]
theorem Encoding.aswp (d : Dst) (a : Src) (b : EnB) (sc : Bool) (scope : Fin 4) : Encoding.Statement (.aswp d a b sc scope) := by
  have := encDst_lt d; have := nwDst_lt d; have := encSrc_lt a; have := encEnB_lt b; have := encBool_lt sc; have := scope.isLt
  refine encodingOf (s := .en) (w := encR 30 (encDst d) (encSrc a) (encEnB b) (4 * encBool sc) (nwDst d) (scope.val)) (x := b.ext) (r := .none) rfl rfl rfl rfl encR_lt (fun wf => ?_) (fun n wf hl => ?_) (Or.inl rfl)
  · have hc : encR 30 (encDst d) (encSrc a) (encEnB b) (4 * encBool sc) (nwDst d) (scope.val) / 67108864 = 30 := encR_code 
    have hf : RFields.of (encR 30 (encDst d) (encSrc a) (encEnB b) (4 * encBool sc) (nwDst d) (scope.val)) = _ := encR_fields 
    simp only [decSlot]; unfold decEN; rw [hc]
    show some _ = some _
    simp only [dec_aswp, hf]; cases sc <;> simp (disch := omega) [encBool, fieldLow, fieldHigh, fieldLow2, fieldHigh2, Nat.mod_eq_of_lt]
  · simp (disch := omega) [takesImm, BitVec.toNat_ofNat, Nat.mod_eq_of_lt hl, encR_code]
theorem Encoding.acas (d : Dst) (a : Src) (b : EnB) (sc : Bool) (scope : Fin 4) : Encoding.Statement (.acas d a b sc scope) := by
  have := encDst_lt d; have := nwDst_lt d; have := encSrc_lt a; have := encEnB_lt b; have := encBool_lt sc; have := scope.isLt
  refine encodingOf (s := .en) (w := encR 31 (encDst d) (encSrc a) (encEnB b) (4 * encBool sc) (nwDst d) (scope.val)) (x := b.ext) (r := .none) rfl rfl rfl rfl encR_lt (fun wf => ?_) (fun n wf hl => ?_) (Or.inl rfl)
  · have hc : encR 31 (encDst d) (encSrc a) (encEnB b) (4 * encBool sc) (nwDst d) (scope.val) / 67108864 = 31 := encR_code 
    have hf : RFields.of (encR 31 (encDst d) (encSrc a) (encEnB b) (4 * encBool sc) (nwDst d) (scope.val)) = _ := encR_fields 
    simp only [decSlot]; unfold decEN; rw [hc]
    show some _ = some _
    simp only [dec_acas, hf]; cases sc <;> simp (disch := omega) [encBool, fieldLow, fieldHigh, fieldLow2, fieldHigh2, Nat.mod_eq_of_lt]
  · simp (disch := omega) [takesImm, BitVec.toNat_ofNat, Nat.mod_eq_of_lt hl, encR_code]
theorem Encoding.ared (a : Src) (b : EnB) (scope : Fin 4) : Encoding.Statement (.ared a b scope) := by
  have := encSrc_lt a; have := encEnB_lt b; have := scope.isLt
  refine encodingOf (s := .en) (w := encR 32 (0) (encSrc a) (encEnB b) (0) (0) (scope.val)) (x := b.ext) (r := .none) rfl rfl rfl rfl encR_lt (fun wf => ?_) (fun n wf hl => ?_) (Or.inl rfl)
  · have hc : encR 32 (0) (encSrc a) (encEnB b) (0) (0) (scope.val) / 67108864 = 32 := encR_code 
    have hf : RFields.of (encR 32 (0) (encSrc a) (encEnB b) (0) (0) (scope.val)) = _ := encR_fields 
    simp only [decSlot]; unfold decEN; rw [hc]
    show some _ = some _
    simp (disch := omega) [dec_ared, hf]
  · simp (disch := omega) [takesImm, BitVec.toNat_ofNat, Nat.mod_eq_of_lt hl, encR_code]
theorem Encoding.alock (d : Dst) (a : Src) (sc : Bool) (scope : Fin 4) : Encoding.Statement (.alock d a sc scope) := by
  have := encDst_lt d; have := nwDst_lt d; have := encSrc_lt a; have := encBool_lt sc; have := scope.isLt
  refine encodingOf (s := .en) (w := encR 33 (encDst d) (encSrc a) (0) (4 * encBool sc) (nwDst d) (scope.val)) (x := none) (r := .none) rfl rfl rfl rfl encR_lt (fun wf => ?_) (fun n wf hl => ?_) (Or.inl rfl)
  · have hc : encR 33 (encDst d) (encSrc a) (0) (4 * encBool sc) (nwDst d) (scope.val) / 67108864 = 33 := encR_code 
    have hf : RFields.of (encR 33 (encDst d) (encSrc a) (0) (4 * encBool sc) (nwDst d) (scope.val)) = _ := encR_fields 
    simp only [decSlot]; unfold decEN; rw [hc]
    show some _ = some _
    simp only [dec_alock, hf]; cases sc <;> simp (disch := omega) [encBool, fieldLow, fieldHigh, fieldLow2, fieldHigh2, Nat.mod_eq_of_lt]
  · exact absurd rfl n
theorem Encoding.aunlk (a : Src) (sc : Bool) (scope : Fin 4) : Encoding.Statement (.aunlk a sc scope) := by
  have := encSrc_lt a; have := encBool_lt sc; have := scope.isLt
  refine encodingOf (s := .en) (w := encR 34 (0) (encSrc a) (0) (4 * encBool sc) (0) (scope.val)) (x := none) (r := .none) rfl rfl rfl rfl encR_lt (fun wf => ?_) (fun n wf hl => ?_) (Or.inl rfl)
  · have hc : encR 34 (0) (encSrc a) (0) (4 * encBool sc) (0) (scope.val) / 67108864 = 34 := encR_code 
    have hf : RFields.of (encR 34 (0) (encSrc a) (0) (4 * encBool sc) (0) (scope.val)) = _ := encR_fields 
    simp only [decSlot]; unfold decEN; rw [hc]
    show some _ = some _
    simp only [dec_aunlk, hf]; cases sc <;> simp (disch := omega) [encBool, fieldLow, fieldHigh, fieldLow2, fieldHigh2, Nat.mod_eq_of_lt]
  · exact absurd rfl n
theorem Encoding.barc (d : Dst) (a : Src) (b : EnB) (scope : Fin 4) : Encoding.Statement (.barc d a b scope) := by
  have := encDst_lt d; have := nwDst_lt d; have := encSrc_lt a; have := encEnB_lt b; have := scope.isLt
  refine encodingOf (s := .en) (w := encR 35 (encDst d) (encSrc a) (encEnB b) (0) (nwDst d) (scope.val)) (x := b.ext) (r := .none) rfl rfl rfl rfl encR_lt (fun wf => ?_) (fun n wf hl => ?_) (Or.inl rfl)
  · have hc : encR 35 (encDst d) (encSrc a) (encEnB b) (0) (nwDst d) (scope.val) / 67108864 = 35 := encR_code 
    have hf : RFields.of (encR 35 (encDst d) (encSrc a) (encEnB b) (0) (nwDst d) (scope.val)) = _ := encR_fields 
    simp only [decSlot]; unfold decEN; rw [hc]
    show some _ = some _
    simp (disch := omega) [dec_barc, hf]
  · simp (disch := omega) [takesImm, BitVec.toNat_ofNat, Nat.mod_eq_of_lt hl, encR_code]
theorem Encoding.barw (d : Dst) (a : Src) (b : EnB) (scope : Fin 4) : Encoding.Statement (.barw d a b scope) := by
  have := encDst_lt d; have := nwDst_lt d; have := encSrc_lt a; have := encEnB_lt b; have := scope.isLt
  refine encodingOf (s := .en) (w := encR 36 (encDst d) (encSrc a) (encEnB b) (0) (nwDst d) (scope.val)) (x := b.ext) (r := .none) rfl rfl rfl rfl encR_lt (fun wf => ?_) (fun n wf hl => ?_) (Or.inl rfl)
  · have hc : encR 36 (encDst d) (encSrc a) (encEnB b) (0) (nwDst d) (scope.val) / 67108864 = 36 := encR_code 
    have hf : RFields.of (encR 36 (encDst d) (encSrc a) (encEnB b) (0) (nwDst d) (scope.val)) = _ := encR_fields 
    simp only [decSlot]; unfold decEN; rw [hc]
    show some _ = some _
    simp (disch := omega) [dec_barw, hf]
  · simp (disch := omega) [takesImm, BitVec.toNat_ofNat, Nat.mod_eq_of_lt hl, encR_code]
theorem Encoding.tspawn (d : Dst) (a : Src) (b : EnB) : Encoding.Statement (.tspawn d a b) := by
  have := encDst_lt d; have := nwDst_lt d; have := encSrc_lt a; have := encEnB_lt b
  refine encodingOf (s := .en) (w := encR 40 (encDst d) (encSrc a) (encEnB b) (0) (nwDst d) (0)) (x := b.ext) (r := .none) rfl rfl rfl rfl encR_lt (fun wf => ?_) (fun n wf hl => ?_) (Or.inl rfl)
  · have hc : encR 40 (encDst d) (encSrc a) (encEnB b) (0) (nwDst d) (0) / 67108864 = 40 := encR_code 
    have hf : RFields.of (encR 40 (encDst d) (encSrc a) (encEnB b) (0) (nwDst d) (0)) = _ := encR_fields 
    simp only [decSlot]; unfold decEN; rw [hc]
    show some _ = some _
    simp (disch := omega) [dec_tspawn, hf]
  · simp (disch := omega) [takesImm, BitVec.toNat_ofNat, Nat.mod_eq_of_lt hl, encR_code]
theorem Encoding.tdec (a : Src) : Encoding.Statement (.tdec a) := by
  have := encSrc_lt a
  refine encodingOf (s := .en) (w := encR 41 (0) (encSrc a) (0) (0) (0) (0)) (x := none) (r := .none) rfl rfl rfl rfl encR_lt (fun wf => ?_) (fun n wf hl => ?_) (Or.inl rfl)
  · have hc : encR 41 (0) (encSrc a) (0) (0) (0) (0) / 67108864 = 41 := encR_code 
    have hf : RFields.of (encR 41 (0) (encSrc a) (0) (0) (0) (0)) = _ := encR_fields 
    simp only [decSlot]; unfold decEN; rw [hc]
    show some _ = some _
    simp (disch := omega) [dec_tdec, hf]
  · exact absurd rfl n
theorem Encoding.tdone : Encoding.Statement (.tdone) := by
  refine encodingOf (s := .en) (w := encR 42 (0) (0) (0) (0) (0) (0)) (x := none) (r := .none) rfl rfl rfl rfl encR_lt (fun wf => ?_) (fun n wf hl => ?_) (Or.inl rfl)
  · have hc : encR 42 (0) (0) (0) (0) (0) (0) / 67108864 = 42 := encR_code 
    have hf : RFields.of (encR 42 (0) (0) (0) (0) (0) (0)) = _ := encR_fields 
    simp only [decSlot]; unfold decEN; rw [hc]
    show some _ = some _
    simp (disch := omega) [dec_tdone, hf]
  · exact absurd rfl n
theorem Encoding.qpop (d : Dst) (a : Src) : Encoding.Statement (.qpop d a) := by
  have := encDst_lt d; have := nwDst_lt d; have := encSrc_lt a
  refine encodingOf (s := .en) (w := encR 43 (encDst d) (encSrc a) (0) (0) (nwDst d) (0)) (x := none) (r := .none) rfl rfl rfl rfl encR_lt (fun wf => ?_) (fun n wf hl => ?_) (Or.inl rfl)
  · have hc : encR 43 (encDst d) (encSrc a) (0) (0) (nwDst d) (0) / 67108864 = 43 := encR_code 
    have hf : RFields.of (encR 43 (encDst d) (encSrc a) (0) (0) (nwDst d) (0)) = _ := encR_fields 
    simp only [decSlot]; unfold decEN; rw [hc]
    show some _ = some _
    simp (disch := omega) [dec_qpop, hf]
  · exact absurd rfl n
theorem Encoding.qpush (d : Dst) (a : Src) (b : EnB) : Encoding.Statement (.qpush d a b) := by
  have := encDst_lt d; have := nwDst_lt d; have := encSrc_lt a; have := encEnB_lt b
  refine encodingOf (s := .en) (w := encR 44 (encDst d) (encSrc a) (encEnB b) (0) (nwDst d) (0)) (x := b.ext) (r := .none) rfl rfl rfl rfl encR_lt (fun wf => ?_) (fun n wf hl => ?_) (Or.inl rfl)
  · have hc : encR 44 (encDst d) (encSrc a) (encEnB b) (0) (nwDst d) (0) / 67108864 = 44 := encR_code 
    have hf : RFields.of (encR 44 (encDst d) (encSrc a) (encEnB b) (0) (nwDst d) (0)) = _ := encR_fields 
    simp only [decSlot]; unfold decEN; rw [hc]
    show some _ = some _
    simp (disch := omega) [dec_qpush, hf]
  · simp (disch := omega) [takesImm, BitVec.toNat_ofNat, Nat.mod_eq_of_lt hl, encR_code]
theorem Encoding.qstat (d : Dst) (a : Src) : Encoding.Statement (.qstat d a) := by
  have := encDst_lt d; have := nwDst_lt d; have := encSrc_lt a
  refine encodingOf (s := .en) (w := encR 45 (encDst d) (encSrc a) (0) (0) (nwDst d) (0)) (x := none) (r := .none) rfl rfl rfl rfl encR_lt (fun wf => ?_) (fun n wf hl => ?_) (Or.inl rfl)
  · have hc : encR 45 (encDst d) (encSrc a) (0) (0) (nwDst d) (0) / 67108864 = 45 := encR_code 
    have hf : RFields.of (encR 45 (encDst d) (encSrc a) (0) (0) (nwDst d) (0)) = _ := encR_fields 
    simp only [decSlot]; unfold decEN; rw [hc]
    show some _ = some _
    simp (disch := omega) [dec_qstat, hf]
  · exact absurd rfl n
theorem Encoding.phend : Encoding.Statement (.phend) := by
  refine encodingOf (s := .en) (w := encR 48 (0) (0) (0) (0) (0) (0)) (x := none) (r := .none) rfl rfl rfl rfl encR_lt (fun wf => ?_) (fun n wf hl => ?_) (Or.inl rfl)
  · have hc : encR 48 (0) (0) (0) (0) (0) (0) / 67108864 = 48 := encR_code 
    have hf : RFields.of (encR 48 (0) (0) (0) (0) (0) (0)) = _ := encR_fields 
    simp only [decSlot]; unfold decEN; rw [hc]
    show some _ = some _
    simp (disch := omega) [dec_phend, hf]
  · exact absurd rfl n
theorem Encoding.rmack (a : Src) : Encoding.Statement (.rmack a) := by
  have := encSrc_lt a
  refine encodingOf (s := .en) (w := encR 49 (0) (encSrc a) (0) (0) (0) (0)) (x := none) (r := .none) rfl rfl rfl rfl encR_lt (fun wf => ?_) (fun n wf hl => ?_) (Or.inl rfl)
  · have hc : encR 49 (0) (encSrc a) (0) (0) (0) (0) / 67108864 = 49 := encR_code 
    have hf : RFields.of (encR 49 (0) (encSrc a) (0) (0) (0) (0)) = _ := encR_fields 
    simp only [decSlot]; unfold decEN; rw [hc]
    show some _ = some _
    simp (disch := omega) [dec_rmack, hf]
  · exact absurd rfl n
theorem Encoding.drain (scope : Fin 4) : Encoding.Statement (.drain scope) := by
  have := scope.isLt
  refine encodingOf (s := .en) (w := encR 50 (0) (0) (0) (0) (0) (scope.val)) (x := none) (r := .none) rfl rfl rfl rfl encR_lt (fun wf => ?_) (fun n wf hl => ?_) (Or.inl rfl)
  · have hc : encR 50 (0) (0) (0) (0) (0) (scope.val) / 67108864 = 50 := encR_code 
    have hf : RFields.of (encR 50 (0) (0) (0) (0) (0) (scope.val)) = _ := encR_fields 
    simp only [decSlot]; unfold decEN; rw [hc]
    show some _ = some _
    simp (disch := omega) [dec_drain, hf]
  · exact absurd rfl n
theorem Encoding.xfence (f : Fin 8) (t : Fin 8) : Encoding.Statement (.xfence f t) := by
  have := f.isLt; have := t.isLt
  refine encodingOf (s := .en) (w := encR 51 (0) (f.val) (t.val) (0) (0) (0)) (x := none) (r := .none) rfl rfl rfl rfl encR_lt (fun wf => ?_) (fun n wf hl => ?_) (Or.inl rfl)
  · have hc : encR 51 (0) (f.val) (t.val) (0) (0) (0) / 67108864 = 51 := encR_code 
    have hf : RFields.of (encR 51 (0) (f.val) (t.val) (0) (0) (0)) = _ := encR_fields 
    simp only [decSlot]; unfold decEN; rw [hc]
    show some _ = some _
    simp (disch := omega) [dec_xfence, hf]
  · exact absurd rfl n
theorem Encoding.trap (a : Src) (n : Fin 64) : Encoding.Statement (.trap a n) := by
  have := encSrc_lt a; have := n.isLt
  refine encodingOf (s := .en) (w := encR 52 (0) (encSrc a) (n.val) (0) (0) (0)) (x := none) (r := .none) rfl rfl rfl rfl encR_lt (fun wf => ?_) (fun n wf hl => ?_) (Or.inl rfl)
  · have hc : encR 52 (0) (encSrc a) (n.val) (0) (0) (0) / 67108864 = 52 := encR_code 
    have hf : RFields.of (encR 52 (0) (encSrc a) (n.val) (0) (0) (0)) = _ := encR_fields 
    simp only [decSlot]; unfold decEN; rw [hc]
    show some _ = some _
    simp (disch := omega) [dec_trap, hf]
  · exact absurd rfl n
theorem Encoding.xret (act : Fin 3) : Encoding.Statement (.xret act) := by
  have := act.isLt
  refine encodingOf (s := .en) (w := encR 53 (0) (0) (act.val) (0) (0) (0)) (x := none) (r := .none) rfl rfl rfl rfl encR_lt (fun wf => ?_) (fun n wf hl => ?_) (Or.inl rfl)
  · have hc : encR 53 (0) (0) (act.val) (0) (0) (0) / 67108864 = 53 := encR_code 
    have hf : RFields.of (encR 53 (0) (0) (act.val) (0) (0) (0)) = _ := encR_fields 
    simp only [decSlot]; unfold decEN; rw [hc]
    show some _ = some _
    simp (disch := omega) [dec_xret, hf]
  · exact absurd rfl n
theorem Encoding.halt : Encoding.Statement (.halt) := by
  refine encodingOf (s := .en) (w := encR 54 (0) (0) (0) (0) (0) (0)) (x := none) (r := .none) rfl rfl rfl rfl encR_lt (fun wf => ?_) (fun n wf hl => ?_) (Or.inl rfl)
  · have hc : encR 54 (0) (0) (0) (0) (0) (0) / 67108864 = 54 := encR_code 
    have hf : RFields.of (encR 54 (0) (0) (0) (0) (0) (0)) = _ := encR_fields 
    simp only [decSlot]; unfold decEN; rw [hc]
    show some _ = some _
    simp (disch := omega) [dec_halt, hf]
  · exact absurd rfl n
theorem Encoding.bdpkt (a : Src) : Encoding.Statement (.bdpkt a) := by
  have := encSrc_lt a
  refine encodingOf (s := .en) (w := encR 62 (0) (encSrc a) (0) (0) (0) (0)) (x := none) (r := .none) rfl rfl rfl rfl encR_lt (fun wf => ?_) (fun n wf hl => ?_) (Or.inl rfl)
  · have hc : encR 62 (0) (encSrc a) (0) (0) (0) (0) / 67108864 = 62 := encR_code 
    have hf : RFields.of (encR 62 (0) (encSrc a) (0) (0) (0) (0)) = _ := encR_fields 
    simp only [decSlot]; unfold decEN; rw [hc]
    show some _ = some _
    simp (disch := omega) [dec_bdpkt, hf]
  · exact absurd rfl n
theorem Encoding.bdrsp (d : Fin 48) (a : Src) : Encoding.Statement (.bdrsp d a) := by
  have := d.isLt; have := encSrc_lt a
  refine encodingOf (s := .en) (w := encR 63 (d.val) (encSrc a) (0) (0) (0) (0)) (x := none) (r := .none) rfl rfl rfl rfl encR_lt (fun wf => ?_) (fun n wf hl => ?_) (Or.inl rfl)
  · have hc : encR 63 (d.val) (encSrc a) (0) (0) (0) (0) / 67108864 = 63 := encR_code 
    have hf : RFields.of (encR 63 (d.val) (encSrc a) (0) (0) (0) (0)) = _ := encR_fields 
    simp only [decSlot]; unfold decEN; rw [hc]
    show some _ = some _
    simp (disch := omega) [dec_bdrsp, hf]
  · exact absurd rfl n
theorem Encoding.mcallRepeatIssue (die : Nat) (core : Nat) : Encoding.Statement (.mcallRepeatIssue die core) :=
  noEncoding rfl
theorem Encoding.matrixOpComplete (die : Nat) (core : Nat) : Encoding.Statement (.matrixOpComplete die core) :=
  noEncoding rfl
theorem Encoding.trellisFillGranule (die : Nat) (way : Nat) (granule : Nat) : Encoding.Statement (.trellisFillGranule die way granule) :=
  noEncoding rfl
theorem Encoding.trellisFillEnd (die : Nat) (way : Nat) : Encoding.Statement (.trellisFillEnd die way) :=
  noEncoding rfl
theorem Encoding.trellisWritebackEnd (die : Nat) (way : Nat) : Encoding.Statement (.trellisWritebackEnd die way) :=
  noEncoding rfl
theorem Encoding.copyChunkLand (die : Nat) (ctx : Nat) (handle : Nat) (chunk : Nat) : Encoding.Statement (.copyChunkLand die ctx handle chunk) :=
  noEncoding rfl
theorem Encoding.engineTransferFault (die : Nat) (ctx : Nat) (kind : Option RemoteKind) (index : Nat) (piece : Nat) : Encoding.Statement (.engineTransferFault die ctx kind index piece) :=
  noEncoding rfl
theorem Encoding.remotePieceLand (die : Nat) (ctx : Nat) (kind : RemoteKind) (index : Nat) (piece : Nat) : Encoding.Statement (.remotePieceLand die ctx kind index piece) :=
  noEncoding rfl
theorem Encoding.remoteAck (die : Nat) (ctx : Nat) (kind : RemoteKind) (index : Nat) (piece : Nat) : Encoding.Statement (.remoteAck die ctx kind index piece) :=
  noEncoding rfl
theorem Encoding.haloFaceLand (die : Nat) (ctx : Nat) (handle : Nat) (face : Nat) : Encoding.Statement (.haloFaceLand die ctx handle face) :=
  noEncoding rfl
theorem Encoding.haloFaceAck (die : Nat) (ctx : Nat) (handle : Nat) (face : Nat) : Encoding.Statement (.haloFaceAck die ctx handle face) :=
  noEncoding rfl
theorem Encoding.collTransferApply (die : Nat) (ctx : Nat) (handle : Nat) (index : Nat) : Encoding.Statement (.collTransferApply die ctx handle index) :=
  noEncoding rfl
theorem Encoding.reshardStep (die : Nat) (ctx : Nat) (handle : Nat) : Encoding.Statement (.reshardStep die ctx handle) :=
  noEncoding rfl
theorem Encoding.collEnd (die : Nat) (ctx : Nat) (handle : Nat) : Encoding.Statement (.collEnd die ctx handle) :=
  noEncoding rfl
theorem Encoding.cleatReply (die : Nat) (ctx : Nat) : Encoding.Statement (.cleatReply die ctx) :=
  noEncoding rfl
theorem Encoding.scWheelIssue (die : Nat) : Encoding.Statement (.scWheelIssue die) :=
  noEncoding rfl
theorem Encoding.taskServe (die : Nat) : Encoding.Statement (.taskServe die) :=
  noEncoding rfl
theorem Encoding.queueAgeing (die : Nat) (queue : Nat) : Encoding.Statement (.queueAgeing die queue) :=
  noEncoding rfl
theorem Encoding.deferredFaultDelivery (die : Nat) (ctx : Nat) : Encoding.Statement (.deferredFaultDelivery die ctx) :=
  noEncoding rfl
theorem Encoding.watchdog (die : Nat) (ctx : Nat) : Encoding.Statement (.watchdog die ctx) :=
  noEncoding rfl
theorem Encoding.dieArrive (die : Nat) : Encoding.Statement (.dieArrive die) :=
  noEncoding rfl
theorem Encoding.domainCross : Encoding.Statement (.domainCross) :=
  noEncoding rfl
theorem Encoding.stragglerTimeout : Encoding.Statement (.stragglerTimeout) :=
  noEncoding rfl
theorem Encoding.sailplanPublish : Encoding.Statement (.sailplanPublish) :=
  noEncoding rfl
theorem Encoding.leaseClaim (die : Nat) : Encoding.Statement (.leaseClaim die) :=
  noEncoding rfl
theorem Encoding.leaseRenew (die : Nat) : Encoding.Statement (.leaseRenew die) :=
  noEncoding rfl
theorem Encoding.belvedereLapse (die : Nat) : Encoding.Statement (.belvedereLapse die) :=
  noEncoding rfl
theorem Encoding.packageUnmanaged : Encoding.Statement (.packageUnmanaged) :=
  noEncoding rfl
theorem Encoding.errorRetryClassify (die : Nat) (cls : Nat) (unit : Nat) (addr : Nat) (corrected : Bool) (lasting : Bool) : Encoding.Statement (.errorRetryClassify die cls unit addr corrected lasting) :=
  noEncoding rfl
theorem Encoding.sramLineRetest (die : Nat) (line : Nat) (clean : Bool) : Encoding.Statement (.sramLineRetest die line clean) :=
  noEncoding rfl
theorem Encoding.schedTableRebuild (die : Nat) (mirrorOk : Bool) : Encoding.Statement (.schedTableRebuild die mirrorOk) :=
  noEncoding rfl
theorem Encoding.lodgeHalt (die : Nat) : Encoding.Statement (.lodgeHalt die) :=
  noEncoding rfl
theorem Encoding.lodgeReloadTimeout (die : Nat) : Encoding.Statement (.lodgeReloadTimeout die) :=
  noEncoding rfl
theorem Encoding.lodgeReloadComplete (die : Nat) : Encoding.Statement (.lodgeReloadComplete die) :=
  noEncoding rfl
theorem Encoding.clusterReplan (die : Nat) (cluster : Nat) : Encoding.Statement (.clusterReplan die cluster) :=
  noEncoding rfl
theorem Encoding.jobOpen : Encoding.Statement (.jobOpen) :=
  noEncoding rfl
theorem Encoding.jobClose : Encoding.Statement (.jobClose) :=
  noEncoding rfl
theorem Encoding.pageroot : Encoding.Statement (.pageroot) :=
  noEncoding rfl
theorem Encoding.trellis : Encoding.Statement (.trellis) :=
  noEncoding rfl
theorem Encoding.wheel : Encoding.Statement (.wheel) :=
  noEncoding rfl
theorem Encoding.layouts : Encoding.Statement (.layouts) :=
  noEncoding rfl
theorem Encoding.sched : Encoding.Statement (.sched) :=
  noEncoding rfl
theorem Encoding.tids : Encoding.Statement (.tids) :=
  noEncoding rfl
theorem Encoding.image : Encoding.Statement (.image) :=
  noEncoding rfl
theorem Encoding.queues : Encoding.Statement (.queues) :=
  noEncoding rfl
theorem Encoding.launch : Encoding.Statement (.launch) :=
  noEncoding rfl
theorem Encoding.resumeSuspended : Encoding.Statement (.resumeSuspended) :=
  noEncoding rfl
theorem Encoding.resumeJob : Encoding.Statement (.resumeJob) :=
  noEncoding rfl
theorem Encoding.switchOut : Encoding.Statement (.switchOut) :=
  noEncoding rfl
theorem Encoding.cmdTailWrite (v : Dword) : Encoding.Statement (.cmdTailWrite v) :=
  noEncoding rfl
theorem Encoding.cmdCtlWrite (v : Dword) : Encoding.Statement (.cmdCtlWrite v) :=
  noEncoding rfl
theorem Encoding.hyCtlWrite (v : Dword) : Encoding.Statement (.hyCtlWrite v) :=
  noEncoding rfl
theorem Encoding.qtail (die : Nat) (queue : Nat) (v : Dword) : Encoding.Statement (.qtail die queue v) :=
  noEncoding rfl
theorem Encoding.xlInvAll (die : Nat) : Encoding.Statement (.xlInvAll die) :=
  noEncoding rfl
theorem Encoding.xlInvPage (die : Nat) (page : Nat) : Encoding.Statement (.xlInvPage die page) :=
  noEncoding rfl
theorem Encoding.tcCtlWrite (die : Nat) (v : Dword) : Encoding.Statement (.tcCtlWrite die v) :=
  noEncoding rfl
theorem Encoding.thLimitsWrite (die : Nat) (v : Dword) : Encoding.Statement (.thLimitsWrite die v) :=
  noEncoding rfl
theorem Encoding.pwCtlWrite (v : Dword) : Encoding.Statement (.pwCtlWrite v) :=
  noEncoding rfl
theorem Encoding.snap : Encoding.Statement (.snap) :=
  noEncoding rfl
theorem Encoding.lrDataRead : Encoding.Statement (.lrDataRead) :=
  noEncoding rfl
theorem Encoding.msixUnmask (vec : Nat) : Encoding.Statement (.msixUnmask vec) :=
  noEncoding rfl
theorem Encoding.registerWrite (off : Nat) (wide : Bool) (v : Dword) : Encoding.Statement (.registerWrite off wide v) :=
  noEncoding rfl
theorem Encoding.regsizeAccess (off : Nat) (size : Nat) (write : Bool) : Encoding.Statement (.regsizeAccess off size write) :=
  noEncoding rfl
theorem Encoding.hostWindowAccess (off : Nat) (len : Nat) (data : Option (List Byte)) : Encoding.Statement (.hostWindowAccess off len data) :=
  noEncoding rfl
theorem Encoding.translationWalk (die : Nat) (dva : Nat) (write : Bool) (fetch : Bool) : Encoding.Statement (.translationWalk die dva write fetch) :=
  noEncoding rfl
theorem Encoding.dramRead (die : Nat) (tier : Bool) (line : Nat) (pkt : Option Nat) : Encoding.Statement (.dramRead die tier line pkt) :=
  noEncoding rfl
theorem Encoding.dramWrite (die : Nat) (tier : Bool) (line : Nat) (mask : BitVec 64) (data : BitVec 512) (pkt : Option Nat) : Encoding.Statement (.dramWrite die tier line mask data pkt) :=
  noEncoding rfl
theorem Encoding.bdRawrd (die : Nat) (pkt : Nat) : Encoding.Statement (.bdRawrd die pkt) :=
  noEncoding rfl
theorem Encoding.bdRawwr (die : Nat) (pkt : Nat) : Encoding.Statement (.bdRawwr die pkt) :=
  noEncoding rfl
theorem Encoding.bdReplyArrive (die : Nat) (pkt : Nat) : Encoding.Statement (.bdReplyArrive die pkt) :=
  noEncoding rfl
theorem Encoding.hotnessEpoch (die : Nat) : Encoding.Statement (.hotnessEpoch die) :=
  noEncoding rfl
theorem Encoding.tierMoveStart (die : Nat) (group : Nat) : Encoding.Statement (.tierMoveStart die group) :=
  noEncoding rfl
theorem Encoding.tierMoveEnd (die : Nat) (group : Nat) : Encoding.Statement (.tierMoveEnd die group) :=
  noEncoding rfl
theorem Encoding.linkFlitReceive (die : Nat) (port : Nat) (seq : Nat) (flit : Flit) : Encoding.Statement (.linkFlitReceive die port seq flit) :=
  noEncoding rfl
theorem Encoding.linkPacketReceive (die : Nat) (port : Nat) (out : Bool) (tagOk : Bool) : Encoding.Statement (.linkPacketReceive die port out tagOk) :=
  noEncoding rfl
theorem Encoding.portBringup (die : Nat) (port : Nat) (peer : Nat) (far : FarEnd) : Encoding.Statement (.portBringup die port peer far) :=
  noEncoding rfl
theorem Encoding.rekey (die : Nat) (port : Nat) (k : Keying) : Encoding.Statement (.rekey die port k) :=
  noEncoding rfl
theorem Encoding.powerGood : Encoding.Statement (.powerGood) :=
  noEncoding rfl
theorem Encoding.pldmActivate (slot : Bool) : Encoding.Statement (.pldmActivate slot) :=
  noEncoding rfl
theorem Encoding.getVersion : Encoding.Statement (.getVersion) :=
  noEncoding rfl
theorem Encoding.getCapabilities : Encoding.Statement (.getCapabilities) :=
  noEncoding rfl
theorem Encoding.negotiateAlgorithms : Encoding.Statement (.negotiateAlgorithms) :=
  noEncoding rfl
theorem Encoding.getDigests : Encoding.Statement (.getDigests) :=
  noEncoding rfl
theorem Encoding.getCertificate (slot : Nat) : Encoding.Statement (.getCertificate slot) :=
  noEncoding rfl
theorem Encoding.challenge (nonce : BitVec 256) : Encoding.Statement (.challenge nonce) :=
  noEncoding rfl
theorem Encoding.getMeasurements (index : Nat) (nonce : BitVec 256) : Encoding.Statement (.getMeasurements index nonce) :=
  noEncoding rfl
theorem Encoding.dualreport (nonce : BitVec 256) : Encoding.Statement (.dualreport nonce) :=
  noEncoding rfl
theorem Encoding.dualcert : Encoding.Statement (.dualcert) :=
  noEncoding rfl
theorem Encoding.thermalSample (die : Nat) (temps : List Int) (htemp : Int) (ctemp : Int) : Encoding.Statement (.thermalSample die temps htemp ctemp) :=
  noEncoding rfl
theorem Encoding.powerTick (watts : Nat) : Encoding.Statement (.powerTick watts) :=
  noEncoding rfl
theorem Encoding.lifetimeFlashWrite : Encoding.Statement (.lifetimeFlashWrite) :=
  noEncoding rfl
theorem Encoding.urgentEventFlush : Encoding.Statement (.urgentEventFlush) :=
  noEncoding rfl
theorem Encoding.powerLoss : Encoding.Statement (.powerLoss) :=
  noEncoding rfl
theorem Encoding.ballastDutyWindow (die : Nat) : Encoding.Statement (.ballastDutyWindow die) :=
  noEncoding rfl
theorem Encoding.snapshotReady : Encoding.Statement (.snapshotReady) :=
  noEncoding rfl

end Sys2Proof.Laws
end

