-- ==== Sys2Proof/Tests/Slice0.lean ====
section
/-! SUPPORT. Tests: ill-formed instructions that each check refuses; words written out from the spec's encodings and worked
examples; single steps of the spec's worked examples; and for every statement with hypotheses a state and operands that
meet them. -/

set_option Elab.async false

namespace Sys2Proof.Tests

open Sys2Proof.Machine

/-! ### Well-formedness: one ill-formed term per check -/

/-- A modifier word with nothing set. -/
def mod0 : VMod := { imm11 := 0, rq := { rq := false, mode := .rne }, sat := .none }

theorem test_wf_cmp_ord : (Instr.cmp .sa (some 1) (.reg 1) (.reg 2) .i32 .ord).wellFormed = false := rfl
theorem test_wf_fcmp_ltu : (Instr.fcmp .sa (some 1) (.reg 1) (.reg 2) .f32 .ltu).wellFormed = false := rfl
theorem test_wf_fcvt_same : (Instr.fcvt .sa (some 1) (.reg 1) (.flt .f32) (.flt .f32)
    { rq := false, mode := .rne }).wellFormed = false := rfl
theorem test_wf_fcvt_ints : (Instr.fcvt .sa (some 1) (.reg 1) (.int .i32) (.int .i64)
    { rq := false, mode := .rne }).wellFormed = false := rfl
theorem test_wf_mod_on_vb : (Instr.vadd .vb (some 1) (.reg 1) (.reg 2) 0 (.int .i32) (some mod0)).wellFormed = false := rfl
theorem test_wf_round_on_int : (Instr.vadd .va (some 1) (.reg 1) (.reg 2) 0 (.int .i32)
    (some { mod0 with rq := { rq := true, mode := .rne } })).wellFormed = false := rfl
theorem test_wf_sat_on_float : (Instr.vadd .va (some 1) (.reg 1) (.reg 2) 0 (.flt .f32)
    (some { mod0 with sat := .sat })).wellFormed = false := rfl
theorem test_wf_satu_on_vneg : (Instr.vneg .va (some 1) (.reg 1) 0 (.int .i32)
    (some { mod0 with sat := .satu })).wellFormed = false := rfl
theorem test_wf_imm_on_vadd : (Instr.vadd .va (some 1) (.reg 1) (.reg 2) 0 (.int .i32)
    (some { mod0 with imm11 := 1 })).wellFormed = false := rfl
theorem test_wf_vcmp_un_int : (Instr.vcmp .va (some 1) (.reg 1) (.reg 2) .un (.int .i32) none).wellFormed = false := rfl
theorem test_wf_vcmp_ltu_float : (Instr.vcmp .va (some 1) (.reg 1) (.reg 2) .ltu (.flt .f32) none).wellFormed = false := rfl
theorem test_wf_vdot4_i8 : (Instr.vdot4 .va (some 1) (.reg 1) (.reg 2) 0 .i8 none).wellFormed = false := rfl
theorem test_wf_vcvt_same : (Instr.vcvt .va (some 1) (.reg 1) (.int .i32) { rq := false, mode := .rne } 0 (.int .i32)
    none).wellFormed = false := rfl
theorem test_wf_bfp_width : (Instr.vbfpk .va (some 1) (.reg 1) 0 { rq := false, mode := .rne } 0 .f32 none).wellFormed =
    false := rfl
theorem test_wf_punpk_nw : (Instr.punpk .va .p8 true (.reg 1) none).wellFormed = false := rfl
theorem test_wf_vrcp_f64 : (Instr.vrcp (some 1) (.reg 1) 0 .f64).wellFormed = false := rfl
theorem test_wf_vsrch_i8 : (Instr.vsrch (some 1) (.reg 1) (.reg 2) 0 (.int .i8)).wellFormed = false := rfl
theorem test_wf_mcall_reserved : (Instr.mcall 0 63 0 false .ones .none).wellFormed = false := rfl
theorem test_wf_muld_builtin : (Instr.muld 63 (.reg 1) .none).wellFormed = false := rfl
theorem test_wf_sc_scope : (Instr.aadd (some 1) (.reg 1) (.src (.reg 2)) true 0).wellFormed = false := rfl
theorem test_wf_add : (Instr.add .sa (some 1) (.reg 1) (.reg 2) .i32 .sat).wellFormed = true := rfl

/-! ### Decoding: words of the worked examples and words written out field by field -/

/-- The worked run of R145 (spec/07). -/
theorem test_decode_loop_run :
    decodeOne [0x40400000, 0xDC500040] = some (.loop (.reg 5) { lo := 4, ext := none }) ∧
    decodeOne [0x80400000, 0x00700017] = some (.addImm .sa (some 7) { lo := 1, ext := none } .i64) := by decide +kernel
/-- FADD (R137): OPC 0x20, DST 3, SRCA 1, SRCB 2, FMT 0b110. -/
theorem test_decode_fadd : decodeOne [0x80400000, 0b100000_000011_000001_000010_0_0_00_0_110] =
    some (.fadd .sa (some 3) (.reg 1) (.reg 2) .f32 { rq := false, mode := .rne }) := by decide +kernel
/-- The worked run of R175 (spec/08). -/
theorem test_decode_vcmp : decodeOne [0x20400000, 0x48304352] =
    some (.vcmp .va (some 3) (.reg 1) (.reg 3) .ge (.int .i32) none) := by decide +kernel
theorem test_decode_vcompr_pcnt : (decodeBundle 0x30400000 [0x7C404032, 0xB050C002]).map (·.syls) = some [
    (.va, .ok (.vcompr .va (some 4) (.reg 1) 3 (.int .i32) none)),
    (.vb, .ok (.pcnt .vb (some 5) 3 0 .i32 none))] := rfl
/-- The program of spec/17. -/
theorem test_decode_quicksort :
    decodeOne [0x80400000, 0x7134B823] = some (.cmp .sa (some 19) (.reg 18) .zero .i64 .lt) ∧
    decodeOne [0x04400000, 0x1CA6CF60] = some (.ldg 10 (.reg 27) 15 6 false false) ∧
    decodeOne [0x10400000, 0xF4B28062] = some (.vsort (some 11) (.reg 10) 6 (.int .i32)) := by decide +kernel
/-- The worked examples of spec/09 and spec/19. -/
theorem test_decode_mcall : decodeOne [0x08400000, 0x01004EC0] = some (.mcall 0 64 0 true .ones .none) := by decide +kernel
theorem test_decode_mchk : decodeOne [0x08400000, 0x14000000] = some (.mchk 0 .none) := by decide +kernel
theorem test_decode_std :
    decodeOne [0x04400000, 0x2EABC000] = some (.std (.reg 42) (.reg 47) { lo := 0, ext := none } false) := by decide +kernel
/-- The worked run of R220 (spec/10). -/
theorem test_decode_probe_wldd :
    decodeOne [0x01400000, 0x00B28060] = some (.probe 11 (.reg 10) { lo := 6, ext := none }) ∧
    decodeOne [0x02400000, 0x0CC2C104] = some (.wldd 12 (.reg 11) { lo := 2, ext := none } true false) := by decide +kernel
/-- The worked run of R239 (spec/11). -/
theorem test_decode_copies :
    decodeOne [0x00C00000, 0x01454110] = some (.cpy (some 20) (.reg 21) 1 false true) ∧
    decodeOne [0x00C00000, 0x09753900] = some (.ctest (some 23) (.reg 20) .one) ∧
    decodeOne [0x00C00000, 0x05653B00] = some (.cwait (some 22) (.reg 20) .ones) := by decide +kernel
/-- The program of spec/16. -/
theorem test_decode_rflag :
    decodeOne [0x00C00000, 0x1401C8A0] = some (.rflag (.reg 7) (.src (.reg 8)) true true) := by decide +kernel
/-- The worked run of R265 (spec/12): LS, TG and EN in one bundle. -/
theorem test_decode_atomic_bundle :
    (decodeBundle 0x05C00000 [0x0C910000, 0x00B28060, 0x6051B903]).map (·.syls) = some [
      (.ls, .ok (.ldd 9 (.reg 4) { lo := 0, ext := none } false false)),
      (.tg, .ok (.probe 11 (.reg 10) { lo := 6, ext := none })),
      (.en, .ok (.aadd (some 5) (.reg 6) (.src .one) false 3))] := rfl
/-- The bundle of spec/06: an extended immediate. -/
theorem test_decode_bundle : (decodeBundle 0xA4410001 [0x00323457, 0x00414626, 0x0C711004]).map (·.syls) = some [
    (.sa, .ok (.addImm .sa (some 3) { lo := 0x2345, ext := some 1 } .i64)),
    (.va, .ok (.vadd .va (some 4) (.reg 5) (.reg 6) 2 (.flt .f32) none)),
    (.ls, .ok (.ldd 7 (.reg 4) { lo := 0x20, ext := none } true false))] := rfl
/-- QPOP (R248): OPC 0x2B, DST 4, SRCA 5; PHEND: OPC 0x30; TIDR (R223): OPC 0x0D, DST 3, SRCA 1, index 2. -/
theorem test_decode_qpop :
    decodeOne [0x00C00000, 0b101011_000100_000101_000000_0000_0_000] = some (.qpop (some 4) (.reg 5)) := by decide +kernel
theorem test_decode_phend : decodeOne [0x00C00000, 0b110000_000000_000000_000000_0000_0_000] = some .phend := by decide +kernel
theorem test_decode_tidr :
    decodeOne [0x00C00000, 0b001101_000011_000001_000010_0000_0_000] = some (.tidr (some 3) (.reg 1) 2) := by decide +kernel
/-- A no-operation bundle, and a header that breaks R98: XT names a slot that is not there. -/
theorem test_decode_nop : decodeOne [0x00400000] = some (.nopBundle true) := by decide +kernel
theorem test_decode_bad_header : decodeBundle 0x80420001 [0x00700017] = none := by decide +kernel
/-- OPC 0x3F of SA is no instruction (R118): the decoder refuses it by name. -/
theorem test_decode_illegal : (decodeBundle 0x80400000 [0xFC000000]).map (·.syls) = some [(.sa, .error .illegalOpcode)] := rfl

/-! ### Single steps of the spec's worked examples -/

/-- A Running member context of die 0, core 0, with every v register and tile. -/
def base : State := { State.reset with
  cx := { Ctx.idle with st := .running, cap := 48, tiles := 0xFF, budget := 4096, ctl := { Ctl.zero with wdog := 4096 } } }
/-- The same with registers s1 and s2. -/
def with2 (x y : Dword) : State := { base with cx := { base.cx with s := (base.cx.s.set 1 x).set 2 y } }
/-- The next state of an outcome. -/
def next (o : Host.Outcome State Fault Refusal) : State := match o with | .next t => t | _ => State.reset

/-- The worked examples after R135 (spec/07). -/
theorem test_add_sat : (next (exec (.add .sa (some 3) (.reg 1) (.reg 2) .i32 .sat) (with2 0x7FFFFFF0 0x20))).cx.s.get 3 =
    0x7FFFFFFF := by decide +kernel
theorem test_add : (next (exec (.add .sa (some 3) (.reg 1) (.reg 2) .i32 .none) (with2 0x7FFFFFF0 0x20))).cx.s.get 3 =
    0xFFFFFFFF80000010 := by decide +kernel
theorem test_div_zero : (next (exec (.div (some 3) (.reg 1) .zero .i64) (with2 100 0))).cx.s.get 3 =
    0xFFFFFFFFFFFFFFFF := by decide +kernel
theorem test_mulhu : (next (exec (.mulhu .sa (some 3) (.reg 1) (.reg 2) .i64) (with2 0xFFFFFFFFFFFFFFFF 2))).cx.s.get 3 =
    1 := by decide +kernel
theorem test_sra : (next (exec (.sra .sa (some 3) (.reg 1) (.reg 2) .i16) (with2 0x8000 20))).cx.s.get 3 =
    0xFFFFFFFFFFFFFFFF := by decide +kernel
theorem test_bfx : (next (exec (.bfx .sa (some 3) (.reg 1) (.reg 2)) (with2 0xABCD1234 0x0C08))).cx.s.get 3 =
    0xD12 := by decide +kernel
/-- R141, R349: a mismatch traps with both values, and the bundle's address in ctl.tpc. -/
theorem test_schk_trap :
    let s := with2 1 2
    let t := (next (exec (.schk .sa (.reg 1) (.reg 2))
      { s with cx := { s.cx with pc := 0x40, ctl := { s.cx.ctl with tvec := 0x1000 } } })).cx
    t.level = 1 ∧ t.pc = 0x1000 ∧ t.ctl.tcause = 11 ∧ t.ctl.tpc = 0x40 ∧ t.ctl.tinfo0 = 1 ∧ t.ctl.tinfo1 = 2 := by
  decide +kernel
/-- The bundle of spec/06, run by a step: s3 and s7, the latches and the granule as the example gives them. -/
def bundleRun : State :=
  let s := { base with cx := { base.cx with s := (base.cx.s.set 3 0x10).set 4 0x03F80000 } }
  next (step ((s.wr (spKey 0 0 0x100) 8 0x99).placeWords [0xA4410001, 0x00323457, 0x00414626, 0x0C711004]))
theorem test_bundle_step : bundleRun.cx.s.get 3 = 0x12355 ∧ bundleRun.cx.s.get 7 = 0x99 ∧ bundleRun.cx.pc = 16 ∧
    bundleRun.full (spKey 0 0 0x100 / 16) = true := by decide +kernel
/-- The placing of a table word: the very next step runs it (ADD of R129 on registers of zero). -/
theorem test_fetch_word : (next (step (State.reset.withFetchWord 32 0x00000003))).cx.pc = 8 := by decide +kernel
/-- The first word of R394's sequence of columns, and the code of a word with bit 0 set: SYN 3, PAR set. -/
theorem test_code : eccColumns.take 7 = [3, 5, 6, 7, 9, 10, 11] ∧ freshCode 1 = 0x203 := by decide +kernel
/-- FIPS 180-4's example of one block: the digest of "abc", whose first byte is the lowest. -/
theorem test_sha384_abc : (leBytes 48 (sha384 [0x61, 0x62, 0x63]).toNat).map BitVec.toNat =
    [0xcb, 0x00, 0x75, 0x3f, 0x45, 0xa3, 0x5e, 0x8b, 0xb5, 0xa0, 0x3d, 0x69, 0x9a, 0xc6, 0x50, 0x07,
     0x27, 0x2c, 0x32, 0xab, 0x0e, 0xde, 0xd1, 0x63, 0x1a, 0x8b, 0x60, 0x5a, 0x43, 0xff, 0x5b, 0xed,
     0x80, 0x86, 0x07, 0x2b, 0xa1, 0xe7, 0xcc, 0x23, 0x58, 0xba, 0xec, 0xa1, 0x34, 0xc8, 0x25, 0xa7] := by decide +kernel

/-! ### Witnesses: states and operands that meet the hypotheses of the statements -/

/-- `base` with s0 to s7, and the latch b0 valid. -/
def regs (l : List Dword) : State :=
  { base with cx := { base.cx with
      s := Vector.ofFn fun i => l.getD i.val 0
      b := base.cx.b.set 0 (some 0) } }
/-- In an exchange superstep. -/
def exch (s : State) : State := { s with hy := { s.hy with phc := 1 } }
/-- Die 0 changed. -/
def die0 (s : State) (f : Die → Die) : State := { s with dies := s.dies.set 0 (f Die.reset) }
/-- The byte address of own scratchpad offset `o` through LS (R180, R207). -/
def own (o : Nat) : Dword := BitVec.ofNat 64 (0x3F80000 + o)

/-- A diagnostic packet to the first line of the fast memory whose reply has arrived, or is still due. -/
def pkt (arrived : Bool) (reply : Option (BitVec 768)) : DiagPkt :=
  { ctx := 0, hdr := 0, addr := 0, mask := 0, check := 0, data := 0, reply := reply, arrived := arrived, orphan := false }
/-- A packet that has not performed stands before the first line of a die's fast memory. -/
def busyLine (d : Nat) (s : State) : State := s.modTiers d fun x => { x with diag := [pkt false none] }

theorem noNode_of {s : State} (h : s.cx.item = none) : s.noNode := by intro it h1; rw [h] at h1; cases h1

theorem witness_ScalarIntegerResults :
    base.issues ∧ base.cx.holds [.reg 1, .neg1] ∧ (regs []).issues ∧ (regs []).cx.holds [.latch 0, .reg 47] ∧
    ¬ base.cx.holds [.latch 0] := by decide +kernel
/-- The amounts on both sides of the width. -/
theorem witness_ShiftResults :
    let s := regs [0, 0x80, 7, 8]
    s.issues ∧ s.cx.holds [.reg 1, .reg 2] ∧ (s.cx.sval (.reg 2)).toNat < IntW.i8.bits ∧ s.cx.holds [.reg 1, .reg 3] ∧
      ¬ (s.cx.sval (.reg 3)).toNat < IntW.i8.bits ∧ (s.cx.sval (.reg 1)).getLsbD (IntW.i8.bits - 1) = true := by decide +kernel
/-- A zero divisor, a divisor that is not zero, and the corner of the most negative dividend. -/
theorem witness_DivisionResults :
    let s := regs [0, 0x80, 0, 0xFF]
    s.issues ∧ s.cx.holds [.reg 1, .reg 3] ∧ readW .i8 false (s.cx.sval (.reg 2)) = 0 ∧
      readW .i8 false (s.cx.sval (.reg 1)) = -(2 ^ (IntW.i8.bits - 1)) ∧ readW .i8 false (s.cx.sval (.reg 3)) = -1 := by
  decide +kernel
/-- A launch of no fields. -/
def launch0 : Launch := { id := 0, header := 0, ctxs := [0], priv := false }
theorem witness_CheckAndRegisterFileResults :
    let s := die0 (regs [0, 1, 2]) fun x => { x with sched := { x.sched with launches := [launch0] } }
    s.issues ∧ s.cx.holds [.reg 1, .reg 1] ∧ s.cx.sval (.reg 1) = s.cx.sval .one ∧
      s.cx.sval (.reg 1) ≠ s.cx.sval (.reg 2) ∧ s.myLaunch = some launch0 := by decide +kernel
theorem witness_ScalarFloatResults : base.issues ∧ base.cx.holds [.reg 1, .reg 2] := by decide +kernel
/-- Finite operands, a zero, a NaN that signals, infinities and a product of 0 and ∞; a tile of each mode, with as many columns
as its mode has. -/
theorem witness_RoundedOnceAndKBlocks :
    (let A := unpack .f32 0x3F800000; A.isFin = true ∧ A.neg = false ∧ A.isZero = false) ∧
    (let A := unpack .f32 0x80000000; A.isFin = true ∧ A.neg = true ∧ A.isZero = true) ∧
    (let A := unpack .f32 0xBF800000; A.neg = true ∧ A.isNan = false ∧ A.isZero = false) ∧
    (let A := unpack .f32 0x7F800001; A.isNan = true ∧ A.isSnan = true) ∧
    unpack .f32 0x7F800000 = .inf false ∧ unpack .f32 0xFF800000 = .inf true ∧
    (∀ m ∈ [TileMode.fp32, .int32, .fp64],
      let t := { Tile.zero with mode := m };
      let xs := [MElt.int 2 1, MElt.int 3 1];
      let cols := List.replicate m.cols [MElt.int 5 2, MElt.int 7 2];
      let sb := List.replicate m.cols (FVal.fin false 1 0);
      cols.length = t.mode.cols ∧ sb.length = t.mode.cols ∧ (cols.all fun ys => ys.length = xs.length) = true ∧ xs ≠ [] ∧
        (unpack .f32 ((t.mode.row (t.rows.get 0)).getD 0 0)).isFin = true ∧
        (∀ k, k < 2 → (xs.getD k MElt.zero).v.isFin = true ∧ ((cols.getD 0 []).getD k MElt.zero).v.isFin = true ∧
          (xs.getD k MElt.zero).v = (MElt.int (xs.getD k MElt.zero).m 1).v ∧ (xs.getD k MElt.zero).e = 1 ∧
          ((cols.getD 0 []).getD k MElt.zero).v = (MElt.int ((cols.getD 0 []).getD k MElt.zero).m 2).v ∧
          ((cols.getD 0 []).getD k MElt.zero).e = 2) ∧
        (unpack .f64 (t.cs.get 0).toNat).isFin = true ∧ (unpack .f64 (t.ms.get 0).toNat).isFin = true) ∧
    (MElt.mk (.nan false) 0 0).v.isNan = true ∧
    (unpack .f32 0x3F800000).rat = (FVal.fin false 1 0).rat := by decide +kernel
/-- The elements of B times their scales are numbers of FP64: 5 × 2² and 7 × 2². -/
theorem witness_RoundedOnceAndKBlocks_b :
    numberOf .f64 ((MElt.int 5 2).v.rat * (FVal.fin false 1 0).rat) ∧
    numberOf .f64 ((MElt.int 7 2).v.rat * (FVal.fin false 1 0).rat) :=
  ⟨⟨0x4034000000000000, false, 5629499534213120, -48, by decide, rfl, by decide +kernel⟩,
    0x403C000000000000, false, 7881299347898368, -48, by decide, rfl, by decide +kernel⟩
/-- Registers 0, 23, 24 and 63, and the writable ones at their ends: 6, 9, 13, 23; 5, 10, 12 and 24 are not. -/
theorem witness_ControlRegisters : base.issues ∧ base.cx.holds [.reg 1] ∧
    (∀ n : Fin 64, n = 0 ∨ n = 23 → n.val < 24) ∧ (∀ n : Fin 64, n = 24 ∨ n = 63 → 24 ≤ n.val) ∧
    (∀ n : Fin 64, n = 6 ∨ n = 9 ∨ n = 13 ∨ n = 23 → 6 ≤ n.val ∧ n.val ≤ 9 ∨ 13 ≤ n.val ∧ n.val ≤ 23) ∧
    (∀ n : Fin 64, n = 5 ∨ n = 10 ∨ n = 12 ∨ n = 24 → ¬(6 ≤ n.val ∧ n.val ≤ 9 ∨ 13 ≤ n.val ∧ n.val ≤ 23)) := by
  decide +kernel
/-- Targets: aligned below and from 2 ^ 57 on, and misaligned; a loop that ends at its count, and each end test. -/
theorem witness_ControlFlowResults :
    let s := regs [0, 0x01FFFFFFFFFFFFFC, 0x0200000000000000, 2, 1]
    let c := fun (n : Dword) => { s.cx with ctl := { s.cx.ctl with lcnt := n, lend := s.cx.pc } }
    s.issues ∧ s.cx.holds [.reg 1, .reg 2, .reg 3] ∧
      (s.cx.sval (.reg 1)).toNat % 4 = 0 ∧ (s.cx.sval (.reg 1)).toNat < 2 ^ 57 ∧
      (s.cx.sval (.reg 2)).toNat % 4 = 0 ∧ 2 ^ 57 ≤ (s.cx.sval (.reg 2)).toNat ∧ (s.cx.sval (.reg 3)).toNat % 4 ≠ 0 ∧
      (c 0).ctl.lcnt = 0 ∧ s.cx.sval (.reg 4) ≠ 0 ∧
      (c 1).ctl.lend = (c 1).pc ∧ (c 1).ctl.lcnt.toNat = 1 ∧ (c 2).ctl.lend = (c 2).pc ∧ 1 < (c 2).ctl.lcnt.toNat ∧
      { s.cx.ctl with lend := 8 }.lend ≠ s.cx.pc := by decide +kernel
theorem ok_of_toOption {ε α : Type} {x : Except ε α} (h : x.toOption.isSome = true) : ∃ a, x = .ok a := by
  cases x with
  | ok a => exact ⟨a, rfl⟩
  | error e => cases h
/-- A loop of count zero whose end, the bundle itself or the next word, can be read. -/
theorem witness_ControlFlowResults_skip :
    let s := base.withFetchWord 64 0
    s.issues ∧ s.cx.holds [.reg 1] ∧ s.cx.sval (.reg 1) = 0 ∧
      (∃ h, s.fetchWord s.cur.die (s.cx.pc + (Imm16.mk 0 none).sx * 4).toNat = .ok h) ∧
      (∃ h, s.fetchWord s.cur.die (s.cx.pc + (Imm16.mk 1 none).sx * 4).toNat = .ok h) ∧
      s.dvaHeld s.cur.die (s.cx.pc + (Imm16.mk 0 none).sx * 4).toNat 4 .fetch = false := by
  refine ⟨by decide +kernel, by decide +kernel, by decide +kernel, ok_of_toOption ?_, ok_of_toOption ?_, ?_⟩ <;>
    decide +kernel
theorem witness_CheckAndRegisterFileResults_writes :
    base.issues ∧ base.cx.holds [.reg 1] ∧ base.myCore.rept = none ∧ base.cur.die < 8 := by decide +kernel

/-- Registers up to the cap of the launch, in a compute superstep; and a ballast context in an exchange superstep. -/
theorem witness_VectorArithmetic :
    base.issues ∧ base.vectors ∧ base.cx.holds [.reg 1, .reg 47] ∧ base.cx.fits [.reg 1, .reg 47] (some 47) ∧
    base.cx.fits [.reg 1] (some 0) ∧ ¬ { base.cx with cap := 16 }.fits [.reg 16] none ∧
    (let s := exch { base with cx := { base.cx with ballast := some 0 } }; s.issues ∧ s.vectors) := by decide +kernel
theorem witness_VectorBitwiseAndShifts :
    base.issues ∧ base.vectors ∧ base.cx.holds [.reg 1, .reg 2] ∧ base.cx.fits [.reg 1, .reg 2] none := by decide +kernel
/-- Equal lanes, and lanes of which lane 0 is the lowest that differs under p0. -/
theorem witness_VectorCompareAndCheck :
    let s := { base with cx := { base.cx with v := base.cx.v.set 2 1 } }
    let A := fun r i => laneAt (s.cx.vval (.int .i32) r) 32 i
    s.issues ∧ s.vectors ∧ s.cx.holds [.reg 1, .reg 2] ∧ s.cx.within (vregsOf [.reg 1, .reg 2]) ∧
      (∀ i, i < 64 → A (.reg 1) i = A (.reg 3) i) ∧
      A (.reg 1) 0 ≠ A (.reg 2) 0 ∧ (s.cx.pval 0).getLsbD 0 = true := by decide +kernel
theorem witness_VectorMovement :
    base.issues ∧ base.vectors ∧ base.cx.holds [.reg 1, .reg 2] ∧ base.cx.fits [.reg 1, .reg 2] (some 3) ∧
    base.cx.fits [.reg 1] (some 3) ∧ base.cx.fits [] (some 3) ∧ base.cx.within (vregsOf [.reg 1]) ∧
    (let s := { base with cx := { base.cx with cap := 16 } };
      s.issues ∧ s.vectors ∧ s.cx.holds [.reg 40, .reg 41] ∧ s.cx.fits [] (some 3) ∧ s.cx.fits [.reg 1] (some 3)) := by
  decide +kernel
theorem witness_VectorConversions :
    base.issues ∧ base.vectors ∧ base.cx.holds [.reg 1] ∧ base.cx.fits [.reg 1] (some 3) ∧
    Fmt.flt .f32 ≠ .int .i8 := by decide +kernel
theorem witness_VectorReductions :
    base.issues ∧ base.vectors ∧ base.cx.holds [.reg 1] ∧ base.cx.fits [.reg 1] (some 3) := by decide +kernel
theorem witness_SpecialFunctionsAndSorting :
    base.issues ∧ base.vectors ∧ base.cx.holds [.reg 1, .reg 2] ∧ base.cx.fits [.reg 1, .reg 2] (some 3) ∧
    base.cx.fits [.reg 1] (some 3) ∧ FFmt.bf16 ∈ [FFmt.bf16, .f16, .f32] := by decide +kernel
theorem witness_PredicateResults :
    base.issues ∧ base.vectors ∧ base.cx.fits [] (some 3) ∧ base.cx.holds [.reg 1] ∧ base.cx.within (vregsOf [.reg 1]) ∧
    octAt .p0 0 = 0 ∧ octAt .p8 0 ≠ 0 := by decide +kernel

/-- Core 0 of die 0 changed. -/
def core0 (s : State) (f : Core → Core) : State := s.modCore 0 0 f
/-- A base address for MST with rows 64 bytes apart. -/
def mstArg : Dword := 0x4003F80000
/-- A routine 64 of one microword, and the register s1 at the scratchpad. -/
def withRoutine : State := core0 (regs [0, own 0, mstArg]) fun k => { k with
  tiles := k.tiles.set 0 { Tile.zero with mode := .int32 }, routines := [(64, (0, 1))] }
theorem witness_MatrixInstructions :
    (let s := withRoutine;
      let v := s.cx.sval (.reg 2)
      s.issues ∧ s.computes ∧ s.owns 0 ∧ s.owns 7 ∧ s.mxRoom ∧ s.mxFree 7 ∧ s.cx.holds [.reg 2] ∧ v.toNat < 2 ^ 48 ∧
      s.myCore.modeAfter 7 = .fp32 ∧ v.toNat % 4294967296 % 16 = 0 ∧ v.toNat / 4294967296 % 16 = 0 ∧
      (∀ i, i < 32 → (s.ownSp s.cur.die s.cur.core (mstAddr v i) (mstBytes 0)).isSome = true) ∧
      (s.cx.sval (.reg 1)).toNat % 8 = 0 ∧
      (s.ownSp s.cur.die s.cur.core (s.cx.sval (.reg 1)).toNat (8 * 256)).isSome = true ∧
      (s.mxEnv (s.cx.shape (mhIdx 0) false) (s.cx.sval (.reg 1))).check 0 64 (s.cx.a.get 0).base.toNat
        (s.cx.a.get 1).base.toNat = none ∧
      (47 : Fin 48).val < s.cx.cap ∧ s.mxBusy s.cur = false ∧ (s.myTile 7).poison = false ∧
      (s.cx.rptCount (.areg 0) = 0 ∧ s.cx.rptCount .none = 1)) ∧
    (let s := core0 base fun k => { k with tiles := k.tiles.set 7 { Tile.zero with mode := .fp64, poison := true } };
      s.issues ∧ s.computes ∧ s.owns 7 ∧ s.mxRoom ∧ s.myCore.modeAfter 7 = .fp64 ∧ s.mxFree 7 ∧ (s.myTile 7).poison = true) ∧
    (let s := core0 base fun k => { k with queue := [{ ctx := 0, tpc := 0, op := .mzero 0 .fp32, node := false }] };
      s.issues ∧ s.computes ∧ s.owns 0 ∧ s.mxRoom ∧ s.mxBusy s.cur = true ∧ s.mxFree 7) := by decide +kernel
/-- Every row of a zero tile passes, and row 31 of one with a false checksum does not. -/
theorem witness_MatrixInstructions_checks :
    (List.finRange 32).filter (fun i => !Tile.zero.passes i) = [] ∧
    (List.finRange 32).filter (fun i => !{ Tile.zero with cs := Tile.zero.cs.set 31 0x4059000000000000 }.passes i) = [31] := by
  decide +kernel
/-- Two words at the scratchpad: an END word, which is valid, and one with a reserved field set. -/
def withWords (x : Nat) : State := (regs [0, 0x200000000000 + own 0]).wr (spKey 0 0 8) 8 x
theorem witness_MicrocodeLoad :
    let v := ((withWords 0).cx.sval (.reg 1)).toNat
    let word := fun (s : State) (i : Nat) => BitVec.ofNat 64 (s.rd (spKey 0 0 0 + 8 * i) 8)
    (∀ x, x = 0 ∨ x = 0x100000000000 →
      (withWords x).issues ∧ (withWords x).computes ∧ (withWords x).cx.holds [.reg 1] ∧
        (withWords x).myCore.rept = none ∧ (withWords x).myCore.queue = [] ∧ (withWords x).noWindows) ∧
    v < 2 ^ 57 ∧ v / 2 ^ 44 % 2 ^ 13 = 2 ∧ v / 2 ^ 32 % 2 ^ 12 = 0 ∧ v % 2 ^ 32 % 8 = 0 ∧
    (withWords 0).ownSp 0 0 (v % 2 ^ 32) 16 = some (spKey 0 0 0) ∧
    (withWords 0).badRead (spKey 0 0 0) 16 = false ∧ (withWords 0x100000000000).badRead (spKey 0 0 0) 16 = false ∧
    (∀ i, i < 2 → uwValid (word (withWords 0) i) 2 = true) ∧
    uwValid (word (withWords 0x100000000000) 0) 2 = true ∧ uwValid (word (withWords 0x100000000000) 1) 2 = false := by
  refine ⟨?_, by decide +kernel⟩
  intro x h
  rcases h with rfl | rfl <;> decide +kernel
/-- A core whose queue holds one operation. -/
def queued (op : MxOp) : State := core0 base fun k => { k with queue := [{ ctx := 0, tpc := 0, op := op, node := false }] }
/-- What MCALL captured. -/
def args0 : MxArgs := { sreg := 0, m := Vector.replicate 8 0, a := Vector.replicate 8 ⟨0, 0, 0⟩, mh := 0 }
/-- A window over the scratchpad of core 0. -/
def withWindow (s : State) : State := s.modXf 0 fun x => { x with
  windows := [{ owner := 0, dst := true, boundary := 2, ranges := [(spKey 0 0 0, 393216)] }] }
/-- A repeat of routine 64, or of another operation, of which one issue is left. -/
def repeats (rs : Tab (Nat × Nat)) (g : MxAgain) : State := core0 base fun k => { k with
  tiles := k.tiles.set 0 { Tile.zero with mode := .int32 }, routines := rs
  rept := some { ctx := 0, tpc := 0, again := g, left := 1, node := false } }
def repeating (rs : Tab (Nat × Nat)) : State := repeats rs (.mcall 0 64 0 0 [args0])
theorem witness_MatrixHappenings :
    (∀ op ∈ [MxOp.mzero 0 .fp32, .mout 0 { offset := 0, count := 1 }, .detach 0, .mst 7 0 mstArg, .mcall 0 64 args0 [] true],
      ((queued op).core 0 0).queue = [{ ctx := 0, tpc := 0, op := op, node := false }] ∧ ((queued op).die 0).xf.windows = [] ∧
        (queued op).canFault ⟨0, 0, 0⟩ = true) ∧
    ((queued (.mst 7 0 mstArg)).mstKeys 0 0 0 mstArg).length = 32 ∧
    (let s := repeating [(64, (0, 1))];
      ((s.core 0 0).rept).isSome = true ∧ (s.core 0 0).queue.length < 16 ∧
      (({ s := s, die := 0, core := 0, mh := 0, m := s.cx.m, mask := 0 } : MxEnv).check 0 64 0 0 = none)) ∧
    (∀ g ∈ [MxAgain.op (.mzero 0 .fp32), .op (.mst 7 0 mstArg), .lock (.mrd 1 7 0), .lock (.mwr 0 15 0), .lock (.mchk 0),
        .lock (.mcsr 7), .lock (.muld 64 (0x100000000000 + own 0)), .lock (.muld 64 1)],
      let s := repeats [] g;
      ((s.core 0 0).rept.map (·.again)) = some g ∧ (s.core 0 0).queue.length < 16 ∧ (s.die 0).th.stopped = false ∧
        s.canFault ⟨0, 0, 0⟩ = true) ∧
    ((repeats [] (.lock (.mchk 0))).focus ⟨0, 0, 0⟩).muldBad (0x100000000000 + own 0) = none ∧
    (((repeats [] (.lock (.mchk 0))).focus ⟨0, 0, 0⟩).muldBad 1).isSome = true ∧
    (die0 base fun x => { x with th := { x.th with stopped := true } }).myDie.th.stopped = true ∧
    (withWindow (queued (.mst 7 0 mstArg))).windowMeets 0 (spKey 0 0 0) 128 = true ∧
    (let f : DFault := { cause := .access, tpc := 0, info := {}, xfer := none };
      let s := repeating [];
      let full := { s with cx := { s.cx with held := List.replicate 32 f } };
      s.canFault ⟨0, 0, 0⟩ = true ∧ full.canFault ⟨0, 0, 0⟩ = false ∧
      ({ s := s, die := 0, core := 0, mh := 0, m := s.cx.m, mask := 0 } : MxEnv).check 0 64 0 0 = some (.access, 0)) := by
  decide +kernel
/-- Routines that end without and with a fault: 64 is entered, and 65 has no entry. -/
theorem witness_MatrixHappenings_runs :
    (∃ s : State, (mcallRun (s.mxEnvOf 0 0 args0) Tile.zero 64 args0 [] true).2 = none) ∧
    ∃ s : State, (mcallRun (s.mxEnvOf 0 0 args0) Tile.zero 64 args0 [] true).2 ≠ none := by
  refine ⟨⟨repeating [(64, (0, 1))], ?_⟩, ⟨(repeating [(64, (0, 1))]).modCore 0 0
    (fun k => { k with ucode := [(0, 0x8000000000000000)] }), ?_⟩⟩ <;> decide +kernel

/-- Offsets of form M of zero. -/
def off0 : MOff := { lo := 0, ext := none }
/-- s1 names the first byte of the own scratchpad through LS, s2 the first byte of the own vault through WY, s3 an
address that no port maps, and s4 the last 32 bytes of the scratchpad. -/
def addrs : State := regs [0, own 0, 0x3FC00000, 0x100000000, own 0x5FFE0]
/-- An open window over the first granule of the scratchpad, for a destination or a source. -/
def windowed (dst : Bool) (s : State) : State := die0 s fun x => { x with xf := { x.xf with
  windows := [{ owner := 0, dst := dst, boundary := 2, ranges := [(spKey 0 0 0, 16)] }] } }
/-- A shape of rows of 64 bytes (field 2), the step 64, every row. -/
def shaped : State :=
  { addrs with cx := { addrs.cx with live := Vector.replicate 16 (2 + 64 * 2 ^ 8), shadow := Vector.replicate 16 1 } }
/-- Every access of a member context in a compute superstep is admitted, but for those through s47. -/
theorem witness_LoadResults_lsOk (s : State) (pt : LsPort) (r : Src) (g : Bool) (l : List (Nat × Nat)) (h : s.computes)
    (hr : r ≠ .reg 47) : s.lsOk pt r g l := ⟨.inl h, fun _ h47 => absurd h47 hr⟩
theorem addrs_computes : addrs.computes ∧ shaped.computes := by decide +kernel
/-- Nobody else waits under .w.c for a granule of these states. -/
theorem witness_LoadResults_behind (gs : List Nat) : addrs.behind gs = false ∧ shaped.behind gs = false := by
  have h : addrs.placed = [⟨0, 0, 0⟩] ∧ shaped.placed = [⟨0, 0, 0⟩] := by decide +kernel
  have hc : addrs.cur = ⟨0, 0, 0⟩ ∧ shaped.cur = ⟨0, 0, 0⟩ := by decide
  simp [State.behind, h.1, h.2, hc.1, hc.2]
/-- Context 1 of the core began to wait for a granule before, and it is full now. -/
def overtaken : State := addrs.setCtx ⟨0, 0, 1⟩ { Ctx.idle with st := .stalled, fills := some (0, [spKey 0 0 0 / 16]) }
/-- Each width and V form at an aligned mapped address, with full granules, on both ports; the last bytes of the scratchpad. -/
theorem witness_LoadResults :
    let s := addrs
    let at_ := fun (r : Src) (n : Nat) => (s.cx.sval r + off0.bytes n).toNat
    s.issues ∧ s.cx.holds [.reg 1, .reg 2] ∧ s.noWindows ∧
    (∀ n ∈ [1, 2, 4, 8, 16, 32, 256], at_ (.reg 1) n % n = 0 ∧ s.portKey .ls (at_ (.reg 1) n) n = some (spKey 0 0 0) ∧
      at_ (.reg 2) n % n = 0 ∧ s.portKey .wy (at_ (.reg 2) n) n = some (vaultKey 0 (ownVault 0) 0)) ∧
    s.portKey .ls (at_ (.reg 4) 32) 32 = some (spKey 0 0 0x5FFE0) ∧
    (∀ i, i < 256 → s.badRead (spKey 0 0 0 + i) 1 = false ∧ s.full ((spKey 0 0 0 + i) / 16) = true) := by decide +kernel
theorem witness_StoreResults :
    let s := addrs
    s.issues ∧ s.noWindows ∧ s.myParked = false ∧ s.cx.holds [.latch 0, .reg 2] ∧ s.cx.within (vregsOf [.reg 47]) ∧
    (∀ i, i < 256 → s.fillingAt 0 (vaultKey 0 (ownVault 0) i) 1 = false) := by decide +kernel
theorem witness_StoreResults_node : addrs.noNode := noNode_of rfl
/-- The register before the swap, and the row limits where every row and where one row is touched. -/
theorem witness_TileAccessResults :
    let s := shaped
    let x := s.cx.shape (LsPort.ls.shapeIdx 0) false
    let row := fun (r : Nat) => ((s.cx.sval (.reg 1)).toNat : Int) + r * sfieldAt x 8 24
    s.issues ∧ s.noWindows ∧ s.cx.holds [.reg 1] ∧ fieldAt x 0 3 ≤ 4 ∧ fieldAt x 32 5 ≤ 256 / 64 ∧ x.getLsbD 60 = false ∧
    (∀ r, r < 4 → row r % 16 = 0 ∧ 0 ≤ row r ∧ s.portKey .ls (row r).toNat 64 = some (spKey 0 0 (64 * r))) ∧
    fieldAt (s.cx.shape (LsPort.ls.shapeIdx 0) true) 0 3 = 1 := by decide +kernel
/-- Lane offsets of zero at a mapped address; lane 0 misaligned; and lane 0 unmapped. -/
theorem witness_GatherScatterResults :
    let s := addrs
    let ea := fun (s : State) (i : Nat) =>
      (s.cx.sval (.reg 1) + (BitVec.ofNat 32 (laneAt (s.cx.v.get 5) 32 i)).signExtend 64).toNat
    let bent := fun (x : Vec) => { s with cx := { s.cx with v := s.cx.v.set 5 x } }
    s.issues ∧ s.noWindows ∧ (5 : Fin 48).val < s.cx.cap ∧ s.computes ∧ s.cx.holds [.reg 4, .reg 1] ∧
    (∀ i, i < 64 → ea s i % 4 = 0 ∧ s.portKey .ls (ea s i) 4 = some (spKey 0 0 0)) ∧
    ea (bent 1) 0 % 4 ≠ 0 ∧ ea (bent 0x80000) 0 % 4 = 0 ∧ s.portKey .ls (ea (bent 0x80000) 0) 4 = none ∧
    (bent 1).issues ∧ (s.cx.pval 0).getLsbD 0 = true := by decide +kernel
theorem witness_GranulesAndAccessTraps :
    let s := addrs
    let a := (s.cx.sval (.reg 1) + off0.bytes 16).toNat
    let b := (s.cx.sval (.reg 2) + off0.bytes 16).toNat
    s.issues ∧ s.computes ∧ s.cx.holds [.reg 1, .reg 2] ∧ a % 16 = 0 ∧ s.portKey .ls a 16 = some (spKey 0 0 0) ∧
    spKey 0 0 0 % 16 = 0 ∧ b % 16 = 0 ∧
    s.portKey .wy b 16 = some (vaultKey 0 (ownVault 0) 0) ∧ s.noWindows ∧
    (∀ i, i < 16 → s.fillingAt 0 (vaultKey 0 (ownVault 0) i) 1 = false) := by decide +kernel
/-- A misaligned address, an unmapped one, an empty granule outside and inside a window, an uncorrectable word. -/
theorem witness_GranulesAndAccessTraps_traps :
    let s := addrs
    let odd := regs [0, own 1]
    let empty := { s with empty := [spKey 0 0 0 / 16] }
    s.issues ∧ (exch s).issues ∧ (exch s).exchange = true ∧ s.exchange = false ∧ s.cx.ballast = none ∧
    odd.issues ∧ (odd.cx.sval (.reg 1) + off0.bytes 2).toNat % 2 ≠ 0 ∧
    (s.cx.sval (.reg 3) + off0.bytes 8).toNat % 8 = 0 ∧ s.portKey .ls (s.cx.sval (.reg 3)).toNat 8 = none ∧
    empty.issues ∧ empty.full (spKey 0 0 0 / 16) = false ∧
    (windowed true empty).issues ∧ (windowed true empty).inWindow 0 true (spKey 0 0 0 / 16) = true ∧
    (windowed true empty).full (spKey 0 0 0 / 16) = false ∧
    (windowed true empty).portKey .ls (own 0).toNat 8 = some (spKey 0 0 0) ∧
    (let bad := { s with bad := [spKey 0 0 0 / 8] };
      bad.issues ∧ bad.noWindows ∧ bad.badRead (spKey 0 0 0) 1 = true) ∧
    (let held := s.modTiers 0 fun x => { x with parked := [{ dpa := 0, page := (0, 0), stale := false, bytes := [0], owner := .cleat 0 }] };
      held.issues ∧ held.noWindows ∧ held.myParked = true) ∧
    (overtaken.issues ∧ overtaken.noWindows ∧ overtaken.full (spKey 0 0 0 / 16) = true ∧
      overtaken.behind [spKey 0 0 0 / 16] = true) := by decide +kernel

/-- A Trellis of one partition unit in vault 0, s1 naming device address 2048 × 16 (block 16, set 0). -/
def trellis (ways : Tab Way) (jobs : List FillJob) : State :=
  die0 (regs [0, 0x8000]) fun x => { x with
    tr := { x.tr with p := 1, mask := 1, ways := ways, jobs := jobs, recency := [(0, [7, 6, 5, 4, 3, 2, 1, 0])] }
    xl := { x.xl with tlb := [{ base := 0, bits := 16, dpa := 0, w := true, x := true }] } }
/-- A way that holds a block. -/
def wayOf (st : WaySt) (b : Nat) : Way := { st := st, pin := false, seq := 0, block := b, pending := none, evict := false, again := false }
/-- A fill or write-back of way 0. -/
def jobOf (wb : Bool) (landed : Nat) : FillJob :=
  { way := 0, wb := wb, block := 16, ctx := 0, tpc := 0, landed := landed, parked := false, node := false }
/-- Every way of the set in one state, with another block. -/
def allWays (st : WaySt) : Tab Way := (numsFrom 0 8).map fun w => (w, wayOf st (32 + 16 * w))
theorem witness_TrellisProbeFill :
    (let s := trellis [] [];
      s.issues ∧ s.computes ∧ s.cx.holds [.reg 1] ∧ (s.cx.sval (.reg 1)).toNat < 2 ^ 57 ∧ s.myDie.tr.p ≠ 0 ∧
      s.myDie.tr.mask ≠ 0 ∧ s.findWay 0 16 = none ∧ s.vaultAlive 0 (s.myDie.tr.home 16) = true ∧ s.victim 0 0 = some 0 ∧
      s.myDie.tr.setOf 16 = 0) ∧
    (∀ st ∈ [WaySt.clean, .dirty, .writing, .filling, .failed],
      let s := trellis [(0, wayOf st 16)] [];
      s.issues ∧ s.computes ∧ s.findWay 0 16 = some 0 ∧ (s.way 0 0).st = st ∧
        s.fillNeeds 0 16 ≤ 64 - s.myDie.tr.jobs.length) ∧
    (let s := trellis [(0, { wayOf .failed 16 with pending := some 48 })] [jobOf true 0];
      (s.way 0 0).pending = some 48 ∧ s.wbQueued 0 0 = true ∧ s.fillNeeds 0 16 ≤ 64 - s.myDie.tr.jobs.length) ∧
    (let s := trellis (allWays .dirty) [];
      s.findWay 0 16 = none ∧ s.victim 0 0 = some 0 ∧ (s.way 0 0).st = .dirty ∧ 2 ≤ 64 - s.myDie.tr.jobs.length) ∧
    (let s := trellis (allWays .filling) []; s.findWay 0 16 = none ∧ s.victim 0 0 = none) ∧
    (let s := trellis [] (List.replicate 64 (jobOf false 0)); s.fillNeeds 0 16 > 64 - s.myDie.tr.jobs.length) := by
  decide +kernel
theorem witness_TrellisManagement :
    (∀ e ∈ [(true, false), (false, false), (false, true)],
      let s := trellis [(0, { wayOf .writing 16 with again := e.1, evict := e.2 })] [];
      (s.way 0 0).pending = none ∧ (s.way 0 0).st = .writing ∧ (s.way 0 0).again = e.1 ∧ (s.way 0 0).evict = e.2) ∧
    (∀ st ∈ [WaySt.clean, .dirty, .writing, .filling, .failed],
      let s := trellis [(0, wayOf st 16)] [];
      s.issues ∧ s.computes ∧ s.findWay 0 16 = some 0 ∧ (s.way 0 0).st = st ∧ (s.way 0 0).pending = none ∧
        (s.way 0 0).pin = false ∧ s.myDie.tr.jobs.length < 64) ∧
    (∀ jobs ∈ [[], [jobOf true 0]],
      let s := trellis [(0, { wayOf .failed 16 with pending := some 48 })] jobs;
      s.issues ∧ s.findWay 0 16 = some 0 ∧ (s.way 0 0).pending = some 48 ∧ s.wbQueued 0 0 = !jobs.isEmpty ∧
        s.myDie.tr.jobs.length < 64) ∧
    (let s := trellis ((0, wayOf .clean 16) :: (numsFrom 1 7).map fun w => (w, { wayOf .clean (16 + 16 * w) with pin := true })) [];
      7 ≤ ((numsFrom 0 8).filter fun x => (s.way 0 x).pin).length) ∧
    (let s := trellis [(0, wayOf .filling 16)] [jobOf false 0];
      s.fillJob 0 0 = some (jobOf false 0) ∧ s.blockHeld 0 0 0x8000 16 .read = false ∧
      (s.dvaGet 0 0x8000 16).isOk = true) ∧
    (let s := trellis [(0, wayOf .filling 16)] [jobOf false (2 ^ 128 - 1)];
      s.fillJob 0 0 = some (jobOf false (2 ^ 128 - 1))) ∧
    (let s := die0 base fun x => { x with tr := { x.tr with p := 1, mask := 1, ways := [(0, wayOf .filling 16)], jobs := [jobOf false 0] } };
      s.fillJob 0 0 = some (jobOf false 0) ∧ s.fillCause 0 (jobOf false 0) = some .translation ∧
      s.jobCanFault 0 (jobOf false 0) = true) ∧
    (let s := trellis [(0, wayOf .writing 16)] [jobOf true 0];
      ((s.die 0).tr.jobs.find? fun j => j.way = 0 && j.wb) = some (jobOf true 0) ∧
      s.blockHeld 0 0 0x8000 2048 .write = false ∧ s.badRead (s.frameKey 0 0) 2048 = false ∧
      (s.dvaCanPut 0 0x8000 2048).isOk = true ∧
      s.parkNeed 0 0x8000 2048 = 0 ∧ (s.way 0 0).pending = none ∧ (s.way 0 0).st = .writing) ∧
    (∀ n ∈ [0, 256],
      let s := trellis [(0, wayOf .writing 16)] [jobOf true 0];
      let t := s.modTiers 0 fun x => { x with
        moves := [{ group := 0, member := 1 }], parked := List.replicate n { dpa := 0, page := (0, 0), stale := false, bytes := [0], owner := .host } };
      (t.dvaCanPut 0 0x8000 2048).isOk = true ∧ t.blockHeld 0 0 0x8000 2048 .write = false ∧
        t.parkNeed 0 0x8000 2048 = 32 ∧ t.parkRoom 0 32 = decide (n = 0)) := by
  decide +kernel

/-- A valid entry of bytes: SPACE, BASE and the extents; each axis steps by 64 but the first, which steps by 1. -/
def ent (space base : Nat) (ext : List Nat) : BitVec 512 := BitVec.ofNat 512 (
  base + ext.length * 2 ^ 72 + space * 2 ^ 78 + 2 ^ 88 +
  ((numsFrom 0 5).map fun a => ext.getD a 1 * 2 ^ (128 + 20 * a)).sum +
  ((numsFrom 0 ext.length).map fun a => (if a = 0 then 1 else 64) * 2 ^ (256 + 40 * a)).sum)
/-- A shape register that copies 16 elements of identifier 1 to identifier 2. -/
def box16 : BitVec 256 := BitVec.ofNat 256 (1 + 2 * 2 ^ 16 + 16 * 2 ^ 32 + 2 ^ 64 + 2 ^ 96 + 2 ^ 128)
/-- Die 0 with an open job, identifier 1 at the start of the own scratchpad, 2 behind it and 3 of device memory. -/
def engine (f : DieXfers → DieXfers) : State :=
  let s := die0 (regs [0, own 0x100]) fun x => { x with
    job := some 1, xf := f x.xf
    tables := { x.tables with tids := [(1, ent 1 0 [16]), (2, ent 1 64 [16]), (3, ent 0 0 [16])] } };
  { s with cx := { s.cx with live := s.cx.live.set 12 box16 } }
/-- The copy that `engine` issues. -/
def copy0 : Copy := (engine id).newCopy ((engine id).cpyIn (.reg 1) 0 false) 0 none
/-- The same to another die, and one from device memory, which does not translate. -/
def copyFar : Copy := { copy0 with remote := true, dstDie := 1 }
def copyBad : Copy := { copy0 with srcEnt := ent 0 0 [16] }
theorem witness_CopyAndTensorInstructions_copies :
    (let s := engine id;
      s.issues ∧ s.isBallast = false ∧ s.cx.holds [.reg 1, .one] ∧ s.cx.within (vregsOf [.one]) ∧
      cpyCheck (.reg 1) 0 false s = none ∧ 0 ∉ s.myHandles ∧ s.carryRoom 0 true true = true ∧
      (s.cpyIn (.reg 1) 0 false).dead = false ∧ (exch s).exchange = true ∧
      cpyCheck (.reg 1) 0 false (exch s) = none ∧ (box16.getLsbD 188 = false ∧ box16.getLsbD 189 = false) ∧
      (s.cx.sval .one).toNat < 16 ∧ s.myCopy 1 = none) ∧
    (let s := engine fun x => { x with copies := (numsFrom 0 16).map fun h => { copy0 with handle := h } };
      s.issues ∧ (∀ n, n < 16 → n ∈ s.myHandles) ∧ s.myCopy 15 = some { copy0 with handle := 15 } ∧
      copy0.ended = false) ∧
    (let s := engine fun x => { x with copies := [{ copy0 with landed := [0], ended := true }] };
      s.myCopy 0 = some { copy0 with landed := [0], ended := true }) := by decide +kernel
/-- Identifiers at the ends of the table, a map that keeps R224 and one whose RANK is 0, a layout and an index of LAYSET. -/
theorem witness_CopyAndTensorInstructions_tensors :
    let map := (ent 1 0 [16]).toNat - 2 ^ 88
    let s := (regs [0, 4095, own 0x100, 4096, own 0x200, 255 * 2 ^ 32 + own 0x200]).wr (spKey 0 0 0x100) 64 map
    s.issues ∧ s.isBallast = false ∧ s.exchange = false ∧ (s.cx.sval (.reg 1)).toNat < 4096 ∧
    s.ownKey (s.cx.enval (.src (.reg 2))).toNat 64 = some (spKey 0 0 0x100) ∧ s.badRead (spKey 0 0 0x100) 64 = false ∧
    mapFault (BitVec.ofNat 512 (s.rd (spKey 0 0 0x100) 64)) = none ∧
    mapFault (BitVec.ofNat 512 (s.rd (spKey 0 0 0x200) 64)) = some 9 ∧ 4096 ≤ (s.cx.sval (.reg 3)).toNat ∧
    (s.cx.sval (.reg 5)).toNat < 2 ^ 40 ∧
    s.ownKey ((s.cx.sval (.reg 5)).toNat % 2 ^ 32) 32 = some (spKey 0 0 0x200) ∧ s.badRead (spKey 0 0 0x200) 32 = false ∧
    layBad (BitVec.ofNat 256 (s.rd (spKey 0 0 0x200) 32)) false = none ∧ (2 : Fin 3) ≠ 0 := by decide +kernel
theorem witness_CopyAndTensorInstructions : (engine id).issues := by decide +kernel
/-- A chunk that lands, one to a lost die, one that faults; and a piece of an RPUT that faults. -/
theorem witness_CopyHappenings :
    (let s := engine fun x => { x with copies := [copy0] };
      ((s.die 0).xf.copies.find? fun c => c.ctx = 0 && c.handle = 0) = some copy0 ∧ 0 < copy0.chunks ∧ 0 ∉ copy0.landed ∧
      0 ∉ copy0.parked ∧ copy0.fault = none ∧ copy0.ended = false ∧ copy0.cancelled = false ∧ copy0.remote = false ∧
      s.chunkHeld 0 copy0 0 = false ∧ (s.chunkWrites 0 copy0 0).isOk = true ∧ tidSpace copy0.srcEnt ≠ 0 ∧
      tidSpace copy0.dstEnt ≠ 0 ∧
      (let puts := copy0.puts s 0 ((s.chunkWrites 0 copy0 0).toOption.getD []);
        s.parkFits puts = true ∧ puts ≠ [] ∧ (s.engPutAll puts (.copy 0 0 0 0)).ownerParked (.copy 0 0 0 0) = false)) ∧
    (∀ n ∈ [0, 256],
      let c := { copy0 with dstEnt := ent 0 0 [16] };
      let s := engine fun x => { x with copies := [c] };
      let t := s.modDie 0 fun x => { x with
        xl := { x.xl with tlb := [{ base := 0, bits := 16, dpa := 0, w := true, x := true }] }
        tiers := { x.tiers with
          moves := [{ group := 0, member := 1 }], parked := List.replicate n { dpa := 0, page := (0, 0), stale := false, bytes := [0], owner := .host } } };
      let puts := c.puts t 0 ((t.chunkWrites 0 c 0).toOption.getD []);
      c.srcHost = false ∧ tidSpace c.srcEnt = 1 ∧ t.chunkHeld 0 c 0 = false ∧ (t.chunkWrites 0 c 0).isOk = true ∧
        t.parkFits puts = decide (n = 0) ∧ (t.engPutAll puts (.copy 0 0 0 0)).ownerParked (.copy 0 0 0 0) = true) ∧
    (let s := engine fun x => { x with copies := [copyFar] };
      let t := { s with plan := { s.plan with dies := s.plan.dies.set 1 { DiePlan.reset 1 with alive := false } } };
      copyFar.remote = true ∧ t.dieGone copyFar.dstDie = true ∧ s.dieGone copyFar.dstDie = false) ∧
    (let s := engine fun x => { x with copies := [copyBad] };
      0 < copyBad.chunks ∧ (s.chunkWrites 0 copyBad 0).isOk = false ∧ s.roomFor (ctxIn 0 0) = true) := by decide +kernel

/-- An RPUT of 1,024 bytes within die 0, in two pieces. -/
def rput0 : Rput :=
  { ctx := 0, place := 0, tpc := 0, src := .spad 0 0 0, dst := .spad 0 1 0, len := 1024, die := 0, paths := 4, landed := [],
    acked := [], fault := none, stopped := false, carry := none, phase := 1, seq := 0 }
/-- An RFLAG to the other scratchpad. -/
def rflag0 : Rflag :=
  { ctx := 0, place := 0, tpc := 0, dst := .spad 0 1 8, die := 0, value := 5, ord := true, landed := false, carry := none,
    phase := 1, seq := 1 }
/-- A put record of 16 bytes to a scratchpad of fabric die 0 at own offset 0x100, s2 a flag word that names it, and a
shape register of a halo of depth 1 along X of identifier 4. -/
def remote (f : DieXfers → DieXfers) : State :=
  let s := exch (die0 (regs [0, own 0x100, 16]) fun x => { x with
    job := some 1, xf := f x.xf, tables := { x.tables with tids := [(4, ent 1 0 [1, 3, 3, 3])] } });
  { (s.wr (spKey 0 0 0x100) 8 (2 ^ 62 + 0x3F80000)).wr (spKey 0 0 0x108) 16 (2 ^ 62 + 16 * 2 ^ 64) with
    cx := { s.cx with live := s.cx.live.set 12 (4 + 0x10000) } }
/-- A packet that brings face 0 of a halo of fabric die `src` of another package, 9 bytes. -/
def facePacket (src : Nat) : LinkPacket := {
  head := {
    dst := 0, cls := 0, src := src, ctx := 5, index := 1, addr := 0, flits := 1, len := 9
    face := some { tid := 4, bar := 1, dx := 1, dy := 0, dz := 0, face := 0, entry := ent 1 0 [1, 3, 3, 3] }
    order := [], detours := [] }
  data := [0] }
/-- A halo that has met all its faces. -/
def haloEnded : Halo := { (remote id).newHalo (4 + 0x10000) 0 with edge := 3, sent := 0x3F, acked := 0x3F }
theorem witness_RemoteInstructions :
    (let s := remote id;
      s.issues ∧ s.isBallast = false ∧ s.exchange = true ∧
      s.ownKey (s.cx.sval (.reg 1)).toNat 32 = some (spKey 0 0 0x100) ∧ s.badRead (spKey 0 0 0x100) 32 = false ∧
      (s.putArgs (BitVec.ofNat 256 (s.rd (spKey 0 0 0x100) 32))).isSome = true ∧ s.myPuts = [] ∧
      s.carryRoom 0 true true = true ∧ (s.flagPlace (s.cx.sval (.reg 2)).toNat).isSome = true ∧ s.myFlags = [] ∧
      (let x := s.newHalo (s.cx.shape (ehIdx 0) false) 0;
        x.dx = 1 ∧ x.dy = 0 ∧ x.dz = 0 ∧ tidValid x.entry = true ∧ tidRank x.entry = 4 ∧ tidSpace x.entry ≤ 2 ∧
        3 * x.dx ≤ tidExt x.entry 1 ∧ s.haloRoom 0 x = true) ∧
      s.myHalos = [] ∧ s.haloOf 0 0 0 = none ∧ (s.cx.sval .one).toNat < 4) ∧
    (let s := remote fun x => { x with
        rputs := (numsFrom 0 8).map fun n => { rput0 with place := n }
        rflags := (numsFrom 0 8).map fun n => { rflag0 with place := n }
        halos := (numsFrom 0 4).map fun n => { haloEnded with handle := n } };
      s.issues ∧ 8 ≤ s.myPuts.length ∧ 8 ≤ s.myFlags.length ∧ (∀ n, n < 4 → n ∈ s.myHalos) ∧
      s.haloOf 0 0 0 = some haloEnded ∧ haloEnded.ended = true ∧ { haloEnded with acked := 0 }.ended = false) := by
  decide +kernel
/-- Pieces at both ends of an RPUT; an ordered RFLAG behind it; a face that may be read. -/
theorem witness_RemoteHappenings :
    (let s := remote fun x => { x with rputs := [rput0], rflags := [rflag0] };
      ((s.die 0).xf.rputs.find? fun r => r.ctx = 0 && r.place = 0) = some rput0 ∧
      1 < ceilDiv rput0.len 512 ∧ rput0.fault = none ∧ rput0.stopped = false ∧
      s.dieGone rput0.die = false ∧ s.engHeld (ownWindows none) (rput0.src.plus 512) 512 .read = false ∧
      s.engHeld (ownWindows none) (rput0.dst.plus 512) 512 .write = false ∧ (s.engGet 3 (rput0.src.plus 512) 512).isOk = true ∧
      s.engParked (rput0.src.plus 512) 512 ParkOwner.isRput = false ∧
      (s.engCan (rput0.dst.plus 512) 512).isOk = true ∧ s.pieceParked 0 rput0 0 = false ∧
      s.parkFits [(rput0.dst.plus 512, List.replicate 512 0)] = true ∧
      ((s.die 0).xf.rflags.find? fun f => f.ctx = 0 && f.place = 0) = some rflag0 ∧ rput0.seq < rflag0.seq ∧
      s.engHeld (ownWindows none) rflag0.dst 8 .write = false) ∧
    (let h := { haloEnded with edge := 0, sent := 0, acked := 0 };
      let s := remote fun x => { x with halos := [h] };
      let own := s.haloWindows h.tid;
      s.haloOf 0 0 0 = some h ∧ h.depth 0 ≠ 0 ∧ h.ready 0 = true ∧ s.faceDie 0 0 = 1 ∧
      s.ownerParked (.face 0 0 0 0) = false ∧ faceFits h.entry (s.tid 1 h.tid) = false ∧
      (h.srcPlaces 0 0).length = 9 ∧ (s.readAll 5 1 (h.srcPlaces 0 0)).isOk = true ∧
      (∀ p ∈ h.srcPlaces 0 0, s.engHeld own p 1 .read = false ∧ s.engParked p 1 ParkOwner.isFace = false) ∧
      (let t := s.modDie 1 fun x => { x with tables := { x.tables with tids := [(4, ent 1 0 [1, 3, 3, 3])] } };
        let dst := h.dstPlaces 1 0 (t.tid 1 4);
        let puts := joinWrites (dst.zip (List.replicate 9 [0]));
        faceFits h.entry (t.tid 1 h.tid) = true ∧ dst.length = 9 ∧ (∀ p ∈ dst, t.engHeld own p 1 .write = false) ∧
          t.canAll 1 dst = none ∧ t.parkFits puts = true ∧
          (t.engPutAll puts (.face 0 0 0 0)).ownerParked (.face 0 0 0 0) = false) ∧
      (let t := { s with plan := { s.plan with dies := s.plan.dies.set 0 { DiePlan.reset 0 with
          ports := (DiePlan.reset 0).ports.set 1 3 } } };
        8 ≤ t.faceDie 0 0)) ∧
    (let h := { haloEnded with acked := 0 }; h.sent.getLsbD 5 = true ∧ h.acked.getLsbD 5 = false) ∧
    (∀ src ∈ [2, 4095],
      let s := (remote id).modDie 0 fun x => { x with inbox := [facePacket src] };
      ((s.faceWaits src 5 1 0).any fun x =>
        let h := x.2;
        let e := s.tid x.1 h.tid;
        let dst := h.dstPlaces x.1 0 e;
        let bs := List.replicate 9 (0 : Byte);
        let puts := joinWrites (dst.zipIdx.map fun p => (p.1, (bs.drop p.2).take 1));
        x.1 = 0 && h.depth 0 ≠ 0 && faceFits h.entry e && dst.length = 9 &&
          (dst.all fun p => !s.engHeld (s.haloWindows h.tid) p 1 .write) &&
          !s.ownerParked (.face (8 + src) h.ctx h.handle 0) &&
          faceBytes ((s.die 0).inbox.filter fun x => x.ofFace src h.ctx h.handle 0) 9 = some bs && s.parkFits puts &&
          s.canAll 1 dst = none &&
          !(s.engPutAll puts (.face (8 + src) h.ctx h.handle 0)).ownerParked (.face (8 + src) h.ctx h.handle 0)) = true) := by
  decide +kernel

/-- A collective record: one level of one transfer of 16 bytes from identifier 1 to 2, in a group of one die. -/
def collRec0 : BitVec 1024 :=
  BitVec.ofNat 1024 (2 ^ 16 + 2 ^ 32 + 2 ^ 128 + 2 * 2 ^ 144 + 16 * 2 ^ 160 + 2 ^ 256)
/-- An operation of die 0 alone, and its kinds. -/
def coll0 : Coll :=
  { ctx := 0, handle := 0, kind := .coll, tag := 0, record := collRec0, group := [0], sched := 0, srcId := 1, dstId := 2
    srcEnt := ent 1 0 [16], dstEnt := ent 1 64 [16], shard := 0, step := 0, applied := [], aborted := false, reason := 0
    who := 0, complete := false, ended := false, carry := none, phase := 1, undo := false }
/-- A schedule of one step in which die 0 sends 16 bytes to itself. -/
def sched0 : Schedule :=
  { header := BitVec.ofNat 512 (16 * 2 ^ 128 + 2 ^ 160 + 2 ^ 192 + 2 ^ 224 + 2 ^ 256)
    steps := [{ sdie := 0, rdie := 0, scount := 16, sstart := 0, dstart := 0, rcount := 16 }] }
/-- Die 0 with an open job, device page 0 mapped, the record at own offset 0x100 and two operations' tables. -/
def collState (cs : List Coll) : State :=
  let s := exch (die0 (regs [0, own 0x100, 1 * 2 ^ 16 * 2 + 1, 0]) fun x => { x with
    job := some 1, xf := { x.xf with colls := cs }
    xl := { x.xl with tlb := [{ base := 0, bits := 16, dpa := 0, w := true, x := true }] }
    tables := { x.tables with tids := [(1, ent 1 0 [16]), (2, ent 1 64 [16])], scheds := [(0, sched0)] } });
  s.wr (spKey 0 0 0x100) 128 collRec0.toNat
theorem witness_Collectives :
    (let s := collState [];
      s.issues ∧ s.isBallast = false ∧ s.exchange = true ∧ collCheck (.reg 1) (.src .zero) false s = none ∧
      s.gmapWaits (collOf (.reg 1) (.src .zero) false s).record = false ∧
      (busyLine 0 s).issues ∧ (busyLine 0 s).gmapWaits collRec0 = true ∧ collCheck (.reg 1) (.src .zero) false (busyLine 0 s) = none ∧
      collCheck (.reg 1) (.src .zero) true s = none ∧ reshardCheck (.reg 2) (.src .zero) s = none ∧ s.myColls = [] ∧
      2 ≤ s.freeWindows 0 ∧ (collCheck .zero (.src .zero) false s).isSome = true ∧
      s.ownKey (s.cx.sval (.reg 1)).toNat 4096 = some (spKey 0 0 0x100)) ∧
    (let s := collState ((numsFrom 0 4).map fun n => { coll0 with handle := n, ended := n = 3 });
      s.issues ∧ (∀ n, n < 4 → n ∈ s.myColls) ∧ (s.cx.sval .one).toNat < 4 ∧ (s.cx.sval (.reg 3)).toNat < 4) := by
  decide +kernel
/-- A transfer applied, one already applied, one whose receiver has no entry, a shard that differs, a step and an end. -/
theorem witness_Collectives_happenings :
    (let s := collState [coll0];
      s.collAt 0 0 0 = some coll0 ∧ s.collRuns coll0 = true ∧ 0 < s.collCount 0 coll0 ∧
      s.ownerParked (.coll 0 1 0 0) = false ∧ coll0.reduces = false ∧
      ((s.xferAt 0 coll0 0).any fun x => xferFits coll0.srcEnt (s.tid 0 x.dtid) x &&
        (s.prefixes coll0 (s.xfersTo coll0 0) x 0 (s.tid 0 2) 1 (lamsFrom coll0.srcEnt 0 16)).isOk &&
        s.parkFits (joinWrites ((lamsFrom coll0.srcEnt 0 16).map fun n => (lamPlace 0 (s.tid 0 2) n, [0])))) = true ∧
      (∀ p ∈ (lamsFrom coll0.srcEnt 0 16).map (lamPlace 0 coll0.srcEnt),
        s.engHeld (fun _ => false) p 1 .read = false ∧ s.engParked p 1 ParkOwner.isColl = false) ∧
      (s.xferAt 0 coll0 0).map (·.peer) = some 0 ∧ s.collOp 0 1 0 = some coll0 ∧
      (∀ x, s.xferAt 0 coll0 0 = some x → True) ∧ coll0.applied = [] ∧
      (s.readAll 6 1 ((lamsFrom coll0.srcEnt 0 16).map (lamPlace 0 coll0.srcEnt))).isOk = true ∧
      s.canAll 1 ((lamsFrom coll0.srcEnt 0 16).map (lamPlace 0 (s.tid 0 2))) = none) ∧
    (let c := { coll0 with applied := [(0, 0)] };
      (collState [c]).collRuns c = true ∧ (collState [c]).collDone c = true ∧ c.ended = false ∧
        { c with complete := true }.ended = false ∧ { c with aborted := true }.ended = false) ∧
    (let c := { coll0 with dstId := 7 };
      (collState [c]).collRuns c = true ∧ tidValid ((collState [c]).tid 0 c.dstId) = false) ∧
    (let c := { coll0 with kind := .reshard, applied := [(0, 0)] };
      (collState [c]).collRuns c = true ∧ (collState [c]).stepDone 0 c = true ∧ c.srcId ≠ c.dstId) ∧
    (let c := { coll0 with kind := .gathj, group := [0, 1], record := collRec0 ||| 1 <<< 304 };
      let o := { c with shard := 1 };
      let s := collState [c];
      let t := { s with dies := s.dies.set 1 { Die.reset with job := some 1, xf := { Die.reset.xf with colls := [o] } } };
      t.collRuns c = true ∧ (t.xferAt 0 c 0).map (·.peer) = some 1 ∧ t.collOp 1 1 0 = some o ∧ c.shard ≠ o.shard) := by
  refine ⟨⟨?_, ?_, ?_, ?_, ?_, ?_, ?_, ?_, ?_, fun _ _ => trivial, ?_, ?_, ?_⟩, ?_, ?_, ?_, ?_⟩ <;> decide +kernel

/-- Die 0 with a lock word held or free, and barriers. -/
def locked (ls : List LockRec) (w : Nat) : State :=
  (die0 (regs [0, 0x100, 8, 3, 0x100000000000100, 5]) fun x => { x with
    tables := { x.tables with locks := ls, wheel := [(0, 0)] } }).wr (cleatKey 0 0x100) 8 w
/-- A lock record of a context. -/
def lockOf (owner : Nat) (granted : Bool) : LockRec := { addr := 0x100, owner := owner, waiters := [], granted := granted, dropping := false }
theorem witness_CleatInstructions :
    (∀ s ∈ [locked [] 0, locked [lockOf 0 false] 0x8000000000000000, locked [lockOf 0 true] 0x8000000000000000,
        locked [lockOf 5 false] 0x8000000000000005],
      s.issues ∧ s.computes ∧ s.cx.inNode = false ∧ s.cx.holds [.reg 1] ∧ (s.cx.sval (.reg 1)).toNat % 8 = 0 ∧
      (s.cx.sval (.reg 1)).toNat < 0x300000 ∧ (s.cx.sval (.reg 3)).toNat % 8 ≠ 0 ∧
      s.badRead (cleatKey 0 0x100) 8 = false ∧ (s.cx.sval (.reg 2)).toNat < 4096 ∧
      (s.cleatKeyOf 0x100 8 false false).isOk = true ∧ s.cleatParked (s.cleatKeyOf 0x100 8 false false) = false ∧
      (s.cleatGet 0 0x100 8).isOk = true ∧ s.myLocks.length < 16) ∧
    (locked [] 0).lockRec 0x100 = none ∧
    (locked [lockOf 0 true] 0).lockRec 0x100 = some (lockOf 0 true) ∧
    (let s := locked [] 0; (s.barrier 0 8).gen = 0 ∧ (s.barrier 0 8).gen ≠ (s.cx.enval (.src .one)).setWidth 32 ∧
      (s.cleatKeyOf 0x100000000000100 8 true false).isOk = true) ∧
    (let s := die0 (locked [] 0) fun x => { x with tables := { x.tables with wheel := [(0, 0)], scWait := [4096] } };
      s.wheelHas = true ∧ s.scGiven = true) := by decide +kernel
/-- A Stalled context whose BARW of generation 1 may go on (the generation is 0), and the wheel's position with an
operation that waits. -/
theorem witness_CleatInstructions_reply :
    (let s := regs [0, 1];
      let t := { s with cx := { s.cx with
        st := .stalled
        resume := some { rpc := 0, words := encode (.barw (some 3) .zero (.src .one) 0), perf := 0, pend := none } } };
      (t.ctx (ctxIn 0 0)).st = .stalled ∧ (t.die 0).th.stopped = false ∧ (t.focus (ctxIn 0 0)).onReply = true ∧
      t.stillBlocked (ctxIn 0 0) = false ∧ (t.focus (ctxIn 0 0)).cx.rollback = false ∧
      (t.focus (ctxIn 0 0)).beforeTrap.isNone = true ∧
      decodeOne (encode (.barw (some 3) .zero (.src .one) 0)) = some (.barw (some 3) .zero (.src .one) 0) ∧
      waitsReply (.barw (some 3) .zero (.src .one) 0) = true) ∧
    (let tb := (die0 base fun x => { x with tables := { x.tables with wheel := [(0, 0)], scWait := [0] } }).myDie.tables;
      tabGet tb.wheel tb.wheelPos = some 0 ∧ (tb.scWait.find? fun w => w < 4096 && w / 4 = (0 : BitVec 16).toNat) = some 0) ∧
    tabGet (base.die 0).tables.wheel 0 = none ∧
    (let s := die0 (regs [0, 0]) fun x => { x with th := { x.th with stopped := true } }; (s.die 0).th.stopped = true) ∧
    (let s := regs [0, 0];
      let t := fun i => { s with cx := { s.cx with
        st := .stalled, resume := some { rpc := 0, words := encode i, perf := 0, pend := none } } };
      (t (.barw (some 3) .zero (.src .zero) 0)).stillBlocked (ctxIn 0 0) = true ∧
        ((t (.mwait .none)).focus (ctxIn 0 0)).onReply = false ∧ (t (.mwait .none)).stillBlocked (ctxIn 0 0) = false) := by
  decide +kernel

/-- A launch of priority 1, queue 0 alone, depth 1. -/
def launch1 : Launch := { id := 0, header := BitVec.ofNat 1024 (17 * 2 ^ 168 + 2 ^ 848), ctxs := [0], priv := false }
/-- A queue of 64 records that a launch holds, with `n` records in it. -/
def queueOf (n : Nat) : Queue :=
  { Queue.reset with log2n := 6, prod := true, held := true, tail := BitVec.ofNat 32 n }
/-- Die 0 running launch1, device page 0 mapped, a scheduler as given. -/
def tasks (f : DieSched → DieSched) : State :=
  die0 (regs [0, own 0x100, 1, 0]) fun x => { x with
    xl := { x.xl with tlb := [{ base := 0, bits := 16, dpa := 0, w := true, x := true }] }
    sched := f { x.sched with launches := [launch1], queues := [(0, queueOf 0)] } }
/-- The current context holds an item of queue 0, in a replayable node or not, with its log. -/
def holding (node : Option Dword) (log : List LogOp) (s : State) : State := { s with cx := { s.cx with
  item := some { queue := 0, index := 0, wid := 0, node := node, regions := [], log := log, replays := 0, pc := 0, failed := [] } } }
/-- A write of the current context to a group that moves is parked. -/
def parking (s : State) : State :=
  s.modTiers 0 fun x => { x with parked := [{ dpa := 0, page := (0, 0), stale := false, bytes := [0], owner := .cleat 0 }] }
/-- A write of another context to the page that holds the ring is parked. -/
def parkingRing (s : State) : State :=
  s.modTiers 0 fun x => { x with parked := [{ dpa := 0, page := (0, 0), stale := false, bytes := [0], owner := .cleat 1 }] }
/-- A replay that waits in queue 0. -/
def replay0 : Replay := { queue := 0, index := 0, wid := 0, arg := 0, depth := 0, count := 1, failed := [] }
theorem witness_TaskInstructions :
    (let s := tasks id;
      s.issues ∧ s.computes ∧ s.cx.inNode = false ∧ s.myDie.sched.rebuilding = false ∧ s.cx.holds [.reg 1] ∧
      s.myParked = false ∧ (s.recAt (s.cx.sval (.reg 1)).toNat).isOk = true ∧ (tspawnCheck (.reg 1) (.src .zero) s).isNone = true ∧
      s.myLaunch = some launch1 ∧ launch1.depth = 1 ∧ s.taskState 0 0 = 0 ∧ s.myDie.sched.reserved = [] ∧
      s.logBad.isNone = true ∧ s.retireBlocks.isNone = true ∧ s.cx.item = none ∧ (qpopCheck .zero s).isNone = true ∧
      s.retire.headParked 0 0 = false ∧ (s.retire.pick launch1).2 = none ∧ s.queueOk 0 0 true = true ∧
      (s.queueAt 0 0).room = 64 ∧ s.pushRoom 0 0 = true ∧ s.queueOk 0 0 false = true ∧ ¬ launch1.depth < s.cx.ctl.wdep.toNat + 1 ∧
      launch1.depth < { s.cx.ctl with wdep := 1 }.wdep.toNat + 1) := by decide +kernel
/-- A replay to take and a full queue; items held in a replayable node and outside; retirements that wait; task records. -/
theorem witness_TaskInstructions_held :
    (let s := tasks fun x => { x with replays := [replay0], queues := [(0, queueOf 64)] };
      ((s.under true).begun.retire.pick launch1).2.isSome = true ∧ (qpopBlocks s).isNone = true ∧ s.retire.headParked 0 0 = false ∧
        (s.queueAt 0 0).room = 0 ∧ s.pushRoom 0 0 = true) ∧
    (let s := parkingRing (tasks fun x => { x with queues := [(0, queueOf 1)] });
      s.retire.headParked 0 0 = true ∧ s.retireBlocks.isNone = true ∧
        (s.retire.pick launch1).2 = some (0, (s.retire.pick launch1).2.elim 0 (·.2.1), .wait)) ∧
    (let s := holding (some 0) [] (tasks id);
      s.issues ∧ s.cx.inNode = true ∧ s.cx.logFull = false ∧ (tspawnCheck (.reg 1) (.src .zero) s).isNone = true ∧
        s.taskState 0 0 = 0 ∧ s.queueOk 0 0 true = true ∧ (aredKey 0x100000000000100 s).isOk = true ∧
        s.cleatParked (aredKey 0x100000000000100 s) = false) ∧
    (let s := holding none [] (tasks id);
      s.issues ∧ s.cx.inNode = false ∧ s.logBad.isNone = true ∧ s.retireBlocks.isNone = true) ∧
    (let s := holding (some 0) [.qpush 0 0] base; s.issues ∧ s.logBad.isNone = true ∧ s.retireBlocks.isSome = true) ∧
    (let s := parking (holding none [] base); s.issues ∧ s.myParked = true ∧ s.retireBlocks.isSome = true) ∧
    (let s := (tasks id).wr (taskKey 0 1 1) 1 1;
      s.taskState 0 1 = 1 ∧ s.taskState 0 0 ≠ 1 ∧ s.taskFld 0 1 4 4 = 0) ∧
    (let s := ((tasks id).wr (taskKey 0 65535 1) 1 1).wr (taskKey 0 65535 4) 4 1;
      s.taskState 0 65535 = 1 ∧ s.taskFld 0 65535 4 4 - 1 = 0) := by decide +kernel
/-- READY tasks of each kind, with a word that is read; a WORK task with room and without; the ageing of a queue. -/
theorem witness_TaskHappenings :
    (∀ kind ∈ [0, 1, 2, 3, 4],
      let s := ((tasks fun x => { x with ready := [.task 1] }).wr (taskKey 0 1 1) 1 2).wr (taskKey 0 1 0) 1 kind;
      (s.die 0).sched.ready = [.task 1] ∧ s.taskState 0 1 = 2 ∧ s.taskFld 0 1 0 1 = kind ∧
      (s.dvaGet 0 (s.taskFld 0 1 0x10 8) 8).isOk = true ∧ (s.queueAt 0 (s.taskFld 0 1 2 2)).room ≠ 0) ∧
    ((tasks id).die 0).sched.ready = [] ∧
    (∀ kind ∈ [0, 4],
      let s := ((tasks fun x => { x with ready := [.task 1] }).wr (taskKey 0 1 1) 1 2).wr (taskKey 0 1 0) 1 kind;
      s.serveHeld 0 (.task 1) = false) ∧
    (∀ kind ∈ [1, 2, 3],
      let s := ((tasks fun x => { x with ready := [.task 1] }).wr (taskKey 0 1 1) 1 2).wr (taskKey 0 1 0) 1 kind;
      s.serveHeld 0 (.task 1) = false ∧ (busyLine 0 s).serveHeld 0 (.task 1) = true ∧
        ((s.modSched 0 fun x => { x with ready := [] }).dvaGet 0 (s.taskFld 0 1 0x10 8) 8).isOk = true) ∧
    (let s := tasks fun x => { x with ready := [.cont 0 0 0 false] };
      s.serveHeld 0 (.cont 0 0 0 false) = false ∧ (busyLine 0 s).serveHeld 0 (.cont 0 0 0 false) = true) ∧
    ((tasks fun x => { x with queues := [(0, queueOf 64)] }).queueAt 0 0).room = 0 ∧
    (base.queueAt 0 0).log2n = 0 ∧ (base.dvaGet 0 0 8).isOk = false ∧
    (let s := { (tasks fun x => { x with queues := [(0, queueOf 1)] }) with nowCyc := 1048576 };
      s.queueEmpty 0 0 = false ∧ (s.holder 0 0).map (·.prio) = some 1 ∧
      (s.queueAt 0 0).since + 1048576 * ((s.queueAt 0 0).aged + 1) ≤ s.nowCyc) ∧ base.queueEmpty 0 0 = true := by
  decide +kernel

/-- A diagnostic packet: READ of fast address 0 (zero image) and of an address that is not a line's. -/
def priv (x : Nat) (ps : List DiagPkt) : State :=
  let s := die0 (regs [0, own 0x100]) fun d => { d with tiers := { d.tiers with diag := ps } };
  { s.wr (spKey 0 0 0x100) 96 x with cx := { s.cx with priv := true } }
theorem witness_SystemInstructions :
    (let s := base;
      s.issues ∧ s.cx.holds [.reg 1] ∧ s.isBallast = false ∧ s.mxBusy s.cur = false ∧ s.myParked = false ∧
      s.logBad.isNone = true ∧ s.retireBlocks.isNone = true ∧
      s.cx.ctl.rmv ≤ s.cx.sval .zero ∧ s.cx.sval .zero ≤ s.cx.ctl.rmp ∧ s.cx.ctl.rmp < s.cx.sval .one ∧
      s.cx.priv = false ∧ (s.under true).begun.retire.mxBusy (s.under true).begun.retire.cur = false) ∧
    (queued (.mzero 0 .fp32)).mxBusy base.cur = true ∧
    { base with cx := { base.cx with ballast := some 0 } }.isBallast = true ∧
    (parking base).issues ∧ (parking base).myParked = true ∧
    (let s := { holding (some 0) [.ared 0x100000000000100 0] base with bad := [cleatKey 0 0x100 / 8] };
      s.issues ∧ s.logBad.isSome = true) ∧
    (let s := priv 0 [];
      s.issues ∧ s.cx.priv = true ∧ s.computes ∧ s.ownKey (s.cx.sval (.reg 1)).toNat 96 = some (spKey 0 0 0x100) ∧
      s.badRead (spKey 0 0 0x100) 96 = false ∧ bdFieldBad (BitVec.ofNat 768 (s.rd (spKey 0 0 0x100) 96)) = none ∧
      bdFieldBad (BitVec.ofNat 768 (2 ^ 64)) = some 8 ∧ s.myReply = none ∧ s.myPending = false ∧
      s.moving 0 0 = false ∧ s.slotBarred 0 false 0 = false) ∧
    (priv 0 [pkt false none]).myPending = true ∧ (priv 0 [pkt false none]).myReply = none ∧
    (priv 0 [pkt true (some 0)]).myReply = some (pkt true (some 0)) ∧ 16 ≤ (priv 0 (List.replicate 16 (pkt false none))).myDie.tiers.diag.length := by
  decide +kernel
/-- A record of a trap of a cause, at a level. -/
def trapped (level : Nat) (c : Cause) : State :=
  let r : TrapRec := {
    bundle := { rpc := 8, words := [], perf := 0, pend := none }, slot := 9, defer := false, cause := c, xfer := some (.cpy 0)
    saved := none, aside := Vector.replicate 8 none };
  { base with cx := { base.cx with level := level, rec1 := some r, rec2 := if level = 2 then some r else none } }
/-- Levels 0 to 2, a cause of each kind, a handler and none, a deferred fault and an empty watchdog. -/
theorem witness_TrapsAndReturns :
    base.issues ∧ base.cx.level = 0 ∧
    (∀ c ∈ [Cause.engineAsync, .access], ∀ l ∈ [1, 2], (trapped l c).issues ∧ (trapped l c).cx.level = l ∧
      (if l = 1 then (trapped l c).cx.rec1 else (trapped l c).cx.rec2).map (·.cause) = some c) ∧
    base.consumes base.cur { cause := .access, slot := 0 } = false ∧ base.cx.ctl.tvec = 0 ∧
    (let t := { base.cx.ctl with tvec := 4 }.tvec; t ≠ 0 ∧ t.toNat % 4 = 0 ∧ t.toNat < 2 ^ 57) ∧
    (let f : DFault := { cause := .access, tpc := 0, info := {}, xfer := none };
      let s := { base with cx := { base.cx with held := [f] } };
      let c := s.ctx (ctxIn 0 0);
      c.st = .running ∧ c.rollback = false ∧ c.sailPend = false ∧ c.level = 0 ∧ c.held = [f] ∧ c.ctl.wdog ≠ 0) ∧
    (let c := { base.cx with ctl := { base.cx.ctl with wdog := 0 } }; c.ctl.wdog = 0 ∧ c.held = []) := by decide +kernel

/-- Die 0 holds a job and its context sleeps after PHEND. -/
def resting : State :=
  let s := die0 base fun x => { x with job := some 1, launched := true };
  { s with cx := { s.cx with
      st := .sleepBoundary, sleepRec := some { rpc := 0, words := [0x00C00000, 0xC0000000], perf := 0, pend := none } } }
theorem witness_PhaseBoundary :
    (let s := resting;
      (s.die 0).job.isSome = true ∧ s.dieAlive 0 = true ∧ 0 ∈ s.members ∧ (s.die 0).launched = true ∧ s.hy.frozen = false ∧
      s.owes 0 (s.hy.phc.toNat + 1) = false ∧
      s.placedOn 0 = [s.cur] ∧ s.hy.arrived.getLsbD 0 = false ∧ s.cur ∈ s.placed ∧ s.cur.die ∈ s.domain) ∧
    (let s := { resting with hy := { resting.hy with arrived := 1, timer := some 50000 } };
      s.domain = [0] ∧ s.hy.pkgs = [] ∧ s.carriesLanded = true ∧ s.hy.arrived.getLsbD 0 = true ∧ s.mayArrive 0 = true ∧
      s.overdue 0 = [] ∧ s.parkedBy 0 ParkOwner.isCleat = false ∧ s.hy.phc ≠ BitVec.allOnes 64 ∧
      s.cx.st = .sleepBoundary ∧ s.cx.sleepRec.isSome = true ∧ s.cx.ballast = none ∧ s.hy.tmo ≤ 50000 ∧ s.acting = none) ∧
    (let s := { resting with hy := { resting.hy with arrived := 1, preen := true, target := 1 } };
      s.hy.target.toNat = s.hy.phc.toNat + 1 ∧ s.carriesLanded = true ∧ s.mayArrive 0 = true) ∧
    (let s := die0 resting fun x => { x with job := some 1 }; s.mayArrive 0 = false) ∧
    (base.die 0).job.isSome = false ∧ base.domain = [] ∧ base.hy.timer = none ∧
    { base.hy with timer := some 49999 }.timer = some 49999 ∧ 49999 < base.hy.tmo ∧
    { base.hy with phc := BitVec.allOnes 64 }.phc = BitVec.allOnes 64 := by decide +kernel
/-- Die 0's lodge core acts as Belvedere in term 1, its last renewal at time 0. -/
def belvedere : State := { base with
  lodge := base.lodge.set 0 { running := true, haltedAt := none, lastHalt := none, acting := some 1, renewed := 0, again := false }
  mail := Vector.replicate 8 { holder := 0, term := 1, stamp := 0 } }
/-- A lodge core that runs and does not act. -/
def lodgeIdle (halted : Option Nat) (now : Nat) : State := { base with
  nowUs := now
  lodge := base.lodge.set 0 {
    running := halted.isNone, haltedAt := halted, lastHalt := some 0, acting := none, renewed := 0, again := false } }
/-- Die 0's lodge core acts and die 1's is halted since time 0. -/
def reloading (now : Nat) : State := { belvedere with
  nowUs := now
  lodge := (belvedere.lodge.set 0 { (belvedere.lodgeAt 0) with renewed := now }).set 1 {
    running := false, haltedAt := some 0, lastHalt := some 0, acting := none, renewed := 0, again := false } }
/-- Only the mailboxes of a set can be written. -/
def mailLost (s : State) (m : BitVec 8) : State := { s with outside := { s.outside with mail := m } }
theorem witness_SailPlanAndLodge :
    belvedere.acting = some 0 ∧
    (let r : Report := { change := .coreOff 0 0, cls := some 0, unit := 0, addr := 0 };
      belvedere.changes? r.change = true ∧ belvedere.changeWaits r.change = false ∧ belvedere.changes? (.dieLost 9) = false ∧
      belvedere.changeWaits (.dieLost 9) = false ∧ belvedere.dieAlive 0 = true ∧ base.acting = none ∧
      (trellis [(0, wayOf .dirty 16)] []).changeWaits (.vaultOff 0 0) = false ∧
      ((trellis [(0, wayOf .dirty 16)] []).modTiers 0 fun x => { x with
        diag := [{ pkt false none with addr := 0x8000 }] }).changeWaits (.vaultOff 0 0) = true) ∧
    (let s := lodgeIdle none 6000;
      (s.lodgeAt 0).running = true ∧ s.dieAlive 0 = true ∧ 5 ≤ ((numsFrom 0 8).filter fun e => !s.leaseLive e).length ∧
      s.claimAt 0 ≤ s.nowUs ∧ s.hy.expiries = 0 ∧ (lodgeIdle none 0).nowUs < (lodgeIdle none 0).claimAt 0 ∧
      ((numsFrom 0 8).filter fun e => s.outside.mail.getLsbD e).length = 8 ∧
      ((numsFrom 0 8).filter fun e => (mailLost s 0x1F).outside.mail.getLsbD e).length = 5 ∧
      ((numsFrom 0 8).filter fun e => (mailLost s 0x0F).outside.mail.getLsbD e).length < 5 ∧
      (mailLost s 0x0F).claimAt 0 ≤ (mailLost s 0x0F).nowUs) ∧
    (let s := { belvedere with nowUs := 1000 };
      (s.lodgeAt 0).acting = some 1 ∧ s.actsNow 0 = true ∧ (s.lodgeAt 0).renewed + 1000 ≤ s.nowUs) ∧
    (let s := { belvedere with nowUs := 3500 };
      s.actsNow 0 = false ∧ (s.lodgeAt 0).renewed + 3500 ≤ s.nowUs) ∧
    (let s := mailLost (lodgeIdle none 103500) 0x0F;
      ((numsFrom 0 8).filter fun e => s.outside.mail.getLsbD e).length < 5 ∧ s.acting = none ∧ (s.lodge.toList.map Lodge.actsUntil).foldl Nat.max 0 + 100000 ≤ s.nowUs ∧
      (lodgeIdle none 99999).nowUs < ((lodgeIdle none 0).lodge.toList.map Lodge.actsUntil).foldl Nat.max 0 + 100000) ∧
    (let s := lodgeIdle none 86400000000; (s.lodgeAt 0).running = true ∧ (s.lodgeAt 0).lastHalt = some 0 ∧
      0 + 86400000000 ≤ s.nowUs ∧ (lodgeIdle none 86399999999).nowUs < 0 + 86400000000) ∧
    (let s := lodgeIdle (some 0) 20000; (s.lodgeAt 0).haltedAt = some 0 ∧ 0 + 20000 ≤ s.nowUs ∧ (s.planDie 0).lodge = 0 ∧
      s.changes = [] ∧ (s.planDie 0).clusters[5]? = some ClusterPlan.reset) ∧
    (let s := reloading 20000; (s.lodgeAt 1).haltedAt = some 0 ∧ 0 + 20000 ≤ s.nowUs ∧ s.acting = some 0 ∧
      (s.planDie 1).lodge = 0 ∧ s.changes = [] ∧ s.boot.pick false false = none ∧ (reloading 19999).nowUs < 0 + 20000 ∧
      (reloading 19999).acting = some 0) := by decide +kernel
/-- An image that verification accepts is there to reload from, but where its read fails. -/
theorem witness_SailPlanAndLodge_image (f : FlashSlot) (h : f.ok 0 = true) :
    let s := { reloading 20000 with boot := { State.reset.boot with slotA := some f } }
    s.outside.errA.getLsbD 1 = false ∧ s.outside.errB.getLsbD 1 = false ∧
      s.boot.pick false false = some false ∧ s.boot.pick true false = none := by
  have hm : State.reset.boot.minSvn = 0 := rfl
  have h0 : f.ok 0#8 = true := h
  have ho : (reloading 20000).outside.errA.getLsbD 1 = false ∧ (reloading 20000).outside.errB.getLsbD 1 = false := by
    decide +kernel
  refine ⟨ho.1, ho.2, ?_⟩
  simp [Boot.pick, hm, h0, show State.reset.boot.slotB = none from rfl]
/-- No event, one and fifteen events against a unit; three and four spare rows in use. -/
theorem witness_ErrorHandling :
    base.cur.die = 0 ∧ (1 : Nat) ≠ base.cur.core ∧
    base.dieAlive 0 = true ∧ base.life.get evTotal < 2 ^ 64 - 1 ∧ base.against = [] ∧ base.rowsUsed 0 false 0 = 0 ∧
    (let s := { base with against := [{ die := 0, cls := 4, unit := 0, times := [0] },
        { die := 0, cls := 100, unit := 0, times := List.replicate 15 0 }] };
      let past := fun c u => (((s.against.find? fun a => a.die = 0 && a.cls = c && a.unit = u).map (·.times)).getD []).filter
        fun t => s.nowUs < t + 86400000000;
      past 4 0 ≠ [] ∧ 15 ≤ (past 100 0).length ∧ (past 101 0).length < 15) ∧
    4 ≤ (die0 base fun x => { x with tiers := { x.tiers with spareRows := [(bankKey false 0, 4)] } }).rowsUsed 0 false 0 ∧
    (let s := die0 base fun x => { x with suspects := [0], sched := { x.sched with rebuilding := true } };
      0 ∈ (s.die 0).suspects ∧ s.bad = [] ∧ (s.die 0).sched.rebuilding = true ∧ sramUnit 0 = (0, 0, 0)) ∧
    (let s := die0 base fun x => { x with spareLines := [(0, 32), (1000, 256)] };
      tabGetD (s.die 0).spareLines 0 0 = 32 ∧ tabGetD (s.die 0).spareLines 1000 0 = 256 ∧
      (sramUnit (128 * (vaultKey 0 0 0 / 128))).1 = 1) ∧ (base.die 0).suspects = [] ∧
    { base with plan := { base.plan with dies := base.plan.dies.set 0 { DiePlan.reset 0 with alive := false } } }.dieAlive 0 = false := by
  decide +kernel

/-- The host's command ring holds one record on the dies of `mask`, in a package that has booted. -/
def withCmd (opc mask flags args : Nat) (s : State) : State :=
  let t := s.wr (hostKey 0) 64 (opc + mask * 2 ^ 16 + flags * 2 ^ 24 + args * 2 ^ 128);
  { t with
    boot := { t.boot with ready := true }
    host := { t.host with cmdEn := true, ringLog2n := 6, cmdTail := 1 } }
/-- The record that `withCmd` places. -/
def cmd (opc mask flags args : Nat) : Cmd := { opc := opc, mask := mask, flags := flags, args := args, addr := 0 }
/-- Die 0 holds job 1. -/
def opened : State := die0 State.reset fun x => { x with job := some 1 }
theorem witness_CommandRing :
    State.reset.nextCmd = none ∧ (withCmd 1 1 0 0 State.reset).nextCmd = some (cmd 1 1 0 0) ∧
    (withCmd 13 0xFF 3 (2 ^ 383) State.reset).nextCmd = some (cmd 13 0xFF 3 (2 ^ 383)) ∧
    (withCmd 0 0 0 0 State.reset).nextCmd = some (cmd 0 0 0 0) ∧ (withCmd 14 0 4 0 State.reset).nextCmd = some (cmd 14 0 4 0) ∧
    (cmd 1 1 0 0).dies = [0] ∧ State.reset.dieAlive 0 = true ∧ (State.reset.die 0).job = none ∧ (cmd 1 1 2 0).priv = true ∧
    (cmd 1 1 1 0).flags % 2 = 1 ∧
    (withCmd 12 1 0 1 State.reset).resumeHeld (cmd 12 1 0 1) = false ∧ (cmd 12 1 0 1).arg 0x10 1 % 2 = 1 ∧
    (withCmd 2 1 0 0 opened).closeFits (cmd 2 1 0 0) = true ∧
    (withCmd 3 1 0 0 State.reset).rootWaits (cmd 3 1 0 0) = false ∧ (withCmd 13 1 0 0 opened).parkedOn (cmd 13 1 0 0) = false ∧
    (tabGetD [(0, { MsixEntry.reset with masked := false })] 0 MsixEntry.reset).masked = false := by decide +kernel
/-- Commands that each rule lets pass on one die, with fields at the ends of their ranges and past them. -/
theorem witness_SetupCommands :
    (∀ opc ∈ [2, 3, 4, 5, 6, 7, 8, 9, 10], (withCmd opc 1 0 0 opened).nextCmd = some (cmd opc 1 0 0) ∧
      (∀ d ∈ (cmd opc 1 0 0).dies, ((withCmd opc 1 0 0 opened).die d).job.isSome = true ∧
        (withCmd opc 1 0 0 opened).dieAlive d = true)) ∧
    ((cmd 1 1 0 1).arg 0x10 8 = 1 ∧ (cmd 1 1 0 1).arg 0x24 4 < 2 ∧ 2 ≤ (cmd 1 1 0 (2 * 2 ^ 160)).arg 0x24 4 ∧
      (cmd 1 1 0 0).arg 0x20 4 = 0) ∧
    (let c := cmd 3 1 0 (0x2C000000 * 2 ^ 128 + (0x1000 + 2 ^ 192));
      let s := withCmd 3 1 0 c.args opened;
      let r : Root := { troot := c.arg 0x10 8, imga := c.arg 0x18 8, imgb := c.arg 0x20 8, own := BitVec.ofNat 64 (c.arg 0x28 8) };
      s.rootBad 0 r = none ∧ s.rootBad 0 { r with troot := 1 } = some 0 ∧ s.rootWaits c = false) ∧
    ((cmd 4 1 0 16).arg 0x10 8 = 16 ∧ (cmd 4 1 0 (2 ^ 64 * (2 ^ 72 - 1))).arg 0x18 16 < 2 ^ 72 ∧
      2 ^ 72 ≤ (cmd 4 1 0 (2 ^ 64 * 2 ^ 72)).arg 0x18 16) ∧
    ((opened.die 0).launched = false ∧ (die0 opened fun x => { x with job := some 1, launched := true }).die 0 ≠ opened.die 0) ∧
    (let s := withCmd 5 1 0 0x10000 opened;
      ((s.dmaRecs 0x10000 2 1024).toOption.any fun es => es.all fun e => e.2 ≤ 575) = true ∧
      ((s.wr (hostKey 0x10000) 2 576).dmaNat 0x10000 2).toOption = some 576 ∧
      ({ s with bad := [hostKey 0x10000 / 8] }.dmaRecs 0x10000 2 1024).isOk = false) ∧
    ((cmd 6 1 0 (256 * 2 ^ 64)).arg 0x18 4 = 256 ∧ layBad 0 true = none ∧ layBad 5 true = some 0) ∧
    (let k : Schedule := { header := BitVec.ofNat 512 (2 ^ 16), steps := [stepOf 0] };
      schedBad k.header [(0, 0)] = none ∧ schedBad (BitVec.ofNat 512 (2 ^ 16 + 9 * 2 ^ 96)) [(0, 0)] = some 0x0C ∧
      fieldAt k.header 16 16 = 1 ∧ opened.schedMeets 0 [0] k = none) ∧
    opened.closeFits (cmd 2 1 0 0) = true ∧ opened.reaches (0, 0, 0) = true ∧
    (let s := { opened with plan := { opened.plan with
        dies := (Vector.replicate 8 { DiePlan.reset 0 with alive := false }).set 0 { DiePlan.reset 0 with ports := Vector.replicate 6 0 } } };
      s.reaches (1, 0, 0) = false) ∧
    ((cmd 9 1 0 (2 ^ 96 * 128)).arg 0x1C 4 = 128 ∧ (cmd 9 1 0 (2 ^ 96 * (1 + 256 * 72))).arg 0x1C 4 / 256 % 128 = 72) ∧
    (mapFault (BitVec.ofNat 512 ((ent 1 0 [16]).toNat - 2 ^ 88)) = none ∧ mapFault 0 = some 9) ∧
    ((cmd 9 1 0 (2 ^ 64 * 64)).arg 0x18 4 = 64 ∧ (cmd 9 1 0 (2 ^ 96 * 2)).arg 0x1C 4 = 2 ∧ opened.spLimit 0 0 = spBytes) ∧
    ((cmd 10 1 0 (2 ^ 96 * 1024)).arg 0x1C 4 = 1024 ∧ (opened.queueAt 0 0).held = false ∧
      ((tasks id).queueAt 0 0).held = true) := by decide +kernel
/-- Two steps that take one link in one step. -/
theorem witness_SetupCommands_sched :
    let k : Schedule := { header := BitVec.ofNat 512 (2 ^ 16), steps := [
      { sdie := 2, rdie := 0xFFFF, scount := 1, sstart := 0, dstart := 0, rcount := 0 }] }
    let j : Schedule := { header := BitVec.ofNat 512 (2 ^ 16), steps := [
      { sdie := 0x11, rdie := 0xFFFF, scount := 1, sstart := 0, dstart := 0, rcount := 0 }] }
    k.steps.length = 1 ∧ j ≠ k := by decide +kernel
/-- A header of one context of die 0, core 0: priority 1, queue 0, cluster 0, context 0. -/
def header0 : Nat := 25 * 2 ^ 168 + 2 ^ 848 + 2 ^ 864 + 2 ^ 872
/-- Die 0 holds job 1 and a described queue 0; a header stands in host memory. -/
def launching (h : Nat) : State :=
  withCmd 11 1 0 0x10000 ((die0 State.reset fun x => { x with
    job := some 1, sched := { x.sched with queues := [(0, { Queue.reset with log2n := 6 })] } }).wr (hostKey 0x10000) 128 h)
/-- A saved job. -/
def savedJob : DirEntry := {
  job := 1, root := { troot := 0, imga := 0x2C000000, imgb := 0x58000000, own := 1 }, phc := 0
  saved := {
    cores := [], tables := Die.reset.tables, sched := Die.reset.sched, tr := Die.reset.tr, former := [], launched := false
    ctxs := [], plan := DiePlan.reset 0
    diag := false, pkgs := [] } }
/-- Die 0 holds job 1 and stands frozen or runs on, with a root. -/
def frozen (f : Bool) (x : Nat) (args : Nat) : State :=
  let s := withCmd x 1 0 args (die0 base fun y => { y with job := some 1
                                                           xl := { y.xl with root := some { troot := 0, imga := 0, imgb := 0, own := 1 } } });
  { s with hy := { s.hy with frozen := f } }
theorem witness_LaunchAndResume :
    (let s := withCmd 11 3 0 0x10000 ((launching header0).modDie 1 fun x => { x with
        job := some 1, sched := { x.sched with queues := [(0, { Queue.reset with log2n := 6 })] } });
      let l : Launch := { id := 0, header := BitVec.ofNat 1024 header0, ctxs := [], priv := false };
      (cmd 11 3 0 0x10000).dies = [0, 1] ∧ (s.dmaNat 0x10000 128).toOption = some header0 ∧
      (∀ d ∈ [0, 1], s.launchFaults d l = [] ∧ s.coresOf d l ≠ [] ∧ (s.die d).job.isSome = true)) ∧
    (let s := launching header0;
      let l : Launch := { id := 0, header := BitVec.ofNat 1024 header0, ctxs := [], priv := false };
      s.nextCmd = some (cmd 11 1 0 0x10000) ∧ (s.dmaNat 0x10000 128).toOption = some header0 ∧ s.launchFaults 0 l = [] ∧
      s.coresOf 0 l ≠ [] ∧ l.picks = [0] ∧ (s.die 0).job.isSome = true) ∧
    (let l : Launch := { id := 0, header := 1, ctxs := [], priv := true };
      (launching 1).launchFaults 0 l ≠ [] ∧ ((launching 1).die 0).diag = false) ∧
    ((cmd 12 1 0 0).arg 0x10 8 = 0 ∧ (cmd 12 1 0 1).arg 0x10 8 = 1 ∧ (cmd 12 1 0 2).arg 0x10 8 = 2 ∧ (cmd 12 1 0 3).arg 0x10 8 = 3) ∧
    (let s := frozen false 12 0;
      let t := { s with cx := { s.cx with st := .suspended } };
      s.nextCmd = some (cmd 12 1 0 0) ∧ t.cur ∈ t.placed ∧ t.cur.die ∈ (cmd 12 1 0 0).dies ∧ t.cx.st = .suspended) ∧
    (let s := frozen true 12 1;
      s.nextCmd = some (cmd 12 1 0 1) ∧ ((cmd 12 1 0 1).dies.find? fun d => (s.die d).job.isSome) = some 0 ∧
      s.hy.frozen = true ∧ ((cmd 12 1 0 1).dies.find? fun d => (s.die d).job.isNone) = none ∧
      ((cmd 12 3 0 1).dies.find? fun d => (s.die d).job.isNone) = some 1 ∧ (frozen false 12 1).hy.frozen = false) ∧
    ((State.reset.die 0).xl.dir = [] ∧ (State.reset.die 0).job = none) ∧
    (let r := die0 State.reset fun x => { x with xl := { x.xl with dir := [savedJob] } };
      let c := cmd 12 1 0 1;
      r.resumeHeld c = false ∧ (r.die 0).xl.dir.head? = some savedJob ∧ r.otherJob [(0, savedJob, none)] = none ∧
      (r.modDie 1 fun x => { x with job := some 2 }).otherJob [(0, savedJob, none)] = some 1 ∧
      r.lacks 0 savedJob.saved = false ∧ r.memOk ∧
      { r with plan := { r.plan with dies := r.plan.dies.set 0 { DiePlan.reset 0 with hbm := false } } }.lacks 0 savedJob.saved = true ∧
      (r.modTiers 0 fun x => { x with diag := [{ pkt false none with addr := 0x2C000000 }] }).resumeHeld c = true) ∧
    (let s := frozen true 13 0;
      s.nextCmd = some (cmd 13 1 0 0) ∧ s.parkedOn (cmd 13 1 0 0) = false ∧
      ((cmd 13 1 0 0).dies.find? fun d => !s.hy.frozen || (s.die d).xl.dir.length ≥ 16 || (s.die d).xl.root.isNone) = none ∧
      (frozen false 13 0).hy.frozen = false) := by decide +kernel
/-- A die in whose two images of the saved job the first word is poisoned. -/
theorem witness_LaunchAndResume_lost :
    let r := die0 State.reset fun x => { x with xl := { x.xl with dir := [savedJob] } }
    let s := { r with codes := [(r.dpaCell 0 0x2C000000 / 32, 0x8000), (r.dpaCell 0 0x58000000 / 32, 0x8000)] }
    ((cmd 12 1 0 1).dies.find? fun d => (s.die d).job.isSome) = none ∧ (s.die 0).xl.dir ≠ [] ∧
      s.jobLost (cmd 12 1 0 1) = true := by decide +kernel

/-- Die 0 with a job's directory entry, and a RESUME of it in the ring. -/
def imageless : State := withCmd 12 1 0 1 (die0 State.reset fun y => { y with xl := { y.xl with dir := [savedJob] } })
/-- The same with an image in the job's area A. -/
def withImage (x : Img) : State :=
  { imageless with mem := x.map (fun c => (hbmKey 0 0x2C000000 + c.1, c.2)) ++ imageless.mem }
theorem imageless_mem : ∀ c ∈ imageless.mem, hbmKey 0 0x2C000000 + 65536 * imgPages ≤ c.1 := by decide +kernel
theorem withImage_die (x : Img) (d : Nat) : (withImage x).die d = imageless.die d := by simp only [State.die, withImage]
theorem withImage_image (x : Img) (hw : Memory.wf x = true) (hb : ∀ c ∈ x, c.1 < 65536 * imgPages) (hg : Img.good x = some x) :
    (withImage x).bestImage 0 savedJob = some x := by
  have e : (withImage x).getImage 0 0x2C000000 = some x := by
    refine State.getImage_of _ _ _ (hbmKey 0 0x2C000000) _ hw hb rfl (fun i hi => ?_) _ imageless_mem rfl
    simp only [imgPages] at hi
    rw [State.dpaCell_reset _ _ _ _ (by omega)]
    · simp only [hbmKey, regionKey]; omega
    · have : dpaGroup (738197504 + 65536 * i) ≠ 0xFFFFF := by simp only [dpaGroup]; omega
      show (tabGet [(0xFFFFF, ({ fast := 2, slot0 := 0, pin := true } : Remap))] (dpaGroup (738197504 + 65536 * i))).getD Remap.reset = Remap.reset
      simp only [tabGet, if_neg this]; rfl
  have e1 : (withImage x).getImage 0 savedJob.root.imga = some x := e
  simp only [State.bestImage, e1, Option.bind_some, hg]
theorem withImage_command (x : Img) (hb : ∀ c ∈ x, c.1 < 65536 * imgPages) : (withImage x).nextCmd = some (cmd 12 1 0 1) := by
  have e : ∀ a n, (withImage x).rd (hostKey a) n = imageless.rd (hostKey a) n := fun a n => memNat_congr fun k h1 _ =>
    memGet_append fun c hc => by
      obtain ⟨y, hy, e⟩ := List.mem_map.mp hc
      have := hb y hy
      rw [← e]
      simp only [imgPages] at this
      simp only [hostKey] at h1
      simp only [hbmKey, regionKey]; omega
  have h : imageless.nextCmd = some (cmd 12 1 0 1) := by decide +kernel
  rw [← h]
  have h1 : (withImage x).host = imageless.host := by simp only [withImage]
  have h2 : (withImage x).boot = imageless.boot := by simp only [withImage]
  unfold State.nextCmd
  simp only [h1, h2, e]
theorem withImage_memOk (x : Img) (hw : Memory.wf x = true) (hb : ∀ c ∈ x, c.1 < 65536 * imgPages) : (withImage x).memOk := by
  refine wf_append (wf_shift _ hw) (by decide +kernel) fun c hc z hz => ?_
  obtain ⟨y, hy, e⟩ := List.mem_map.mp hc
  have h1 := hb y hy
  have h2 := imageless_mem z hz
  rw [← e]; show hbmKey 0 738197504 + y.1 < z.1; omega
theorem withImage_held (x : Img) : (withImage x).resumeHeld (cmd 12 1 0 1) = false := by
  have hd : ∀ d ∈ (cmd 12 1 0 1).dies, (imageless.die d).tiers.diag.isEmpty = true := by decide +kernel
  refine List.any_eq_false.mpr fun d h => ?_
  simp only [withImage_die, State.groupsHeld, hd d h]
  split <;> simp
theorem withImage_lacks (x : Img) : (withImage x).lacks 0 savedJob.saved = false := by
  have h : imageless.lacks 0 savedJob.saved = false := by decide +kernel
  have h1 : (withImage x).planDie = imageless.planDie := by funext d; simp only [State.planDie, withImage]
  have h2 : (withImage x).dieAlive = imageless.dieAlive := by funext d; simp only [State.dieAlive, withImage]
  have h3 : (withImage x).coreAlive = imageless.coreAlive := by funext d c; simp only [State.coreAlive, withImage]
  unfold State.lacks at h ⊢
  rw [h1, h2, h3]
  exact h
theorem withImage_other (x : Img) : (withImage x).otherJob ((withImage x).restorable (cmd 12 1 0 1).dies) = none := by
  have hj : ∀ d ∈ numsFrom 0 8, (imageless.die d).job = none := by decide +kernel
  refine List.find?_eq_none.mpr fun d h => ?_
  rw [withImage_die, hj d h]
  simp
/-- What SWITCH_OUT leaves of a die without a byte of state, as RESUME finds it. -/
theorem witness_LaunchAndResume_restored :
    let s := withImage (Img.copy [] 0)
    let c := cmd 12 1 0 1
    s.nextCmd = some c ∧ (c.dies.find? fun d => (s.die d).job.isSome) = none ∧ (s.die 0).xl.dir.head? = some savedJob ∧
      s.resumeHeld c = false ∧ s.otherJob (s.restorable c.dies) = none ∧ s.lacks 0 savedJob.saved = false ∧ s.memOk ∧
      s.bestImage 0 savedJob = some (Img.copy [] 0) := by
  have hp : Img.plain [] := ⟨rfl, fun _ h => (List.not_mem_nil h).elim⟩
  have hf := Img.copy_fits hp 0
  have hg := Img.good_copy hp 0
  have main : ∀ x : Img, Memory.wf x = true → (∀ c ∈ x, c.1 < 65536 * imgPages) → Img.good x = some x →
      let s := withImage x
      let c := cmd 12 1 0 1
      s.nextCmd = some c ∧ (c.dies.find? fun d => (s.die d).job.isSome) = none ∧ (s.die 0).xl.dir.head? = some savedJob ∧
        s.resumeHeld c = false ∧ s.otherJob (s.restorable c.dies) = none ∧ s.lacks 0 savedJob.saved = false ∧ s.memOk ∧
        s.bestImage 0 savedJob = some x := by
    intro x hw hb hx
    refine ⟨withImage_command x hb, ?_, ?_, withImage_held x, withImage_other x, withImage_lacks x, withImage_memOk x hw hb,
      withImage_image x hw hb hx⟩
    · simp only [withImage_die]; decide +kernel
    · rw [withImage_die]; decide +kernel
  exact main _ hf.1 hf.2 hg
theorem witness_HostRegisters :
    (let s := base;
      2 ^ s.host.ringLog2n < ((2 : BitVec 32) - s.host.cmdHead).toNat ∧ ((1 : BitVec 32) - s.host.cmdHead).toNat ≤ 2 ^ s.host.ringLog2n ∧
      s.host.cmdEn = false ∧ (0x16 : Dword).getLsbD 4 = true ∧ 6 ≤ (0x16 : Dword).toNat % 16 ∧ (0x1C : Dword).toNat % 16 ≤ 12 ∧
      (0x15 : Dword).toNat % 16 < 6 ∧ 12 < (0x1D : Dword).toNat % 16 ∧ (withCmd 1 1 0 0 s).host.cmdEn = true) ∧
    (let q := (tasks id).queueAt 0 0; q.log2n ≠ 0 ∧ q.prod = true ∧ { q with prod := false }.room = 64 ∧
      (base.queueAt 0 0).log2n = 0 ∧ { q with note := 2, vec := 16 }.vec = 16 ∧ (base.die 0).sched.rebuilding = false ∧
      base.settleHost.dieAlive 0 = true) ∧
    (Nat.min ((0x0000_03C0_0380_0360 : Dword).toNat % 65536) 864 = 864 ∧ (base.die 0).th.valid = false ∧ base.dieAlive 0 = true) ∧
    base.life.snapshot = none ∧ 8 * 0x265FF < 0x133000 ∧ 0x133000 ≤ 8 * 0x26600 ∧
    (tabGetD base.host.msix 2047 MsixEntry.reset).pending = false ∧
    (tabGetD [(3, { MsixEntry.reset with pending := true })] 3 MsixEntry.reset).pending = true := by decide +kernel
/-- Die 1's first 32 MiB behind the first segment of BAR4, mapped; and a segment that is not enabled. -/
def windowOpen : State :=
  let s := { base with
    dies := base.dies.set 1 { Die.reset with job := some 1, xl := { Die.reset.xl with
      tlb := [{ base := 0, bits := 30, dpa := 0, w := true, x := false }] } } };
  { s with host := { s.host with winmap := s.host.winmap.set 0 3 } }
theorem witness_HostAccesses :
    (let s := windowOpen;
      2 ^ s.host.bar4Log = 2 ^ 36 ∧ s.winDpa 8 false = some (1, 8, 8) ∧ s.winDpa 8 true = some (1, 8, 8) ∧
      (∀ write, s.winHeld 8 8 write = false ∧
        (s.modTiers 1 fun x => { x with diag := [pkt false none] }).winHeld 8 8 write = true) ∧
      s.parkedOver 1 8 8 (fun o => o = .host) = false ∧
      (s.devGet 1 8 8).isSome = true ∧ s.winDpa (2 ^ 31) false = none ∧ s.winDpa (2 ^ 31) true = none ∧
      8 % 65536 + 8 ≤ 65536 ∧ 8 + 8 ≤ 2 ^ s.host.bar4Log ∧ 2 ^ s.host.bar4Log < 2 ^ 36 + 8 ∧
      (s.host.winmap[0]?.getD 0).getLsbD 0 = true ∧ s.dieAlive 1 = true ∧ (s.die 1).job ≠ none) ∧
    ((3 : Nat) ≠ 4 ∧ (3 : Nat) ≠ 8 ∧ 4 % 8 ≠ 0 ∧ 0x4000800 % 8 = 0 ∧ 0x4000800 ≠ 0x400C018 ∧ 2 % 4 ≠ 0) := by
  decide +kernel
theorem witness_CheckCodes :
    (1 : Nat) < 2 ^ 256 ∧ (0 : Nat) < 255 ∧ (255 : Nat) < 256 ∧ (0x8000 : BitVec 16).getLsbD 15 = true := by decide
/-- Lines at the ends of both memories; packets of every command, one with its reply; masks of part of a word. -/
theorem witness_BaseDieRequests :
    (2 ^ 30 - 1 < 2 ^ 30 ∧ ¬ (2 ^ 30 < 2 ^ 30) ∧ 2 ^ 31 - 1 < 2 ^ 31) ∧
    (∀ tier ∈ [0, 1], base.bdaHeld 0 tier 0 64 = false) ∧ (busyLine 0 base).bdaHeld 0 0 0 64 = true ∧
    (∀ cmd ∈ [0, 1, 2, 3],
      let p := { pkt false none with hdr := BitVec.ofNat 64 cmd };
      let s := die0 base fun x => { x with tiers := { x.tiers with diag := [p] } };
      s.diagAt 0 0 cmd = some p ∧ s.diagAt 0 0 ((cmd + 1) % 4) = none) ∧
    (let p := pkt false (some 0);
      let l := (die0 base fun x => { x with tiers := { x.tiers with diag := [p] } }).myDie.tiers.diag;
      l[0]? = some p ∧ p.reply.isSome = true ∧ p.arrived = false ∧ l.take 0 = []) ∧
    ((0xFF : BitVec 64).toNat % 2 ^ 32 ≠ 0 ∧ (0xFF : BitVec 64).toNat % 2 ^ 32 ≠ 2 ^ 32 - 1) := by decide +kernel
/-- Group 5: member 0 is the fast one at reset; member 2 leads it by the threshold, and by one less; a move under way. -/
def hotter (n : Nat) : DieTiers :=
  { Die.reset.tiers with hot := [(4 * 5 + 2, n)] }
theorem witness_TierMoves :
    (let s := die0 base fun x => { x with tiers := hotter 32 };
      (s.die 0).tiers.heatOf 5 2 = 32 ∧ (s.die 0).tiers.candidate 5 = some 2 ∧ (s.remapOf 0 5).pin = false ∧
      s.moving 0 5 = false ∧ (s.die 0).tiers.en = true ∧ (s.die 0).th.hot = false) ∧
    (hotter 31).candidate 5 = none ∧
    (let x := { hotter 32 with cache := [(5, [8197, 5, 16389, 24581, 32773, 40965, 49157, 57349])] };
      5 ∈ tabGetD x.cache 5 [] ∧ (tabGetD x.cache 5 []).length = 8 ∧ 5 ∈ tabGetD { x with cache := [(5, [5])] }.cache 5 []) ∧
    (base.nowUs < (base.die 0).tiers.halvedAt + (base.die 0).tiers.period ∧
      (let s := { base with nowUs := 1000000 }; (s.die 0).tiers.halvedAt + (s.die 0).tiers.period ≤ s.nowUs)) ∧
    (let x := { hotter 32 with cache := [(5, [5])] };
      dpaGroup (5 * 65536) = 5 ∧ (tabGetD (hotter 32).cache 5 []).length < 8 ∧ 5 ∈ tabGetD x.cache 5 []) ∧
    (let s := die0 base fun x => { x with tiers := { x.tiers with moves := [{ group := 5, member := 2 }] } };
      s.moving 0 5 = true ∧ (s.die 0).tiers.moves.find? (fun m => m.group = 5) = some { group := 5, member := 2 } ∧
      (s.remapOf 0 5).fast ≠ 2 ∧ s.memOk ∧ s.codes = [] ∧ s.exchangeHeld 0 5 2 = false ∧
      (s.modTiers 0 fun x => { x with diag := [{ pkt false none with addr := 5 * 65536 }] }).exchangeHeld 0 5 2 = true) := by
  decide +kernel

/-- A root whose five tables stand in the first pages, with a 64 KiB leaf at the last level, and one with no entry. -/
def rooted (leaf : Nat) : State :=
  let s := die0 base fun x => { x with xl := { x.xl with root := some { troot := 0, imga := 0, imgb := 0, own := 1 } } };
  ((((s.wr (hbmKey 0 0x0000) 8 (1 + 0x1000)).wr (hbmKey 0 0x1000) 8 (1 + 0x2000)).wr (hbmKey 0 0x2000) 8 (1 + 0x3000)).wr
    (hbmKey 0 0x3000) 8 (1 + 0x4000)).wr (hbmKey 0 0x4000) 8 leaf
theorem witness_AddressTranslation :
    (let s := rooted (15 + 0x50000);
      s.walk 0 0 = .ok { base := 0, bits := 16, dpa := 0x50000, w := true, x := true } ∧ (s.die 0).xl.tlb = [] ∧
      (s.die 0).xl.root.isSome = true) ∧
    (rooted 0).walk 0 0 = .error .invalid ∧ (rooted (3 + 0x100)).walk 0 0 = .error .invalid ∧
    (rooted (3 + 2 ^ 38)).walk 0 0 = .error .invalid ∧ (rooted (3 + 0xC0000000)).walk 0 0 = .error .invalid ∧
    (rooted 3).walk 0 (2 ^ 57 - 1) = .error .invalid ∧ (base.die 0).xl.root = none ∧
    ({ troot := 0, imga := 0, imgb := 0, own := 0 } : Root).owns 0 = false ∧
    (let s := rooted (15 + 0x50000); 0 ∈ s.walkReads 0 0 ∧ (s.walkReads 0 0).all (fun a => !s.dpaHeld 0 a 8) = true ∧
      (busyLine 0 s).dpaHeld 0 0 8 = true ∧ s.codes = []) ∧
    (let e : Nat → TlbEntry := fun k => { base := 65536 * 1024 * k, bits := 16, dpa := 0, w := true, x := true };
      let l := (numsFrom 1 8).map e;
      (l.filter fun y => y.base / 2 ^ y.bits % 1024 = 0 / 2 ^ 16 % 1024).length = 8 ∧
        l.find? (fun y => decide (0 / 2 ^ y.bits = y.base / 2 ^ y.bits)) = none) ∧
    ((collState []).die 0).xl.tlb.find? (fun e => decide (65535 / 2 ^ e.bits = e.base / 2 ^ e.bits)) =
      some { base := 0, bits := 16, dpa := 0, w := true, x := true } := by
  refine ⟨⟨?_, ?_, ?_⟩, ?_, ?_, ?_, ?_, ?_, ?_, ?_, ?_, ?_, ?_⟩ <;> first | decide +kernel | rfl
/-- Port 0 of die 0 in a state of its link, with a mode of the plan. -/
def port (st mode : Nat) (f : Port → Port) : State :=
  let s := die0 base fun x => { x with ports := x.ports.set 0 (f { Port.reset with st := st, peer := 1 }) };
  { s with plan := { s.plan with dies := s.plan.dies.set 0 { DiePlan.reset 0 with ports := (DiePlan.reset 0).ports.set 0 mode } } }
/-- Ports up on and off the package, a packet that waits to leave, keys that are due by packets sent, received or by time, and
the modes of a bring-up. -/
theorem witness_LinkHappenings :
    (∀ m ∈ [1, 2, 3],
      let s := port 3 m fun x => { x with rx := [0], out := [({ head := default, data := [] }, [0])] };
      s.dieAlive 0 = true ∧ s.portMode 0 0 = m ∧ (s.portAt 0 0).st = 3 ∧ (s.portAt 0 0).out ≠ [] ∧
        (s.portAt 0 0).badOut = false ∧ (s.portAt 0 0).badFlit = false ∧ (s.portAt 0 0).badTag = false) ∧
    ((port 3 1 id).portAt 0 0).out = [] ∧ frontPacket ((port 3 1 id).portAt 0 0).rx false = none ∧
    (let s := port 3 3 fun x => { x with sent := 2 ^ 32 }; 2 ^ 32 ≤ (s.portAt 0 0).sent) ∧
    (let s := port 3 3 fun x => { x with received := 2 ^ 32 }; 2 ^ 32 ≤ (s.portAt 0 0).received) ∧
    (let s := port 3 3 id;
      ¬ 2 ^ 32 ≤ (s.portAt 0 0).sent ∧ ¬ 2 ^ 32 ≤ (s.portAt 0 0).received ∧ ¬ (s.portAt 0 0).keyedAt + 86400000000 ≤ s.nowUs) ∧
    (let s := port 0 1 id; (s.portAt 0 0).st = 0 ∧ s.expectedPeer 0 0 (s.bringMode 0 0 1) = 1 ∧ s.bringMode 0 0 1 = 1) ∧
    (let s := port 0 3 id; s.bringMode 0 0 (s.expectedPeer 0 0 3) = 3) ∧ (port 4 0 id).portMode 0 0 = 0 ∧
    (port 3 1 fun x => { x with stale := true }).dieAlive 0 = true := by decide +kernel
/-- A flit whose CRC is good and one whose CRC is not; a packet that is there whole, whatever its header says; a far end whose
signatures hold or do not. -/
theorem witness_LinkHappenings_flits (seq : Nat) (data : BitVec 512) (tagged : Bool) (k : HopKeys) (y : Keying) :
    Config.flitCrc seq data = Config.flitCrc seq data ∧ Config.flitCrc seq data ≠ Config.flitCrc seq data + 1 ∧
    (frontPacket (List.replicate 66 0) tagged).isSome = true ∧ ({ Port.reset with rx := [0] }.opened false 1).isSome = true ∧
    (k.verified y = true ∨ k.verified y = false) := by
  refine ⟨rfl, fun h => ?_, ?_, rfl, ?_⟩
  · have := congrArg BitVec.toNat h
    have hlt := (Config.flitCrc seq data).isLt
    rw [BitVec.toNat_add] at this
    simp at this
    omega
  · have h65 : List.replicate 66 (0 : BitVec 512) = 0 :: List.replicate 65 0 := rfl
    rw [h65]
    have : ¬ (65 < Nat.min 64 (Config.readHeader 0).flits + if tagged = true then 1 else 0) := by
      have : Nat.min 64 (Config.readHeader 0).flits ≤ 64 := Nat.min_le_left ..
      split <;> omega
    simp only [frontPacket, List.length_replicate, this, if_false, Option.isSome_some]
  · cases k.verified y <;> simp
/-- Nothing in flash; and a lodge core that runs already. -/
theorem witness_PowerGoodAndActivation :
    State.reset.boot.ready = false ∧ (∀ l ∈ State.reset.lodge.toList, l.running = false) ∧
    State.reset.boot.slot? false = none ∧ belvedere.lodge.toList.any (·.running) = true ∧
    State.reset.nowUs < State.reset.claimAt 0 ∧ { State.reset with nowUs := 4250 }.claimAt 0 ≤ 4250 ∧
    (State.reset.life.powerOn 0).get histTotal < 2 ^ 64 - 1 := by decide +kernel
/-- An image that verification accepts boots from slot A, or from slot B where A is empty. -/
theorem witness_PowerGoodAndActivation_image (f : FlashSlot) (h : f.ok 0 = true) :
    (let s := { State.reset with boot := { State.reset.boot with slotA := some f } };
      s.boot.slotA = some f ∧ f.ok s.boot.minSvn = true) ∧
    (let s := { State.reset with boot := { State.reset.boot with slotB := some f } };
      s.boot.slotA = none ∧ s.boot.slotB = some f ∧ f.ok s.boot.minSvn = true) := ⟨⟨rfl, h⟩, rfl, rfl, h⟩
theorem witness_Attestation :
    State.reset.boot.ready = false ∧
    (let s := { State.reset with
      boot := { State.reset.boot with ready := true }
      spdm := { State.reset.spdm with version := true, capable := true, negotiated := true } };
      s.boot.ready = true ∧ s.spdm.version = true ∧ s.spdm.capable = true ∧ s.spdm.negotiated = true) := by decide +kernel
/-- Duties at both ends, a die that throttles, an enabled and a disabled mode; a living and a lost die. -/
theorem witness_HeatAndPower :
    base.dieAlive 0 = true ∧ base.acting = none ∧ belvedere.acting ≠ none ∧ belvedere.dieAlive 0 = true ∧
    (let p : Power := { en := true, set := 3600, watts := 0, duty := 1000, inlet := 0, outlet := 0 };
      3000 ≤ p.set ∧ 1024 < p.duty + (p.set - 3000) / 2 ∧ p.duty + (p.set - 3560) / 2 ≤ 1024 ∧ p.set < 3700 ∧ p.duty ≤ 1024) ∧
    base.power.en = false ∧
    (let s := die0 base fun x => { x with th := { x.th with st := 2 } }; s.dieAlive 0 = true ∧ (s.die 0).th.st = 2) ∧
    (tabGetD base.host.msix 3 MsixEntry.reset).masked = true ∧
    (tabGetD [(3, { MsixEntry.reset with masked := false })] 3 MsixEntry.reset).masked = false ∧
    (let x := { (base.die 0).th with htemp := 880, ctemp := 879 }; x.htemp ≥ 880 ∧ x.ctemp < 880 ∧ (base.planDie 0).hbm = true) ∧
    (let x := { (base.die 0).th with valid := true, max := 960 }; x.trips = true) ∧
    (let s := { base with power := { base.power with duty := 1 } };
      s.nowCyc % 1024 < s.power.duty ∧ ¬ { s with nowCyc := 1 }.nowCyc % 1024 < s.power.duty) ∧
    (let s := { base with cx := { base.cx with ballast := some 0, st := .ready }, power := { base.power with duty := 1 } };
      s.chosen 0 0 = some 0 ∧ { s with nowCyc := 1 }.chosen 0 0 = none) := by
  decide +kernel
theorem witness_LifetimeRecords :
    (let s := { belvedere with nowUs := 3600000000 };
      ¬ s.acting ≠ none ∧ { s with lodge := s.lodge.set 0 { (s.lodgeAt 0) with renewed := 3600000000 } }.acting = some 0 ∧
      s.life.wroteAt + 3600000000 ≤ s.nowUs) ∧
    { belvedere.life with owed := true }.owed = true ∧
    (let s := { belvedere with life := { belvedere.life with urgent := [0], snapping := true } };
      s.acting ≠ none ∧ s.life.urgent ≠ [] ∧ s.life.snapping = true ∧ s.life.best = none) ∧
    base.life.urgent = [] ∧ base.life.snapping = false ∧ base.life.nextB = false := by decide +kernel
/-- A complete copy of an empty image, and none beside it. -/
theorem witness_LifetimeRecords_copy (l : Lifetime) (ha : l.copyA = some (.of [])) (hb : l.copyB = none) :
    l.best = some ([], false) := by
  unfold Lifetime.best
  rw [ha, hb, FlashCopy.complete?_of]
  rfl
/-- A bundle of an ADD on SA and a SUB on SB, with destinations of their own or one for both, and one of an ADD and an LDD. -/
theorem witness_BundleIssue_words :
    (∀ e : Fin 48, e = 3 ∨ e = 4 →
      let a := Instr.add .sa (some 3) (.reg 1) (.reg 2) .i64 .none
      let b := Instr.sub .sb (some e) (.latch 0) (.reg 5) .i64 .none
      decodeBundle 0xC0400000 [(encode a).getD 1 0, (encode b).getD 1 0] =
        some { nwords := 3, stop := true, syls := [(.sa, .ok a), (.sb, .ok b)] }) ∧
    (let a := Instr.add .sa (some 3) (.latch 0) (.reg 2) .i64 .none
      let b := Instr.ldd 4 (.reg 1) off0 false false
      decodeBundle 0x84400000 [(encode a).getD 1 0, (encode b).getD 1 0] =
        some { nwords := 3, stop := true, syls := [(.sa, .ok a), (.ls, .ok b)] }) := by
  refine ⟨?_, rfl⟩
  rintro e (rfl | rfl) <;> rfl
/-- A valid latch and one that is lost, and both bits of a record. -/
theorem witness_BundleIssue :
    (regs []).cx.st = .running ∧ (regs []).cx.resume = none ∧ (regs []).cx.holds [.reg 1, .reg 2, .latch 0, .reg 5] ∧
    base.cx.holds [.reg 1, .reg 2] ∧ ¬ base.cx.holds [.latch 0, .reg 5] ∧ ¬ base.cx.holds [.latch 0, .reg 2] ∧
    (let s := regs [];
      let t := fun (p : BitVec 9) => { s with cx := { s.cx with
        resume := some { rpc := 0, words := [], perf := p, pend := some 64 } } };
      (t 1).cx.holds [.latch 0, .reg 5] ∧ (t 2).cx.holds [.reg 1, .reg 2] ∧ (t 3).cx.st = .running ∧
        (1 : BitVec 9).getLsbD 0 = true ∧ (1 : BitVec 9).getLsbD 1 = false ∧ (2 : BitVec 9).getLsbD 0 = false ∧
        (2 : BitVec 9).getLsbD 1 = true ∧ (3 : BitVec 9).getLsbD 0 = true ∧ (3 : BitVec 9).getLsbD 1 = true) := by
  decide +kernel
/-- Loads that perform, are misaligned or meet a bad word. -/
theorem witness_BundleIssue_load :
    (let s := addrs;
      s.computes ∧ s.noWindows ∧ s.cx.holds [.latch 0, .reg 2, .reg 1] ∧
      (s.cx.sval (.reg 1) + off0.bytes 8).toNat % 8 = 0 ∧
      s.portKey .ls (s.cx.sval (.reg 1) + off0.bytes 8).toNat 8 = some (spKey 0 0 0) ∧ s.badRead (spKey 0 0 0) 8 = false ∧
      { s with bad := [spKey 0 0 0 / 8] }.badRead (spKey 0 0 0) 8 = true ∧
      ((regs [0, own 1]).cx.sval (.reg 1) + off0.bytes 8).toNat % 8 ≠ 0) := by decide +kernel
/-- A well-formed instruction of one word, one of two, and a LOOP that ends behind itself. -/
theorem witness_DecodeEncode :
    (∀ i ∈ [Instr.nopBundle true, .addImm .sa (some 7) { lo := 1, ext := none } .i64, .loop (.reg 5) { lo := 4, ext := none },
        .movi .sb (some 47) { lo := 0xFFFF, ext := some 0xFFFF } .i8],
      i.wellFormed = true ∧ encode i ≠ [] ∧ loopLenOk 2 i = true) := by decide +kernel
/-- A core whose context runs a placed instruction; a happening; time; and no input. -/
theorem witness_StepRunsDecoded :
    (State.reset.withFetchWord 32 0x00000003).agenda.head? = some (.core 0 0) ∧
    (let u := (State.reset.withFetchWord 32 0x00000003).ready 0 0;
      u.runningOn 0 0 = some ⟨0, 0, 0⟩ ∧ u.cx.rollback = false ∧ u.beforeTrap.isNone = true ∧ u.cx.resume = none ∧
      u.nextWords.isOk = true ∧ (u.nextWords.toOption.bind decodeOne).isSome = true) ∧
    (base.ready 0 1).runningOn 0 1 = none ∧ isEvent (.dieArrive 0) = true ∧
    (let u := (State.reset.withFetchWord 32 0x00000003).ready 0 0;
      u.fetchWaits = false ∧ u.codes = [] ∧ (u.die 0).th.stopped = false ∧
        (u.modTiers 0 fun x => { x with diag := [{ pkt false none with addr := (u.xlate 0 0 .fetch).toOption.getD 0 }] }).fetchWaits
          = true) ∧
    (let s := base; s.mhzOf 0 0 ≤ 1000 ∧ tabGetD s.lag 0 0 ≤ s.nowCyc ∧ s.nowUs + 1 ≤ (s.die 0).tiers.halvedAt + (s.die 0).tiers.period) ∧
    (die0 base fun x => { x with th := { x.th with stopped := true } }).myDie.th.stopped = true := by decide +kernel
theorem witness_StepKeepsMemory : State.reset.memOk ∧ bundleRun.memOk := by decide +kernel
theorem witness_StepAlwaysNext : base.cx.st = .running ∧ isEvent .domainCross = true := by decide +kernel

end Sys2Proof.Tests
end

section
/-! Shifts and divisions of the scalar slots (R131, R135): what the register and immediate forms leave, and the values of the
width-`w` operations in the spec's terms. -/

namespace Sys2Proof

theorem IntW.bits_pos (w : IntW) : 0 < w.bits := by cases w <;> decide

end Sys2Proof

namespace Sys2Proof.Machine

/-! ### Reads and writes at a width -/

theorem readW_unsigned_nonneg (w : IntW) (x : Dword) : 0 ≤ readW w true x := Int.natCast_nonneg _

/-- The sign of a signed read is the top bit of the width. -/
theorem readW_signed_neg_iff (w : IntW) (x : Dword) :
    readW w false x < 0 ↔ x.getLsbD (w.bits - 1) = true := by
  have hpos := w.bits_pos
  have hmsb : (x.setWidth w.bits).msb = x.getLsbD (w.bits - 1) := by
    rw [BitVec.msb_eq_getLsbD_last, BitVec.getLsbD_setWidth, decide_eq_true (by omega : w.bits - 1 < w.bits), Bool.true_and]
  rw [← hmsb, BitVec.msb_eq_toInt, decide_eq_true_iff]
  rfl

/-- A signed read lies within one modulus of zero on either side. -/
theorem readW_signed_bounds (w : IntW) (x : Dword) :
    -(2 ^ w.bits : Int) ≤ readW w false x ∧ readW w false x < 2 ^ w.bits := by
  have hlo := BitVec.le_two_mul_toInt (x := x.setWidth w.bits)
  have hhi := BitVec.two_mul_toInt_lt (x := x.setWidth w.bits)
  have hmod : (0 : Int) < 2 ^ w.bits := Int.pow_pos (by decide)
  show _ ≤ (x.setWidth w.bits).toInt ∧ (x.setWidth w.bits).toInt < _
  omega

theorem writeW_signed_zero (w : IntW) : writeW w false 0 = 0 := by cases w <;> rfl
theorem writeW_signed_neg_one (w : IntW) : writeW w false (-1) = BitVec.allOnes 64 := by cases w <;> rfl
/-- At width w, −1 and 2^w − 1 are the same bits. -/
theorem writeW_neg_one (w : IntW) (uns : Bool) : writeW w uns (-1) = writeW w uns (2 ^ w.bits - 1) := by
  cases w <;> cases uns <;> rfl
/-- At width w, 2^(w−1) overflows to −2^(w−1). -/
theorem writeW_half_modulus (w : IntW) (uns : Bool) :
    writeW w uns (2 ^ (w.bits - 1)) = writeW w uns (-(2 ^ (w.bits - 1))) := by
  cases w <;> cases uns <;> rfl

/-! ### Shifts and the rotation (R131) -/

/-- Shifted right by the whole width, a signed value leaves copies of its sign. -/
theorem readW_signed_div_modulus (w : IntW) (x : Dword) :
    readW w false x / 2 ^ w.bits = if x.getLsbD (w.bits - 1) then -1 else 0 := by
  obtain ⟨hlo, hhi⟩ := readW_signed_bounds w x
  simp only [← readW_signed_neg_iff]
  split
  case isTrue hneg => exact Int.ediv_eq_neg_one_of_neg_of_le hneg (by omega)
  case isFalse hneg => exact Int.ediv_eq_zero_of_lt (by omega) hhi

theorem sraW_eq (w : IntW) (x n : Dword) :
    sraW w x n = if n.toNat < w.bits then writeW w false (readW w false x / 2 ^ n.toNat)
      else if x.getLsbD (w.bits - 1) then BitVec.allOnes 64 else 0 := by
  unfold sraW
  by_cases hn : n.toNat < w.bits
  · simp only [hn, if_true]
  · simp only [hn, if_false, readW_signed_div_modulus, apply_ite (writeW w false), writeW_signed_neg_one,
      writeW_signed_zero]

/-- A rotation to the right is the sum of its two parts modulo 2^w: what stays, shifted down, and what goes round. -/
theorem toNat_rotateRight_eq_add_mod {w k : Nat} (x : BitVec w) (hk : k < w) :
    (x.rotateRight k).toNat = (x.toNat / 2 ^ k + x.toNat * 2 ^ (w - k)) % 2 ^ w := by
  have hpow : 2 ^ w = 2 ^ k * 2 ^ (w - k) := by rw [← Nat.pow_add]; congr 1; omega
  have hround : x.toNat * 2 ^ (w - k) % 2 ^ w = (x.toNat % 2 ^ k) <<< (w - k) := by
    rw [hpow, Nat.mul_mod_mul_right, Nat.shiftLeft_eq]
  have hstay : x.toNat / 2 ^ k < 2 ^ (w - k) := Nat.div_lt_of_lt_mul (hpow ▸ x.isLt)
  have hsum : (x.rotateRight k).toNat = x.toNat / 2 ^ k + x.toNat * 2 ^ (w - k) % 2 ^ w := by
    rw [BitVec.toNat_rotateRight, Nat.mod_eq_of_lt hk, Nat.shiftRight_eq_div_pow, Nat.shiftLeft_eq, hround, Nat.or_comm,
      ← Nat.shiftLeft_add_eq_or_of_lt hstay, Nat.add_comm]
  rw [← Nat.add_mod_mod, ← hsum, Nat.mod_eq_of_lt (x.rotateRight k).isLt]

theorem rotW_eq (w : IntW) (x n : Dword) :
    rotW w x n = writeW w true ((x.setWidth w.bits).rotateRight (n.toNat % w.bits)).toNat := by
  rw [toNat_rotateRight_eq_add_mod _ (Nat.mod_lt _ w.bits_pos)]
  rfl

/-! ### Divisions and remainders (R135) -/

theorem divW_signed (w : IntW) (x y : Dword) :
    divW w false x y = if readW w false y = 0 then BitVec.allOnes 64
      else writeW w false ((readW w false x).tdiv (readW w false y)) := by
  simp only [divW, apply_ite (writeW w false), writeW_signed_neg_one]

/-- Unsigned operands are not negative, so that truncating and flooring division agree. -/
theorem divW_unsigned (w : IntW) (x y : Dword) :
    divW w true x y = if readW w true y = 0 then writeW w true (2 ^ w.bits - 1)
      else writeW w true (readW w true x / readW w true y) := by
  simp only [divW, apply_ite (writeW w true), writeW_neg_one, Int.tdiv_eq_ediv_of_nonneg (readW_unsigned_nonneg w x)]

theorem remW_signed (w : IntW) (x y : Dword) :
    remW w false x y = if readW w false y = 0 then writeW w false (readW w false x)
      else writeW w false ((readW w false x).tmod (readW w false y)) := by
  simp only [remW, apply_ite (writeW w false)]

theorem remW_unsigned (w : IntW) (x y : Dword) :
    remW w true x y = if readW w true y = 0 then writeW w true (readW w true x)
      else writeW w true (readW w true x % readW w true y) := by
  simp only [remW, apply_ite (writeW w true), Int.tmod_eq_emod_of_nonneg (readW_unsigned_nonneg w x)]

/-- The quotient 2^(w−1) of the most negative dividend by −1 does not fit and overflows to the dividend. -/
theorem divW_signed_overflow {w : IntW} {x y : Dword} (hx : readW w false x = -(2 ^ (w.bits - 1)))
    (hy : readW w false y = -1) : divW w false x y = writeW w false (-(2 ^ (w.bits - 1))) := by
  have hquot : (-(2 ^ (w.bits - 1)) : Int).tdiv (-1) = 2 ^ (w.bits - 1) := by
    rw [Int.neg_tdiv_neg, Int.tdiv_one]
  rw [divW_signed, hx, hy, if_neg (by decide), hquot, writeW_half_modulus]

/-- −1 divides everything. -/
theorem remW_signed_neg_one {w : IntW} {x y : Dword} (hy : readW w false y = -1) : remW w false x y = 0 := by
  have hrem : (readW w false x).tmod (-1) = 0 := by rw [Int.tmod_neg, Int.tmod_one]
  rw [remW_signed, hy, if_neg (by decide), hrem, writeW_signed_zero]

/-! ### The instructions -/

/-- A register form leaves its operation's value on its two sources. -/
theorem regSyl_runs {s : State} {u : SUnit} {d : Dst} {a b : Src} {f : Dword → Dword → Dword} (hi : s.issues)
    (hl : s.cx.holds [a, b]) :
    issueOne (regSyl u d a b f) s =
      .next (s.bundleCtx fun c => c.outS u.latch d (f (s.cx.sval a) (s.cx.sval b))) :=
  scalarSyl_quiet hi hl rfl

/-- The same in SB, whose latch is b1. -/
theorem regSyl_runs_sb {s : State} {d : Dst} {a b : Src} {f : Dword → Dword → Dword} (hi : s.issues)
    (hl : s.cx.holds [a, b]) :
    issueOne (regSyl .sb d a b f) s =
      .next (s.bundleCtx fun c => c.outS 1 d (f (s.cx.sval a) (s.cx.sval b))) :=
  regSyl_runs hi hl

/-- An immediate form leaves its operation's value on DST and the immediate. -/
theorem immSyl_runs {s : State} {u : SUnit} {d : Dst} {imm : Dword} {f : Dword → Dword → Dword} (hi : s.issues) :
    issueOne (immSyl u d imm f) s =
      .next (s.bundleCtx fun c => c.outS u.latch d (f (s.cx.s.get (d.getD 0)) imm)) :=
  scalarSyl_quiet hi (Ctx.holds_nil _) rfl

section
variable (u : SUnit) (d : Dst) (a b : Src) (imm : Imm16) (w : IntW) (s : State)

theorem exec_shl : exec (.shl u d a b w) s = issueOne (regSyl u d a b (shlW w)) s := rfl
theorem exec_shr : exec (.shr u d a b w) s = issueOne (regSyl u d a b (shrW w)) s := rfl
theorem exec_sra : exec (.sra u d a b w) s = issueOne (regSyl u d a b (sraW w)) s := rfl
theorem exec_rot : exec (.rot u d a b w) s = issueOne (regSyl u d a b (rotW w)) s := rfl
theorem exec_shlImm : exec (.shlImm u d imm w) s = issueOne (immSyl u d imm.sx (shlW w)) s := rfl
theorem exec_shrImm : exec (.shrImm u d imm w) s = issueOne (immSyl u d imm.sx (shrW w)) s := rfl
theorem exec_sraImm : exec (.sraImm u d imm w) s = issueOne (immSyl u d imm.sx (sraW w)) s := rfl
theorem exec_rotImm : exec (.rotImm u d imm w) s = issueOne (immSyl u d imm.sx (rotW w)) s := rfl
theorem exec_div : exec (.div d a b w) s = issueOne (regSyl .sb d a b (divW w false)) s := rfl
theorem exec_divu : exec (.divu d a b w) s = issueOne (regSyl .sb d a b (divW w true)) s := rfl
theorem exec_rem : exec (.rem d a b w) s = issueOne (regSyl .sb d a b (remW w false)) s := rfl
theorem exec_remu : exec (.remu d a b w) s = issueOne (regSyl .sb d a b (remW w true)) s := rfl

end

/-- Settles O2: each form leaves its operation's value, which is the one R131 gives. -/
theorem shiftResults : Obligations.ShiftResults := by
  unfold Obligations.ShiftResults
  intro s u d w hi
  refine ⟨fun a b hl => ⟨?_, ?_, ?_, ?_⟩, fun imm => ⟨?_, ?_, ?_, ?_⟩⟩
  · rw [exec_shl, regSyl_runs hi hl, shlW]
  · rw [exec_shr, regSyl_runs hi hl, shrW]
  · rw [exec_sra, regSyl_runs hi hl, sraW_eq]
  · rw [exec_rot, regSyl_runs hi hl, rotW_eq]
  · rw [exec_shlImm, immSyl_runs hi, shlW]
  · rw [exec_shrImm, immSyl_runs hi, shrW]
  · rw [exec_sraImm, immSyl_runs hi, sraW_eq]
  · rw [exec_rotImm, immSyl_runs hi, rotW_eq]

/-- Settles O3: each form leaves its operation's value, which is the one R135 gives, in its corners too. -/
theorem divisionResults : Obligations.DivisionResults := by
  unfold Obligations.DivisionResults
  intro s d a b w hi hl
  refine ⟨?_, ?_, ?_, ?_, fun hx hy => ⟨?_, ?_⟩⟩
  · rw [exec_div, regSyl_runs_sb hi hl, divW_signed]
  · rw [exec_divu, regSyl_runs_sb hi hl, divW_unsigned]
  · rw [exec_rem, regSyl_runs_sb hi hl, remW_signed]
  · rw [exec_remu, regSyl_runs_sb hi hl, remW_unsigned]
  · rw [exec_div, regSyl_runs_sb hi hl, divW_signed_overflow hx hy]
  · rw [exec_rem, regSyl_runs_sb hi hl, remW_signed_neg_one hy]

end Sys2Proof.Machine
end

section
/-! The vector instructions that move bits, and VIOTA (R164): what each leaves in the lanes of its result, over the lane
laws of `Laws/Vector`. -/

namespace Sys2Proof

theorem IntW.lanes_pos (w : IntW) : 0 < 2048 / w.bits := by cases w <;> decide

/-- A slice put into a vector shows through at its own bits and nowhere else. -/
theorem getLsbD_putSlice {n w : Nat} (x : BitVec n) (lo : Nat) (v : BitVec w) {j : Nat} (hj : j < n) :
    (putSlice x lo v).getLsbD j = if lo ≤ j ∧ j < lo + w then v.getLsbD (j - lo) else x.getLsbD j := by
  have hlow : j - lo < n := by omega
  simp only [putSlice, BitVec.getLsbD_or, BitVec.getLsbD_and, BitVec.getLsbD_not, BitVec.getLsbD_shiftLeft,
    BitVec.getLsbD_setWidth, BitVec.getLsbD_allOnes, hj, hlow, decide_true, Bool.true_and]
  by_cases hlo : j < lo
  · simp [hlo, Nat.not_le.mpr hlo]
  · by_cases hhi : j - lo < w
    · simp [hlo, hhi, (by omega : lo ≤ j ∧ j < lo + w)]
    · have hout : ¬ (lo ≤ j ∧ j < lo + w) := by omega
      rw [if_neg hout, BitVec.getLsbD_of_ge v (j - lo) (by omega)]
      simp [hlo, hhi]

end Sys2Proof

namespace Sys2Proof.Machine

/-! ### Lanes, lists of lanes and the slices of a vector -/

theorem nth_lanes (v : Vec) {w j : Nat} (hj : j < 2048 / w) : nth (Vec.lanes v w) j = laneAt v w j :=
  Vec.lanes_get v hj

/-- A lane, bit by bit. -/
theorem testBit_laneAt (v : Vec) (w i j : Nat) :
    (laneAt v w i).testBit j = (decide (j < w) && v.getLsbD (w * i + j)) := by
  rw [laneAt, Nat.testBit_mod_two_pow, Nat.testBit_div_two_pow, Nat.add_comm j, BitVec.testBit_toNat]

theorem Vec.lanes_eq_map (v : Vec) (w : Nat) : Vec.lanes v w = (List.range (2048 / w)).map (laneAt v w) := by
  refine List.ext_getElem (by simp) fun i hi _ => ?_
  have hlane : i < 2048 / w := by simpa using hi
  rw [List.getElem_map, List.getElem_range, ← Vec.lanes_get v hlane, List.getD_eq_getElem?_getD,
    List.getElem?_eq_getElem hi, Option.getD_some]

/-- An index below twice the number of lanes reads the first vector of a pair, or the second from its start on. -/
theorem nth_lanes_append (v y : Vec) {w j : Nat} (hj : j < 2 * (2048 / w)) :
    nth (Vec.lanes v w ++ Vec.lanes y w) j =
      if j < 2048 / w then laneAt v w j else laneAt y w (j - 2048 / w) := by
  have hlen := Vec.lanes_length v w
  rw [nth, List.getD_eq_getElem?_getD]
  split
  case isTrue h =>
    rw [List.getElem?_append_left (by omega), ← List.getD_eq_getElem?_getD, Vec.lanes_get _ h]
  case isFalse h =>
    rw [List.getElem?_append_right (by omega), hlen, ← List.getD_eq_getElem?_getD, Vec.lanes_get _ (by omega)]

/-- The low bits of a scalar, read signed. -/
theorem signedOf_low (w : Nat) (v : Dword) : signedOf w (v.toNat % 2 ^ w) = (v.setWidth w).toInt := by
  rw [signedOf, ← BitVec.toNat_setWidth, BitVec.ofNat_toNat, BitVec.setWidth_eq]

/-- Two different lanes share no bit. -/
theorem lane_bits_disjoint {w i k j : Nat} (hj : j < w) (hik : i ≠ k) :
    ¬ (w * k ≤ w * i + j ∧ w * i + j < w * k + w) := by
  rintro ⟨hlo, hhi⟩
  rcases Nat.lt_or_gt_of_ne hik with h | h <;>
  · have hstep := Nat.mul_le_mul_left w h
    rw [Nat.mul_succ] at hstep
    omega

/-- Putting a lane into a vector replaces that lane alone. -/
theorem laneAt_putSlice (v : Vec) {w i k : Nat} (x : BitVec w) (hi : i < 2048 / w) :
    laneAt (putSlice v (w * k) x) w i = if i = k then x.toNat else laneAt v w i := by
  refine Nat.eq_of_testBit_eq fun j => ?_
  have hfits := lane_fits hi
  by_cases hj : j < w
  · rw [testBit_laneAt, getLsbD_putSlice _ _ _ (by omega)]
    by_cases hik : i = k
    · subst hik
      simp [hj, BitVec.testBit_toNat]
    · rw [if_neg (lane_bits_disjoint hj hik), if_neg hik, testBit_laneAt]
  · have hx : x.toNat.testBit j = false := by rw [BitVec.testBit_toNat, BitVec.getLsbD_of_ge x j (by omega)]
    rw [apply_ite (Nat.testBit · j), testBit_laneAt, testBit_laneAt, hx]
    simp [hj]

/-- The chosen ones among the images of some indices are the images of those whose bit is set. -/
theorem chosen_map_fst (g : Nat → Bool) (A : Nat → Nat) (is : List Nat) :
    (chosen (is.map g) (is.map A)).1 = (is.filter g).map A := by
  induction is with
  | nil => rfl
  | cons i is ih => cases hg : g i <;> simp [chosen, hg, ih]

theorem getD_padTo {n j : Nat} (xs : List Nat) (hj : j < n) : (padTo n xs).getD j 0 = xs.getD j 0 := by
  simp only [padTo, List.getD_eq_getElem?_getD, List.getElem?_take, hj, if_true]
  rcases Nat.lt_or_ge j xs.length with h | h
  · rw [List.getElem?_append_left h]
  · rw [List.getElem?_append_right h, List.getElem?_eq_none h, List.getElem?_replicate]
    split <;> rfl

/-- Expansion gives a set lane the next unused source lane, of which there have gone as many as set lanes came before. -/
theorem getD_expandLanes (gs : List Bool) (as ds : List Nat) {i : Nat} (hg : i < gs.length) (hd : i < ds.length) :
    (expandLanes gs as ds).getD i 0 =
      if gs.getD i false then as.getD ((gs.take i).count true) 0 else ds.getD i 0 := by
  induction gs generalizing as ds i with
  | nil => simp at hg
  | cons g gs ih =>
    cases ds with
    | nil => simp at hd
    | cons d ds =>
      cases i with
      | zero => cases g <;> simp [expandLanes, List.headD_eq_head?_getD, List.head?_eq_getElem?]
      | succ i =>
        have hg' : i < gs.length := by simpa using hg
        have hd' : i < ds.length := by simpa using hd
        cases g
        · simpa [expandLanes] using ih as ds hg' hd'
        · simpa [expandLanes, List.getD_eq_getElem?_getD, Nat.add_comm] using ih as.tail ds hg' hd'

/-- How many lanes before lane `i` are governed. -/
theorem count_take_governs (w : Nat) (p : Pred) {i : Nat} (hi : i < 2048 / w) :
    ((governs w p).take i).count true = ((List.range i).filter fun k => p.getLsbD (w / 8 * k)).length := by
  rw [governs, ← List.map_take, List.take_range, Nat.min_eq_left (Nat.le_of_lt hi), List.count_eq_countP,
    List.countP_map, List.countP_eq_length_filter]
  congr 2
  funext k
  simp

/-! ### Results that are written whole -/

/-- A vector syllable that raises no flag writes its result, lane by lane. -/
theorem vecSyl_writes {s : State} {u : VUnit} {vs ss : List Src} {d : Dst} {w : Nat} {f : Ctx → Vec × FFlags}
    {val : Nat → Nat} (hi : s.issues) (hv : s.vectors) (hl : s.cx.holds (vs ++ ss)) (hc : s.cx.fits vs d)
    (hflags : (f s.cx).2 = 0) (hlanes : ∀ i, i < 2048 / w → laneAt (f s.cx).1 w i = val i % 2 ^ w) :
    s.writes u d w val (issueOne (vecSyl u vs ss d f) s) :=
  ⟨_, vecSyl_quiet hi hv hl hc hflags, hlanes⟩

/-- Merging an operation that raises no flag raises none. -/
theorem packMerge_flags_zero {w : Nat} {op : Nat → Nat → Nat → LaneRes} {p : Pred} {as bs ds : List Nat}
    (ha : as.length = 2048 / w) (hb : bs.length = 2048 / w) (hd : ds.length = 2048 / w)
    (hop : ∀ a b d, (op a b d).2 = 0) : (packLanes w (laneMerge op (governs w p) as bs ds)).2 = 0 := by
  obtain ⟨-, hflags⟩ := packMerge op p as bs ds ha hb hd
  refine BitVec.eq_of_getLsbD_eq fun k _ => Bool.eq_iff_iff.mpr ?_
  rw [hflags k]
  simp [hop]

/-- Merging depends on the operation's results only up to the width of a lane. -/
theorem merges_congr_mod {s : State} {u : VUnit} {d : Dst} {p : Fin 16} {w : Nat} {f g : Nat → LaneRes}
    {o : Host.Outcome State Fault Refusal} (h : s.merges u d p w f o)
    (e : ∀ i, i < 2048 / w → (f i).1 % 2 ^ w = (g i).1 % 2 ^ w ∧ (f i).2 = (g i).2) : s.merges u d p w g o := by
  obtain ⟨r, fl, ho, hlanes, hflags⟩ := h
  refine ⟨r, fl, ho, fun i hi => (e i hi).1 ▸ hlanes i hi, fun k => (hflags k).trans ?_⟩
  exact exists_congr fun i => and_congr_right fun hi => by rw [(e i hi).2]

/-- A syllable whose operation works on the number of the lane merges it lane by lane. -/
theorem vecSyl_merges_index {s : State} {u : VUnit} {vs ss : List Src} {d : Dst} {p : Fin 16} {w : Nat}
    {f : Ctx → Vec × FFlags} {op : Nat → LaneRes} {num : Nat → Nat} (hi : s.issues) (hv : s.vectors)
    (hl : s.cx.holds (vs ++ ss)) (hc : s.cx.fits vs d)
    (hf : f s.cx = packLanes w (laneMerge (fun i _ _ => op i) (governs w (s.cx.pval p))
      ((List.range (2048 / w)).map num) ((List.range (2048 / w)).map num) (Vec.lanes (s.cx.dstVec d) w))) :
    s.merges u d p w (fun i => op (num i)) (issueOne (vecSyl u vs ss d f) s) :=
  merges_congr (vecSyl_merges (op := fun i _ _ => op i) hi hv hl hc (by simp) (by simp) hf) fun i hlane => by
    simp [List.getD_eq_getElem?_getD, hlane]

/-! ### The instructions -/

section
variable {s : State} {u : VUnit} {d : Dst} {a b : Src} {p : Fin 16} {f : Fmt} {w : IntW} {x : Option VMod}

theorem exec_vsel_writes (hi : s.issues) (hv : s.vectors) (hl : s.cx.holds [a, b]) (hc : s.cx.fits [a, b] d) :
    s.writes u d f.bits
      (fun i => if (s.cx.pval p).getLsbD (f.bits / 8 * i) then laneAt (s.cx.vval f a) f.bits i
        else laneAt (s.cx.vval f b) f.bits i) (exec (.vsel u d a b p f x) s) := by
  refine vecSyl_writes hi hv hl hc (packMerge_flags_zero (by simp) (by simp) (by simp) fun _ _ _ => rfl)
    fun i hlane => ?_
  obtain ⟨hlanes, -⟩ := packMerge (w := f.bits) (fun a _ _ => (a, 0)) (s.cx.pval p) (Vec.lanes (s.cx.vval f a) f.bits)
    (Vec.lanes (s.cx.vval f b) f.bits) (Vec.lanes (s.cx.vval f b) f.bits) (by simp) (by simp) (by simp)
  rw [hlanes i hlane, Vec.lanes_get _ hlane, Vec.lanes_get _ hlane]

theorem exec_vperm_merges (hi : s.issues) (hv : s.vectors) (hl : s.cx.holds [a, b]) (hc : s.cx.fits [a, b] d) :
    s.merges u d p w.bits
      (fun i => (laneAt (s.cx.vval (.int w) a) w.bits (laneAt (s.cx.vval (.int w) b) w.bits i % (2048 / w.bits)), 0))
      (exec (.vperm u d a b p w x) s) := by
  refine merges_congr (vecSyl_merges hi hv hl hc (by simp) (by simp) rfl) fun i hlane => ?_
  rw [Vec.lanes_get _ hlane, nth_lanes _ (Nat.mod_lt _ w.lanes_pos)]

theorem exec_vshuf_merges (hi : s.issues) (hv : s.vectors) (hl : s.cx.holds [a, b]) (hc : s.cx.fits [a, b] d) :
    let m := 2048 / w.bits
    let j := fun i => laneAt (s.cx.vval (.int w) b) w.bits i % (2 * m)
    s.merges u d p w.bits
      (fun i => (if j i < m then laneAt (s.cx.vval (.int w) a) w.bits (j i)
        else laneAt (s.cx.dstVec d) w.bits (j i - m), 0)) (exec (.vshuf u d a b p w x) s) := by
  intro m j
  refine merges_congr (vecSyl_merges hi hv hl hc (by simp) (by simp) rfl) fun i hlane => ?_
  have hj : j i < 2 * m := Nat.mod_lt _ (Nat.mul_pos (by decide) w.lanes_pos)
  rw [Vec.lanes_get _ hlane, nth_lanes_append _ _ hj]

theorem exec_vmov_merges (hi : s.issues) (hv : s.vectors) (hl : s.cx.holds [a]) (hc : s.cx.fits [a] d) :
    s.merges u d p f.bits (fun i => (laneAt (s.cx.vval f a) f.bits i, 0)) (exec (.vmov u d a p f x) s) :=
  ewise1_merges (op := fun _ v => (v, 0)) hi hv hl hc

theorem exec_vslide_merges (hi : s.issues) (hv : s.vectors) (hl : s.cx.holds [a, b]) (hc : s.cx.fits [a] d) :
    let src := fun (i : Nat) => (i : Int) + ((s.cx.sval b).toInt + vimm x)
    s.merges u d p f.bits
      (fun i =>
        (if 0 ≤ src i ∧ src i < (2048 / f.bits : Nat) then laneAt (s.cx.vval f a) f.bits (src i).toNat else 0, 0))
      (exec (.vslide u d a b p f x) s) := by
  intro src
  refine merges_congr (vecSyl_merges_index (num := id)
    (op := fun i => (if 0 ≤ src i ∧ src i < (2048 / f.bits : Nat) then
      nth (Vec.lanes (s.cx.vval f a) f.bits) (src i).toNat else 0, 0)) hi hv hl hc (by rw [List.map_id]))
    fun i hlane => ?_
  simp only [id]
  split
  case isTrue hin => rw [nth_lanes _ (by omega)]
  case isFalse => rfl

theorem exec_vcompr_writes (hi : s.issues) (hv : s.vectors) (hl : s.cx.holds [a]) (hc : s.cx.fits [a] d) :
    s.writes u d f.bits
      (fun j => (((List.range (2048 / f.bits)).filter fun i => (s.cx.pval p).getLsbD (f.bits / 8 * i)).map
        fun i => laneAt (s.cx.vval f a) f.bits i).getD j 0) (exec (.vcompr u d a p f x) s) := by
  refine vecSyl_writes hi hv hl hc rfl fun j hlane => ?_
  rw [laneAt_ofLanes _ hlane, getD_padTo _ hlane, governs, Vec.lanes_eq_map, chosen_map_fst]

theorem exec_vexpand_writes (hi : s.issues) (hv : s.vectors) (hl : s.cx.holds [a]) (hc : s.cx.fits [a] d) :
    let g := fun i => (s.cx.pval p).getLsbD (f.bits / 8 * i)
    s.writes u d f.bits
      (fun i => if g i then laneAt (s.cx.vval f a) f.bits ((List.range i).filter g).length
        else laneAt (s.cx.dstVec d) f.bits i) (exec (.vexpand u d a p f x) s) := by
  intro g
  refine vecSyl_writes hi hv hl hc rfl fun i hlane => ?_
  have hcount : ((List.range i).filter g).length < 2048 / f.bits :=
    Nat.lt_of_le_of_lt (by simpa using List.length_filter_le g (List.range i)) hlane
  rw [laneAt_ofLanes _ hlane, getD_expandLanes _ _ _ (by simpa using hlane) (by simpa using hlane),
    governs_get _ hlane, count_take_governs _ _ hlane, Vec.lanes_get _ hcount, Vec.lanes_get _ hlane]

theorem exec_vextr (hi : s.issues) (hv : s.vectors) (hl : s.cx.holds [a, b]) (hc : s.cx.within (vregsOf [a])) :
    exec (.vextr u d a b f x) s = .next (s.bundleCtx fun c => c.outS u.latch d (match f with
      | .int v => (BitVec.ofNat v.bits (laneAt (s.cx.vval f a) f.bits (laneIndex f x (s.cx.sval b)))).signExtend 64
      | .flt _ => BitVec.ofNat 64 (laneAt (s.cx.vval f a) f.bits (laneIndex f x (s.cx.sval b))))) :=
  vecToS_runs hi hv hl hc

theorem exec_vbcast_merges (hi : s.issues) (hv : s.vectors) (hl : s.cx.holds [a]) (hc : s.cx.fits [] d) :
    s.merges u d p f.bits (fun _ => ((s.cx.sval a).toNat, 0)) (exec (.vbcast u d a p f x) s) := by
  refine merges_congr_mod (vecSyl_merges (op := fun v _ _ => (v, 0)) hi hv hl hc (by simp) (by simp) rfl)
    fun i hlane => ⟨?_, rfl⟩
  rw [List.getD_eq_getElem?_getD, List.getElem?_replicate, if_pos hlane, Option.getD_some, Nat.mod_mod]

theorem exec_vins_writes (hi : s.issues) (hv : s.vectors) (hl : s.cx.holds [a, b]) (hc : s.cx.fits [] d) :
    s.writes u d f.bits
      (fun i => if i = laneIndex f x (s.cx.sval b) then (s.cx.sval a).toNat else laneAt (s.cx.dstVec d) f.bits i)
      (exec (.vins u d a b f x) s) := by
  refine vecSyl_writes hi hv hl hc rfl fun i hlane => ?_
  rw [laneAt_putSlice _ _ hlane, BitVec.toNat_setWidth, apply_ite (· % 2 ^ f.bits), laneAt_mod]

theorem exec_viota_int_merges (hi : s.issues) (hv : s.vectors) (hl : s.cx.holds [a, b]) (hc : s.cx.fits [] d) :
    s.merges u d p w.bits
      (fun i => ((BitVec.ofInt w.bits (((s.cx.sval a).setWidth w.bits).toInt +
        ((i + vimm x : Nat) : Int) * ((s.cx.sval b).setWidth w.bits).toInt)).toNat, 0))
      (exec (.viota u d a b p (.int w) x) s) := by
  simp only [← signedOf_low]
  exact vecSyl_merges_index (num := fun i => i + vimm x) (op := fun k => laneOut w .none
    (signedOf w.bits ((s.cx.sval a).toNat % 2 ^ w.bits) +
      (k : Int) * signedOf w.bits ((s.cx.sval b).toNat % 2 ^ w.bits))) hi hv hl hc rfl

theorem exec_viota_flt_merges {g : FFmt} (hi : s.issues) (hv : s.vectors) (hl : s.cx.holds [a, b])
    (hc : s.cx.fits [] d) :
    s.merges u d p g.bits
      (fun i => fmaVal g (s.cx.vmode x) (.fin false (i + vimm x) 0) (unpack g ((s.cx.sval b).toNat % 2 ^ g.bits))
        (unpack g ((s.cx.sval a).toNat % 2 ^ g.bits))) (exec (.viota u d a b p (.flt g) x) s) :=
  vecSyl_merges_index (num := fun i => i + vimm x) (op := fun k => fmaVal g (s.cx.vmode x) (.fin false k 0)
    (unpack g ((s.cx.sval b).toNat % 2 ^ g.bits)) (unpack g ((s.cx.sval a).toNat % 2 ^ g.bits))) hi hv hl hc rfl

end

/-- Settles O12, instruction by instruction. -/
theorem vectorMovement : Obligations.VectorMovement := by
  unfold Obligations.VectorMovement
  refine ⟨fun s u d a b p f w x hi hv hl => ?_, fun s u d a b p x hi hv hl hc => ?_⟩
  · have hla : s.cx.holds [a] := Ctx.holds_left hl
    refine ⟨fun hc => ⟨?_, ?_, ?_⟩, fun hc => ⟨?_, ?_, ?_, ?_⟩, fun hc => ?_, fun hc => ⟨?_, ?_⟩⟩
    · exact exec_vsel_writes hi hv hl hc
    · exact exec_vperm_merges hi hv hl hc
    · exact exec_vshuf_merges hi hv hl hc
    · exact exec_vmov_merges hi hv hla hc
    · exact exec_vslide_merges hi hv hl hc
    · exact exec_vcompr_writes hi hv hla hc
    · exact exec_vexpand_writes hi hv hla hc
    · exact exec_vextr hi hv hl hc
    · exact exec_vbcast_merges hi hv hla hc
    · exact exec_vins_writes hi hv hl hc
  · exact ⟨fun w => exec_viota_int_merges hi hv hl hc, fun g => exec_viota_flt_merges hi hv hl hc⟩

end Sys2Proof.Machine
end
